-- ==== Sys2Proof/Word.lean ====
section
/-!
DEFINITION. The word types of the part and their plainest arithmetic: 64-bit scalar words, 32-bit instruction words and
lane slices, bytes, and the fields of an instruction word at their bit numbers (R7, R45, R91).
-/
namespace Sys2Proof

/-- A 64-bit scalar register value (R45). -/
abbrev Word := BitVec 64

/-- A byte of memory. -/
abbrev Byte := BitVec 8

/-- A 32-bit instruction word or lane slice (R46, R91). -/
abbrev Half := BitVec 32

/-- The contents of a vector or mask register: lane position p at bits [32p+31:32p] (R46, R48). -/
abbrev VReg := BitVec 1024

/-- `zext(v, n)` of R10 for a value of n bits. -/
abbrev zx {n : Nat} (v : BitVec n) : Word := v.setWidth 64

/-- `sext(v, n)` of R10 for a value of n bits. -/
abbrev sx {n : Nat} (v : BitVec n) : Word := v.signExtend 64

/-- 1 or 0 as a word, for the compare forms. -/
abbrev ofBool (b : Bool) : Word := if b then 1 else 0

end Sys2Proof
end

