-- ==== Sys2Proof/Config.lean ====
section
/-!
DEFINITION. What one part fixes and what the spec leaves open. A free value is an opaque constant with no body: nothing
can be proved about its value, so a claim that holds of the model holds whatever the hardware produces there.
-/
namespace Sys2Proof

/-- A key of the key store: the random key that firmware draws at a package reset, numbered by the reset that drew it,
or the 512 bits that the driver loaded (R390, R391). -/
inductive KeyVal where
  | random (generation : Nat)
  | loaded (material : BitVec 512)
  deriving DecidableEq, Repr

namespace Config

/-- Free value: the cycles that pass at the n-th step of the machine (R53, CYCLE). -/
opaque cycleGap : Nat → Nat

/-- Free value: the byte of a private-scratchpad area that nothing has written since the task of bind number `stamp`
entered (R22: undefined at entry). -/
opaque entryByte : (stamp address : Nat) → Byte

/-- Free value: the bank of a location under a bank-hash key (R59: the hash is not given). -/
opaque bankOf : (key : Word) → (address : Nat) → Nat

/-- Free value: the word that a tower's translator holds in its map of heap addresses, at an offset of its block (R338, R372: its layout is not
given), at the n-th step. -/
opaque addressMap : (tower : Nat) → (offset : Nat) → (step : Nat) → Word

/-- Free value: the beat that Caldera sends in one of slots 0 to 7 of a frame, if it sends one: block of 128 bytes, mask, data (R238,
R291: what it writes is not given). -/
opaque calderaBeat : (tower frame slot : Nat) → Option (Nat × BitVec 128 × BitVec 1024)

/-- How many translations the cache in Caldera's memory holds (R339: not given). -/
opaque cacheRoom : Nat

/-- Free value: the 512 key bits that firmware draws from the random source at a package reset (R390). -/
opaque randomKey : (generation : Nat) → BitVec 512

/-- The bytes of the firmware image in slot A (0) or B (1) of a tower's package flash (R393). -/
opaque firmwareImage : (tower slot : Nat) → List Byte

/-- DETAIL of a boot step on a path, but for the fenced-layer mask (R397: step-specific). -/
opaque bootDetail : (step path : Nat) → Word

/-- Free value: the microseconds since a tower's reset at which the step that a further reset cut short had begun (R397), by the step of
that reset. -/
opaque beginTime : (step : Nat) → Half

/-- The physical address of a core and slot's record in the translator's request ring (R335: the runtime receives it at
start-up). -/
opaque requestRing : (core slot : Nat) → Nat

/-- The extension that a word of majors 0x3B to 0x3E names (R327, R337). -/
opaque extensionOf : Half → Nat

/-- Microcode revision of the part (R372, R407). -/
opaque microcodeRevision : Word

/-- Version of the Gysan translator (R372, R339). -/
opaque translatorVersion : Word

/-- The emulated set that the runtime registers with Caldera (R338). -/
opaque emulatedSet : Word

/-- Free value: how a bank arranges the entries of a heap object, keys with their values (R279: a binary heap that the bank
arranges); `max` is MAXH. An answer that is no such arrangement of the entries is not taken. -/
opaque heapArrange : (max : Bool) → List (Nat × Nat) → List (Nat × Nat)

/-- The number of cycles of one launch-queue delay unit is not fixed: how long a head has waited is the sum of the gaps. -/
def cyclesTo : Nat → Nat
  | 0 => 0
  | n + 1 => cyclesTo n + cycleGap n

end Config
end Sys2Proof
end

