-- ==== Sys2Proof/Machine/Crypto.lean ====
section
/-!
DEFINITION. The ciphers and hashes that the spec fixes by name: SHAKE256 (R339, R392 to R395, R407), AES-XTS-256 (R389) and
Falcon-1024 verification (R393, R395), each as its standard defines it (log 71).
-/
namespace Sys2Proof.Machine

/-- The number that bytes hold, least significant first. -/
def bytesNum : List Byte → Nat
  | [] => 0
  | b :: bs => b.toNat + 256 * bytesNum bs

/-- The first n bytes of a number, least significant first. -/
def numBytes (n v : Nat) : List Byte := (List.range n).map fun i => BitVec.ofNat 8 (v / 256 ^ i)

/-! ### SHAKE256 -/

/-- The state of the permutation: lane (column, row) at index 5 × row + column. -/
abbrev Sponge := Vector Word 25

/-- The bytes that one call of the permutation absorbs or gives. -/
def spongeRate : Nat := 136

def Sponge.lane (a : Sponge) (col row : Nat) : Word := a.getD (5 * (row % 5) + col % 5) 0

/-- Every lane takes the parities of the two neighbouring columns. -/
def Sponge.theta (a : Sponge) : Sponge :=
  let parity (col : Nat) : Word := (List.range 5).foldl (fun p row => p ^^^ a.lane col row) 0
  Vector.ofFn fun i => a.getD i 0 ^^^ parity (i + 4) ^^^ (parity (i + 1)).rotateLeft 1

/-- The walk over the 24 lanes beside lane (0, 0): each is turned by the next triangular number and put in the next lane's
place. -/
def Sponge.rhoPi (a : Sponge) : Sponge :=
  ((List.range 24).foldl (fun (p : Sponge × Nat × Nat) t =>
    let (b, col, row) := p
    let row' := (2 * col + 3 * row) % 5
    (b.setIfInBounds (5 * row' + row) ((a.lane col row).rotateLeft ((t + 1) * (t + 2) / 2 % 64)), row, row')) (a, 1, 0)).1

/-- Each lane takes the next two lanes of its row. -/
def Sponge.chi (a : Sponge) : Sponge :=
  Vector.ofFn fun i => a.getD i 0 ^^^ (~~~(a.lane (i + 1) (i / 5)) &&& a.lane (i + 2) (i / 5))

/-- The shift register of the round constants after t steps. -/
def roundLfsr : Nat → Byte
  | 0 => 1
  | t + 1 =>
    let r := roundLfsr t
    if r.msb then (r <<< 1) ^^^ 0x71 else r <<< 1

/-- The constant of a round: its bit 2^j - 1 is the shift register's lowest bit at step j + 7 × round. -/
def roundConstant (round : Nat) : Word :=
  (List.range 7).foldl (fun w j =>
    if (roundLfsr (j + 7 * round)).getLsbD 0 then w ^^^ (1 : Word) <<< (2 ^ j - 1) else w) 0

/-- The permutation of 24 rounds. -/
def Sponge.permute (a : Sponge) : Sponge :=
  (List.range 24).foldl (fun b round =>
    let c := b.theta.rhoPi.chi
    c.setIfInBounds 0 (c.lane 0 0 ^^^ roundConstant round)) a

/-- A block of 136 bytes absorbed. -/
def Sponge.absorb (a : Sponge) (block : List Byte) : Sponge :=
  Sponge.permute (Vector.ofFn fun i => a.getD i 0 ^^^ BitVec.ofNat 64 (bytesNum ((block.drop (8 * i)).take 8)))

/-- The bytes that a state gives before the next call of the permutation. -/
def Sponge.squeeze (a : Sponge) : List Byte := (a.toList.flatMap fun w => numBytes 8 w.toNat).take spongeRate

/-- A message with the suffix and padding of SHAKE: 0x1F, zeros, and 0x80 in the last byte of a block. -/
def shakePad (bytes : List Byte) : List Byte :=
  let gap := spongeRate - 1 - bytes.length % spongeRate
  if gap = 0 then bytes ++ [0x9F] else bytes ++ [0x1F] ++ List.replicate (gap - 1) 0 ++ [0x80]

/-- The state after a byte string. -/
def shakeState (bytes : List Byte) : Sponge :=
  let padded := shakePad bytes
  (List.range (padded.length / spongeRate)).foldl
    (fun a i => a.absorb ((padded.drop (spongeRate * i)).take spongeRate)) (Vector.replicate 25 0)

/-- The first 64 bytes of SHAKE256, as a little-endian number (R393, R395). -/
def shake256Long (bytes : List Byte) : BitVec 512 := BitVec.ofNat 512 (bytesNum (shakeState bytes).squeeze)

/-- The first 32 bytes of SHAKE256, as a little-endian number (R339, R392, R407). -/
def shake256 (bytes : List Byte) : BitVec 256 := (shake256Long bytes).setWidth 256

/-! ### AES-XTS-256 -/

/-- Twice an element of the field of 256 elements. -/
def twice (a : Byte) : Byte := if a.msb then (a <<< 1) ^^^ 0x1B else a <<< 1

/-- The product of two elements of the field, over the given number of bits of the second. -/
def fieldMul (a b : Byte) : Nat → Byte
  | 0 => 0
  | n + 1 => twice (fieldMul a b n) ^^^ (if b.getLsbD (7 - n) then a else 0)

/-- The inverse of an element, its power 254; 0 for 0. -/
def fieldInv (a : Byte) : Byte :=
  let sq (b : Byte) := fieldMul b b 8
  ((List.range 7).foldl (fun (p : Byte × Byte) _ => let e := sq p.2; (fieldMul p.1 e 8, e)) ((1 : Byte), a)).1

/-- The substitution of a byte and its inverse. -/
def subByte (a : Byte) : Byte :=
  let b := fieldInv a
  b ^^^ b.rotateLeft 1 ^^^ b.rotateLeft 2 ^^^ b.rotateLeft 3 ^^^ b.rotateLeft 4 ^^^ 0x63
def unsubByte (a : Byte) : Byte := fieldInv (a.rotateLeft 1 ^^^ a.rotateLeft 3 ^^^ a.rotateLeft 6 ^^^ 0x05)

def xorBytes (a b : List Byte) : List Byte := List.zipWith (· ^^^ ·) a b

/-- The rows of a block turned, row r by r columns times `step`. -/
def turnRows (step : Nat) (b : List Byte) : List Byte :=
  (List.range 16).map fun i => b.getD ((i + 4 * step * (i % 4)) % 16) 0

/-- Every column multiplied by a circulant matrix with the given first row. -/
def mixColumns (row : List Byte) (b : List Byte) : List Byte :=
  (List.range 16).map fun i =>
    (List.range 4).foldl (fun p j => p ^^^ fieldMul (b.getD (i / 4 * 4 + (i + j) % 4) 0) (row.getD j 0) 8) 0

/-- One more word of the key schedule: `ws` holds the words so far, latest first. -/
def keyWord (ws : List (List Byte)) : List Byte :=
  let i := ws.length
  let prev := ws.headD []
  let mixed :=
    if i % 8 = 0 then
      xorBytes ((prev.drop 1 ++ prev.take 1).map subByte) [(List.range (i / 8 - 1)).foldl (fun c _ => twice c) 1, 0, 0, 0]
    else if i % 8 = 4 then prev.map subByte
    else prev
  xorBytes (ws.getD 7 []) mixed

/-- The 15 round keys of a 256-bit key. -/
def roundKeys (key : List Byte) : List (List Byte) :=
  let first := ((List.range 8).map fun i => (key.drop (4 * i)).take 4).reverse
  let all := ((List.range 52).foldl (fun ws _ => keyWord ws :: ws) first).reverse
  (List.range 15).map fun i => ((all.drop (4 * i)).take 4).flatten

/-- AES-256 of one block. -/
def aesEncrypt (key block : List Byte) : List Byte :=
  let ks := roundKeys key
  let inner := (List.range 13).foldl (fun b i =>
    xorBytes (mixColumns [2, 3, 1, 1] (turnRows 1 (b.map subByte))) (ks.getD (i + 1) [])) (xorBytes block (ks.getD 0 []))
  xorBytes (turnRows 1 (inner.map subByte)) (ks.getD 14 [])

/-- The inverse of AES-256. -/
def aesDecrypt (key block : List Byte) : List Byte :=
  let ks := roundKeys key
  let inner := (List.range 13).foldl (fun b i =>
    mixColumns [14, 11, 13, 9] (xorBytes ((turnRows 3 b).map unsubByte) (ks.getD (13 - i) []))) (xorBytes block (ks.getD 14 []))
  xorBytes ((turnRows 3 inner).map unsubByte) (ks.getD 0 [])

/-- The mask of 16-byte unit j of a data unit: the encrypted tweak, doubled j times. -/
def xtsMask (key2 : List Byte) (tweak j : Nat) : List Byte :=
  let first : BitVec 128 := BitVec.ofNat 128 (bytesNum (aesEncrypt key2 (numBytes 16 tweak)))
  numBytes 16 ((List.range j).foldl (fun (m : BitVec 128) _ => if m.msb then (m <<< 1) ^^^ 0x87 else m <<< 1) first).toNat

/-- The two 256-bit AES keys of a key: the data key at the lower bytes (R391). -/
def keyBytes : KeyVal → List Byte × List Byte
  | .random g => let k := (Config.randomKey g).toNat; (numBytes 32 k, numBytes 32 (k / 2 ^ 256))
  | .loaded m => (numBytes 32 m.toNat, numBytes 32 (m.toNat / 2 ^ 256))

/-- Unit j of the data unit with the given tweak, encrypted (R389). -/
def xtsEncrypt (key : KeyVal) (tweak j : Nat) (unit : List Byte) : List Byte :=
  let (k1, k2) := keyBytes key
  let m := xtsMask k2 tweak j
  xorBytes (aesEncrypt k1 (xorBytes unit m)) m
def xtsDecrypt (key : KeyVal) (tweak j : Nat) (unit : List Byte) : List Byte :=
  let (k1, k2) := keyBytes key
  let m := xtsMask k2 tweak j
  xorBytes (aesDecrypt k1 (xorBytes unit m)) m

/-- Byte i of the 64-byte block at tweak `block`, written under the key `old` as `bytes`, as a read under the key `new` finds it: the
other key's decryption of the stored ciphertext (R389, R390). -/
def otherKeyByte (old new : KeyVal) (block : Nat) (bytes : List Byte) (i : Nat) : Byte :=
  let j := i / 16
  (xtsDecrypt new block j (xtsEncrypt old block j ((bytes.drop (16 * j)).take 16))).getD (i % 16) 0

/-! ### Falcon-1024 verification -/

/-- The modulus and the degree of the ring, and the bound of a signature's squared norm. -/
def falconModulus : Nat := 12289
def falconDegree : Nat := 1024
def falconBound : Nat := 70265242

/-- The bits of bytes, most significant first, and the number that such bits hold. -/
def bitsDown (bytes : List Byte) : List Bool := bytes.flatMap fun b => (List.range 8).map fun i => b.getLsbD (7 - i)
def numDown (bits : List Bool) : Nat := bits.foldl (fun v b => 2 * v + b.toNat) 0

/-- The public key: its header byte, then coefficients of 14 bits below the modulus. -/
def falconKey (key : List Byte) : Option (List Nat) :=
  let bits := bitsDown (key.drop 1)
  let h := (List.range falconDegree).map fun i => numDown ((bits.drop (14 * i)).take 14)
  if key.headD 0 = 10 ∧ key.length = 1793 ∧ h.all (· < falconModulus) then some h else none

/-- n coefficients of a compressed signature: sign, seven low bits, the high part in unary; 0 has no sign, and the rest is zeros. -/
def falconCoeffs : Nat → List Bool → Option (List Int)
  | 0, bits => if bits.any id then none else some []
  | n + 1, sign :: bits =>
    let low := numDown (bits.take 7)
    let tail := bits.drop 7
    let high := (tail.takeWhile (!·)).length
    let size := 128 * high + low
    if bits.length < 8 + high ∨ 2047 < size ∨ (sign = true ∧ size = 0) then none
    else (falconCoeffs n (tail.drop (high + 1))).map (((if sign then -1 else 1) * (size : Int)) :: ·)
  | _ + 1, [] => none

/-- The signature in the padded format: its header byte, the salt of 40 bytes and the coefficients. -/
def falconSignature (sig : List Byte) : Option (List Byte × List Int) :=
  if sig.length = 1280 ∧ sig.headD 0 = 0x3A then
    (falconCoeffs falconDegree (bitsDown (sig.drop 41))).map fun s => ((sig.drop 1).take 40, s)
  else none

/-- Pairs of bytes, the first more significant, that fall below five times the modulus, reduced. -/
def falconSamples : List Byte → List Nat
  | a :: b :: bs =>
    let v := 256 * a.toNat + b.toNat
    if v < 5 * falconModulus then v % falconModulus :: falconSamples bs else falconSamples bs
  | _ => []

/-- The point that a message hashes to: samples of the output of SHAKE256 until the degree is reached. The number of blocks is
bounded. -/
def falconPoint : Nat → Sponge → List Nat → List Nat
  | 0, _, c => c.take falconDegree
  | n + 1, a, c =>
    if falconDegree ≤ c.length then c.take falconDegree
    else falconPoint n a.permute (c ++ falconSamples a.squeeze)

/-- The product of two elements of the ring, by Horner's rule: multiplying by the indeterminate moves every coefficient up and
negates the last. -/
def ringMul (a b : List Int) : List Int :=
  a.reverse.foldl (fun p c =>
    let moved := -(p.getLastD 0) :: p.dropLast
    List.zipWith (fun v w => (v + c * w) % (falconModulus : Int)) moved b) (List.replicate b.length 0)

/-- A residue moved to the middle of the range. -/
def centred (v : Int) : Int :=
  let r := v % (falconModulus : Int)
  if (falconModulus : Int) / 2 < r then r - falconModulus else r

/-- Falcon-1024 verification of a signature in the padded format over a digest of 64 bytes (R393, R395). -/
def falconVerifies (key signature : List Byte) (digest : BitVec 512) : Bool :=
  match falconKey key, falconSignature signature with
  | some h, some (salt, s2) =>
    let c := falconPoint 1024 (shakeState (salt ++ numBytes 64 digest.toNat)) []
    let prod := ringMul s2 (h.map Int.ofNat)
    let s1 := List.zipWith (fun (p : Nat) (q : Int) => centred (p - q)) c prod
    let norm := ((s1 ++ s2).map fun v => v.natAbs * v.natAbs).foldl (· + ·) 0
    c.length == falconDegree && decide (norm ≤ falconBound)
  | _, _ => false

end Sys2Proof.Machine
end

