-- ==== Sys2Proof/Syntax.lean ====
section
/-!
DEFINITION. The instruction set as syntax: one constructor for every row of the opcode table. The first 288 are the
instruction words (operands in the widths of their fields, R92); the rest are the device steps of the table, which have
no encoding and name the agents they concern.
-/
namespace Sys2Proof

/-- One step of the part: an instruction of a thread, or a step of the device. -/
inductive Instr where
  /-- R115: Adds two scalar registers modulo 2^64 into rd. -/
  | add (rd : BitVec 5) (rs1 : BitVec 5) (rs2 : BitVec 5)
  /-- R115: Subtracts rs2 from rs1 modulo 2^64 into rd. -/
  | sub (rd : BitVec 5) (rs1 : BitVec 5) (rs2 : BitVec 5)
  /-- R115: Bitwise AND of two scalar registers. -/
  | and (rd : BitVec 5) (rs1 : BitVec 5) (rs2 : BitVec 5)
  /-- R115: Bitwise OR of two scalar registers. -/
  | or (rd : BitVec 5) (rs1 : BitVec 5) (rs2 : BitVec 5)
  /-- R115: Bitwise XOR of two scalar registers. -/
  | xor (rd : BitVec 5) (rs1 : BitVec 5) (rs2 : BitVec 5)
  /-- R115: rs1 AND NOT rs2. -/
  | andn (rd : BitVec 5) (rs1 : BitVec 5) (rs2 : BitVec 5)
  /-- R115: Shifts rs1 left by rs2[5:0]. -/
  | sll (rd : BitVec 5) (rs1 : BitVec 5) (rs2 : BitVec 5)
  /-- R115: Logical right shift by rs2[5:0]. -/
  | srl (rd : BitVec 5) (rs1 : BitVec 5) (rs2 : BitVec 5)
  /-- R115: Arithmetic right shift by rs2[5:0]. -/
  | sra (rd : BitVec 5) (rs1 : BitVec 5) (rs2 : BitVec 5)
  /-- R115: Rotates rs1 right by rs2[5:0]. -/
  | ror (rd : BitVec 5) (rs1 : BitVec 5) (rs2 : BitVec 5)
  /-- R115: Sets rd to 1 if rs1 < rs2 signed. -/
  | slt (rd : BitVec 5) (rs1 : BitVec 5) (rs2 : BitVec 5)
  /-- R115: Sets rd to 1 if rs1 < rs2 unsigned. -/
  | sltu (rd : BitVec 5) (rs1 : BitVec 5) (rs2 : BitVec 5)
  /-- R115: Signed minimum. -/
  | min (rd : BitVec 5) (rs1 : BitVec 5) (rs2 : BitVec 5)
  /-- R115: Signed maximum. -/
  | max (rd : BitVec 5) (rs1 : BitVec 5) (rs2 : BitVec 5)
  /-- R115: Unsigned minimum. -/
  | minu (rd : BitVec 5) (rs1 : BitVec 5) (rs2 : BitVec 5)
  /-- R115: Unsigned maximum. -/
  | maxu (rd : BitVec 5) (rs1 : BitVec 5) (rs2 : BitVec 5)
  /-- R115: Low 64 bits of the product. -/
  | mul (rd : BitVec 5) (rs1 : BitVec 5) (rs2 : BitVec 5)
  /-- R115: High 64 bits of the signed product. -/
  | mulh (rd : BitVec 5) (rs1 : BitVec 5) (rs2 : BitVec 5)
  /-- R115: High 64 bits of the unsigned product. -/
  | mulhu (rd : BitVec 5) (rs1 : BitVec 5) (rs2 : BitVec 5)
  /-- R115: High 64 bits of signed rs1 times unsigned rs2. -/
  | mulhsu (rd : BitVec 5) (rs1 : BitVec 5) (rs2 : BitVec 5)
  /-- R116: Signed division truncated toward zero, never trapping. -/
  | div (rd : BitVec 5) (rs1 : BitVec 5) (rs2 : BitVec 5)
  /-- R116: Unsigned division, never trapping. -/
  | divu (rd : BitVec 5) (rs1 : BitVec 5) (rs2 : BitVec 5)
  /-- R116: Signed remainder with the sign of rs1. -/
  | rem (rd : BitVec 5) (rs1 : BitVec 5) (rs2 : BitVec 5)
  /-- R116: Unsigned remainder. -/
  | remu (rd : BitVec 5) (rs1 : BitVec 5) (rs2 : BitVec 5)
  /-- R115: (rs1 << 1) + rs2. -/
  | sh1add (rd : BitVec 5) (rs1 : BitVec 5) (rs2 : BitVec 5)
  /-- R115: (rs1 << 2) + rs2. -/
  | sh2add (rd : BitVec 5) (rs1 : BitVec 5) (rs2 : BitVec 5)
  /-- R115: (rs1 << 3) + rs2. -/
  | sh3add (rd : BitVec 5) (rs1 : BitVec 5) (rs2 : BitVec 5)
  /-- R115: Counts leading zero bits of rs1. -/
  | clz (rd : BitVec 5) (rs1 : BitVec 5)
  /-- R115: Counts trailing zero bits of rs1. -/
  | ctz (rd : BitVec 5) (rs1 : BitVec 5)
  /-- R115: Population count of rs1. -/
  | cpop (rd : BitVec 5) (rs1 : BitVec 5)
  /-- R117: Adds a sign-extended 16-bit immediate. -/
  | addi (rd : BitVec 5) (rs1 : BitVec 5) (imm : BitVec 16)
  /-- R117: ANDs a zero-extended immediate. -/
  | andi (rd : BitVec 5) (rs1 : BitVec 5) (imm : BitVec 16)
  /-- R117: ORs a zero-extended immediate. -/
  | ori (rd : BitVec 5) (rs1 : BitVec 5) (imm : BitVec 16)
  /-- R117: XORs a zero-extended immediate. -/
  | xori (rd : BitVec 5) (rs1 : BitVec 5) (imm : BitVec 16)
  /-- R117: Signed compare with an immediate. -/
  | slti (rd : BitVec 5) (rs1 : BitVec 5) (imm : BitVec 16)
  /-- R117: Unsigned compare with a sign-extended immediate. -/
  | sltiu (rd : BitVec 5) (rs1 : BitVec 5) (imm : BitVec 16)
  /-- R118: Shifts left by an immediate amount. -/
  | slli (rd : BitVec 5) (rs1 : BitVec 5) (sh : BitVec 6)
  /-- R118: Logical right shift by an immediate. -/
  | srli (rd : BitVec 5) (rs1 : BitVec 5) (sh : BitVec 6)
  /-- R118: Arithmetic right shift by an immediate. -/
  | srai (rd : BitVec 5) (rs1 : BitVec 5) (sh : BitVec 6)
  /-- R118: Rotates right by an immediate. -/
  | rori (rd : BitVec 5) (rs1 : BitVec 5) (sh : BitVec 6)
  /-- R119: Writes sext(imm21) << 16 to rd. -/
  | lih (rd : BitVec 5) (imm : BitVec 21)
  /-- R119: Writes its own address plus sext(imm21) to rd. -/
  | addpc (rd : BitVec 5) (imm : BitVec 21)
  /-- R120: Scalar FP32 or FP64 addition rounded under FCSR.RM. -/
  | fadd (rd : BitVec 5) (rs1 : BitVec 5) (rs2 : BitVec 5) (p : BitVec 1)
  /-- R120: Scalar FP subtraction. -/
  | fsub (rd : BitVec 5) (rs1 : BitVec 5) (rs2 : BitVec 5) (p : BitVec 1)
  /-- R120: Scalar FP multiplication. -/
  | fmul (rd : BitVec 5) (rs1 : BitVec 5) (rs2 : BitVec 5) (p : BitVec 1)
  /-- R120: Scalar FP division. -/
  | fdiv (rd : BitVec 5) (rs1 : BitVec 5) (rs2 : BitVec 5) (p : BitVec 1)
  /-- R120: Scalar FP square root. -/
  | fsqrt (rd : BitVec 5) (rs1 : BitVec 5) (p : BitVec 1)
  /-- R120: rd := round(rd + rs1 × rs2) with one rounding. -/
  | fmac (rd : BitVec 5) (rs1 : BitVec 5) (rs2 : BitVec 5) (p : BitVec 1)
  /-- R122: Scalar FP minimum with −0 below +0. -/
  | fmin (rd : BitVec 5) (rs1 : BitVec 5) (rs2 : BitVec 5) (p : BitVec 1)
  /-- R122: Scalar FP maximum. -/
  | fmax (rd : BitVec 5) (rs1 : BitVec 5) (rs2 : BitVec 5) (p : BitVec 1)
  /-- R123: FP equality compare writing 0 or 1. -/
  | feq (rd : BitVec 5) (rs1 : BitVec 5) (rs2 : BitVec 5) (p : BitVec 1)
  /-- R123: FP less-than compare. -/
  | flt (rd : BitVec 5) (rs1 : BitVec 5) (rs2 : BitVec 5) (p : BitVec 1)
  /-- R123: FP less-or-equal compare. -/
  | fle (rd : BitVec 5) (rs1 : BitVec 5) (rs2 : BitVec 5) (p : BitVec 1)
  /-- R123: FP unordered test. -/
  | funord (rd : BitVec 5) (rs1 : BitVec 5) (rs2 : BitVec 5) (p : BitVec 1)
  /-- R123: Writes the one-hot class of an FP value. -/
  | fclass (rd : BitVec 5) (rs1 : BitVec 5) (p : BitVec 1)
  /-- R124: Converts FP to INT32, sign-extended. -/
  | fcvtI32 (rd : BitVec 5) (rs1 : BitVec 5) (p : BitVec 1)
  /-- R124: Converts FP to UINT32. -/
  | fcvtUi32 (rd : BitVec 5) (rs1 : BitVec 5) (p : BitVec 1)
  /-- R124: Converts FP to INT64. -/
  | fcvtI64 (rd : BitVec 5) (rs1 : BitVec 5) (p : BitVec 1)
  /-- R124: Converts FP to UINT64. -/
  | fcvtUi64 (rd : BitVec 5) (rs1 : BitVec 5) (p : BitVec 1)
  /-- R124: Converts INT64 to FP. -/
  | fcvtFI64 (rd : BitVec 5) (rs1 : BitVec 5) (p : BitVec 1)
  /-- R124: Converts UINT64 to FP. -/
  | fcvtFUi64 (rd : BitVec 5) (rs1 : BitVec 5) (p : BitVec 1)
  /-- R124: Converts between FP32 and FP64. -/
  | fcvtFF (rd : BitVec 5) (rs1 : BitVec 5) (p : BitVec 1)
  /-- R123: rs1 with the sign of rs2. -/
  | fsgnj (rd : BitVec 5) (rs1 : BitVec 5) (rs2 : BitVec 5) (p : BitVec 1)
  /-- R123: rs1 with the inverted sign of rs2. -/
  | fsgnjn (rd : BitVec 5) (rs1 : BitVec 5) (rs2 : BitVec 5) (p : BitVec 1)
  /-- R123: rs1 with the XOR of both signs. -/
  | fsgnjx (rd : BitVec 5) (rs1 : BitVec 5) (rs2 : BitVec 5) (p : BitVec 1)
  /-- R125: FP32 add of a BF16 immediate. -/
  | faddi (rd : BitVec 5) (rs1 : BitVec 5) (imm : BitVec 16)
  /-- R125: FP32 multiply by a BF16 immediate. -/
  | fmuli (rd : BitVec 5) (rs1 : BitVec 5) (imm : BitVec 16)
  /-- R117: Low 64 bits of rs1 times a sign-extended immediate. -/
  | muli (rd : BitVec 5) (rs1 : BitVec 5) (imm : BitVec 16)
  /-- R143: Makes a lane boundary, sets VTYPE from an immediate image and sets VL. -/
  | vsetvli (rd : BitVec 5) (rs1 : BitVec 5) (imm : BitVec 12)
  /-- R127: Loads a sign-extended byte. -/
  | ldb (rd : BitVec 5) (rs1 : BitVec 5) (imm : BitVec 16)
  /-- R127: Loads a zero-extended byte. -/
  | ldbu (rd : BitVec 5) (rs1 : BitVec 5) (imm : BitVec 16)
  /-- R127: Loads a sign-extended halfword. -/
  | ldh (rd : BitVec 5) (rs1 : BitVec 5) (imm : BitVec 16)
  /-- R127: Loads a zero-extended halfword. -/
  | ldhu (rd : BitVec 5) (rs1 : BitVec 5) (imm : BitVec 16)
  /-- R127: Loads a sign-extended word. -/
  | ldw (rd : BitVec 5) (rs1 : BitVec 5) (imm : BitVec 16)
  /-- R127: Loads a zero-extended word. -/
  | ldwu (rd : BitVec 5) (rs1 : BitVec 5) (imm : BitVec 16)
  /-- R127: Loads a doubleword after the checks of R128. -/
  | ldd (rd : BitVec 5) (rs1 : BitVec 5) (imm : BitVec 16)
  /-- R127: Stores a byte, logging or committing under R30 and R31. -/
  | stb (rd : BitVec 5) (rs1 : BitVec 5) (imm : BitVec 16)
  /-- R127: Stores a halfword. -/
  | sth (rd : BitVec 5) (rs1 : BitVec 5) (imm : BitVec 16)
  /-- R127: Stores a word. -/
  | stw (rd : BitVec 5) (rs1 : BitVec 5) (imm : BitVec 16)
  /-- R127: Stores a doubleword. -/
  | std (rd : BitVec 5) (rs1 : BitVec 5) (imm : BitVec 16)
  /-- R130: Branches when rs1 equals rs2. -/
  | beq (rs1 : BitVec 5) (rs2 : BitVec 5) (off : BitVec 16)
  /-- R130: Branches when rs1 differs from rs2. -/
  | bne (rs1 : BitVec 5) (rs2 : BitVec 5) (off : BitVec 16)
  /-- R130: Branches when rs1 < rs2 signed. -/
  | blt (rs1 : BitVec 5) (rs2 : BitVec 5) (off : BitVec 16)
  /-- R130: Branches when rs1 >= rs2 signed. -/
  | bge (rs1 : BitVec 5) (rs2 : BitVec 5) (off : BitVec 16)
  /-- R130: Branches when rs1 < rs2 unsigned. -/
  | bltu (rs1 : BitVec 5) (rs2 : BitVec 5) (off : BitVec 16)
  /-- R130: Branches when rs1 >= rs2 unsigned. -/
  | bgeu (rs1 : BitVec 5) (rs2 : BitVec 5) (off : BitVec 16)
  /-- R131: Writes PC+4 to rd and jumps by off21 × 4. -/
  | jal (rd : BitVec 5) (off : BitVec 21)
  /-- R131: Jumps to rs1 + imm16, trapping if misaligned. -/
  | jalr (rd : BitVec 5) (rs1 : BitVec 5) (imm : BitVec 16)
  /-- R134: rd := rd − rs and branches when the result is non-zero. -/
  | subbnz (rd : BitVec 5) (rs : BitVec 5) (off : BitVec 16)
  /-- R133: Makes a lane boundary, advances strip pointers by the old VL and sets VL. -/
  | strip (rd : BitVec 5) (rs1 : BitVec 5) (mask4 : BitVec 4)
  /-- R135: Reads a CSR and writes it with rs1. -/
  | csrrw (rd : BitVec 5) (rs1 : BitVec 5) (csr : BitVec 12)
  /-- R135: Reads a CSR and sets the bits of rs1. -/
  | csrrs (rd : BitVec 5) (rs1 : BitVec 5) (csr : BitVec 12)
  /-- R135: Reads a CSR and clears the bits of rs1. -/
  | csrrc (rd : BitVec 5) (rs1 : BitVec 5) (csr : BitVec 12)
  /-- R135: Reads a CSR and writes a 5-bit immediate. -/
  | csrrwi (rd : BitVec 5) (zimm : BitVec 5) (csr : BitVec 12)
  /-- R135: Reads a CSR and sets immediate bits. -/
  | csrrsi (rd : BitVec 5) (zimm : BitVec 5) (csr : BitVec 12)
  /-- R135: Reads a CSR and clears immediate bits. -/
  | csrrci (rd : BitVec 5) (zimm : BitVec 5) (csr : BitVec 12)
  /-- R314: Traps with cause 0x14 and the code in EVAL. -/
  | trap (code : BitVec 16)
  /-- R315: Returns from level S to ESTAT.PL at EPC. -/
  | tret
  /-- R316: Saves the trapped post-commit context to a save block and frees the slot. -/
  | csave (rs1 : BitVec 5) (rs2 : BitVec 5)
  /-- R317: Installs a saved context into a slot bound by a resume message. -/
  | crestore (rs1 : BitVec 5)
  /-- R318: Discards the task and frees the slot. -/
  | tdiscard
  /-- R318: Retires the task as faulted. -/
  | tfail
  /-- R269: Atomic add at the home bank returning the old value. -/
  | aadd (rd : BitVec 5) (rs1 : BitVec 5) (rs2 : BitVec 5) (scope : BitVec 3) (ord : BitVec 2) (w : BitVec 1)
  /-- R269: Atomic AND. -/
  | aand (rd : BitVec 5) (rs1 : BitVec 5) (rs2 : BitVec 5) (scope : BitVec 3) (ord : BitVec 2) (w : BitVec 1)
  /-- R269: Atomic OR. -/
  | aor (rd : BitVec 5) (rs1 : BitVec 5) (rs2 : BitVec 5) (scope : BitVec 3) (ord : BitVec 2) (w : BitVec 1)
  /-- R269: Atomic XOR. -/
  | axor (rd : BitVec 5) (rs1 : BitVec 5) (rs2 : BitVec 5) (scope : BitVec 3) (ord : BitVec 2) (w : BitVec 1)
  /-- R269: Atomic signed minimum. -/
  | amin (rd : BitVec 5) (rs1 : BitVec 5) (rs2 : BitVec 5) (scope : BitVec 3) (ord : BitVec 2) (w : BitVec 1)
  /-- R269: Atomic signed maximum. -/
  | amax (rd : BitVec 5) (rs1 : BitVec 5) (rs2 : BitVec 5) (scope : BitVec 3) (ord : BitVec 2) (w : BitVec 1)
  /-- R269: Atomic unsigned minimum. -/
  | aminu (rd : BitVec 5) (rs1 : BitVec 5) (rs2 : BitVec 5) (scope : BitVec 3) (ord : BitVec 2) (w : BitVec 1)
  /-- R269: Atomic unsigned maximum. -/
  | amaxu (rd : BitVec 5) (rs1 : BitVec 5) (rs2 : BitVec 5) (scope : BitVec 3) (ord : BitVec 2) (w : BitVec 1)
  /-- R269: Atomic swap. -/
  | aswap (rd : BitVec 5) (rs1 : BitVec 5) (rs2 : BitVec 5) (scope : BitVec 3) (ord : BitVec 2) (w : BitVec 1)
  /-- R270: Atomic compare-and-swap against x[rd]. -/
  | acas (rd : BitVec 5) (rs1 : BitVec 5) (rs2 : BitVec 5) (scope : BitVec 3) (ord : BitVec 2) (w : BitVec 1)
  /-- R270: Atomic FP64 or FP32 add, RNE, no flags. -/
  | afadd (rd : BitVec 5) (rs1 : BitVec 5) (rs2 : BitVec 5) (scope : BitVec 3) (ord : BitVec 2) (w : BitVec 1)
  /-- R230: Orders accesses by acquire and/or release at a scope. -/
  | fence (ord : BitVec 2) (scope : BitVec 3)
  /-- R229: Orders accesses of the named streams within the thread. -/
  | sbar (mask : BitVec 8)
  /-- R272: Waits until a masked word differs from a value, or a time limit. -/
  | waita (rd : BitVec 5) (rs1 : BitVec 5) (rs2 : BitVec 5) (t : BitVec 5)
  /-- R274: Arrives at a phase barrier, committing first. -/
  | barr (rd : BitVec 5) (rs1 : BitVec 5)
  /-- R275: Waits on a barrier phase for a token. -/
  | bwait (rd : BitVec 5) (rs1 : BitVec 5) (rs2 : BitVec 5) (t : BitVec 5)
  /-- R276: Registers the thread at a barrier. -/
  | bjoin (rs1 : BitVec 5)
  /-- R276: Removes a barrier registration. -/
  | bleave (rs1 : BitVec 5)
  /-- R280: Inserts a key and value into an Onsen heap. -/
  | pqpush (rd : BitVec 5) (rs1 : BitVec 5) (rs2 : BitVec 5)
  /-- R280: Removes the first entry of an Onsen heap. -/
  | pqpop (rd : BitVec 5) (rs1 : BitVec 5) (rs2 : BitVec 5)
  /-- R282: Commits, releases at .pkg and enqueues a launch record on queue 8p+7. -/
  | spawn (rs1 : BitVec 5) (rs2 : BitVec 5)
  /-- R32: Commits the task, discarding its log entries. -/
  | tcommit
  /-- R284: Kills one task, or with .l every task of a launch slot. -/
  | kill (rd : BitVec 5) (rs1 : BitVec 5) (all : BitVec 1)
  /-- R285: Requests the next pool item, answered later into a scratchpad word. -/
  | wqry (rs1 : BitVec 5)
  /-- R283: Waits for pending writes and commands, then retires the task. -/
  | doneTask
  /-- R283: Removes the thread from issue selection for a while. -/
  | yield
  /-- R285: Waits until a join counter reads zero and returns the status. -/
  | joinw (rd : BitVec 5) (rs1 : BitVec 5)
  /-- R286: Marks a checkpoint region with a log area. -/
  | ckmark (rl : BitVec 5) (rs1 : BitVec 5) (rs2 : BitVec 5) (id : BitVec 4)
  /-- R288: Writes logged old values back and empties the log. -/
  | ckroll (u : BitVec 1) (id : BitVec 4)
  /-- R288: Empties a checkpoint log without writing. -/
  | ckcommit (u : BitVec 1) (id : BitVec 4)
  /-- R289: Reads a checkpoint's entry count and state. -/
  | ckstat (rd : BitVec 5) (id : BitVec 4)
  /-- R292: Requests Geyser slot leases. -/
  | gslot (rd : BitVec 5) (rs1 : BitVec 5)
  /-- R292: Releases Geyser slot leases. -/
  | grel (rd : BitVec 5) (rs1 : BitVec 5)
  /-- R293: Queues a broadcast write of 1 to 128 bytes to the stack region. -/
  | gst (rs1 : BitVec 5) (rs2 : BitVec 5) (sz : BitVec 3)
  /-- R294: Queues a broadcast atomic on a stack-region word. -/
  | gamo (rd : BitVec 5) (rs1 : BitVec 5) (rs2 : BitVec 5) (op : BitVec 2)
  /-- R295: Reads the tower's frame count and current slot. -/
  | gframe (rd : BitVec 5)
  /-- R143: Makes a lane boundary, sets VTYPE from a register and sets VL. -/
  | vsetvl (rd : BitVec 5) (rs1 : BitVec 5) (rs2 : BitVec 5)
  /-- R143: Returns the VLMAX a VTYPE image would give. -/
  | vlmaxq (rd : BitVec 5) (rs2 : BitVec 5)
  /-- R146: Vector integer add, vector-vector. -/
  | vaddVv (vd : BitVec 5) (vs1 : BitVec 5) (vs2 : BitVec 5) (vm : BitVec 3) (k1 : BitVec 1) (k2 : BitVec 1)
  /-- R146: Vector integer add, vector-scalar. -/
  | vaddVx (vd : BitVec 5) (vs1 : BitVec 5) (rs2 : BitVec 5) (vm : BitVec 3) (k1 : BitVec 1) (k2 : BitVec 1)
  /-- R146: Vector integer add, vector-immediate. -/
  | vaddVi (vd : BitVec 5) (vs1 : BitVec 5) (imm5 : BitVec 5) (vm : BitVec 3) (k1 : BitVec 1) (k2 : BitVec 1)
  /-- R146: Vector integer subtract, vector-vector. -/
  | vsubVv (vd : BitVec 5) (vs1 : BitVec 5) (vs2 : BitVec 5) (vm : BitVec 3) (k1 : BitVec 1) (k2 : BitVec 1)
  /-- R146: Vector integer subtract, vector-scalar. -/
  | vsubVx (vd : BitVec 5) (vs1 : BitVec 5) (rs2 : BitVec 5) (vm : BitVec 3) (k1 : BitVec 1) (k2 : BitVec 1)
  /-- R146: Immediate minus vector element. -/
  | vrsubVi (vd : BitVec 5) (vs1 : BitVec 5) (imm5 : BitVec 5) (vm : BitVec 3) (k1 : BitVec 1) (k2 : BitVec 1)
  /-- R146: Vector AND, vector-vector. -/
  | vandVv (vd : BitVec 5) (vs1 : BitVec 5) (vs2 : BitVec 5) (vm : BitVec 3) (k1 : BitVec 1) (k2 : BitVec 1)
  /-- R146: Vector AND, vector-scalar. -/
  | vandVx (vd : BitVec 5) (vs1 : BitVec 5) (rs2 : BitVec 5) (vm : BitVec 3) (k1 : BitVec 1) (k2 : BitVec 1)
  /-- R146: Vector OR, vector-vector. -/
  | vorVv (vd : BitVec 5) (vs1 : BitVec 5) (vs2 : BitVec 5) (vm : BitVec 3) (k1 : BitVec 1) (k2 : BitVec 1)
  /-- R146: Vector OR, vector-scalar. -/
  | vorVx (vd : BitVec 5) (vs1 : BitVec 5) (rs2 : BitVec 5) (vm : BitVec 3) (k1 : BitVec 1) (k2 : BitVec 1)
  /-- R146: Vector XOR, vector-vector. -/
  | vxorVv (vd : BitVec 5) (vs1 : BitVec 5) (vs2 : BitVec 5) (vm : BitVec 3) (k1 : BitVec 1) (k2 : BitVec 1)
  /-- R146: Vector XOR, vector-scalar. -/
  | vxorVx (vd : BitVec 5) (vs1 : BitVec 5) (rs2 : BitVec 5) (vm : BitVec 3) (k1 : BitVec 1) (k2 : BitVec 1)
  /-- R146: Vector XOR, vector-immediate. -/
  | vxorVi (vd : BitVec 5) (vs1 : BitVec 5) (imm5 : BitVec 5) (vm : BitVec 3) (k1 : BitVec 1) (k2 : BitVec 1)
  /-- R146: Vector left shift, vector-vector. -/
  | vsllVv (vd : BitVec 5) (vs1 : BitVec 5) (vs2 : BitVec 5) (vm : BitVec 3) (k1 : BitVec 1) (k2 : BitVec 1)
  /-- R146: Vector left shift by immediate. -/
  | vsllVi (vd : BitVec 5) (vs1 : BitVec 5) (imm5 : BitVec 5) (vm : BitVec 3) (k1 : BitVec 1) (k2 : BitVec 1)
  /-- R146: Vector right shift by signedness, vector-vector. -/
  | vsrVv (vd : BitVec 5) (vs1 : BitVec 5) (vs2 : BitVec 5) (vm : BitVec 3) (k1 : BitVec 1) (k2 : BitVec 1)
  /-- R146: Vector right shift by immediate. -/
  | vsrVi (vd : BitVec 5) (vs1 : BitVec 5) (imm5 : BitVec 5) (vm : BitVec 3) (k1 : BitVec 1) (k2 : BitVec 1)
  /-- R146: Vector integer minimum, vector-vector. -/
  | vminVv (vd : BitVec 5) (vs1 : BitVec 5) (vs2 : BitVec 5) (vm : BitVec 3) (k1 : BitVec 1) (k2 : BitVec 1)
  /-- R146: Vector integer minimum, vector-scalar. -/
  | vminVx (vd : BitVec 5) (vs1 : BitVec 5) (rs2 : BitVec 5) (vm : BitVec 3) (k1 : BitVec 1) (k2 : BitVec 1)
  /-- R146: Vector integer maximum, vector-vector. -/
  | vmaxVv (vd : BitVec 5) (vs1 : BitVec 5) (vs2 : BitVec 5) (vm : BitVec 3) (k1 : BitVec 1) (k2 : BitVec 1)
  /-- R146: Vector integer maximum, vector-scalar. -/
  | vmaxVx (vd : BitVec 5) (vs1 : BitVec 5) (rs2 : BitVec 5) (vm : BitVec 3) (k1 : BitVec 1) (k2 : BitVec 1)
  /-- R146: Vector low multiply, vector-vector. -/
  | vmulVv (vd : BitVec 5) (vs1 : BitVec 5) (vs2 : BitVec 5) (vm : BitVec 3) (k1 : BitVec 1) (k2 : BitVec 1)
  /-- R146: Vector low multiply, vector-scalar. -/
  | vmulVx (vd : BitVec 5) (vs1 : BitVec 5) (rs2 : BitVec 5) (vm : BitVec 3) (k1 : BitVec 1) (k2 : BitVec 1)
  /-- R146: Vector high multiply. -/
  | vmulhVv (vd : BitVec 5) (vs1 : BitVec 5) (vs2 : BitVec 5) (vm : BitVec 3) (k1 : BitVec 1) (k2 : BitVec 1)
  /-- R146: Vector integer multiply-accumulate, vector-vector. -/
  | vmaccVv (vd : BitVec 5) (vs1 : BitVec 5) (vs2 : BitVec 5) (vm : BitVec 3) (k1 : BitVec 1) (k2 : BitVec 1)
  /-- R146: Vector integer multiply-accumulate, vector-scalar. -/
  | vmaccVx (vd : BitVec 5) (vs1 : BitVec 5) (rs2 : BitVec 5) (vm : BitVec 3) (k1 : BitVec 1) (k2 : BitVec 1)
  /-- R147: Saturating vector add setting SAT. -/
  | vsaddVv (vd : BitVec 5) (vs1 : BitVec 5) (vs2 : BitVec 5) (vm : BitVec 3) (k1 : BitVec 1) (k2 : BitVec 1)
  /-- R147: Saturating vector subtract. -/
  | vssubVv (vd : BitVec 5) (vs1 : BitVec 5) (vs2 : BitVec 5) (vm : BitVec 3) (k1 : BitVec 1) (k2 : BitVec 1)
  /-- R147: Selects vs2 or vs1 per mask bit for every body element. -/
  | vmergeVv (vd : BitVec 5) (vs1 : BitVec 5) (vs2 : BitVec 5) (vm : BitVec 3) (k1 : BitVec 1) (k2 : BitVec 1)
  /-- R147: Broadcasts the low bits of a scalar register without conversion. [20:16] names nothing, so K1 must be 0 (R93, R146). -/
  | vmvVx (vd : BitVec 5) (rs2 : BitVec 5) (vm : BitVec 3) (k1 : BitVec 1) (k2 : BitVec 1)
  /-- R146: Broadcasts an extended immediate. [20:16] names nothing, so K1 must be 0 (R93). -/
  | vmvVi (vd : BitVec 5) (imm5 : BitVec 5) (vm : BitVec 3) (k1 : BitVec 1) (k2 : BitVec 1)
  /-- R148: Vector FP add, vector-vector. -/
  | vfaddVv (vd : BitVec 5) (vs1 : BitVec 5) (vs2 : BitVec 5) (vm : BitVec 3) (x : BitVec 1) (k1 : BitVec 1) (k2 : BitVec 1)
  /-- R148: Vector FP add, vector-scalar. -/
  | vfaddVx (vd : BitVec 5) (vs1 : BitVec 5) (rs2 : BitVec 5) (vm : BitVec 3) (x : BitVec 1) (k1 : BitVec 1) (k2 : BitVec 1)
  /-- R148: Vector FP subtract, vector-vector. -/
  | vfsubVv (vd : BitVec 5) (vs1 : BitVec 5) (vs2 : BitVec 5) (vm : BitVec 3) (x : BitVec 1) (k1 : BitVec 1) (k2 : BitVec 1)
  /-- R148: Vector FP subtract, vector-scalar. -/
  | vfsubVx (vd : BitVec 5) (vs1 : BitVec 5) (rs2 : BitVec 5) (vm : BitVec 3) (x : BitVec 1) (k1 : BitVec 1) (k2 : BitVec 1)
  /-- R148: Scalar minus vector element, FP. -/
  | vfrsubVx (vd : BitVec 5) (vs1 : BitVec 5) (rs2 : BitVec 5) (vm : BitVec 3) (x : BitVec 1) (k1 : BitVec 1) (k2 : BitVec 1)
  /-- R148: Vector FP multiply, vector-vector. -/
  | vfmulVv (vd : BitVec 5) (vs1 : BitVec 5) (vs2 : BitVec 5) (vm : BitVec 3) (x : BitVec 1) (k1 : BitVec 1) (k2 : BitVec 1)
  /-- R148: Vector FP multiply, vector-scalar. -/
  | vfmulVx (vd : BitVec 5) (vs1 : BitVec 5) (rs2 : BitVec 5) (vm : BitVec 3) (x : BitVec 1) (k1 : BitVec 1) (k2 : BitVec 1)
  /-- R148: Vector FP divide, vector-vector. -/
  | vfdivVv (vd : BitVec 5) (vs1 : BitVec 5) (vs2 : BitVec 5) (vm : BitVec 3) (x : BitVec 1) (k1 : BitVec 1) (k2 : BitVec 1)
  /-- R148: Vector FP divide, vector-scalar. -/
  | vfdivVx (vd : BitVec 5) (vs1 : BitVec 5) (rs2 : BitVec 5) (vm : BitVec 3) (x : BitVec 1) (k1 : BitVec 1) (k2 : BitVec 1)
  /-- R148: Vector FP square root. -/
  | vfsqrt (vd : BitVec 5) (vs1 : BitVec 5) (vm : BitVec 3) (x : BitVec 1) (k1 : BitVec 1)
  /-- R148: Vector FP fused multiply-add into vd, vector-vector. -/
  | vfmaccVv (vd : BitVec 5) (vs1 : BitVec 5) (vs2 : BitVec 5) (vm : BitVec 3) (x : BitVec 1) (k1 : BitVec 1) (k2 : BitVec 1)
  /-- R148: Vector FP fused multiply-add, vector-scalar. -/
  | vfmaccVx (vd : BitVec 5) (vs1 : BitVec 5) (rs2 : BitVec 5) (vm : BitVec 3) (x : BitVec 1) (k1 : BitVec 1) (k2 : BitVec 1)
  /-- R148: Vector FP fused multiply-subtract from vd, vector-vector. -/
  | vfnmsacVv (vd : BitVec 5) (vs1 : BitVec 5) (vs2 : BitVec 5) (vm : BitVec 3) (x : BitVec 1) (k1 : BitVec 1) (k2 : BitVec 1)
  /-- R148: Vector FP fused multiply-subtract, vector-scalar. -/
  | vfnmsacVx (vd : BitVec 5) (vs1 : BitVec 5) (rs2 : BitVec 5) (vm : BitVec 3) (x : BitVec 1) (k1 : BitVec 1) (k2 : BitVec 1)
  /-- R148: Vector FP minimum, vector-vector. -/
  | vfminVv (vd : BitVec 5) (vs1 : BitVec 5) (vs2 : BitVec 5) (vm : BitVec 3) (x : BitVec 1) (k1 : BitVec 1) (k2 : BitVec 1)
  /-- R148: Vector FP minimum, vector-scalar. -/
  | vfminVx (vd : BitVec 5) (vs1 : BitVec 5) (rs2 : BitVec 5) (vm : BitVec 3) (x : BitVec 1) (k1 : BitVec 1) (k2 : BitVec 1)
  /-- R148: Vector FP maximum, vector-vector. -/
  | vfmaxVv (vd : BitVec 5) (vs1 : BitVec 5) (vs2 : BitVec 5) (vm : BitVec 3) (x : BitVec 1) (k1 : BitVec 1) (k2 : BitVec 1)
  /-- R148: Vector FP maximum, vector-scalar. -/
  | vfmaxVx (vd : BitVec 5) (vs1 : BitVec 5) (rs2 : BitVec 5) (vm : BitVec 3) (x : BitVec 1) (k1 : BitVec 1) (k2 : BitVec 1)
  /-- R148: Vector sign injection. -/
  | vfsgnjVv (vd : BitVec 5) (vs1 : BitVec 5) (vs2 : BitVec 5) (vm : BitVec 3) (k1 : BitVec 1) (k2 : BitVec 1)
  /-- R148: Vector negated sign injection. -/
  | vfsgnjnVv (vd : BitVec 5) (vs1 : BitVec 5) (vs2 : BitVec 5) (vm : BitVec 3) (k1 : BitVec 1) (k2 : BitVec 1)
  /-- R148: Vector XOR sign injection. -/
  | vfsgnjxVv (vd : BitVec 5) (vs1 : BitVec 5) (vs2 : BitVec 5) (vm : BitVec 3) (k1 : BitVec 1) (k2 : BitVec 1)
  /-- R149: Correctly rounded vector reciprocal. -/
  | vfrec (vd : BitVec 5) (vs1 : BitVec 5) (vm : BitVec 3) (x : BitVec 1) (k1 : BitVec 1)
  /-- R149: Correctly rounded vector reciprocal square root. -/
  | vfrsqrt (vd : BitVec 5) (vs1 : BitVec 5) (vm : BitVec 3) (x : BitVec 1) (k1 : BitVec 1)
  /-- R149: Correctly rounded vector 2^x. -/
  | vfexp2 (vd : BitVec 5) (vs1 : BitVec 5) (vm : BitVec 3) (x : BitVec 1) (k1 : BitVec 1)
  /-- R150: Vector FP to signed integer of the same width. -/
  | vfcvtI (vd : BitVec 5) (vs1 : BitVec 5) (vm : BitVec 3) (x : BitVec 1) (k1 : BitVec 1)
  /-- R150: Vector FP to unsigned integer. -/
  | vfcvtUi (vd : BitVec 5) (vs1 : BitVec 5) (vm : BitVec 3) (x : BitVec 1) (k1 : BitVec 1)
  /-- R150: Vector signed integer bits to FP. -/
  | vfcvtFi (vd : BitVec 5) (vs1 : BitVec 5) (vm : BitVec 3) (x : BitVec 1) (k1 : BitVec 1)
  /-- R150: Vector unsigned integer bits to FP. -/
  | vfcvtFui (vd : BitVec 5) (vs1 : BitVec 5) (vm : BitVec 3) (x : BitVec 1) (k1 : BitVec 1)
  /-- R150: Rounds vector elements to integral FP values. -/
  | vfcvtRint (vd : BitVec 5) (vs1 : BitVec 5) (vm : BitVec 3) (x : BitVec 1) (k1 : BitVec 1)
  /-- R148: Writes the FP class bits of each element. -/
  | vfclass (vd : BitVec 5) (vs1 : BitVec 5) (vm : BitVec 3) (k1 : BitVec 1)
  /-- R152: Slides elements up by n with VFILL entering. -/
  | vslupVi (vd : BitVec 5) (vs1 : BitVec 5) (n : BitVec 5) (vm : BitVec 3) (k1 : BitVec 1) (k2 : BitVec 1)
  /-- R152: Slides elements down by n with VFILL entering. -/
  | vsldnVi (vd : BitVec 5) (vs1 : BitVec 5) (n : BitVec 5) (vm : BitVec 3) (k1 : BitVec 1) (k2 : BitVec 1)
  /-- R152: Gathers elements of vs1 by indices in vs2. -/
  | vrgathVv (vd : BitVec 5) (vs1 : BitVec 5) (vs2 : BitVec 5) (vm : BitVec 3) (k1 : BitVec 1) (k2 : BitVec 1)
  /-- R152: Packs the mask-selected elements of vs1. -/
  | vcompress (vd : BitVec 5) (vs1 : BitVec 5) (vm : BitVec 3) (k1 : BitVec 1)
  /-- R152: Spreads vs1 into the mask-selected elements. -/
  | vexpand (vd : BitVec 5) (vs1 : BitVec 5) (vm : BitVec 3) (k1 : BitVec 1)
  /-- R152: Writes prefix counts of a mask's set bits. -/
  | viota (vd : BitVec 5) (ms : BitVec 5) (vm : BitVec 3)
  /-- R152: Writes each element's index. -/
  | vid (vd : BitVec 5) (vm : BitVec 3)
  /-- R152: Copies a vector register and its domain tag. -/
  | vmvVv (vd : BitVec 5) (vs1 : BitVec 5) (vm : BitVec 3) (k1 : BitVec 1)
  /-- R152: Extracts one element into a scalar register. -/
  | vextx (rd : BitVec 5) (vs1 : BitVec 5) (rs2 : BitVec 5) (k1 : BitVec 1) (k2 : BitVec 1)
  /-- R152: Inserts a scalar into one element. -/
  | vinsx (vd : BitVec 5) (rs1 : BitVec 5) (rs2 : BitVec 5) (k1 : BitVec 1) (k2 : BitVec 1)
  /-- R154: Sum reduction by a fixed pairwise tree. -/
  | vredsum (vd : BitVec 5) (vs1 : BitVec 5) (vs2 : BitVec 5) (vm : BitVec 3) (k1 : BitVec 1) (k2 : BitVec 1)
  /-- R154: Sequential FP sum reduction. -/
  | vredosum (vd : BitVec 5) (vs1 : BitVec 5) (vs2 : BitVec 5) (vm : BitVec 3) (k1 : BitVec 1) (k2 : BitVec 1)
  /-- R154: Minimum reduction. -/
  | vredmin (vd : BitVec 5) (vs1 : BitVec 5) (vs2 : BitVec 5) (vm : BitVec 3) (k1 : BitVec 1) (k2 : BitVec 1)
  /-- R154: Maximum reduction. -/
  | vredmax (vd : BitVec 5) (vs1 : BitVec 5) (vs2 : BitVec 5) (vm : BitVec 3) (k1 : BitVec 1) (k2 : BitVec 1)
  /-- R154: Bitwise AND reduction. -/
  | vredand (vd : BitVec 5) (vs1 : BitVec 5) (vs2 : BitVec 5) (vm : BitVec 3) (k1 : BitVec 1) (k2 : BitVec 1)
  /-- R154: Bitwise OR reduction. -/
  | vredor (vd : BitVec 5) (vs1 : BitVec 5) (vs2 : BitVec 5) (vm : BitVec 3) (k1 : BitVec 1) (k2 : BitVec 1)
  /-- R154: Bitwise XOR reduction. -/
  | vredxor (vd : BitVec 5) (vs1 : BitVec 5) (vs2 : BitVec 5) (vm : BitVec 3) (k1 : BitVec 1) (k2 : BitVec 1)
  /-- R154: Largest magnitude reduction, exact. -/
  | vamax (vd : BitVec 5) (vs1 : BitVec 5) (vs2 : BitVec 5) (vm : BitVec 3) (k1 : BitVec 1) (k2 : BitVec 1)
  /-- R155: Mask of element equality, vector-vector. -/
  | vmseqVv (md : BitVec 5) (vs1 : BitVec 5) (vs2 : BitVec 5) (vm : BitVec 3) (k1 : BitVec 1) (k2 : BitVec 1)
  /-- R155: Mask of inequality, vector-vector. -/
  | vmsneVv (md : BitVec 5) (vs1 : BitVec 5) (vs2 : BitVec 5) (vm : BitVec 3) (k1 : BitVec 1) (k2 : BitVec 1)
  /-- R155: Mask of less-than, vector-vector. -/
  | vmsltVv (md : BitVec 5) (vs1 : BitVec 5) (vs2 : BitVec 5) (vm : BitVec 3) (k1 : BitVec 1) (k2 : BitVec 1)
  /-- R155: Mask of less-or-equal, vector-vector. -/
  | vmsleVv (md : BitVec 5) (vs1 : BitVec 5) (vs2 : BitVec 5) (vm : BitVec 3) (k1 : BitVec 1) (k2 : BitVec 1)
  /-- R155: Mask of equality with a scalar. -/
  | vmseqVx (md : BitVec 5) (vs1 : BitVec 5) (rs2 : BitVec 5) (vm : BitVec 3) (k1 : BitVec 1) (k2 : BitVec 1)
  /-- R155: Mask of inequality with a scalar. -/
  | vmsneVx (md : BitVec 5) (vs1 : BitVec 5) (rs2 : BitVec 5) (vm : BitVec 3) (k1 : BitVec 1) (k2 : BitVec 1)
  /-- R155: Mask of less-than a scalar. -/
  | vmsltVx (md : BitVec 5) (vs1 : BitVec 5) (rs2 : BitVec 5) (vm : BitVec 3) (k1 : BitVec 1) (k2 : BitVec 1)
  /-- R155: Mask of less-or-equal a scalar. -/
  | vmsleVx (md : BitVec 5) (vs1 : BitVec 5) (rs2 : BitVec 5) (vm : BitVec 3) (k1 : BitVec 1) (k2 : BitVec 1)
  /-- R155: Mask of greater-than a scalar. -/
  | vmsgtVx (md : BitVec 5) (vs1 : BitVec 5) (rs2 : BitVec 5) (vm : BitVec 3) (k1 : BitVec 1) (k2 : BitVec 1)
  /-- R155: Mask of greater-or-equal a scalar. -/
  | vmsgeVx (md : BitVec 5) (vs1 : BitVec 5) (rs2 : BitVec 5) (vm : BitVec 3) (k1 : BitVec 1) (k2 : BitVec 1)
  /-- R156: AND of two mask registers. -/
  | vmand (md : BitVec 5) (ms1 : BitVec 5) (ms2 : BitVec 5)
  /-- R156: OR of two mask registers. -/
  | vmor (md : BitVec 5) (ms1 : BitVec 5) (ms2 : BitVec 5)
  /-- R156: XOR of two mask registers. -/
  | vmxor (md : BitVec 5) (ms1 : BitVec 5) (ms2 : BitVec 5)
  /-- R156: ms1 AND NOT ms2. -/
  | vmandn (md : BitVec 5) (ms1 : BitVec 5) (ms2 : BitVec 5)
  /-- R156: Counts active set bits of a mask. -/
  | vmpop (rd : BitVec 5) (ms : BitVec 5) (vm : BitVec 3)
  /-- R156: Index of the lowest active set mask bit. -/
  | vmfirst (rd : BitVec 5) (ms : BitVec 5) (vm : BitVec 3)
  /-- R203: Forward Haar transform of a 32-position column, tagging the result Haar. -/
  | vhaar (vd : BitVec 5) (vs1 : BitVec 5) (lev : BitVec 5) (k1 : BitVec 1) (k2 : BitVec 1)
  /-- R204: Inverse Haar transform using the source tag. -/
  | vihaar (vd : BitVec 5) (vs1 : BitVec 5) (k1 : BitVec 1)
  /-- R201: Writes a threshold register from two scalars. -/
  | thset (hd : BitVec 5) (rs1 : BitVec 5) (rs2 : BitVec 5) (k1 : BitVec 1) (k2 : BitVec 1)
  /-- R201: Reads half of a threshold register. -/
  | thget (rd : BitVec 5) (hs : BitVec 5) (n : BitVec 5) (k2 : BitVec 1)
  /-- R205: Reads a vector register's domain tag. -/
  | dtagr (rd : BitVec 5) (vs1 : BitVec 5) (k1 : BitVec 1)
  /-- R205: Writes the domain tag of a vector group. -/
  | dtagw (vd : BitVec 5) (rs1 : BitVec 5) (k1 : BitVec 1)
  /-- R205: Builds a mask register from a scalar row mask. -/
  | dtagmk (md : BitVec 5) (rs1 : BitVec 5) (k1 : BitVec 1)
  /-- R205: Builds a mask of approximation rows from a tag. -/
  | dtagma (md : BitVec 5) (vs1 : BitVec 5) (k1 : BitVec 1)
  /-- R157: Unit-stride vector load with conversion or scaling. -/
  | vld (vd : BitVec 5) (rs1 : BitVec 5) (qn : BitVec 5) (vm : BitVec 3) (stream : BitVec 3) (fmt : BitVec 5)
  /-- R157: Unit-stride vector store with conversion or quantisation. -/
  | vst (vd : BitVec 5) (rs1 : BitVec 5) (qn : BitVec 5) (vm : BitVec 3) (stream : BitVec 3) (fmt : BitVec 5)
  /-- R157: Strided vector load. -/
  | vlds (vd : BitVec 5) (rs1 : BitVec 5) (rs2 : BitVec 5) (vm : BitVec 3) (stream : BitVec 3) (fmt : BitVec 5)
  /-- R157: Strided vector store. -/
  | vsts (vd : BitVec 5) (rs1 : BitVec 5) (rs2 : BitVec 5) (vm : BitVec 3) (stream : BitVec 3) (fmt : BitVec 5)
  /-- R157: Indexed vector load. -/
  | vldx (vd : BitVec 5) (rs1 : BitVec 5) (vs2 : BitVec 5) (vm : BitVec 3) (stream : BitVec 3) (fmt : BitVec 5)
  /-- R157: Indexed vector store. -/
  | vstx (vd : BitVec 5) (rs1 : BitVec 5) (vs2 : BitVec 5) (vm : BitVec 3) (stream : BitVec 3) (fmt : BitVec 5)
  /-- R164: Vector atomic add per element at home. -/
  | vamoadd (vd : BitVec 5) (rs1 : BitVec 5) (vs2 : BitVec 5) (vm : BitVec 3) (stream : BitVec 3) (ord : BitVec 1)
  /-- R164: Vector atomic AND. -/
  | vamoand (vd : BitVec 5) (rs1 : BitVec 5) (vs2 : BitVec 5) (vm : BitVec 3) (stream : BitVec 3) (ord : BitVec 1)
  /-- R164: Vector atomic OR. -/
  | vamoor (vd : BitVec 5) (rs1 : BitVec 5) (vs2 : BitVec 5) (vm : BitVec 3) (stream : BitVec 3) (ord : BitVec 1)
  /-- R164: Vector atomic XOR. -/
  | vamoxor (vd : BitVec 5) (rs1 : BitVec 5) (vs2 : BitVec 5) (vm : BitVec 3) (stream : BitVec 3) (ord : BitVec 1)
  /-- R164: Vector atomic minimum. -/
  | vamomin (vd : BitVec 5) (rs1 : BitVec 5) (vs2 : BitVec 5) (vm : BitVec 3) (stream : BitVec 3) (ord : BitVec 1)
  /-- R164: Vector atomic maximum. -/
  | vamomax (vd : BitVec 5) (rs1 : BitVec 5) (vs2 : BitVec 5) (vm : BitVec 3) (stream : BitVec 3) (ord : BitVec 1)
  /-- R164: Vector atomic swap. -/
  | vamoswp (vd : BitVec 5) (rs1 : BitVec 5) (vs2 : BitVec 5) (vm : BitVec 3) (stream : BitVec 3) (ord : BitVec 1)
  /-- R162: Loads 64 E8M0 codes into a scale register. -/
  | vldq (vd : BitVec 5) (rs1 : BitVec 5) (stream : BitVec 3)
  /-- R163: Fault-only-first unit-stride load that trims VL. -/
  | vldff (vd : BitVec 5) (rs1 : BitVec 5) (vm : BitVec 3) (stream : BitVec 3) (fmt : BitVec 4)
  /-- R206: Stores a thresholded Haar column using h0. -/
  | vstw (vd : BitVec 5) (rs1 : BitVec 5) (lev : BitVec 3) (stream : BitVec 3) (fmt : BitVec 4)
  /-- R207: Loads a Haar column and rebuilds its survival mask. -/
  | vldw (vd : BitVec 5) (rs1 : BitVec 5) (lev : BitVec 3) (stream : BitVec 3) (fmt : BitVec 4)
  /-- R174: Queues slices of a rank-one update from two vector registers. -/
  | opr (acc : BitVec 3) (vs1 : BitVec 5) (vs2 : BitVec 5) (rm : BitVec 3) (ty : BitVec 2) (z : BitVec 1)
  /-- R175: Queues slices of latched updates and consumes latch depth at retirement. -/
  | opl (acc : BitVec 3) (pair : BitVec 2) (rm : BitVec 3) (g : BitVec 2) (z : BitVec 1)
  /-- R179: Queues slices zeroing selected tile rows. -/
  | tzero (acc : BitVec 3) (rm : BitVec 3)
  /-- R182: Moves a tile row or column into a vector group. -/
  | tmovv (acc : BitVec 3) (col : BitVec 2) (rs1 : BitVec 5) (vd : BitVec 5) (ty : BitVec 2)
  /-- R183: Writes per-row or per-column largest magnitudes of a tile. -/
  | tamax (acc : BitVec 3) (col : BitVec 2) (vd : BitVec 5) (rm : BitVec 3)
  /-- R184: Computes block scale codes into a scale register. -/
  | scalex (qd : BitVec 5) (vs1 : BitVec 5) (fmt : BitVec 5) (rm : BitVec 3) (half : BitVec 2)
  /-- R185: Releases a tile or latch and starts its zeroing. -/
  | trel (unit : BitVec 3) (kind : BitVec 2)
  /-- R210: Forward Haar transform of every tile column. -/
  | thaar (acc : BitVec 3) (lev : BitVec 5)
  /-- R210: Inverse Haar transform of a Haar-tagged tile. -/
  | tihaar (acc : BitVec 3)
  /-- R177: Fills a latch from strided scratchpad rows. -/
  | opld (qs : BitVec 3) (latch : BitVec 2) (rs1 : BitVec 5) (rs2 : BitVec 5) (lf : BitVec 3) (depth : BitVec 2) (sc : BitVec 1)
  /-- R178: Fills a latch from indexed rows. -/
  | opldx (pitch : BitVec 5) (rs1 : BitVec 5) (vs2 : BitVec 5) (lf : BitVec 3) (latch : BitVec 2) (sc : BitVec 1)
  /-- R180: Queues slices loading tile rows. -/
  | tld (acc : BitVec 3) (qs : BitVec 2) (rs1 : BitVec 5) (rs2 : BitVec 5) (rm : BitVec 3) (ty : BitVec 2) (sc : BitVec 1)
  /-- R181: Queues slices storing tile rows. -/
  | tst (acc : BitVec 3) (qs : BitVec 2) (rs1 : BitVec 5) (rs2 : BitVec 5) (rm : BitVec 3) (ty : BitVec 2) (sc : BitVec 1)
  /-- R186: Writes a unit's record and takes ownership of it, at level S. -/
  | tsave (unit : BitVec 3) (kind : BitVec 2) (rs1 : BitVec 5)
  /-- R186: Checks and installs a unit record, at level S. -/
  | trestore (unit : BitVec 3) (kind : BitVec 2) (rs1 : BitVec 5)
  /-- R211: Writes a thresholded dense Haar tile image. -/
  | tstw (acc : BitVec 3) (hn : BitVec 2) (rs1 : BitVec 5) (lev : BitVec 5) (ty : BitVec 2) (sc : BitVec 1)
  /-- R212: Loads a dense Haar tile image and its tag. -/
  | tldw (acc : BitVec 3) (rs1 : BitVec 5)
  /-- R250: Queues a byte copy on a copy-engine queue. -/
  | cpy (rdst : BitVec 5) (rsrc : BitVec 5) (rlen : BitVec 5) (queue : BitVec 3) (wm : BitVec 1)
  /-- R251: Queues a tensor box copy with clipping. -/
  | cpyt (rdst : BitVec 5) (rsrc : BitVec 5) (vlay : BitVec 5) (queue : BitVec 3) (nofill : BitVec 1) (wm : BitVec 1)
  /-- R253: Queues an indexed row gather. -/
  | gath (rdst : BitVec 5) (rsrc : BitVec 5) (vidx : BitVec 5) (queue : BitVec 3) (wm : BitVec 1)
  /-- R253: Queues an indexed row scatter. -/
  | scat (rdst : BitVec 5) (rsrc : BitVec 5) (vidx : BitVec 5) (queue : BitVec 3) (wm : BitVec 1)
  /-- R254: Places a fence entry naming queues in a queue. -/
  | qfence (rs : BitVec 5) (queue : BitVec 3)
  /-- R255: Stages completion word and barrier for a queue. -/
  | csig (raddr : BitVec 5) (rval : BitVec 5) (rbar : BitVec 5) (queue : BitVec 3)
  /-- R263: Stages checksum kind, seed, expected value and chain bits. -/
  | cchk (cont : BitVec 1) (rseed : BitVec 5) (rexp : BitVec 5) (queue : BitVec 3) (verify : BitVec 1) (kind : BitVec 2)
  /-- R260: Stages a transform descriptor and scale-array address. -/
  | cxf (rscale : BitVec 5) (rdesc : BitVec 5) (queue : BitVec 3)
  /-- R245: Stages the fill pattern for clipped elements. -/
  | cfill (rsrc : BitVec 5) (queue : BitVec 3)
  /-- R253: Stages row bytes and pitch for gather and scatter. -/
  | crow (rsrc : BitVec 5) (rpitch : BitVec 5) (queue : BitVec 3)
  /-- R267: Reads a queue's status, optionally clearing SAT and NV. -/
  | cqst (rd : BitVec 5) (queue : BitVec 3) (clr : BitVec 1)
  /-- R369: Host store to staging +0x78 enqueues a launch record. -/
  | hostEnqueue (tower queue : Nat) (last : BitVec 64)
  /-- R12: Lahar checks a record once prior host writes are performed, then accepts or refuses it. -/
  | launchAccept (tower : Nat)
  /-- R371: A forwarded record arrives and is checked at the other tower's queue. -/
  | forwardedRecordArrival (tower : Nat)
  /-- R13: Lahar picks a placeable head, reserves resources and sends one task record. -/
  | taskDispatch (tower : Nat)
  /-- R18: The loader places code, binds a channel and returns the record to its queue head. -/
  | loaderBind (core obj entry level : Nat)
  /-- R19: A 64-byte message enters a core's inbox. -/
  | taskRecordArrival (core : Nat)
  /-- R20: The core binds the oldest runnable message to a free slot and starts the task. -/
  | channelBind (core : Nat)
  /-- R35: A head unplaceable beyond the pre-emption delay makes Lahar pick a victim. -/
  | preemptDelayExpiry (tower queue : Nat)
  /-- R308: A channel-31 message arrives at a core. -/
  | supervisorMessageArrival (core : Nat) (msg : List (BitVec 64))
  /-- R309: A channel-31 message binds at level S or traps its slot with cause 0x16, or discards a pre-commit task. -/
  | supervisorMessageTake (core : Nat)
  /-- R312: Lahar reserves resources and sends a resume message for a saved context. -/
  | resumeSend (tower index core slot : Nat)
  /-- R43: After DONE's waits, withdraws registrations, updates the join object and frees resources. -/
  | taskRetire (core slot : Nat)
  /-- R284: KILL writes its count once every target has retired. -/
  | killDone (core slot : Nat)
  /-- R62: Background zeroing of a released unit ends. -/
  | tileZeroDone (core unit : Nat)
  /-- R168: A free pipe takes the oldest startable slice. -/
  | sliceStart (core : Nat)
  /-- R168: A slice's rows, stores and flags take hold. -/
  | sliceRetire (core : Nat)
  /-- R248: A data command or QFENCE is accepted into its queue once an entry frees. -/
  | engineAccept (core slot : Nat)
  /-- R250: The engine performs payload bytes of a command at their homes. -/
  | engineTransfer (cluster queue index count : Nat)
  /-- R256: A command settles its checksum, writes its completion word, arrives at its barrier and frees its entry. -/
  | engineComplete (cluster queue : Nat)
  /-- R254: A fence entry completes when the named queues' earlier entries have completed. -/
  | qfenceComplete (cluster queue : Nat)
  /-- R291: One Geyser slot passes, carrying one write or beat. -/
  | geyserSlot (tower : Nat)
  /-- R272: A write at home re-evaluates a waiting WAITA. -/
  | waitaWake (core slot : Nat)
  /-- R272: A WAITA limit expires. -/
  | waitaTimeout (core slot : Nat)
  /-- R275: A barrier change re-evaluates a waiting BWAIT. -/
  | bwaitWake (core slot : Nat)
  /-- R275: A BWAIT limit expires with TIMEOUT. -/
  | bwaitTimeout (core slot : Nat)
  /-- R39: A join counter reaches zero and JOINW returns. -/
  | joinwWake (core slot : Nat)
  /-- R283: A yielding thread returns to issue selection. -/
  | yieldEnd (core slot : Nat)
  /-- R41: Lahar writes a pool item or the end token to the answer word. -/
  | wqryAnswer (tower : Nat)
  /-- R306: A slot's watchdog reaches its interval and traps with cause 0x13. -/
  | watchdogExpire (core slot : Nat) (cycles : BitVec 64)
  /-- R386: A fault record is written into the fault queue when it has room. -/
  | faultRecordWrite (tower : Nat)
  /-- R388: The driver answers a fault record as mapped or failed. -/
  | fqansWrite (tower : Nat) (value : BitVec 64)
  /-- R386: The driver advances FQHEAD, possibly raising the fault vector. -/
  | fqheadWrite (tower : Nat) (value : BitVec 64)
  /-- R385: Starts a translation invalidation of the given scope. -/
  | tinvWrite (tower : Nat) (value : BitVec 64)
  /-- R385: TBUSY falls when no covered entry, walk or access remains. -/
  | tinvComplete (tower : Nat)
  /-- R391: KSEL with LOAD installs KEY material for a key id. -/
  | keyLoad (tower : Nat) (value : BitVec 64)
  /-- R391: KSEL with ERASE removes a key id. -/
  | keyErase (tower : Nat) (value : BitVec 64)
  /-- R391: KBUSY falls when every HBM controller has applied the key operation. -/
  | keyOperationDone (tower : Nat)
  /-- R374: Freezes or thaws Lahar dispatch and applies waiting enqueues. -/
  | lfrzWrite (tower : Nat) (value : BitVec 64)
  /-- R375: Starts a snapshot of the selected core. -/
  | snapshotGo (tower : Nat) (value : BitVec 64)
  /-- R375: Slot states are copied to the buffer and the core resumes. -/
  | snapshotDone (tower : Nat)
  /-- R377: Requests a layer reset, killing its tasks and resetting its state. -/
  | lrstWrite (tower : Nat) (value : BitVec 64)
  /-- R398: Requests normal boot paths at the next boot. -/
  | bretryWrite (tower : Nat) (value : BitVec 64)
  /-- R373: Sets CHB and STBN unless translated code is placed. -/
  | codeHeapWrite (tower : Nat) (value : BitVec 64)
  /-- R325: Conditionally changes one owner byte indivisibly. -/
  | oclaimWrite (core slot : Nat) (value : BitVec 64)
  /-- R321: Arms a one-bit fault injection for a queue. -/
  | einjWrite (core : Nat) (value : BitVec 64)
  /-- R59: Changes the private-scratchpad bank hash after older accesses complete. -/
  | bkeyWrite (core : Nat) (value : BitVec 64)
  /-- R259: A write to WMq clears a rewound range when no bound command is incomplete. -/
  | wmWrite (core slot channel : Nat) (value : BitVec 64)
  /-- R137: Writes PENDG, HOME and LENT of the lane partition. -/
  | lpartWrite (core : Nat) (value : BitVec 64)
  /-- R326: A write to TOWN or LOWN waits for zeroing and changes owner bytes. -/
  | ownerWrite (core : Nat) (latches : Bool) (value : BitVec 64)
  /-- R9: A write to a register without a behaviour of its own. -/
  | registerWrite (tower : Nat) (firmware : Bool) (offset : BitVec 64) (value : BitVec 64)
  /-- R296: A layer idle for 4,096 cycles gates core and engine clocks. -/
  | autumnEntry (layer : Nat)
  /-- R400: A layer idle for WIDLE µs power-gates and revokes leases. -/
  | winterEntry (layer : Nat)
  /-- R296: A Spring layer's power is up and tasks may bind. -/
  | powerUpDone (layer : Nat)
  /-- R241: The replica copy ends and the layer enters Summer. -/
  | springEnd (layer : Nat)
  /-- R241: A resync of a stale replica ends and region loads resume. -/
  | replicaResyncEnd (layer : Nat)
  /-- R400: Each microsecond the power manager estimates and enforces limits. -/
  | powerManagerTick (tower : Nat) (estimates : List Nat)
  /-- R365: A host CXL.mem access to HDM, encrypted under HKEY. -/
  | hostMemAccess (address : BitVec 64) (data : List (BitVec 8)) (length : Nat) (atomic : Bool)
  /-- R362: A host CXL.io access to a BAR4 SRAM aperture. -/
  | hostApertureAccess (offset : BitVec 64) (data : List (BitVec 8)) (length : Nat)
  /-- R335: A stub-miss request reaches the translator. -/
  | translationRequest (core slot : Nat)
  /-- R335: The translator places code and writes reply 0, 1 or 2. -/
  | translationReply (tower reply place : Nat)
  /-- R332: The loader admits or refuses a code object. -/
  | objectAdmit (tower : Nat) (image : List (BitVec 64))
  /-- R376: Power-on or CXL reset clears everything except fuses. -/
  | packageReset
  /-- R376: Resets a tower's Caldera die and all its layers. -/
  | towerReset (tower : Nat)
  /-- R398: Firmware runs one boot step on its normal, skipped or alternative path. -/
  | bootStep (tower : Nat) (ok : Bool) (time : BitVec 32)
  /-- R409: A lost UALink port moves traffic or fails peer accesses. -/
  | ualinkPortDown (tower port : Nat)
  /-- R102: A fetched word of major 0x00, 0x3F, 0x3B to 0x3E or an undefined function code traps with cause 0x01 or 0x02 at decode. -/
  | nonInstructionWord (word : BitVec 32)
  /-- R409: A read, write or 8-byte atomic from a peer package arrives over UALink at this package's physical address. -/
  | ualinkPeerAccess (address : BitVec 64) (kind : Nat) (operand : BitVec 64) (expected : BitVec 64)
  /-- R409: A UALink port regains its link and carries peer traffic again, so that peer windows stop failing as unmapped. -/
  | ualinkPortUp (tower port : Nat)
  /-- R401: The driver's firmware-mailbox request makes Caldera firmware set WIDLE or the pod package number. -/
  | firmwareMailboxRequest (tower kind : Nat) (value : BitVec 64)
  /-- R373: Firmware writes FCLR to clear the CFLAGS and LFLAGS summaries. -/
  | fclrWrite (tower : Nat)
  deriving DecidableEq, Repr

end Sys2Proof
end

