-- ==== Sys2Proof/Machine/State.lean ====
section
/-!
DEFINITION. The state of one whole part as plain data: threads, cores, clusters, layers, towers, physical memory, keys
and fuses, with the reset state. Agents are held in sorted sparse lists: an agent that is not listed stands at reset.
-/
namespace Sys2Proof.Machine

/-- Why the machine stops. `noSuchAgent`: raised by `step` when the schedule names a thread or a device step that the part
does not have; SAFE: there is no such agent to take a step. -/
inductive Fault where
  | noSuchAgent
  deriving DecidableEq, Repr

/-- Why a step has no meaning. `notModelled`: raised by `exec` for a row that has no meaning yet; SAFE: nothing is
claimed of it. -/
inductive Refusal where
  | notModelled (mnemonic : String)
  deriving DecidableEq, Repr

/-- Privilege level of a thread (R297). -/
inductive Level where
  | T | S
  deriving DecidableEq, Repr

/-- Occupation of a thread slot: free, holding a task, or bound by a channel-31 message without a task (R309). -/
inductive Occ where
  | free | task | message
  deriving DecidableEq, Repr

/-- How a task ends (R38, R43). -/
inductive Ending where
  | done | faulted | killed | discarded
  deriving DecidableEq, Repr

/-- The kind of checksum of a CHK part (R246). -/
inductive ChkKind where
  | none | crc | add32
  deriving DecidableEq, Repr

/-- One staging set of a thread (R245). -/
structure Staging where
  sigAddr : Word := 0
  sigVal : Word := 0
  sigBar : Word := 0
  chk : ChkKind := .none
  cont : Bool := false
  verify : Bool := false
  seed : Half := 0
  expected : Half := 0
  xf : Word := 0
  scaleAddr : Word := 0
  fill : Word := 0
  rowBytes : Word := 0
  rowPitch : Word := 0
  deriving DecidableEq, Repr

/-- The checksum chain of a thread on one queue (R264): whether a chain is open to further members at issue, the running
value and pending bytes that completed members left, and their bound destinations (R259): the first one's start and the
hull [lo, hi). -/
structure Chain where
  open_ : Option ChkKind := none
  kind : ChkKind := .none
  running : Half := 0
  pending : List Byte := []
  bound : Option (Word × Nat × Nat) := none
  deriving DecidableEq, Repr

/-- A rewound or streaming range of a channel: [lo, hi) of the destination's addresses (R258, R259). -/
structure Range where
  lo : Nat
  hi : Nat
  deriving DecidableEq, Repr

/-- The data commands and the fence entry of an engine queue (R246). -/
inductive CmdKind where
  | cpy | cpyt | gath | scat | qfence
  deriving DecidableEq, Repr

/-- One entry of an engine queue: what the command read at issue, and how far it has come (R244, R248). The command moves
`units` in payload order; `pos` of them are performed. `len` is CPY's length or the length of a written element or row, `span`
the destination's length in bytes. `srcPos` and `outPos` are the offsets of the next Haar image, `srcRead` the source bytes
read, `payload` the bytes of the checksum, `paid` their number. `held` keeps what an overlapping copy has overwritten, by
address. `seen` are the source bytes of class D pages, `fetched` how many words of the source have been looked through for them;
`late` are bytes that wait to be written to class D pages (R223). `out` gathers bytes for the stack-broadcast region, by address,
until the beats go out (`emitted`); `beats` of them have not passed. `noSig` says that the completion word could not be written. -/
structure EngCmd where
  kind : CmdKind
  core : Nat
  slot : Nat
  taskid : Word
  asn : Nat
  lvs : Bool := false
  launch : Option Nat := none
  dst : Word := 0
  src : Word := 0
  len : Nat := 0
  span : Nat := 0
  layout : List Half := []
  dims : Nat := 0
  index : List Nat := []
  nofill : Bool := false
  wm : Bool := false
  st : Staging := {}
  mask : BitVec 8 := 0
  stamp : Nat := 0
  units : Nat := 0
  pos : Nat := 0
  srcPos : Nat := 0
  outPos : Nat := 0
  srcRead : Nat := 0
  paid : Nat := 0
  payload : List Byte := []
  held : List (Nat × Byte) := []
  fetched : Nat := 0
  seen : List (Nat × Byte) := []
  late : List (Nat × Byte) := []
  out : List (Nat × Byte) := []
  emitted : Bool := false
  beats : Nat := 0
  error : Option Word := none
  paused : Bool := false
  noSig : Bool := false
  flip : Option (Nat × Nat) := none
  deriving DecidableEq, Repr

/-- A task as Lahar knows it: its launch slot, its task record (R16), what was reserved for it (R15, R17), and the channel that it was
bound from (R18). -/
structure TaskInfo where
  launch : Nat
  index : Nat
  words : List Word
  queue : Nat
  level : Nat
  asn : Nat
  groups : Nat
  tiles : Nat
  pbase : Nat := 0
  psize : Nat
  savep : Word
  lease : Nat
  stamp : Nat
  join : Word
  chan : Option Nat := none
  deriving DecidableEq, Repr

/-- A message of 64 bytes for a core's inbox: with the task it starts when it is a task record (R16, R19), the context it
resumes, or the bind stamp of the task that a pre-emption names (R308). -/
structure Msg where
  chan : Nat
  words : List Word
  task : Option TaskInfo := none
  ctx : Option Nat := none
  target : Option Nat := none
  deriving DecidableEq, Repr

/-- A reservation that Lahar holds on a core for a record or a resume message not yet bound (R15, R17). After a pre-emption `queue` names
the queue whose head it waits for, and `head` that head's launch and task index (R35). -/
structure Resv where
  slot : Option Nat
  groups : Nat
  tiles : Nat
  pbase : Nat
  psize : Nat
  queue : Option Nat := none
  head : Option (Nat × Nat) := none
  deriving DecidableEq, Repr

/-- A page fault of a thread: its address, direction, stream and walk result (R303, R387); `vamo` marks an ordered VAMO
element, whose failed answer traps with cause 0x0D (R165). -/
structure FaultRef where
  va : Nat
  write : Bool
  strm : Nat
  kind : Nat
  level : Nat
  entry : Word
  vamo : Bool := false
  deriving DecidableEq, Repr

/-- The updates of a join object (R38) or of a refused record's join object (R12), in order: `zero` writes 0 to the
counter, `status` is ORed into the status word, `fail` is the TASKID for the first-failure word, `dec` is subtracted from the
counter. `stage` is the next update; `regs` are barrier registrations, with their core, that withdraw before the updates, and `retire`
names a launch slot and how many of its tasks count as retired after them (R43). `waiting` says that its page fault is not answered, or that the layer `power` has no power
for it (R296). -/
structure JoinOp where
  asn : Nat
  addr : Word
  status : Word := 0
  fail : Option Word := none
  dec : Nat := 1
  zero : Bool := false
  core : Nat := 0
  slot : Nat := 0
  taskid : Word := 0
  stage : Nat := 0
  regs : List (Nat × Nat) := []
  retire : Option (Nat × Nat) := none
  waiting : Bool := false
  power : Option Nat := none
  deriving DecidableEq, Repr

/-- What a resident thread waits for (R24). `stalled` is the wait of an instruction that runs again from its place when its turn
comes: for a watermark (R237), the limit of 16 pending writes (R293), the region (R239, R241), a layer's power (R296), SPAWN on
a full queue (R282), CKMARK's older accesses (R286), and CSAVE's waits (R316). Limits are counts of cycles; `gamo` holds the old value
once its slot has passed while the replica is still being copied (R239, R241); `retiring` holds the join updates once the waits of
DONE are over. -/
inductive Wait where
  | none
  | stalled
  | slices
  | waita (rd : BitVec 5) (addr mask val : Word) (limit : Option Nat)
  | bwait (rd : BitVec 5) (addr : Word) (token : Nat) (limit : Option Nat)
  | joinw (rd : BitVec 5) (addr : Word)
  | engineFull (queue : Nat) (cmd : EngCmd)
  | gamo (rd : BitVec 5) (old : Option Word)
  | kill (rd : BitVec 5) (count : Nat) (threads : List (Nat × Nat × Nat)) (jobs : List Nat)
  | yield (others : List Nat) (limit : Nat)
  | suspended (f : FaultRef)
  | retiring (how : Ending) (job : Option JoinOp)
  deriving DecidableEq, Repr

/-- The context has ended and its slot is being left. -/
def Wait.isRetiring : Wait → Bool
  | .retiring _ _ => true
  | _ => false

/-- A register, CSR, tile or latch named by an error (R65): the kind of R301 and the number. -/
structure RegRef where
  kind : Nat
  num : Nat
  deriving DecidableEq, Repr

/-- An error in the storage of a register, CSR, tile or latch (R65): the 32-bit lane slice of a vector or mask register, the element of
a tile or the 64-bit word of another register, with the bit in it. -/
structure RegMark where
  ref : RegRef
  word : Nat := 0
  bit : Nat := 0
  deriving DecidableEq, Repr

/-- The two classes of instructions (R23). -/
inductive IssueClass where
  | A | B
  deriving DecidableEq, Repr

/-- One thread slot of a core. `restart` is the element or slice at which an instruction goes on after a stall, or after a
page fault at level S (R303: held internally); `watchdog` is an expiry that waits for a KILL or GAMO to retire (R306). The watchdog
counter stands at `counted` cycles and, where `since` is a step, counts on from it. -/
structure Thread where
  occ : Occ := .free
  level : Level := .T
  pc : Word := 0
  cameFrom : Word := 0
  x : Vector Word 32 := Vector.replicate 32 0
  sx : Vector Word 4 := Vector.replicate 4 0
  v : Vector VReg 32 := Vector.replicate 32 0
  vtag : Vector Word 32 := Vector.replicate 32 0
  vlive : BitVec 32 := 0
  m : Vector VReg 8 := Vector.replicate 8 0
  mlive : BitVec 8 := 0
  q : Vector (BitVec 512) 16 := Vector.replicate 16 0
  h : Vector (BitVec 128) 4 := Vector.replicate 4 0
  fcsr : Word := 0
  vtype : Word := 0x28A
  vl : Word := 0
  estart : Word := 0
  sstart : Word := 0
  spset : Word := 0
  dctl : Word := 0
  vfill : Word := 0
  retired : Word := 0
  wm : Vector Word 8 := Vector.replicate 8 0
  taskid : Word := 0
  glease : Nat := 0
  ecause : Word := 0
  epc : Word := 0
  eval : Word := 0
  eval2 : Word := 0
  estat : Word := 0
  savep : Word := 0
  ctxid : Word := 0
  oclaim : Word := 0
  prio : Nat := 0
  post : Bool := false
  task : Option TaskInfo := none
  resume : Option Nat := none
  staging : Vector Staging 8 := Vector.replicate 8 {}
  chains : Vector Chain 8 := Vector.replicate 8 {}
  rewound : Vector (Option Range) 8 := Vector.replicate 8 none
  regs : List Nat := []
  wait : Wait := .none
  restart : Option Nat := none
  watchdog : Option Word := none
  counted : Nat := 0
  since : Option Nat := none
  regErr : List RegMark := []
  bindStamp : Nat := 0
  deriving DecidableEq, Repr

/-- An operand latch (R52): packed element rows as doublewords, scale codes, row map, format byte, filled count, depth. -/
structure Latch where
  data : Vector Word 32 := Vector.replicate 32 0
  scale : Vector Byte 32 := Vector.replicate 32 0
  rowMap : Vector (BitVec 5) 32 := Vector.replicate 32 0
  fmt : Byte := 8
  filled : Nat := 0
  depth : Nat := 0
  deriving DecidableEq, Repr

/-- What a slice does, with what its instruction read at issue (R167, R170): the operand elements of OPR as numbers, the
latches, groups and k-steps of OPL, the places of TST. -/
inductive SliceOp where
  | opr (bf16 z : Bool) (a b : List Nat)
  | opl (la lb n d : Nat) (z : Bool)
  | tzero
  | tld (fmt : Nat) (scaled : Bool) (codes : BitVec 512)
  | tst (base pitch : Word) (fmt : Nat) (scaled : Bool) (codes : BitVec 512)
  deriving DecidableEq, Repr

/-- One slice of a slice form (R168): its rows in ascending order, its compacted number, whether it is the last of its
instruction, the tag its tile takes when the instruction retires, and the elements that TLD read for its rows. `ka` and `kb` are
the k-steps at which OPL found its latches; `released` says that its thread has gone on to younger instructions (R169), `level` is the
level at which the thread issued the instruction. -/
structure Slice where
  slot : Nat
  acc : Nat
  op : SliceOp
  num : Nat
  rows : List Nat
  last : Bool
  tag : Word
  data : List (List Nat) := []
  ka : Nat := 0
  kb : Nat := 0
  started : Bool := false
  released : Bool := false
  level : Level := .T
  deriving DecidableEq, Repr

/-- One core. `ready` holds for each slot the class for which its thread is ready and the step since which it has been;
`lastIssued` is the slot that issued last in each class at each thread priority (R23): entry p of class A, entry 8 + p of
class B. -/
structure Core where
  threads : Vector Thread 4 := Vector.replicate 4 {}
  xb : Word := 0
  ovh : Word := 0
  evec : Word := 0
  lpart : Word := 0
  town : Word := 0
  lown : Word := 0
  bkey : Word := 0
  einj : Word := 0
  hent : Vector Word 32 := Vector.replicate 32 (1 <<< 35)
  inbox : List Msg := []
  net : List Msg := []
  lastChan : Vector (Option Nat) 8 := Vector.replicate 8 none
  chanUse : List Nat := []
  acc : Vector (Vector VReg 32) 8 := Vector.replicate 8 (Vector.replicate 32 0)
  ttag : Vector Word 8 := Vector.replicate 8 0
  latch : Vector Latch 4 := Vector.replicate 4 {}
  zeroing : List Nat := []
  unitErr : List RegMark := []
  ready : Vector (Option (IssueClass × Nat)) 4 := Vector.replicate 4 none
  lastIssued : Vector (Option Nat) 16 := Vector.replicate 16 none
  slices : List Slice := []
  resv : List Resv := []
  deriving DecidableEq, Repr

/-- One entry of a task's rewind log: the word's physical address and its old value, with the task's core and slot (R30). -/
structure LogEntry where
  core : Nat
  slot : Nat
  addr : Nat
  old : Word
  deriving DecidableEq, Repr

/-- A marked checkpoint (R286): region and log area by physical address, entries so far, FULL. -/
structure Ckpt where
  id : Nat
  base : Nat
  len : Nat
  logBase : Nat
  count : Nat := 0
  full : Bool := false
  deriving DecidableEq, Repr

/-- A cached translation (R383): address space, leaf base, leaf size and entry. -/
structure TlbEntry where
  asn : Nat
  base : Nat
  size : Nat
  leaf : Word
  deriving DecidableEq, Repr

/-- A table entry of levels 0 to 2 in the walkers' cache (R383): its address space, level and index path, and the entry. -/
structure TableEntry where
  asn : Nat
  level : Nat
  base : Nat
  size : Nat
  entry : Word
  deriving DecidableEq, Repr

/-- One cluster; `coreTlb` holds the translation cache of each of its cores (R383). -/
structure Cluster where
  queues : Vector (List EngCmd) 8 := Vector.replicate 8 []
  qsat : BitVec 8 := 0
  qnv : BitVec 8 := 0
  srcb : Vector Half 8 := Vector.replicate 8 0
  cflags : Word := 0
  log : List LogEntry := []
  ckpts : List Ckpt := []
  tlb : List TlbEntry := []
  coreTlb : Vector (List TlbEntry) 8 := Vector.replicate 8 []
  bankKey : Word := 0
  deriving DecidableEq, Repr

/-- The power state of a layer (R296); `inReset` before its bring-up and while fenced (R396). -/
inductive Season where
  | inReset | summer | autumn | winter | spring
  deriving DecidableEq, Repr

/-- One layer. `idle` is the microseconds for which it has held no work, `busy` says that it has held some since the latest one passed
(R400); `lastIssue` and `resetStep` are the steps of its latest issue and of its reset (R53, R296). -/
structure Layer where
  season : Season := .inReset
  powered : Bool := false
  springF : Nat := 0
  stale : Bool := false
  lflags : Word := 0
  fenced : Bool := false
  lpwr : BitVec 16 := 0
  duty : Nat := 0
  hold : Bool := false
  lrst : Bool := false
  sres : Vector Word 4 := Vector.replicate 4 0
  idle : Nat := 0
  busy : Bool := false
  lastIssue : Nat := 0
  resetStep : Nat := 0
  deriving DecidableEq, Repr

/-- A launch record in a queue's ring (R14, R369). -/
structure QEntry where
  record : List Word
  asn : Nat
  stamp : Nat
  parent : Option Nat := none
  accepted : Option Nat := none
  deriving DecidableEq, Repr

/-- One launch queue of a tower: its ring, its return list, its status fields, and the step since which its head
waits (R14, R35, R370). -/
structure Queue where
  ring : List QEntry := []
  returned : List TaskInfo := []
  refs : Nat := 0
  cause : Nat := 0
  ovf : Bool := false
  since : Nat := 0
  deriving DecidableEq, Repr

/-- The capture or replay of a launch (R406 to R408): where the buffer lies, its size, the bytes used, and the sequence
numbers given so far at each ordering point (kind and place). -/
structure Capture where
  replay : Bool
  base : Nat
  size : Nat
  used : Nat
  ovf : Bool := false
  seqs : List (Nat × Nat × Nat) := []
  deriving DecidableEq, Repr

/-- A live launch (R12, R372); `dispatched` counts the tasks that have been, `next` is the index from which the next one is sought,
`removed` lists the indices from there on that were killed before their dispatch (R284), `scan` is the core at which the next
placement starts (R15); `loading` says that its record has been passed to the loader (R18). -/
structure Launch where
  record : List Word
  queue : Nat
  asn : Nat
  count : Nat
  dispatched : Nat := 0
  next : Nat := 0
  retired : Nat := 0
  saved : Nat := 0
  scan : Nat := 0
  removed : List Nat := []
  loading : Bool := false
  capture : Option Capture := none
  deriving DecidableEq, Repr

/-- A work pool (R40, R372). -/
structure Pool where
  rows : Nat
  cols : Nat
  w : Nat
  cursor : Nat := 0
  launch : Option Nat := none
  deriving DecidableEq, Repr

/-- A context in the Saved state (R42, R312, R316); `code` lists where the code of its launch's object stood on its core at the save:
stub numbers with addresses, or 0 with a native object's base. -/
structure Saved where
  ctx : Nat
  info : TaskInfo
  taskid : Word
  block : Word
  core : Nat
  res : BitVec 12
  savedUnits : BitVec 12
  groups : Nat
  prio : Nat
  regs : List Nat := []
  code : List (Nat × Nat) := []
  wiped : Bool := false
  sent : Option (Nat × Nat) := none
  deriving DecidableEq, Repr

/-- A work-pool request that Lahar has accepted and not answered (R41, R285); `stamp` is the issuing task's bind stamp. -/
structure Wqry where
  core : Nat
  slot : Nat
  stamp : Nat
  addr : Nat
  launch : Nat
  deriving DecidableEq, Repr

/-- What a Geyser write does at its slot (R238, R293, R294, R266). -/
inductive GOp where
  | write (mask : BitVec 128) (data : BitVec 1024)
  | add (v : Word)
  | max (v : Word)
  | swap (v : Word)
  | cas (old new : Word)
  deriving DecidableEq, Repr

/-- A write waiting for its Geyser slot: the thread that issued it, the queue when it is a beat, its region offset. -/
structure GWrite where
  core : Nat
  slot : Nat
  engine : Option Nat
  off : Nat
  op : GOp
  rd : Option (BitVec 5) := none
  size : Nat
  deriving DecidableEq, Repr

/-- A fault record (R387) in the ring or held for a full ring, with the requester that waits for its answer. -/
inductive Requester where
  | thread (core slot : Nat)
  | engine (cluster queue stamp : Nat)
  | join (core slot : Nat)
  | lahar (job : Nat)
  deriving DecidableEq, Repr

/-- A fault record and its requester (R386, R387). -/
structure FaultRec where
  w0 : Word
  w1 : Word
  w2 : Word
  w3 : Word
  who : Requester
  seq : Nat
  answered : Bool := false
  deriving DecidableEq, Repr

/-- The entry of one boot step in the record (R397). -/
structure BootEntry where
  beg : Half := 0
  btime : Half := 0
  endb : Half := 0
  fail : Bool := false
  path : Nat := 0
  detail : Word := 0
  deriving DecidableEq, Repr

/-- The boot step record (R397), kept in always-on SRAM and package flash. -/
structure BootRecord where
  boot : Half := 0
  last : Nat := 0
  up : Bool := false
  retry : Bool := false
  steps : Vector BootEntry 20 := Vector.replicate 20 {}
  deriving DecidableEq, Repr

/-- A machine-check record (R403). -/
structure MCheck where
  seq : Nat
  src : Nat
  coreid : Nat
  slot : Nat
  addr : Word
  taskid : Word
  aux : Word
  deriving DecidableEq, Repr

/-- A relocation record with its symbol resolved (R350): the offset in its section, the type, the symbol's address as linked,
whether it lies in the text, its function's index, its pool's id, and the addend. -/
structure Reloc where
  off : Nat
  kind : Nat
  sym : Word
  inText : Bool
  isFunc : Bool
  func : Option Nat
  pool : Option Nat
  addend : Word
  deriving DecidableEq, Repr

/-- One function of a portable object (R331): its relocation records resolved and as stored, whether they are malformed, its stub number,
its place in the tower's heap, the cores that hold it there, and the step of its latest use (R341). -/
structure Func where
  off : Nat
  size : Nat
  entry : Bool
  uses : Word
  relocs : List Reloc
  stored : List Byte := []
  bad : Bool := false
  stub : Nat
  place : Option Nat := none
  cores : List Nat := []
  lastUse : Nat := 0
  deriving DecidableEq, Repr

/-- An admitted code object (R329 to R332, R348, R349): `text` as linked or, of a native object, as patched for its place
`base`; `clus` and `data` its further sections, by address; `cores` and `clusters` where text and `.clus.` sections stand, and `spaces`
the address spaces whose global memory holds its data. -/
structure CodeObj where
  id : Nat
  portable : Bool
  sver : Nat := 0
  signed : Bool := false
  need : Word := 0
  text : List Byte := []
  base : Nat := 0
  funcs : List Func := []
  clus : List (Nat × List Byte) := []
  data : List (Nat × List Byte) := []
  cores : List Nat := []
  clusters : List Nat := []
  spaces : List Nat := []
  purged : Bool := false
  deriving DecidableEq, Repr

/-- An entry of the translation cache (R339): its key, the object of the function, and the native words before their patches. -/
structure Cached where
  key : BitVec 256
  obj : Nat
  code : List Byte
  deriving DecidableEq, Repr

/-- A stub-miss request to the translator (R335): who asked, for which stub, and the launch of its task. -/
structure TransReq where
  core : Nat
  slot : Nat
  stub : Nat
  taskid : Word
  launch : Option Nat
  deriving DecidableEq, Repr

/-- What the part remembers of a capture that it made, by its buffer: the fields of the record that a replay must repeat, and in their
order the slots in which tasks bound, as index, core and slot (R408; log 58). -/
structure Captured where
  buffer : Word
  fields : List Word
  slots : List (Nat × Nat × Nat) := []
  deriving DecidableEq, Repr

/-- One tower: Lahar, the Geyser channel, the walkers' control block, the fault queue, the boot record, telemetry, the loader and the
translator. `preempts` lists the pre-emptions under way: the queue, core and slot, and the waiting head's launch and index. `held` are
the enqueues of a freeze, with address space and arrival, and `heldResets` the layer resets that it keeps waiting (R374). `maps` are the
words of the translator's address maps that firmware has written (R372). -/
structure Tower where
  queues : Vector Queue 64 := Vector.replicate 64 {}
  staged : Vector (Vector Word 16) 64 := Vector.replicate 64 (Vector.replicate 16 0)
  held : List (Nat × Nat × Nat × List Word) := []
  heldResets : List Nat := []
  age : Vector Nat 8 := Vector.replicate 8 0
  rr : Vector Nat 8 := Vector.replicate 8 7
  launches : List (Nat × Launch) := []
  pools : List (Nat × Pool) := []
  binding : List ((Nat × Nat × Nat × Nat) × Nat) := []
  forwarded : List (Nat × QEntry) := []
  captured : List Captured := []
  saved : List Saved := []
  wqry : List Wqry := []
  frame : Nat := 0
  gslot : Nat := 0
  leases : List (Nat × Nat × Nat) := []
  gpend : List GWrite := []
  regionPoison : Bool := false
  wdog : Nat := 0
  chb : Nat := 0x10
  stbn : Nat := 4
  pdly : Nat := 0
  lfrz : Bool := false
  snapc : Nat := 0
  snapGo : Bool := false
  aperr : Bool := false
  injen : Bool := false
  fqtail : Nat := 0
  fqhead : Nat := 0
  fseq : Nat := 0
  faults : List (Nat × FaultRec) := []
  heldFaults : List FaultRec := []
  tables : List TableEntry := []
  tinv : Option (Nat × Nat × Nat) := none
  tlost : Bool := false
  ksel : Nat := 0
  kop : Option (Nat × Option (BitVec 512)) := none
  kstamp : Nat := 0
  key : BitVec 512 := 0
  bretry : Bool := false
  qas : Vector Nat 64 := Vector.replicate 64 0
  hkey : List (Nat × Nat) := []
  asd : List (Nat × Word) := []
  peers : List (Nat × Nat × Nat) := []
  ports : BitVec 4 := 0
  boot : BootRecord := {}
  bootStep : Nat := 0
  otherPresent : Bool := false
  snap : List Host.Cell := []
  tpwr : Nat := 0
  widle : Nat := 1000
  psteps : List (Nat × Nat) := []
  plow : Nat := 0
  counters : Vector Word 9 := Vector.replicate 9 0
  mchecks : List MCheck := []
  mseq : Nat := 0
  preempts : List (Nat × Nat × Nat × Nat × Nat) := []
  jobs : List (Nat × JoinOp) := []
  nextJob : Nat := 0
  objects : List CodeObj := []
  reclaim : List (Nat × Nat × List Nat) := []
  requests : List TransReq := []
  translations : List Cached := []
  maps : List (Nat × Word) := []
  coldStubs : List Nat := []
  deriving DecidableEq, Repr

/-- Class and presence of a core that differs from a present class F core, as the bring-up of its layer found them (R399, R372). -/
structure Harvest where
  cls : Nat
  present : Bool
  deriving DecidableEq, Repr

/-- What is defective in a core: its outer-product array, groups 0 and 1 of its lanes, groups 2 and 3 (R399). -/
structure Defect where
  array : Bool := false
  lowLanes : Bool := false
  highLanes : Bool := false
  deriving DecidableEq, Repr

/-- An error that storage suffers (R65, R402): a flipped bit of a register of a slot, of a tile or latch of a core; a corrected
or uncorrectable error in an ECC unit of memory, in a layer's replica, in the base mirror, in a Caldera die's SRAM. -/
inductive Upset where
  | register (core slot : Nat) (mark : RegMark)
  | unit (core : Nat) (mark : RegMark)
  | memory (addr : Nat) (uncorrectable : Bool)
  | replica (layer off : Nat) (uncorrectable : Bool)
  | mirror (tower off : Nat) (uncorrectable : Bool)
  | caldera (tower off : Nat) (uncorrectable : Bool)
  deriving DecidableEq, Repr

/-- A turn of the schedule: a core picks a thread for one class among those of its slots whose operands are available (R23), one
device step happens, or storage suffers an error. -/
inductive Turn where
  | port (core : Nat) (cls : IssueClass) (available : List Nat)
  | event (i : Instr)
  | upset (u : Upset)
  deriving DecidableEq, Repr

/-- The whole part, with the model's own fields `agenda`, `cur`, `curSlot` (whose turn it is), `steps` (a counter, the
argument of the free values) and `hostReply` (what the latest host access returned; none for a completer abort). -/
structure State where
  cores : List (Nat × Core) := []
  clusters : List (Nat × Cluster) := []
  layers : List (Nat × Layer) := []
  towers : List (Nat × Tower) := []
  mem : List Host.Cell := []
  fresh : List (Nat × Nat × Nat) := []
  poison : List Nat := []
  keys : List (Nat × BitVec 512) := []
  key0 : Nat := 0
  blockKey : List (Nat × KeyVal) := []
  hostTouched : List Nat := []
  harvest : List (Nat × Harvest) := []
  defects : List (Nat × Defect) := []
  fuses : Nat := 0
  rootHash : BitVec 256 := 0
  pkg : Nat := 0
  msix : List (Nat × Nat) := []
  hostReply : Option (List Byte) := none
  agenda : List Turn := []
  cur : Nat := 0
  curSlot : Fin 4 := 0
  steps : Nat := 0
  deriving DecidableEq, Repr

/-- The part right after a package reset: every agent at its reset values, memory with nothing listed. -/
def State.reset : State := {}

end Sys2Proof.Machine
end

