-- ==== Sys2Proof/Machine/Store.lean ====
section
/-!
DEFINITION. Containers and byte memory: sorted sparse maps, the canonical list of memory cells, the intervals whose
bytes are undefined since a task's entry, little-endian conversion of bytes, and bit fields.
-/
namespace Sys2Proof.Machine

/-- Bits lo to lo + n - 1 of a word, as a number. -/
def fld {w : Nat} (v : BitVec w) (lo n : Nat) : Nat := (v.toNat >>> lo) % 2 ^ n

/-- Bit i of a word. -/
def bit {w : Nat} (v : BitVec w) (i : Nat) : Bool := v.getLsbD i

/-- v with bits lo to lo + n - 1 replaced by the low bits of x. -/
def putFld {w : Nat} (v : BitVec w) (lo n x : Nat) : BitVec w :=
  (v &&& ~~~ ((BitVec.ofNat w (2 ^ n - 1)) <<< lo)) ||| (BitVec.ofNat w (x % 2 ^ n) <<< lo)

/-- v with bit i set to b. -/
def putBit {w : Nat} (v : BitVec w) (i : Nat) (b : Bool) : BitVec w := putFld v i 1 (if b then 1 else 0)

/-- The value a sorted map holds for a key. -/
def look {α : Type} : List (Nat × α) → Nat → Option α
  | [], _ => none
  | (k, v) :: r, n => if k = n then some v else look r n

/-- The map with the key bound to the value, keys rising. -/
def put {α : Type} : List (Nat × α) → Nat → α → List (Nat × α)
  | [], n, v => [(n, v)]
  | (k, w) :: r, n, v =>
    if k = n then (n, v) :: r else if n < k then (n, v) :: (k, w) :: r else (k, w) :: put r n v

/-- The map without the key. -/
def drop {α : Type} (m : List (Nat × α)) (n : Nat) : List (Nat × α) := m.filter fun p => p.1 != n

/-- What a byte that is not listed reads as (R376: cleared memory; log 4 for host and peer memory). -/
def unlisted : Byte := 0

/-- The byte at an address. -/
def memGet : List Host.Cell → Nat → Byte
  | [], _ => unlisted
  | (b, v) :: r, a => if b = a then v else if a < b then unlisted else memGet r a

/-- The memory with one byte written, in canonical form. -/
def memPut : List Host.Cell → Nat → Byte → List Host.Cell
  | [], a, v => if v = unlisted then [] else [(a, v)]
  | (b, w) :: r, a, v =>
    if b = a then (if v = unlisted then r else (a, v) :: r)
    else if a < b then (if v = unlisted then (b, w) :: r else (a, v) :: (b, w) :: r)
    else (b, w) :: memPut r a v

/-- Canonical form: addresses strictly rising, no entry equal to what an unlisted address reads as. -/
def Memory.wf : List Host.Cell → Bool
  | [] => true
  | (a, v) :: r => (v != unlisted) && (match r with | [] => true | (b, _) :: _ => decide (a < b)) && Memory.wf r

/-- The stamp of the undefined interval that holds an address. -/
def freshAt : List (Nat × Nat × Nat) → Nat → Option Nat
  | [], _ => none
  | (lo, len, st) :: r, a => if lo ≤ a ∧ a < lo + len then some st else freshAt r a

/-- The undefined intervals after a byte has been written. -/
def freshCut : List (Nat × Nat × Nat) → Nat → List (Nat × Nat × Nat)
  | [], _ => []
  | (lo, len, st) :: r, a =>
    if lo ≤ a ∧ a < lo + len then (lo, a - lo, st) :: (a + 1, lo + len - (a + 1), st) :: freshCut r a
    else (lo, len, st) :: freshCut r a

/-- The byte a location holds, by physical address. -/
def State.byte (s : State) (a : Nat) : Byte :=
  match freshAt s.fresh a with
  | some st => Config.entryByte st a
  | none => memGet s.mem a

/-- One byte written to a location. -/
def State.setByte (s : State) (a : Nat) (v : Byte) : State :=
  { s with mem := memPut s.mem a v, fresh := freshCut s.fresh a }

/-- n bytes from a physical address upward. -/
def State.bytes (s : State) (a n : Nat) : List Byte := (List.range n).map fun i => s.byte (a + i)

/-- Bytes written from a physical address upward. -/
def State.setBytes (s : State) (a : Nat) : List Byte → State
  | [] => s
  | v :: r => (s.setByte a v).setBytes (a + 1) r

/-- The number that little-endian bytes give (R6). -/
def leNat : List Byte → Nat
  | [] => 0
  | b :: r => b.toNat + 256 * leNat r

/-- The low n bytes of a number, little-endian (R6). -/
def leBytes : Nat → Nat → List Byte
  | 0, _ => []
  | n + 1, v => BitVec.ofNat 8 v :: leBytes n (v / 256)

/-- The little-endian doubleword at a physical address. -/
def State.dword (s : State) (a : Nat) : Word := BitVec.ofNat 64 (leNat (s.bytes a 8))

/-- A doubleword written at a physical address. -/
def State.setDword (s : State) (a : Nat) (v : Word) : State := s.setBytes a (leBytes 8 v.toNat)

/-- The naturally aligned groups of u that a range of n bytes at a touches. -/
def unitsOf (a n u : Nat) : List Nat :=
  if n = 0 then [] else (List.range ((a + n - 1) / u - a / u + 1)).map fun i => (a / u + i) * u

end Sys2Proof.Machine
end

