-- ==== Sys2Proof/Machine/Ops.lean ====
section
/-!
DEFINITION. Operations over agents and registers: access to cores, clusters, layers and towers, the register files with
their hard-wired and banked registers, the lane partition, flags, taking a trap and returning from one.
-/
namespace Sys2Proof.Machine

/-! ### Agents and positions -/

/-- The part holds 2 towers of 8 layers of 20 clusters of 8 cores (R2): core ((t × 8 + l) × 20 + c) × 8 + k. -/
def coreCount : Nat := 2560
def clusterOf (n : Nat) : Nat := n / 8
def layerOf (n : Nat) : Nat := n / 160
def towerOf (n : Nat) : Nat := n / 1280
/-- Cluster within its layer, and core within its cluster. -/
def cluIdx (n : Nat) : Nat := n / 8 % 20
def coreIdx (n : Nat) : Nat := n % 8
/-- COREID [11:0] of a core (R57). -/
def coreId (n : Nat) : Nat := towerOf n + 2 * (layerOf n % 8) + 16 * cluIdx n + 512 * coreIdx n
/-- The core that a COREID [11:0] names. -/
def coreOfId (id : Nat) : Nat := ((id % 2 * 8 + id / 2 % 8) * 20 + id / 16 % 32) * 8 + id / 512 % 8

def State.core (s : State) (n : Nat) : Core := (look s.cores n).getD {}
def State.putCore (s : State) (n : Nat) (c : Core) : State := { s with cores := put s.cores n c }
def State.cluster (s : State) (n : Nat) : Cluster := (look s.clusters n).getD {}
def State.putCluster (s : State) (n : Nat) (c : Cluster) : State := { s with clusters := put s.clusters n c }
def State.layer (s : State) (n : Nat) : Layer := (look s.layers n).getD {}
def State.putLayer (s : State) (n : Nat) (l : Layer) : State := { s with layers := put s.layers n l }
def State.tower (s : State) (n : Nat) : Tower := (look s.towers n).getD {}
def State.putTower (s : State) (n : Nat) (t : Tower) : State := { s with towers := put s.towers n t }
def State.modCore (s : State) (n : Nat) (f : Core → Core) : State := s.putCore n (f (s.core n))
def State.modCluster (s : State) (n : Nat) (f : Cluster → Cluster) : State := s.putCluster n (f (s.cluster n))
def State.modLayer (s : State) (n : Nat) (f : Layer → Layer) : State := s.putLayer n (f (s.layer n))
def State.modTower (s : State) (n : Nat) (f : Tower → Tower) : State := s.putTower n (f (s.tower n))

/-- Thread slot k of core n. -/
def State.thread (s : State) (n k : Nat) : Thread := (s.core n).threads.getD k {}
def State.putThread (s : State) (n k : Nat) (t : Thread) : State :=
  s.modCore n fun c => { c with threads := c.threads.setIfInBounds k t }
def State.modThread (s : State) (n k : Nat) (f : Thread → Thread) : State := s.putThread n k (f (s.thread n k))

/-- The thread whose turn it is, its core, cluster, layer and tower. -/
def State.me (s : State) : Thread := s.thread s.cur s.curSlot
def State.putMe (s : State) (t : Thread) : State := s.putThread s.cur s.curSlot t
def State.modMe (s : State) (f : Thread → Thread) : State := s.putMe (f s.me)
def State.myCore (s : State) : Core := s.core s.cur
def State.modMyCore (s : State) (f : Core → Core) : State := s.modCore s.cur f
def State.myCluster (s : State) : Cluster := s.cluster (clusterOf s.cur)
def State.myTower (s : State) : Tower := s.tower (towerOf s.cur)

/-- The state with another thread current: for device steps that act in a thread. -/
def State.as (s : State) (n k : Nat) : State := { s with cur := n, curSlot := Fin.ofNat 4 k }
/-- f done as thread k of core n, the current thread restored. -/
def State.within (s : State) (n k : Nat) (f : State → State) : State :=
  { f (s.as n k) with cur := s.cur, curSlot := s.curSlot }

/-- Capability class of a core: 0 F, 1 M, 2 V, 3 S (R57, R399). -/
def State.clsOf (s : State) (n : Nat) : Nat := ((look s.harvest n).map Harvest.cls).getD 0
/-- The core is present: not harvested, and its layer not fenced (R372, R396). -/
def State.present (s : State) (n : Nat) : Bool :=
  ((look s.harvest n).map Harvest.present).getD true && !(s.layer (layerOf n)).fenced && decide (n < coreCount)
/-- Class F and M cores have the array; class F and V cores have four lane groups (R25, R57). -/
def State.hasArray (s : State) (n : Nat) : Bool := s.clsOf n ≤ 1
def State.groupMask (s : State) (n : Nat) : Nat := if s.clsOf n = 1 ∨ s.clsOf n = 3 then 3 else 15

/-! ### Scalar, vector and mask registers -/

/-- x[r]: x0 reads as zero (R45); at level S, x28 to x31 are the S bank (R298). -/
def Thread.getX (t : Thread) (r : BitVec 5) : Word :=
  if r = 0 then 0
  else if t.level = .S ∧ 28 ≤ r.toNat then t.sx.getD (r.toNat - 28) 0
  else t.x.getD r.toNat 0

/-- Writes x[r]; a write to x0 is discarded (R45, R298). The write replaces the register's storage, errors included (R65, log 47);
the S bank of x28 to x31 bears error marks of its own, as registers 32 to 35. -/
def Thread.setX (t : Thread) (r : BitVec 5) (v : Word) : Thread :=
  if r = 0 then t
  else if t.level = .S ∧ 28 ≤ r.toNat then
    { t with sx := t.sx.setIfInBounds (r.toNat - 28) v, regErr := t.regErr.filter (·.ref ≠ ⟨2, r.toNat + 4⟩) }
  else { t with x := t.x.setIfInBounds r.toNat v, regErr := t.regErr.filter (·.ref ≠ ⟨2, r.toNat⟩) }

def State.x (s : State) (r : BitVec 5) : Word := s.me.getX r
def State.setX (s : State) (r : BitVec 5) (v : Word) : State := s.modMe (·.setX r v)

/-- The contents of vector register n; a released one reads as zero (R64), since release clears it. -/
def Thread.getV (t : Thread) (n : Nat) : VReg := t.v.getD n 0
/-- A vector register written: it becomes live (R64). -/
def Thread.setV (t : Thread) (n : Nat) (v : VReg) : Thread :=
  { t with v := t.v.setIfInBounds n v, vlive := t.vlive ||| (1 <<< n), regErr := t.regErr.filter (·.ref ≠ ⟨0, n⟩) }
/-- The w bits from `pos` on of a vector register written: errors of its other bits stay (R65). -/
def Thread.setVBits (t : Thread) (n pos w : Nat) (v : VReg) : Thread :=
  { t with v := t.v.setIfInBounds n v, vlive := t.vlive ||| (1 <<< n)
           regErr := t.regErr.filter fun e => !(e.ref == ⟨0, n⟩ && decide (pos ≤ 32 * e.word + e.bit ∧ 32 * e.word + e.bit < pos + w)) }
def Thread.setTag (t : Thread) (n : Nat) (g : Word) : Thread := { t with vtag := t.vtag.setIfInBounds n g }
/-- Mask register n, 1 to 7; m0 is all ones (R48). -/
def Thread.getM (t : Thread) (n : Nat) : VReg := if n = 0 then BitVec.allOnes 1024 else t.m.getD n 0
def Thread.setM (t : Thread) (n : Nat) (v : VReg) : Thread :=
  { t with m := t.m.setIfInBounds n v, mlive := t.mlive ||| (1 <<< n), regErr := t.regErr.filter (·.ref ≠ ⟨1, n⟩) }
/-- One bit of a mask register written: errors of its other bits stay (R65). -/
def Thread.setMBit (t : Thread) (n pos : Nat) (b : Bool) : Thread :=
  { t with m := t.m.setIfInBounds n (putBit (t.getM n) pos b), mlive := t.mlive ||| (1 <<< n)
           regErr := t.regErr.filter fun e => !(e.ref == ⟨1, n⟩ && 32 * e.word + e.bit == pos) }
/-- Last-read release of a vector register: zero, spatial, not live (R64); its slices are not checked any more (R65). -/
def Thread.releaseV (t : Thread) (n : Nat) : Thread :=
  { t with v := t.v.setIfInBounds n 0, vtag := t.vtag.setIfInBounds n 0, vlive := t.vlive &&& ~~~((1 : BitVec 32) <<< n)
           regErr := t.regErr.filter (·.ref ≠ ⟨0, n⟩) }
def Thread.releaseM (t : Thread) (n : Nat) : Thread :=
  { t with m := t.m.setIfInBounds n 0, mlive := t.mlive &&& ~~~((1 : BitVec 8) <<< n), regErr := t.regErr.filter (·.ref ≠ ⟨1, n⟩) }
def Thread.setQ (t : Thread) (n : Nat) (v : BitVec 512) : Thread :=
  { t with q := t.q.setIfInBounds n v, regErr := t.regErr.filter (·.ref ≠ ⟨6, n⟩) }
def Thread.setH (t : Thread) (n : Nat) (v : BitVec 128) : Thread :=
  { t with h := t.h.setIfInBounds n v, regErr := t.regErr.filter (·.ref ≠ ⟨7, n⟩) }

/-! ### Lane partition (R25 to R27) -/

/-- FORCE and PENDG masks of a slot (R25). -/
def force (lp : Word) (k : Nat) : Nat := fld lp (4 * k) 4
def pendg (lp : Word) (k : Nat) : Nat := fld lp (16 + 4 * k) 4
def homeOf (lp : Word) (g : Nat) : Nat := fld lp (32 + 2 * g) 2
def lent (lp : Word) (g : Nat) : Bool := bit lp (40 + g)
def pop4 (m : Nat) : Nat := (if m.testBit 0 then 1 else 0) + (if m.testBit 1 then 1 else 0) + (if m.testBit 2 then 1 else 0) + (if m.testBit 3 then 1 else 0)
/-- The n lowest-numbered groups of mask m (R26). -/
def lowGroups (m n : Nat) : Nat :=
  ((List.range 4).foldl (fun (acc : Nat × Nat) g =>
    if m.testBit g && acc.2 < n then (acc.1 + 2 ^ g, acc.2 + 1) else acc) (0, 0)).1
/-- Groups in no slot's FORCE (R26), of those the core has (R25). -/
def unheld (all : Nat) (lp : Word) : Nat :=
  all &&& (15 ^^^ (force lp 0 ||| force lp 1 ||| force lp 2 ||| force lp 3))
def setForce (lp : Word) (k m : Nat) : Word := putFld lp (4 * k) 4 m
def setPendg (lp : Word) (k m : Nat) : Word := putFld lp (16 + 4 * k) 4 m

/-- L, the lane count of slot k of core n (R27). -/
def State.lanesOf (s : State) (n k : Nat) : Nat := 8 * pop4 (force (s.core n).lpart k)
def State.lanes (s : State) : Nat := s.lanesOf s.cur s.curSlot

/-- Registers keep the lane positions below the bound; the others read as zero (R27). -/
def Thread.keepLanes (t : Thread) (l : Nat) : Thread :=
  let keep : VReg := BitVec.ofNat 1024 (2 ^ (32 * l) - 1)
  { t with v := t.v.map (· &&& keep), m := t.m.map (· &&& keep) }

/-- LPART after bind(s, n): the slot takes the n lowest unheld groups (R26). -/
def lpBind (all : Nat) (lp : Word) (k n : Nat) : Word :=
  let f := lowGroups (unheld all lp) n
  setPendg (setForce lp k f) k f

/-- LPART after boundary(s), with r groups reserved (R26). -/
def lpBoundary (all r : Nat) (lp : Word) (k : Nat) : Word :=
  let give := force lp k &&& (15 ^^^ pendg lp k)
  let lp1 := (List.range 4).foldl (fun w g =>
    if give.testBit g then putBit (putFld w (32 + 2 * g) 2 k) (40 + g) true else w) lp
  let lp2 := setForce lp1 k (force lp k &&& pendg lp k)
  let free := unheld all lp2
  setForce lp2 k (force lp2 k ||| lowGroups (pendg lp2 k &&& free) (pop4 free - r))

/-- LPART after retire(s); `occupied` tells which slots hold a context (R26). -/
def lpRetire (occupied : Nat → Bool) (lp : Word) (k : Nat) : Word :=
  let lp1 := (List.range 4).foldl (fun w g =>
    if (force lp k).testBit g then
      let h := homeOf w g
      let w1 := if lent w g && h != k && occupied h then setPendg w h (pendg w h ||| 2 ^ g) else w
      putBit w1 (40 + g) false
    else w) lp
  let lp2 := (List.range 4).foldl (fun w g => if lent w g && homeOf w g == k then putBit w (40 + g) false else w) lp1
  setPendg (setForce lp2 k 0) k 0

/-- Groups reserved on a core for records and messages not yet bound (R26). -/
def Core.resvGroups (c : Core) : Nat := (c.resv.map Resv.groups).foldl (· + ·) 0

/-- The lane boundary of the current thread (R26, R27). -/
def State.boundary (s : State) : State :=
  let c := s.myCore
  let lp := lpBoundary (s.groupMask s.cur) c.resvGroups c.lpart s.curSlot
  let old := s.lanes
  let s1 := s.modMyCore fun c => { c with lpart := lp }
  if force lp s.curSlot = force c.lpart s.curSlot then s1 else s1.modMe (·.keepLanes (min old s1.lanes))

/-! ### Flags -/

/-- Floating-point flags in the order of FCSR [9:3]: NX, UF, OF, DZ, NV, SAT, SU (R54). -/
abbrev Flags := BitVec 7

/-- Enabled flags among those raised, in the order of FCSR [7:3] (R54, R301). -/
def enabled (fcsr : Word) (fl : Flags) : Nat := fld fcsr 10 5 &&& fld fl 0 5

/-- Flags set in FCSR of thread k of core n, and in the summaries of its cluster and layer (R54, R58). -/
def State.raiseAt (s : State) (n k : Nat) (fl : Flags) : State :=
  if fl = 0 then s else
  let w : Word := zx fl <<< 3
  ((s.modThread n k fun t => { t with fcsr := t.fcsr ||| w }).modCluster (clusterOf n) fun c =>
    { c with cflags := c.cflags ||| w }).modLayer (layerOf n) fun l => { l with lflags := l.lflags ||| w }
def State.raise (s : State) (fl : Flags) : State := s.raiseAt s.cur s.curSlot fl

/-- The current thread's FCSR takes a value; the flags it sets join the summaries as any other (R58). -/
def State.setFcsr (s : State) (v : Word) : State :=
  (s.raise (BitVec.ofNat 7 (fld (v &&& ~~~s.me.fcsr) 3 7))).modMe fun t => { t with fcsr := v }

/-! ### Machine checks and telemetry -/

/-- Telemetry counter i of R404 plus one, saturating. -/
def State.count (s : State) (tw i : Nat) : State :=
  s.modTower tw fun t =>
    let v := t.counters.getD i 0
    { t with counters := t.counters.setIfInBounds i (if v = BitVec.allOnes 64 then v else v + 1) }

/-- An MSI-X vector raised to the host (R365). -/
def State.interrupt (s : State) (vec : Nat) : State := { s with msix := (vec, s.steps) :: s.msix }

/-- A machine-check record in the tower's ring of 4,096, with its interrupt (R403). Errors of storage also count (R404). -/
def State.machineCheck (s : State) (tw src coreid slot : Nat) (addr taskid aux : Word) : State :=
  let s1 := s.modTower tw fun t =>
    { t with mseq := t.mseq + 1,
             mchecks := ((⟨t.mseq + 1, src, coreid, slot, addr, taskid, aux⟩ : MCheck) :: t.mchecks).take 4096 }
  (if src ≤ 7 then s1.count tw 3 else s1).interrupt 2

/-! ### Taking a trap and returning from one -/

/-- What a trap records (R301): cause, EVAL, EVAL2 and the ESTAT fields that the cause sets. -/
structure Trap where
  cause : Nat
  eval : Word := 0
  eval2 : Word := 0
  wr : Bool := false
  strm : Nat := 0
  fail : Bool := false
  async : Bool := false
  deriving DecidableEq, Repr

/-- ESTAT as a trap writes it (R299). -/
def estatOf (tr : Trap) (pre : Bool) : Word :=
  BitVec.ofNat 64 ((if tr.async then 2 else 0) + (if pre then 4 else 0) + (if tr.fail then 8 else 0) +
    (if tr.wr then 16 else 0) + 32 * (tr.strm % 8))

/-- The task that an error in thread k of core n affects (R403): its own, or the one whose saved context its resume message
names. -/
def State.affected (s : State) (n k : Nat) : Word :=
  let t := s.thread n k
  match t.resume.bind fun c => (s.tower (towerOf n)).saved.find? fun v => v.ctx == c && v.sent == some (n, k) with
  | some v => v.taskid
  | none => t.taskid

/-- A double fault (R300): a machine check with the second cause and its EPC; the trap CSRs keep the first trap's
values, and the slot's task is retired as faulted by TASK_RETIRE. -/
def State.doubleFault (s : State) (n k : Nat) (cause : Nat) (epc : Word) : State :=
  let t := s.thread n k
  let s1 := s.machineCheck (towerOf n) 8 (coreId n) k 0 (s.affected n k) (BitVec.ofNat 64 (cause * 2 ^ 56) ||| epc)
  s1.putThread n k { t with wait := .retiring .faulted none }

/-- Takes a trap in thread k of core n (R297): at level T the cause values and EPC are recorded, the level becomes S and
PC the entry address, OVH for an overlay fetch and EVEC otherwise (R305); at level S it is a double fault (R300). A watchdog expiry
pending at the same boundary is moot (R310): level S has no watchdog (R306). -/
def State.trapAt (s : State) (n k : Nat) (tr : Trap) : State :=
  let t := s.thread n k
  match t.level with
  | .S => s.doubleFault n k tr.cause t.pc
  | .T =>
    let entry := if tr.cause = 9 then (s.core n).ovh else (s.core n).evec
    s.putThread n k
      { t with
        ecause := BitVec.ofNat 64 tr.cause, epc := t.pc, eval := tr.eval, eval2 := tr.eval2
        estat := estatOf tr (t.occ = .task && !t.post)
        level := .S, pc := entry, cameFrom := entry - 4, wait := .none, watchdog := none }

/-- A stalled vector access is abandoned at an issue boundary: ESTART names the element at which it goes on (R142). -/
def Thread.settle (t : Thread) : Thread :=
  match t.restart with
  | some i => { t with estart := BitVec.ofNat 64 i, restart := none }
  | none => t

/-- The current thread takes a trap. -/
def State.trap (s : State) (tr : Trap) : State := s.trapAt s.cur s.curSlot tr

/-- Returns from a trap (R315): the level becomes ESTAT.PL and PC becomes EPC; nothing else changes but the count of
retired instructions and the watchdog counter, which a retirement resets (R306). -/
def State.trapReturn (s : State) : State :=
  s.modMe fun t =>
    { t with level := if bit t.estat 0 then .S else .T, pc := t.epc, cameFrom := t.epc - 4, retired := t.retired + 1
             counted := 0, since := some s.steps }

/-! ### Ends of an instruction -/

/-- The thread goes on at an address; the instruction retires, which resets the watchdog counter (R306). -/
def State.jump (s : State) (target : Word) : State :=
  s.modMe fun t => { t with cameFrom := t.pc, pc := target, retired := t.retired + 1, wait := .none
                            counted := 0, since := some s.steps }

/-- The instruction retires and the thread goes on at PC + 4; the watchdog counter is reset (R306). -/
def State.retire (s : State) : State :=
  s.modMe fun t => { t with cameFrom := t.pc, pc := t.pc + 4, retired := t.retired + 1, wait := .none
                            counted := 0, since := some s.steps }

/-- The instruction waits and runs again from its place at a later turn of the thread (R24). -/
def State.stall (s : State) : State := s.modMe fun t => { t with wait := .stalled }

/-- A step that consumes its turn: the step counter moves on. -/
def State.tick (s : State) : State := { s with steps := s.steps + 1 }

/-! ### Register errors (R65) -/

/-- The core that holds the storage of a CSR for all its slots: its own core for one that each core has, the first core of the cluster,
layer or tower for CFLAGS, LFLAGS and GFRAME; none for a CSR of each slot (R53, R59). -/
def csrHome (n csr : Nat) : Option Nat :=
  if csr = 0x050 then some (clusterOf n * 8)
  else if csr = 0x051 then some (layerOf n * 160)
  else if csr = 0x061 then some (towerOf n * 1280)
  else if (0x010 ≤ csr ∧ csr ≤ 0x017) ∨ 0x120 ≤ csr
      ∨ csr ∈ [0x022, 0x024, 0x025, 0x030, 0x100, 0x101, 0x102, 0x108, 0x109, 0x10A, 0x10D, 0x10E] then some n
  else none

/-- The core that holds the marks of a register for all its slots: tiles, latches and shared CSRs; none for a slot's own. -/
def RegRef.home (r : RegRef) (n : Nat) : Option Nat :=
  if r.kind = 4 ∨ r.kind = 5 then some n else if r.kind = 3 then csrHome n r.num else none

/-- The marks on a register that an instruction of the current thread names, where its storage stands. At level S, x28 to x31 are the S
bank (R298); released vector and mask registers are not checked. -/
def State.marksOf (s : State) (r : RegRef) : List RegMark :=
  let t := s.me
  match r.home s.cur with
  | some h => (s.core h).unitErr.filter (·.ref == r)
  | none =>
    if (r.kind = 0 ∧ bit t.vlive r.num = false) ∨ (r.kind = 1 ∧ bit t.mlive r.num = false) then []
    else if r.kind = 2 ∧ t.level = .S ∧ 28 ≤ r.num then t.regErr.filter (·.ref == ⟨2, r.num + 4⟩)
    else t.regErr.filter (·.ref == r)

/-- Whether the marks of one register are beyond repair: two lane slices of a vector or mask register, two bits of one ECC word of a
scalar register, CSR or tile, any bit of a q, h or latch. -/
def beyondRepair : List RegMark → Bool
  | [] => false
  | e :: es =>
    if e.ref.kind < 2 then es.any (·.word != e.word) || beyondRepair es
    else if e.ref.kind < 5 then (es.any fun f => f.word == e.word && f.bit != e.bit) || beyondRepair es
    else true

/-- The first register of a list that holds an uncorrectable error. -/
def State.regError (s : State) (refs : List RegRef) : Option RegRef := refs.find? fun r => beyondRepair (s.marksOf r)

/-- The marks that a read of registers rebuilds or corrects. -/
def State.softMarks (s : State) (refs : List RegRef) : List RegMark := refs.eraseDups.flatMap s.marksOf

/-- Telemetry counter i plus n. -/
def State.countBy (s : State) (tw i : Nat) : Nat → State
  | 0 => s
  | n + 1 => (s.count tw i).countBy tw i n

/-- A mark that the current thread can reach ends, where its register stands. -/
def State.endMark (s : State) (e : RegMark) : State :=
  match e.ref.home s.cur with
  | some h => s.modCore h fun c => { c with unitErr := c.unitErr.filter (· != e) }
  | none => s.modMe fun t => { t with regErr := t.regErr.filter (· != e) }

/-- The read of registers rebuilds failing slices from the XOR lane and corrects single bits; each is counted (R65, R404). -/
def State.repair (s : State) (marks : List RegMark) : State :=
  if marks.isEmpty then s
  else
    let slices := ((marks.filter (·.ref.kind < 2)).map fun e => (e.ref, e.word)).eraseDups.length
    ((marks.foldl State.endMark s).countBy (towerOf s.cur) 0 slices).countBy (towerOf s.cur) 1
      (marks.filter fun e => !decide (e.ref.kind < 2)).length

/-- The trap of cause 0x12 before any effect, with its machine check (R65, R301). -/
def State.regTrap (s : State) (r : RegRef) : State :=
  (s.machineCheck (towerOf s.cur) 1 (coreId s.cur) s.curSlot (BitVec.ofNat 64 r.num) s.me.taskid 0).trap
    { cause := 0x12, eval := BitVec.ofNat 64 r.num, eval2 := BitVec.ofNat 64 r.kind }

/-- The instruction's effect, unless a register it reads holds an uncorrectable error; errors that can be repaired are, with no other
change visible (R65). -/
def State.guard (s : State) (refs : List RegRef) (effect : State) : State :=
  match s.regError refs with
  | some r => s.regTrap r
  | none => effect.repair (s.softMarks refs)

/-- References to scalar registers. -/
def xs (rs : List (BitVec 5)) : List RegRef := rs.map fun r => ⟨2, r.toNat⟩

end Sys2Proof.Machine
end

