-- ==== Sys2Proof/Machine/Memory.lean ====
section
/-!
DEFINITION. Memory: the physical map, keys, page walks, local windows, the checks of an access in their order, loads,
stores with the rewind log and checkpoint logs, commit, page-fault suspension and the fetch of an instruction word.
-/
namespace Sys2Proof.Machine

/-! ### The physical map (R361 to R364) -/

/-- HBM lies below this physical address: 8 stacks of 64 GiB. -/
def hbmEnd : Nat := 0x8000000000
/-- SRAM apertures: tower t, unit u at + (t << 36) + (u << 32); layer number gl counts both towers. -/
def apertures : Nat := 0x100000000000
def layerAperture (gl : Nat) : Nat := apertures + gl / 8 * 0x1000000000 + gl % 8 * 0x100000000
def mirrorBase (t : Nat) : Nat := apertures + t * 0x1000000000 + 0x830000000
def peerBase : Nat := 0x400000000000
def hostBase : Nat := 0x800000000000
def physEnd : Nat := 0x1000000000000
/-- Size of the stack-broadcast region, and its offset in an aperture. -/
def regionSize : Nat := 0x2000000
def regionOff : Nat := 0x30000000
/-- Where the private scratchpad of core n stands (R362). -/
def privBase (n : Nat) : Nat := layerAperture (layerOf n) + 0x80000000 + n % 160 * 0x80000
def privSize : Nat := 0x80000
def clusterBase (gl c : Nat) : Nat := layerAperture gl + 0x40000000 + c * 0x800000

/-- What a physical address reaches (R361, R362). -/
inductive PKind where
  | hbm | onsen (gl : Nat) | replica (gl : Nat) | cluster (gl : Nat) | priv (core : Nat) | mirror (t : Nat)
  | peer (w : Nat) | host | unmapped
  deriving DecidableEq, Repr

/-- The windows of an aperture (R362). -/
def apertureKind (t u off : Nat) : PKind :=
  if u = 8 then (if regionOff ≤ off ∧ off < regionOff + regionSize then .mirror t else .unmapped)
  else if 8 < u ∨ 1 < t then .unmapped
  else if 0x10000000 ≤ off ∧ off < 0x30000000 then .onsen (t * 8 + u)
  else if regionOff ≤ off ∧ off < regionOff + regionSize then .replica (t * 8 + u)
  else if 0x40000000 ≤ off ∧ off < 0x40000000 + 20 * 0x800000 then .cluster (t * 8 + u)
  else if 0x80000000 ≤ off ∧ off < 0x80000000 + 160 * 0x80000 then .priv ((t * 8 + u) * 160 + (off - 0x80000000) / 0x80000)
  else .unmapped

/-- The physical map. -/
def physKind (a : Nat) : PKind :=
  if a < hbmEnd then .hbm
  else if apertures ≤ a ∧ a < apertures + 0x2000000000 then
    apertureKind ((a - apertures) / 0x1000000000) ((a - apertures) / 0x100000000 % 16) (a % 0x100000000)
  else if peerBase ≤ a ∧ a < hostBase then .peer ((a - peerBase) / 0x10000000000)
  else if hostBase ≤ a ∧ a < physEnd then .host
  else .unmapped

/-- The tower that holds a physical address of the package: its own HBM stacks and apertures (R361). -/
def homeTower (a : Nat) : Option Nat :=
  match physKind a with
  | .hbm => some (a / (hbmEnd / 2))
  | .onsen gl | .replica gl | .cluster gl => some (gl / 8)
  | .priv n => some (towerOf n)
  | .mirror t => some t
  | .peer _ | .host | .unmapped => none

/-- A tower runs alone: its boot has skipped the link to the other one, or the other one has stopped (R396, R398). -/
def State.alone (s : State) (tw : Nat) : Bool := decide (14 < (s.tower tw).bootStep) && !(s.tower tw).otherPresent

/-- Where a physical address is held: a peer window leads to the target package's physical address through the
descriptor (R363), while some UALink port of the tower is up (R409); none when unmapped (R364), which the other tower's memory is
to a tower that runs alone (R396). -/
def State.locate (s : State) (tw a : Nat) : Option Nat :=
  match physKind a with
  | .unmapped => none
  | .peer w =>
    if (s.tower tw).ports = 0 then none
    else match look (s.tower tw).peers w with
      | none => none
      | some (target, base) =>
        let pa := base + (a - peerBase) % 0x10000000000
        if target = s.pkg then (match physKind pa with | .unmapped | .peer _ => none | _ => some pa)
        else some ((target + 1) * physEnd + pa)
  | _ => if s.alone tw && (homeTower a).any (· != tw) then none else some a

/-! ### Keys and poison (R389, R390, R402) -/

/-- The key an id names: the random key for id 0, a loaded key, or none while unloaded (R390). -/
def State.keyOf (s : State) (kid : Nat) : Option KeyVal :=
  if kid = 0 then some (.random s.key0) else (look s.keys kid).map .loaded

/-- One byte read under a key: a block of HBM last written under another key gives that key's decryption of the stored ciphertext
(R389, R390). -/
def State.byteKey (s : State) (key : KeyVal) (a : Nat) : Byte :=
  if a < hbmEnd then
    match look s.blockKey (a / 64) with
    | some k => if k = key then s.byte a else otherKeyByte k key (a / 64) (s.bytes (a / 64 * 64) 64) (a % 64)
    | none => s.byte a
  else s.byte a

/-- n bytes read under a key. -/
def State.bytesKey (s : State) (key : KeyVal) (a n : Nat) : List Byte := (List.range n).map fun i => s.byteKey key (a + i)

/-- The block of an HBM address brought under a key: the read and merge of a partial write (R389). -/
def State.rekey (s : State) (key : KeyVal) (a : Nat) : State :=
  if a < hbmEnd then
    let b := a / 64
    match look s.blockKey b with
    | some k =>
      if k = key then s
      else { s.setBytes (b * 64) (s.bytesKey key (b * 64) 64) with blockKey := put s.blockKey b key }
    | none => { s with blockKey := put s.blockKey b key }
  else s

/-- Size of the unit that poison covers at a location (R402): 64 bytes in HBM, 8 elsewhere. -/
def poisonUnit (a : Nat) : Nat := if a < hbmEnd then 64 else 8

/-- A range touches a poisoned unit. -/
def State.poisoned (s : State) (a n : Nat) : Bool :=
  !s.poison.isEmpty && (unitsOf a n (poisonUnit a)).any fun u => s.poison.contains u

/-- A read fails: it touches a poisoned unit, or a poisoned region through any replica or the base mirror (R402). -/
def State.unreadable (s : State) (a n : Nat) : Bool :=
  s.poisoned a n || (match physKind a with
    | .replica gl => (s.tower (gl / 8)).regionPoison
    | .mirror t => (s.tower t).regionPoison
    | _ => false)

/-- Bytes written at a location under a key; a unit wholly written is no longer poisoned (R402). -/
def State.write (s : State) (key : KeyVal) (a : Nat) (bs : List Byte) : State :=
  let s1 := (unitsOf a bs.length 64).foldl (fun st u => st.rekey key u) s
  let u := poisonUnit a
  let s2 := s1.setBytes a bs
  if s.poison.isEmpty then s2
  else { s2 with poison := s2.poison.filter fun p => !(a ≤ p && p + u ≤ a + bs.length) }

/-- A doubleword of a scratchpad or Onsen written as a whole: it is no longer poisoned (R402). -/
def State.putWord (s : State) (a : Nat) (v : Word) : State :=
  { s.setDword a v with poison := s.poison.filter (· != a) }

/-- Doubleword of an object in a scratchpad or Onsen. -/
def State.objWord (s : State) (a : Nat) : Word := s.dword a
def State.setObjWord (s : State) (a : Nat) (v : Word) : State := s.write (.random 0) a (leBytes 8 v.toNat)

/-! ### Page walks (R380 to R383) -/

/-- A walk ends with a leaf, or with no translation: KIND, level and entry of R387. -/
inductive Walk where
  | leaf (e : TlbEntry)
  | fail (kind level : Nat) (entry : Word)
  deriving DecidableEq, Repr

/-- The base address of an entry (R381). -/
def ptePA (e : Word) : Nat := fld e 8 40 * 256
def inHost (a : Nat) : Bool := decide (hostBase ≤ a ∧ a < physEnd)
def inHbm (a : Nat) : Bool := decide (a < hbmEnd)

/-- A leaf range that reaches private scratchpads, or a Caldera aperture other than its mirror (R382). -/
def leafForbidden (base size : Nat) : Bool :=
  if apertures ≤ base ∧ base < apertures + 0x2000000000 then
    let u := (base - apertures) / 0x100000000 % 16
    let off := base % 0x100000000
    if u = 8 then !(regionOff ≤ off && off + size ≤ regionOff + regionSize)
    else decide (u < 8) && decide (0x80000000 < off + size)
  else false

/-- The malformed-entry conditions of R382. -/
def State.malformed (s : State) (e : Word) (level shift : Nat) : Bool :=
  let pa := ptePA e
  let table := bit e 1
  fld e 58 6 != 0
  || (if table then
        fld e 2 6 != 0 || fld e 48 10 != 0 || level == 3 || !(inHbm pa || inHost pa)
          || pa % (if level = 2 then 256 else 4096) != 0
      else
        level == 0 || pa % 2 ^ shift != 0 || (bit e 5 && bit e 7) || (bit e 6 && !inHost pa)
          || (fld e 48 10 != 0 && (!inHbm pa || (s.keyOf (fld e 48 10)).isNone))
          || leafForbidden pa (2 ^ shift))

/-- One entry of a table read from memory: valid and well formed, or why the walk ends there. -/
def State.tableEntry (s : State) (tw wkey va : Nat) (l : Nat × Nat × Nat) (table : Nat) : Word ⊕ Walk :=
  let (level, shift, width) := l
  let a := table + 8 * (va / 2 ^ shift % 2 ^ width)
  match s.locate tw a, s.keyOf (if a < hbmEnd then wkey else 0) with
  | some p, some key =>
    if s.poisoned p 8 then .inr (.fail 2 level 0)
    else
      let e : Word := BitVec.ofNat 64 (leNat (s.bytesKey key p 8))
      if !bit e 0 then .inr (.fail 0 level e) else if s.malformed e level shift then .inr (.fail 1 level e) else .inl e
  | _, _ => .inr (.fail 2 level 0)

/-- The walk from a table downward through the given levels, each with its number, index position and index width. An entry that the
walkers' cache holds is taken from there (R383); the table entries of levels 0 to 2 that the walk reads are answered beside
its end, youngest first. -/
def State.walkFrom (s : State) (tw asn wkey va : Nat) (cached : List TableEntry) :
    List (Nat × Nat × Nat) → Nat → Walk × List TableEntry
  | [], _ => (.fail 1 3 0, [])
  | (level, shift, width) :: rest, table =>
    let base := va / 2 ^ shift * 2 ^ shift
    let hit := cached.find? fun t => t.asn == asn && t.level == level && t.base == base
    let entry : Word ⊕ Walk := match hit with
      | some t => .inl t.entry
      | none => s.tableEntry tw wkey va (level, shift, width) table
    match entry with
    | .inr w => (w, [])
    | .inl e =>
      let read : List TableEntry := if hit.isSome || level == 3 then [] else [⟨asn, level, base, 2 ^ shift, e⟩]
      if bit e 1 then
        let (w, more) := s.walkFrom tw asn wkey va cached rest (ptePA e)
        (w, more ++ read)
      else (.leaf { asn := asn, base := base, size := 2 ^ shift, leaf := e }, read)

/-- The four levels of R380. -/
def walkLevels : List (Nat × Nat × Nat) := [(0, 39, 13), (1, 30, 9), (2, 21, 9), (3, 16, 5)]

/-- The walk of an address space's tables with a cache of table entries (R379, R380). -/
def State.walkWith (s : State) (tw asn va : Nat) (cached : List TableEntry) : Walk × List TableEntry :=
  let d := (look (s.tower tw).asd asn).getD 0
  let root := fld d 16 32 * 65536
  if bit d 0 && (inHbm root || inHost root) then s.walkFrom tw asn (fld d 48 10) va cached walkLevels root
  else (.fail 3 0 0, [])

/-- The walk of an address space's tables as memory holds them (R379, R380). -/
def State.walk (s : State) (tw asn va : Nat) : Walk := (s.walkWith tw asn va []).1

/-- The cached leaf of an address space that spans an address. -/
def tlbHit (tlb : List TlbEntry) (asn va : Nat) : Option TlbEntry :=
  tlb.find? fun e => e.asn == asn && e.base ≤ va && va < e.base + e.size

/-- Translation by the cache of a cluster, else by a walker: the tower's walkers keep the table entries that the walk read, the
cluster its leaf (R383). A full cache loses its oldest entry, the model's choice (log 33). -/
def State.xlate (s : State) (cl asn va : Nat) : Walk × State :=
  match tlbHit (s.cluster cl).tlb asn va with
  | some e => (.leaf e, s)
  | none =>
    let (w, read) := s.walkWith (cl / 160) asn va (s.tower (cl / 160)).tables
    let s1 := if read.isEmpty then s
      else s.modTower (cl / 160) fun t => { t with tables := (read ++ t.tables).take 512 }
    match w with
    | .leaf e => (.leaf e, s1.modCluster cl fun c => { c with tlb := (e :: c.tlb).take 2048 })
    | w => (w, s1)

/-- Translation for a thread of a core: by the core's cache of 64, else by its cluster's, whose answer the core then keeps (R383). -/
def State.coreXlate (s : State) (n asn va : Nat) : Walk × State :=
  match tlbHit ((s.cluster (clusterOf n)).coreTlb.getD (n % 8) []) asn va with
  | some e => (.leaf e, s)
  | none =>
    match s.xlate (clusterOf n) asn va with
    | (.leaf e, s1) =>
      (.leaf e, s1.modCluster (clusterOf n) fun c =>
        { c with coreTlb := c.coreTlb.setIfInBounds (n % 8) ((e :: c.coreTlb.getD (n % 8) []).take 64) })
    | r => r

/-! ### Places of an access -/

/-- The windows of R220, the core window of R249, and global pages (R221). -/
inductive Window where
  | priv | clus | onsen | region | other | coreWin | glob
  deriving DecidableEq, Repr

/-- Where an access lands: its window, where the byte is held, the key, the page's D and SA bits, and whether the location takes no
write (R362). -/
structure Place where
  win : Window
  addr : Nat
  key : KeyVal := .random 0
  dcls : Bool := false
  sa : Bool := false
  ro : Bool := false
  core : Nat := 0
  deriving DecidableEq, Repr

/-- A location of an aperture that takes no write: a replica or a base mirror, of this package or of a peer, and a private scratchpad of
this package below its XB (R362). -/
def State.readOnly (s : State) (a : Nat) : Bool :=
  match physKind (a % physEnd) with
  | .replica _ | .mirror _ => true
  | .priv n => decide (a < privBase n + (s.core n).xb.toNat)
  | _ => false

/-- The tower of an aperture address, towers numbered from 0. -/
def apertureTower (a : Nat) : Nat := if apertures ≤ a ∧ a < apertures + 0x2000000000 then (a - apertures) / 0x1000000000 else 0

/-- A dropped write to an aperture of this package sets APERR of its tower (R362); a peer sets its own. -/
def State.dropWrite (s : State) (a : Nat) : State :=
  if a < physEnd then s.modTower (apertureTower a) fun t => { t with aperr := true } else s

/-- A write at a place: dropped where the location takes none (R362). -/
def State.writeTo (s : State) (p : Place) (bs : List Byte) : State :=
  if p.ro then s.dropWrite p.addr else s.write p.key p.addr bs

/-- The local windows as core n sees them (R220); `eng` adds the core window (R249). -/
def localPlace (n : Nat) (eng : Bool) (ea : Nat) : Option Place :=
  let gl := layerOf n
  if ea < 0x80000 then some { win := .priv, addr := privBase n + ea, core := n }
  else if 0x100000 ≤ ea ∧ ea < 0x900000 then some { win := .clus, addr := clusterBase gl (cluIdx n) + (ea - 0x100000) }
  else if eng ∧ 0x900000 ≤ ea ∧ ea < 0xD00000 then
    let k := (ea - 0x900000) / 0x80000
    some { win := .coreWin, addr := privBase (n / 8 * 8 + k) + (ea - 0x900000) % 0x80000, core := n / 8 * 8 + k }
  else if 0x10000000 ≤ ea ∧ ea < 0x30000000 then some { win := .onsen, addr := layerAperture gl + ea }
  else if 0x30000000 ≤ ea ∧ ea < 0x32000000 then some { win := .region, addr := layerAperture gl + ea }
  else if 0x40000000 ≤ ea ∧ ea < 0x40000000 + 20 * 0x800000 then
    let c := (ea - 0x40000000) / 0x800000
    some { win := if c = cluIdx n then .clus else .other, addr := layerAperture gl + ea }
  else none

/-- How the checks of an access come out: a place, a trap cause with EVAL2, a missing translation, or a stall. -/
inductive AccRes where
  | ok (p : Place)
  | trap (cause : Nat) (eval2 : Word)
  | fault (f : FaultRef)
  | stall
  deriving DecidableEq, Repr

/-- Access kinds: what the permission checks ask for (R128, R271). -/
inductive Use where
  | load | store | atomic
  deriving DecidableEq, Repr

def Use.writes : Use → Bool
  | .load => false
  | _ => true
/-- Load access for loads, store access for stores and atomics (R128, R271). -/
def Use.cause : Use → Nat
  | .load => 5
  | _ => 6

/-- The address space whose tables a thread uses (R379); a message without a task uses that of the context it resumes,
or address space 0. -/
def State.asnOf (s : State) (n k : Nat) : Nat :=
  let t := s.thread n k
  match t.task with
  | some i => i.asn
  | none =>
    match t.resume.bind fun c => (s.tower (towerOf n)).saved.find? fun sv => sv.ctx == c && sv.sent == some (n, k) with
    | some sv => sv.info.asn
    | none => 0

/-- Check 5 of R128 through a leaf, and the place it leads to (R364). -/
def State.leafPlace (s : State) (tw : Nat) (e : TlbEntry) (ea : Nat) (use : Use) : AccRes :=
  let r := bit e.leaf 2
  let w := bit e.leaf 3
  let good := match use with | .load => r | .store => w | .atomic => r && w
  if !good then .trap use.cause 0
  else
    let pa := ptePA e.leaf + (ea - e.base)
    match s.locate tw pa, s.keyOf (if pa < hbmEnd then fld e.leaf 48 10 else 0) with
    | some a, some key => .ok { win := .glob, addr := a, key := key, dcls := bit e.leaf 5, sa := bit e.leaf 6, ro := s.readOnly a }
    | _, _ => .trap use.cause 0

/-- Checks 2 to 5 of R128 for core n under an address space, with the windows the form admits; EVAL is the address. -/
def State.place (s : State) (n asn ea : Nat) (use : Use) (eng : Bool) (allow : Window → Bool) : AccRes × State :=
  if ea < 0x100000000 then
    match localPlace n eng ea with
    | none => (.trap use.cause 0, s)
    | some p =>
      if !allow p.win then (.trap use.cause 0, s)
      else if (p.win = .priv ∨ p.win = .coreWin) ∧ p.addr < privBase p.core + (s.core p.core).xb.toNat then (.trap 8 0, s)
      else (.ok p, s)
  else if 0x10000000000000 ≤ ea ∨ !allow .glob then (.trap use.cause 0, s)
  else
    match (if eng then s.xlate (clusterOf n) asn ea else s.coreXlate n asn ea) with
    | (.fail kind level entry, s1) =>
      (.fault { va := ea, write := use.writes, strm := 0, kind := kind, level := level, entry := entry }, s1)
    | (.leaf e, s1) => (s1.leafPlace (towerOf n) e ea use, s1)

/-- Checks of an access by Caldera itself through an address space's tables, each walked anew (R38, R407, R384). -/
def State.calderaPlace (s : State) (tw asn va : Nat) (use : Use) : AccRes :=
  if va < 0x100000000 ∨ 0x10000000000000 ≤ va then .trap use.cause 0
  else
    match s.walk tw asn va with
    | .fail kind level entry =>
      .fault { va := va, write := use.writes, strm := 0, kind := kind, level := level, entry := entry }
    | .leaf e => s.leafPlace tw e va use

/-! ### Seasons (R296) and stalls of loads and stores -/

/-- A message or an access from outside reaches a layer: Autumn returns to Summer, Winter begins Spring at frame F. -/
def State.wake (s : State) (gl : Nat) : State :=
  match (s.layer gl).season with
  | .autumn => s.modLayer gl fun l => { l with season := .summer }
  | .winter => s.modLayer gl fun l => { l with season := .spring, powered := false, springF := (s.tower (gl / 8)).frame }
  | _ => s

/-- The layer whose SRAM a location lies in, with whether it is the replica. -/
def sramLayer (a : Nat) : Option (Nat × Bool) :=
  match physKind a with
  | .onsen gl | .cluster gl => some (gl, false)
  | .priv n => some (layerOf n, false)
  | .replica gl => some (gl, true)
  | _ => none

/-- An outside access to a location waits while its layer is in reset, in Winter or powering up; the replica waits
until Spring's copy has ended (R241, R296, R378). -/
def State.powerWaits (s : State) (a : Nat) : Bool :=
  match sramLayer a with
  | none => false
  | some (gl, rep) =>
    let l := s.layer gl
    match l.season with
    | .inReset | .winter => true
    | .spring => !l.powered || rep
    | .summer | .autumn => rep && l.stale

/-- A global access wakes the layer it reaches (R296). -/
def State.touchLayer (s : State) (a : Nat) : State :=
  match sramLayer a with
  | none => s
  | some (gl, _) => s.wake gl

/-- Two non-empty ranges overlap. -/
def overlaps (a n b m : Nat) : Bool := decide (n ≠ 0 ∧ m ≠ 0 ∧ a < b + m ∧ b < a + n)

/-- The offset in the tower's region of bytes that an aperture shows: a replica's or the base mirror's. -/
def regionOffset (tw a : Nat) : Option Nat :=
  match physKind a with
  | .replica gl => if gl / 8 = tw then some (a - layerAperture gl - regionOff) else none
  | .mirror t => if t = tw then some (a - mirrorBase t) else none
  | _ => none

/-- A load of the region waits while an own GST or GAMO on the same bytes is pending (R239), through a global page as well; and through
the local window while the replica is being copied (R241). -/
def State.regionWaits (s : State) (n k : Nat) (p : Place) (len : Nat) : Bool :=
  let l := s.layer (layerOf n)
  (p.win == .region && (l.season == .spring || l.stale)) ||
    (regionOffset (towerOf n) p.addr).any fun off =>
      (s.tower (towerOf n)).gpend.any fun g =>
        g.core == n && g.slot == k && g.engine.isNone && overlaps off len g.off g.size

/-- Some of alen bytes at the physical address a are bytes of the engine range of len bytes at lo, as an address space and the
windows of core n name it: through another window or page they are the same bytes (R235, R237). -/
def State.rangeHas (s : State) (n asn lo len a alen : Nat) : Bool :=
  if lo < 0x100000000 then (localPlace n true lo).any fun p => overlaps a alen p.addr len
  else (unitsOf lo len 65536).any fun u =>
    match (s.xlate (clusterOf n) asn u).1 with
    | .leaf e =>
      let first := max lo u
      (s.locate (towerOf n) (ptePA e.leaf + (first - e.base))).any fun b => overlaps a alen b (min (lo + len) (u + 65536) - first)
    | .fail _ _ _ => false

/-- A load or store of len bytes at the physical address a by thread k of core n stalls at a watermark: it reaches a byte at or
above WMc of the oldest streaming range of channel c, any byte of a younger range, or a rewound byte at or above WMc (R237, R258,
R259). -/
def State.watermarkStalls (s : State) (n k a len : Nat) : Bool :=
  let t := s.thread n k
  let asn := s.asnOf n k
  (List.range 8).any fun c =>
    let mine := ((s.cluster (clusterOf n)).queues.getD c []).filter fun e => e.wm && e.core == n && e.slot == k
    let w := (t.wm.getD c 0).toNat
    (match mine with
      | [] => false
      | e :: rest =>
        s.rangeHas n asn (max e.dst.toNat w) (e.dst.toNat + e.span - max e.dst.toNat w) a len
          || rest.any fun r => s.rangeHas n asn r.dst.toNat r.span a len)
    || (match t.rewound.getD c none with
      | none => false
      | some r => s.rangeHas n asn (max r.lo w) (r.hi - max r.lo w) a len)

/-- The waits of an access that has passed its checks: power, replica, watermark (R237, R239, R241, R296). -/
def State.accessWaits (s : State) (n k len : Nat) (p : Place) : Bool :=
  (p.win == .glob && s.powerWaits p.addr) || s.regionWaits n k p len || s.watermarkStalls n k p.addr len

/-! ### Suspension on a page fault (R303) -/

/-- The fault record of a thread's access (R387); SEQ is given when the record is written. -/
def State.threadRecord (s : State) (n k : Nat) (f : FaultRef) : FaultRec :=
  let t := s.thread n k
  { w0 := BitVec.ofNat 64 (f.va % 2 ^ 52 + (if f.write then 2 ^ 52 else 0) + f.strm % 8 * 2 ^ 53
      + (if t.level = .S then 2 ^ 57 else 0))
    w1 := BitVec.ofNat 64 (coreId n + k * 2 ^ 12 + s.asnOf n k * 2 ^ 16 + f.kind * 2 ^ 24 + f.level * 2 ^ 27)
    w2 := f.entry, w3 := t.taskid, who := .thread n k, seq := 0 }

/-- The watchdog counter at a step: the cycles since the thread last retired an instruction, without those it was suspended (R306). -/
def Thread.count (t : Thread) (step : Nat) : Nat :=
  t.counted + match t.since with | some f => Config.cyclesTo step - Config.cyclesTo f | none => 0

/-- The thread suspends: at level T the trap CSRs record the fault; the record waits to be written (R303, R386); its watchdog counter
stands still (R306). -/
def State.suspend (s : State) (f : FaultRef) : State :=
  let s1 := s.modMe fun t =>
    let t1 := { t with wait := .suspended f, counted := t.count s.steps, since := none }
    match t.level with
    | .S => t1
    | .T => { t1 with epc := t.pc, ecause := 7, eval := BitVec.ofNat 64 f.va,
                      estat := estatOf { cause := 7, wr := f.write, strm := f.strm } (t.occ = .task && !t.post) }
  s1.modTower (towerOf s.cur) fun tw =>
    { tw with heldFaults := tw.heldFaults ++ [s.threadRecord s.cur s.curSlot f] }

/-! ### Commit and the logs (R30 to R33, R286 to R288) -/

/-- Commit of the task in slot k of core n: its log entries are discarded (R32). -/
def State.commitAt (s : State) (n k : Nat) : State :=
  (s.modCluster (clusterOf n) fun c => { c with log := c.log.filter fun e => !(e.core == n && e.slot == k) }).modThread
    n k fun t => { t with post := true }

/-- The current thread runs a pre-commit task at level T: only then do stores log and actions commit (R31, R188). -/
def State.preCommit (s : State) : Bool := s.me.occ == .task && !s.me.post && s.me.level == .T

/-- Implicit TCOMMIT of an action of R31; none at level S (R188). -/
def State.implicitCommit (s : State) : State := if s.preCommit then s.commitAt s.cur s.curSlot else s

/-- The local address by which a checkpoint log names a location of its cluster or Onsen (R287). -/
def ckptLocal (cl a : Nat) : Nat :=
  let gl := cl / 20
  let cb := clusterBase gl (cl % 20)
  if cb ≤ a ∧ a < cb + 0x800000 then 0x100000 + (a - cb) else a - layerAperture gl

/-- The marked checkpoint of a cluster whose region holds a word. -/
def Cluster.ckptOf (c : Cluster) (a : Nat) : Option Ckpt := c.ckpts.find? fun m => m.base ≤ a && a < m.base + m.len

/-- One word's old value entered in the log of the marked region that holds it (R287). -/
def State.ckptEntry (s : State) (cl a : Nat) : State :=
  match (s.cluster cl).ckptOf a with
  | none => s
  | some m =>
    let old := s.dword a
    let s1 := (s.putWord (m.logBase + 16 * m.count) (BitVec.ofNat 64 (ckptLocal cl a))).putWord (m.logBase + 16 * m.count + 8) old
    s1.modCluster cl fun c =>
      { c with ckpts := c.ckpts.map fun x => if x.id = m.id then { x with count := x.count + 1 } else x }

/-- The checkpoint whose log lacks room for the words a write touches (R287). -/
def State.ckptFull (s : State) (cl : Nat) (words : List Nat) : Option Nat :=
  (s.cluster cl).ckpts.findSome? fun m =>
    let k := (words.filter fun a => m.base ≤ a && a < m.base + m.len).length
    if k != 0 && 4096 < m.count + k then some m.id else none

/-- FULL of a checkpoint is set (R289). -/
def State.ckptMarkFull (s : State) (cl id : Nat) : State :=
  s.modCluster cl fun c => { c with ckpts := c.ckpts.map fun x => if x.id = id then { x with full := true } else x }

/-- The old values of words entered in the task log of the current thread, or the commit that a full log forces (R30,
R31). -/
def State.taskLog (s : State) (words : List Nat) : State :=
  let cl := clusterOf s.cur
  if 4096 < (s.cluster cl).log.length + words.length then s.implicitCommit
  else
    let new := words.map fun a => (⟨s.cur, s.curSlot, a, s.dword a⟩ : LogEntry)
    s.modCluster cl fun c => { c with log := c.log ++ new }

/-- A window whose stores the task log covers (R30): cluster scratchpads and Onsen. -/
def Window.logged : Window → Bool
  | .clus | .onsen | .other => true
  | _ => false

/-- The bits that an element of n bytes at an address takes; of a nibble element its half of one byte. -/
def bitsOf (a n : Nat) (nibble : Option Nat) : Nat × Nat :=
  match nibble with
  | some h => (8 * a + 4 * h, 8 * a + 4 * h + 4)
  | none => (8 * a, 8 * a + 8 * n)

/-- The words of a write that the logs take. The elements of one vector or matrix row touch a word once between them, as the spec's
example of R30 counts; a word of which the same instruction writes some bit again is written twice, and logged twice (R30,
R287). `done` lists the bits that the instruction has written. -/
def wordsToLog (a n : Nat) (r : Nat × Nat) (done : List (Nat × Nat)) : List Nat :=
  (unitsOf a n 8).filter fun w =>
    !(done.any fun d => d.1 < 8 * w + 64 && 8 * w < d.2) ||
      done.any fun d => decide (max (max d.1 r.1) (8 * w) < min (min d.2 r.2) (8 * w + 64))

/-- What precedes a write of n bytes by the current thread at one place: the checkpoint log, which matches by location, the task log
or the commit of R31 (R30, R31, R129, R287); nothing at level S (R188). Answers the full checkpoint's id when its log has no
room. -/
def State.beforeStore (s : State) (p : Place) (n : Nat) (done : List (Nat × Nat)) (nibble : Option Nat := none) :
    (State × List (Nat × Nat)) ⊕ Nat :=
  if s.me.level = .S then .inl (s, done)
  else
    let r := bitsOf p.addr n nibble
    let words := wordsToLog p.addr n r done
    let cl := clusterOf s.cur
    match s.ckptFull cl words with
    | some id => .inr id
    | none =>
      let s1 := if s.preCommit then
          (if p.win = .glob then s.implicitCommit else if p.win.logged then s.taskLog words else s)
        else s
      .inl (words.foldl (fun st a => st.ckptEntry cl a) s1, done ++ [r])

/-- A store of the current thread that has passed its checks, as part of an instruction that has written `done`. -/
def State.storePart (s : State) (p : Place) (bs : List Byte) (done : List (Nat × Nat)) (nibble : Option Nat := none) :
    (State × List (Nat × Nat)) ⊕ Nat :=
  match s.beforeStore p bs.length done nibble with
  | .inl (s1, d) => .inl (s1.writeTo p bs, d)
  | .inr id => .inr id

/-- A store of the current thread that has passed its checks. -/
def State.storeAt (s : State) (p : Place) (bs : List Byte) : State ⊕ Nat :=
  match s.storePart p bs [] with
  | .inl (s1, _) => .inl s1
  | .inr id => .inr id

/-- Trap of a store that finds its checkpoint log full (R287). -/
def State.ckptTrap (s : State) (ea : Nat) (id strm : Nat) : State :=
  (s.ckptMarkFull (clusterOf s.cur) id).trap
    { cause := 0x0E, eval := BitVec.ofNat 64 ea, eval2 := BitVec.ofNat 64 id, wr := true, strm := strm }

/-- The rewind log of a task replayed, youngest entry first, and emptied; each write-back is entered in a checkpoint log with room (R33,
R287). A write-back that finds its checkpoint log full has no instruction that could trap: the model makes it unlogged and sets FULL, its
own choice (log 85). -/
def State.rollback (s : State) (n k : Nat) : State :=
  let cl := clusterOf n
  let mine := (s.cluster cl).log.filter fun e => e.core == n && e.slot == k
  let s1 := s.modCluster cl fun c => { c with log := c.log.filter fun e => !(e.core == n && e.slot == k) }
  mine.reverse.foldl (fun st e =>
    let st1 := match st.ckptFull cl [e.addr] with
      | some id => st.ckptMarkFull cl id
      | none => st.ckptEntry cl e.addr
    st1.putWord e.addr e.old) s1

/-! ### Checked accesses of a thread -/

/-- The outcome of an element access: its value, or how it stops the instruction. -/
inductive Got where
  | val (p : Place)
  | trap (cause : Nat) (eval2 : Word)
  | fault (f : FaultRef)
  | stall

/-- Checks 1 to 5 of R128 for an access of the current thread, its waits, and poison (R402). -/
def State.check (s : State) (ea : Word) (n : Nat) (use : Use) (strm : Nat) (allow : Window → Bool) : Got × State :=
  if ea.toNat % n ≠ 0 then (.trap 4 0, s)
  else
    match s.place s.cur (s.asnOf s.cur s.curSlot) ea.toNat use false allow with
    | (.trap c e, s1) => (.trap c e, s1)
    | (.fault f, s1) => (.fault { f with strm := strm }, s1)
    | (.stall, s1) => (.stall, s1)
    | (.ok p, s1) =>
      let s2 := if p.win = .glob then s1.touchLayer p.addr else s1
      if s1.accessWaits s.cur s.curSlot n p then (.stall, s2)
      else if use ≠ .store && s2.unreadable p.addr n then (.trap 5 0xE, s2)
      else (.val p, s2)

/-- Windows a scalar or vector load may use, and a store: the region is never stored to (R128, R238). -/
def loadWindows : Window → Bool
  | .coreWin => false
  | _ => true
def storeWindows : Window → Bool
  | .coreWin | .region => false
  | _ => true

/-- The current thread stops on a failed check: a trap with the address, a suspension, or a wait in which the instruction runs again. -/
def Got.stop (g : Got) (ea : Word) (wr : Bool) (strm : Nat) (s : State) : State :=
  match g with
  | .val _ => s
  | .trap c e => s.trap { cause := c, eval := ea, eval2 := e, wr := wr, strm := strm }
  | .fault f => s.suspend f
  | .stall => s.stall

/-! ### Fetch (R91, R305) -/

/-- The instruction word at the current thread's PC: fetched from the private scratchpad below XB. -/
def State.wordAt (s : State) (n : Nat) (pc : Word) : Half :=
  BitVec.ofNat 32 (leNat (s.bytes (privBase n + pc.toNat) 4))

/-- The word at PC, zero-extended: EVAL of causes 0x01, 0x02, 0x03 and 0x0F (R103, R301). -/
def State.myWord (s : State) : Word := zx (s.wordAt s.cur s.me.pc)

/-- Trap with the instruction word: illegal instruction, reserved major, privileged, vector configuration. -/
def State.wordTrap (s : State) (cause check : Nat) : State :=
  s.trap { cause := cause, eval := s.myWord, eval2 := BitVec.ofNat 64 check }

/-- Illegal instruction by an operand check, EVAL2 = 7 (R301). -/
def State.operandTrap (s : State) : State := s.wordTrap 1 7

/-- A slot bound by a message without a task: instructions that act on a task trap there (R309). -/
def State.noTask (s : State) : Bool := s.me.occ == .message

end Sys2Proof.Machine
end

