-- ==== Sys2Proof/Machine/Integer.lean ====
section
/-!
DEFINITION. The integer forms on scalar registers (R115 to R119): register forms, immediates, shifts, LIH and ADDPC.
-/
namespace Sys2Proof.Machine

/-- The outcome of every step of the model. -/
abbrev Out := Host.Outcome State Fault Refusal

/-- Division with the cases of R116. -/
def divU (a b : Word) : Word := if b = 0 then BitVec.allOnes 64 else a / b
def remU (a b : Word) : Word := if b = 0 then a else a % b
def divS (a b : Word) : Word := if b = 0 then BitVec.allOnes 64 else BitVec.ofInt 64 (Int.tdiv a.toInt b.toInt)
def remS (a b : Word) : Word := if b = 0 then a else BitVec.ofInt 64 (Int.tmod a.toInt b.toInt)

/-- Bit counts of R115. -/
def countLeading (a : Word) : Word := if a = 0 then 64 else BitVec.ofNat 64 (63 - Nat.log2 a.toNat)
def countTrailing (a : Word) : Word := BitVec.ofNat 64 (((List.range 64).find? fun i => bit a i).getD 64)
def popCount (a : Word) : Word := BitVec.ofNat 64 ((List.range 64).countP fun i => bit a i)

/-- A result written to rd; the instruction retires. -/
def State.result (s : State) (rd : BitVec 5) (v : Word) : State := (s.setX rd v).retire

/-- A form that computes rd from two registers; it never traps (R115). -/
def intForm (f : Word → Word → Word) (rd rs1 rs2 : BitVec 5) (s : State) : Out :=
  .next (s.guard (xs [rs1, rs2]) (s.result rd (f (s.x rs1) (s.x rs2))))

/-- A form that computes rd from one register and a constant (R117, R118). -/
def immForm (f : Word → Word) (rd rs1 : BitVec 5) (s : State) : Out :=
  .next (s.guard (xs [rs1]) (s.result rd (f (s.x rs1))))

/-- R115: rs1 + rs2 modulo 2^64. -/
def execAdd (rd rs1 rs2 : BitVec 5) (s : State) : Out := intForm (fun a b => a + b) rd rs1 rs2 s

/-- R115: rs1 − rs2. -/
def execSub (rd rs1 rs2 : BitVec 5) (s : State) : Out := intForm (fun a b => a - b) rd rs1 rs2 s

/-- R115: rs1 AND rs2. -/
def execAnd (rd rs1 rs2 : BitVec 5) (s : State) : Out := intForm (fun a b => a &&& b) rd rs1 rs2 s

/-- R115: rs1 OR rs2. -/
def execOr (rd rs1 rs2 : BitVec 5) (s : State) : Out := intForm (fun a b => a ||| b) rd rs1 rs2 s

/-- R115: rs1 XOR rs2. -/
def execXor (rd rs1 rs2 : BitVec 5) (s : State) : Out := intForm (fun a b => a ^^^ b) rd rs1 rs2 s

/-- R115: rs1 AND NOT rs2. -/
def execAndn (rd rs1 rs2 : BitVec 5) (s : State) : Out := intForm (fun a b => a &&& ~~~b) rd rs1 rs2 s

/-- R115: left shift by rs2 [5:0]. -/
def execSll (rd rs1 rs2 : BitVec 5) (s : State) : Out := intForm (fun a b => a <<< fld b 0 6) rd rs1 rs2 s

/-- R115: logical right shift by rs2 [5:0]. -/
def execSrl (rd rs1 rs2 : BitVec 5) (s : State) : Out := intForm (fun a b => a >>> fld b 0 6) rd rs1 rs2 s

/-- R115: arithmetic right shift by rs2 [5:0]. -/
def execSra (rd rs1 rs2 : BitVec 5) (s : State) : Out := intForm (fun a b => a.sshiftRight (fld b 0 6)) rd rs1 rs2 s

/-- R115: right rotation by rs2 [5:0]. -/
def execRor (rd rs1 rs2 : BitVec 5) (s : State) : Out := intForm (fun a b => a.rotateRight (fld b 0 6)) rd rs1 rs2 s

/-- R115: 1 if less, signed. -/
def execSlt (rd rs1 rs2 : BitVec 5) (s : State) : Out := intForm (fun a b => ofBool (a.slt b)) rd rs1 rs2 s

/-- R115: 1 if less, unsigned. -/
def execSltu (rd rs1 rs2 : BitVec 5) (s : State) : Out := intForm (fun a b => ofBool (a.ult b)) rd rs1 rs2 s

/-- R115: signed minimum. -/
def execMin (rd rs1 rs2 : BitVec 5) (s : State) : Out := intForm (fun a b => if b.slt a then b else a) rd rs1 rs2 s

/-- R115: signed maximum. -/
def execMax (rd rs1 rs2 : BitVec 5) (s : State) : Out := intForm (fun a b => if a.slt b then b else a) rd rs1 rs2 s

/-- R115: unsigned minimum. -/
def execMinu (rd rs1 rs2 : BitVec 5) (s : State) : Out := intForm (fun a b => if b.ult a then b else a) rd rs1 rs2 s

/-- R115: unsigned maximum. -/
def execMaxu (rd rs1 rs2 : BitVec 5) (s : State) : Out := intForm (fun a b => if a.ult b then b else a) rd rs1 rs2 s

/-- R115: low half of the product. -/
def execMul (rd rs1 rs2 : BitVec 5) (s : State) : Out := intForm (fun a b => a * b) rd rs1 rs2 s

/-- R115: high half, signed × signed. -/
def execMulh (rd rs1 rs2 : BitVec 5) (s : State) : Out := intForm (fun a b => BitVec.ofInt 64 (a.toInt * b.toInt / 2 ^ 64)) rd rs1 rs2 s

/-- R115: high half, unsigned × unsigned. -/
def execMulhu (rd rs1 rs2 : BitVec 5) (s : State) : Out := intForm (fun a b => BitVec.ofNat 64 (a.toNat * b.toNat / 2 ^ 64)) rd rs1 rs2 s

/-- R115: high half, signed × unsigned. -/
def execMulhsu (rd rs1 rs2 : BitVec 5) (s : State) : Out := intForm (fun a b => BitVec.ofInt 64 (a.toInt * b.toNat / 2 ^ 64)) rd rs1 rs2 s

/-- R115: signed quotient toward zero (R116). -/
def execDiv (rd rs1 rs2 : BitVec 5) (s : State) : Out := intForm (fun a b => divS a b) rd rs1 rs2 s

/-- R115: unsigned quotient (R116). -/
def execDivu (rd rs1 rs2 : BitVec 5) (s : State) : Out := intForm (fun a b => divU a b) rd rs1 rs2 s

/-- R115: signed remainder with the sign of rs1 (R116). -/
def execRem (rd rs1 rs2 : BitVec 5) (s : State) : Out := intForm (fun a b => remS a b) rd rs1 rs2 s

/-- R115: unsigned remainder (R116). -/
def execRemu (rd rs1 rs2 : BitVec 5) (s : State) : Out := intForm (fun a b => remU a b) rd rs1 rs2 s

/-- R115: (rs1 << 1) + rs2. -/
def execSh1add (rd rs1 rs2 : BitVec 5) (s : State) : Out := intForm (fun a b => (a <<< 1) + b) rd rs1 rs2 s

/-- R115: (rs1 << 2) + rs2. -/
def execSh2add (rd rs1 rs2 : BitVec 5) (s : State) : Out := intForm (fun a b => (a <<< 2) + b) rd rs1 rs2 s

/-- R115: (rs1 << 3) + rs2. -/
def execSh3add (rd rs1 rs2 : BitVec 5) (s : State) : Out := intForm (fun a b => (a <<< 3) + b) rd rs1 rs2 s

/-- R115: number of leading zero bits. -/
def execClz (rd rs1 : BitVec 5) (s : State) : Out := immForm (fun a => countLeading a) rd rs1 s

/-- R115: number of trailing zero bits. -/
def execCtz (rd rs1 : BitVec 5) (s : State) : Out := immForm (fun a => countTrailing a) rd rs1 s

/-- R115: number of one bits. -/
def execCpop (rd rs1 : BitVec 5) (s : State) : Out := immForm (fun a => popCount a) rd rs1 s

/-- R117: rs1 + sext(imm16, 16). -/
def execAddi (rd rs1 : BitVec 5) (imm : BitVec 16) (s : State) : Out :=
  immForm (fun a => a + sx imm) rd rs1 s

/-- R117: rs1 AND zext(imm16, 16). -/
def execAndi (rd rs1 : BitVec 5) (imm : BitVec 16) (s : State) : Out :=
  immForm (fun a => a &&& zx imm) rd rs1 s

/-- R117: rs1 OR zext(imm16, 16). -/
def execOri (rd rs1 : BitVec 5) (imm : BitVec 16) (s : State) : Out :=
  immForm (fun a => a ||| zx imm) rd rs1 s

/-- R117: rs1 XOR zext(imm16, 16). -/
def execXori (rd rs1 : BitVec 5) (imm : BitVec 16) (s : State) : Out :=
  immForm (fun a => a ^^^ zx imm) rd rs1 s

/-- R117: 1 if less than sext(imm16, 16), signed. -/
def execSlti (rd rs1 : BitVec 5) (imm : BitVec 16) (s : State) : Out :=
  immForm (fun a => ofBool (a.slt (sx imm))) rd rs1 s

/-- R117: 1 if less than sext(imm16, 16), unsigned. -/
def execSltiu (rd rs1 : BitVec 5) (imm : BitVec 16) (s : State) : Out :=
  immForm (fun a => ofBool (a.ult (sx imm))) rd rs1 s

/-- R117: low half of rs1 × sext(imm16, 16). -/
def execMuli (rd rs1 : BitVec 5) (imm : BitVec 16) (s : State) : Out :=
  immForm (fun a => a * sx imm) rd rs1 s

/-- R118: left shift by the amount. -/
def execSlli (rd rs1 : BitVec 5) (sh : BitVec 6) (s : State) : Out :=
  immForm (fun a => a <<< sh.toNat) rd rs1 s

/-- R118: logical right shift by the amount. -/
def execSrli (rd rs1 : BitVec 5) (sh : BitVec 6) (s : State) : Out :=
  immForm (fun a => a >>> sh.toNat) rd rs1 s

/-- R118: arithmetic right shift by the amount. -/
def execSrai (rd rs1 : BitVec 5) (sh : BitVec 6) (s : State) : Out :=
  immForm (fun a => a.sshiftRight sh.toNat) rd rs1 s

/-- R118: right rotation by the amount. -/
def execRori (rd rs1 : BitVec 5) (sh : BitVec 6) (s : State) : Out :=
  immForm (fun a => a.rotateRight sh.toNat) rd rs1 s

/-- R119: sext(imm21, 21) << 16. -/
def execLih (rd : BitVec 5) (imm : BitVec 21) (s : State) : Out := .next (s.result rd (sx imm <<< 16))

/-- R119: the address of the instruction plus sext(imm21, 21). -/
def execAddpc (rd : BitVec 5) (imm : BitVec 21) (s : State) : Out := .next (s.result rd (s.me.pc + sx imm))

end Sys2Proof.Machine
end

