-- ==== Sys2Proof/Machine/Flags.lean ====
section
/-!
DEFINITION. Number formats and exact arithmetic (R66 to R90): values are decoded to exact dyadic numbers, operations are
exact, and one rounding function gives the result and the flags it raises.
-/
namespace Sys2Proof.Machine

/-! ### Flags in the order of FCSR [9:3] (R54) -/
def fNX : Flags := 1
def fUF : Flags := 2
def fOF : Flags := 4
def fDZ : Flags := 8
def fNV : Flags := 16
def fSAT : Flags := 32
def fSU : Flags := 64

/-- Rounding modes of FCSR.RM (R54, R75). -/
inductive RM where
  | rne | rtz | rup | rdn | rna
  deriving DecidableEq, Repr

/-- FCSR.RM; the field holds 0 to 4 (R54). -/
def rmOf (fcsr : Word) : RM :=
  match fld fcsr 0 3 with
  | 1 => .rtz
  | 2 => .rup
  | 3 => .rdn
  | 4 => .rna
  | _ => .rne

/-- A floating-point format (R69): exponent bits, mantissa bits, bias, whether it has infinities, whether it has NaNs, and
the exponent field and mantissa of its largest finite value. -/
structure Fmt where
  eb : Nat
  mb : Nat
  bias : Nat
  inf : Bool := true
  nan : Bool := true
  maxE : Nat
  maxM : Nat
  deriving DecidableEq, Repr

def FP64 : Fmt := { eb := 11, mb := 52, bias := 1023, maxE := 2046, maxM := 2 ^ 52 - 1 }
def FP32 : Fmt := { eb := 8, mb := 23, bias := 127, maxE := 254, maxM := 2 ^ 23 - 1 }
def BF16 : Fmt := { eb := 8, mb := 7, bias := 127, maxE := 254, maxM := 127 }
def FP16 : Fmt := { eb := 5, mb := 10, bias := 15, maxE := 30, maxM := 1023 }
def E4M3 : Fmt := { eb := 4, mb := 3, bias := 7, inf := false, maxE := 15, maxM := 6 }
def E5M2 : Fmt := { eb := 5, mb := 2, bias := 15, maxE := 30, maxM := 3 }
def E2M3 : Fmt := { eb := 2, mb := 3, bias := 1, inf := false, nan := false, maxE := 3, maxM := 7 }
def E2M1 : Fmt := { eb := 2, mb := 1, bias := 1, inf := false, nan := false, maxE := 3, maxM := 1 }

def Fmt.width (f : Fmt) : Nat := 1 + f.eb + f.mb
/-- The sign bit of a pattern. -/
def Fmt.signOf (f : Fmt) (b : Nat) : Bool := b.testBit (f.eb + f.mb)
def Fmt.sign (f : Fmt) (neg : Bool) : Nat := if neg then 2 ^ (f.eb + f.mb) else 0
/-- The canonical NaN (R69); the formats without NaN have none. -/
def Fmt.cnan (f : Fmt) : Nat :=
  if f.inf then (2 ^ f.eb - 1) * 2 ^ f.mb + 2 ^ (f.mb - 1) else (2 ^ f.eb - 1) * 2 ^ f.mb + (2 ^ f.mb - 1)
def Fmt.infBits (f : Fmt) (neg : Bool) : Nat := f.sign neg + (2 ^ f.eb - 1) * 2 ^ f.mb
def Fmt.maxBits (f : Fmt) (neg : Bool) : Nat := f.sign neg + f.maxE * 2 ^ f.mb + f.maxM
/-- The smallest exponent of a unit in the last place. -/
def Fmt.qmin (f : Fmt) : Int := 1 - (f.bias : Int) - f.mb

/-- An exact value: a NaN with its sign and whether it is signalling, an infinity, or (−1)^neg × (m + s) × 2^e with
0 ≤ s < 1, where `sticky` tells that s is not 0. -/
inductive FVal where
  | nan (neg sig : Bool)
  | inf (neg : Bool)
  | fin (neg : Bool) (m : Nat) (e : Int) (sticky : Bool)
  deriving DecidableEq, Repr

/-- The value of a pattern (R69). Every E4M3 and E5M2 NaN is quiet. -/
def Fmt.decode (f : Fmt) (b : Nat) : FVal :=
  let s := f.signOf b
  let e := b / 2 ^ f.mb % 2 ^ f.eb
  let m := b % 2 ^ f.mb
  if e = 2 ^ f.eb - 1 ∧ f.inf then
    if m = 0 then .inf s else .nan s (f.mb ≠ 2 ∧ !m.testBit (f.mb - 1))
  else if e = 2 ^ f.eb - 1 ∧ f.nan ∧ m = 2 ^ f.mb - 1 then .nan s false
  else if e = 0 then .fin s m f.qmin false
  else .fin s (2 ^ f.mb + m) (f.qmin + (e - 1 : Nat)) false

def FVal.isNan : FVal → Bool
  | .nan _ _ => true
  | _ => false
def FVal.isSig : FVal → Bool
  | .nan _ s => s
  | _ => false
def FVal.neg : FVal → Bool
  | .nan n _ => n
  | .inf n => n
  | .fin n _ _ _ => n
def FVal.isZero : FVal → Bool
  | .fin _ m _ s => m == 0 && !s
  | _ => false
def FVal.isInf : FVal → Bool
  | .inf _ => true
  | _ => false
def FVal.flip : FVal → FVal
  | .nan n s => .nan n s
  | .inf n => .inf !n
  | .fin n m e s => .fin (!n) m e s
def FVal.abs : FVal → FVal
  | .nan _ s => .nan false s
  | .inf _ => .inf false
  | .fin _ m e s => .fin false m e s

/-- m × 2^e shifted right by k bits with what falls off: quotient, whether a half or more fell off, whether anything
besides the half bit did. -/
def shiftOut (m : Nat) (sticky : Bool) (k : Nat) : Nat × Bool × Bool :=
  if k = 0 then (m, false, sticky)
  else (m / 2 ^ k, (m / 2 ^ (k - 1)) % 2 == 1, m % 2 ^ (k - 1) != 0 || sticky)

/-- Whether the magnitude goes up: mode, sign, last bit kept, half bit, rest (R75). -/
def roundsUp (rm : RM) (neg odd half rest : Bool) : Bool :=
  match rm with
  | .rne => half && (rest || odd)
  | .rtz => false
  | .rup => !neg && (half || rest)
  | .rdn => neg && (half || rest)
  | .rna => half

/-- A magnitude rounded to a multiple of 2^q: the multiple and whether it is inexact. -/
def roundAt (rm : RM) (neg : Bool) (m : Nat) (e : Int) (sticky : Bool) (q : Int) : Nat × Bool :=
  if q ≤ e then (m * 2 ^ (e - q).toNat, sticky)
  else
    let (r, half, rest) := shiftOut m sticky (q - e).toNat
    (if roundsUp rm neg (r % 2 == 1) half rest then r + 1 else r, half || rest)

/-- How a result beyond the largest finite value is written: as R75 for arithmetic, clamped as R79 for conversions. -/
inductive Over where
  | ieee | clamp
  deriving DecidableEq, Repr

/-- Infinity or the largest finite value (R75). -/
def overflowBits (f : Fmt) (rm : RM) (neg : Bool) : Nat :=
  match rm with
  | .rne | .rna => f.infBits neg
  | .rtz => f.maxBits neg
  | .rup => if neg then f.maxBits neg else f.infBits neg
  | .rdn => if neg then f.infBits neg else f.maxBits neg

/-- A non-zero magnitude rounded into a format: the pattern and the flags NX, UF, OF, SAT (R75, R77, R79). -/
def roundFin (f : Fmt) (rm : RM) (ov : Over) (neg : Bool) (m : Nat) (e : Int) (sticky : Bool) : Nat × Flags :=
  let qn := e + (Nat.log2 m : Int) - f.mb
  let (rn, _) := roundAt rm neg m e sticky qn
  let (r, inexact) := roundAt rm neg m e sticky (max qn f.qmin)
  let bits := ((max qn f.qmin) - f.qmin).toNat * 2 ^ f.mb + r
  if f.maxE * 2 ^ f.mb + f.maxM < bits then
    match ov with
    | .ieee => (overflowBits f rm neg, fOF ||| fNX)
    | .clamp => (f.maxBits neg, fSAT ||| fNX)
  else
    let tiny := qn < f.qmin && decide (rn < 2 ^ (f.qmin + f.mb - qn).toNat)
    (f.sign neg + bits, (if inexact then fNX else 0) ||| (if inexact && tiny then fUF else 0))

/-- The result of an arithmetic operation in a format: NaNs are canonical (R80), overflow as R75. -/
def FVal.arith (f : Fmt) (rm : RM) : FVal → Nat × Flags
  | .nan _ _ => (f.cnan, 0)
  | .inf n => (f.infBits n, 0)
  | .fin n m e s => if m = 0 ∧ !s then (f.sign n, 0) else roundFin f rm .ieee n m e s

/-! ### Exact operations (R121) -/

/-- The signed mantissa of a finite value at a common exponent. -/
def FVal.scaled (neg : Bool) (m : Nat) (e e0 : Int) : Int :=
  let v : Int := (m * 2 ^ (e - e0).toNat : Nat)
  if neg then -v else v

/-- The sign of an exact zero sum (R121): −0 when both terms are −0, −0 under RDN, else +0. DEDUCED (log 10): the row says
RDN without exception, so +0 + +0 is −0 there. -/
def zeroSign (rm : RM) (na nb : Bool) : Bool := (na && nb) || rm == .rdn

/-- An exact integer multiple of 2^e; zero takes the sign given. -/
def ofScaled (v : Int) (e : Int) (zneg : Bool) : FVal :=
  if v = 0 then .fin zneg 0 e false else .fin (v < 0) v.natAbs e false

/-- NV when an input is a signalling NaN. -/
def sigFlag (a b : FVal) : Flags := if a.isSig || b.isSig then fNV else 0

/-- a + b, exact (R121). Finite operands are exact here (no sticky part). -/
def FVal.add (rm : RM) (a b : FVal) : FVal × Flags :=
  match a, b with
  | .nan _ _, _ | _, .nan _ _ => (.nan false false, sigFlag a b)
  | .inf n, .inf k => if n = k then (.inf n, 0) else (.nan false false, fNV)
  | .inf n, .fin _ _ _ _ => (.inf n, 0)
  | .fin _ _ _ _, .inf n => (.inf n, 0)
  | .fin n m e _, .fin k p g _ =>
    let e0 := min e g
    (ofScaled (FVal.scaled n m e e0 + FVal.scaled k p g e0) e0 (zeroSign rm n k), 0)

/-- a × b, exact (R121). -/
def FVal.mul (a b : FVal) : FVal × Flags :=
  match a, b with
  | .nan _ _, _ | _, .nan _ _ => (.nan false false, sigFlag a b)
  | .inf n, .inf k => (.inf (n != k), 0)
  | .inf n, .fin k m _ _ => if m = 0 then (.nan false false, fNV) else (.inf (n != k), 0)
  | .fin k m _ _, .inf n => if m = 0 then (.nan false false, fNV) else (.inf (n != k), 0)
  | .fin n m e _, .fin k p g _ => (.fin (n != k) (m * p) (e + g) false, 0)

/-- c + a × b with one rounding later (R121): ∞ × 0 is invalid whatever c holds. -/
def FVal.mulAdd (rm : RM) (c a b : FVal) : FVal × Flags :=
  let (p, fl) := a.mul b
  match p with
  | .nan _ _ => (.nan false false, fl ||| sigFlag c c)
  | _ =>
    let (r, fl2) := c.add rm p
    (r, fl ||| fl2)

/-- a / b (R121), with 128 quotient bits and the remainder as the sticky part. -/
def FVal.div (a b : FVal) : FVal × Flags :=
  match a, b with
  | .nan _ _, _ | _, .nan _ _ => (.nan false false, sigFlag a b)
  | .inf _, .inf _ => (.nan false false, fNV)
  | .inf n, .fin k _ _ _ => (.inf (n != k), 0)
  | .fin n _ _ _, .inf k => (.fin (n != k) 0 0 false, 0)
  | .fin n m e _, .fin k p g _ =>
    if p = 0 then (if m = 0 then (.nan false false, fNV) else (.inf (n != k), fDZ))
    else if m = 0 then (.fin (n != k) 0 0 false, 0)
    else
      let up := 128 + Nat.log2 p
      (.fin (n != k) (m * 2 ^ up / p) (e - g - up) (m * 2 ^ up % p != 0), 0)

/-- The largest r with r² ≤ n, found bit by bit from bit k − 1 down. -/
def isqrt (n : Nat) : Nat → Nat → Nat
  | 0, r => r
  | k + 1, r => if (r + 2 ^ k) * (r + 2 ^ k) ≤ n then isqrt n k (r + 2 ^ k) else isqrt n k r

/-- √a (R121). -/
def FVal.sqrt (a : FVal) : FVal × Flags :=
  match a with
  | .nan _ s => (.nan false false, if s then fNV else 0)
  | .inf n => if n then (.nan false false, fNV) else (.inf false, 0)
  | .fin n m e _ =>
    if m = 0 then (.fin n 0 0 false, 0)
    else if n then (.nan false false, fNV)
    else
      let up : Nat := 160 + (e % 2).toNat
      let w := m * 2 ^ up
      let r := isqrt w (Nat.log2 w / 2 + 1) 0
      (.fin false r ((e - up) / 2) (r * r != w), 0)

/-- 1 / √a of a positive finite value: the floor of a scaled reciprocal root and whether it is exact (R149). -/
def FVal.rsqrtFin (m : Nat) (e : Int) : FVal :=
  let j : Nat := 200 + Nat.log2 m + ((e + Nat.log2 m) % 2).toNat
  let w := 2 ^ j
  let r := isqrt (w / m) (Nat.log2 (w / m) / 2 + 1) 0
  .fin false r (-((e + j) / 2)) (r * r * m != w)

/-- The order of two values that are not NaN: a < b, with −0 equal to +0. -/
def FVal.lt (a b : FVal) : Bool :=
  match a, b with
  | .nan _ _, _ | _, .nan _ _ => false
  | .inf n, .inf k => n && !k
  | .inf n, .fin _ _ _ _ => n
  | .fin _ _ _ _, .inf k => !k
  | .fin n m e _, .fin k p g _ => decide (FVal.scaled n m e (min e g) < FVal.scaled k p g (min e g))

/-- Equality of two values that are not NaN, −0 equal to +0. -/
def FVal.eqv (a b : FVal) : Bool := !a.isNan && !b.isNan && !a.lt b && !b.lt a

/-! ### Conversions (R79) -/

/-- A value rounded to an integer (R75, R79): the integer and whether it is inexact. -/
def FVal.toInt (rm : RM) (neg : Bool) (m : Nat) (e : Int) (sticky : Bool) : Int × Bool :=
  let (r, ix) := roundAt rm neg m e sticky 0
  ((if neg then -(r : Int) else r), ix)

/-- Clamping to a range. -/
def clampInt (lo hi v : Int) : Int × Bool := if v < lo then (lo, true) else if hi < v then (hi, true) else (v, false)

/-- A floating value narrowed to an integer range (R79). -/
def FVal.narrowInt (rm : RM) (lo hi : Int) (v : FVal) : Int × Flags :=
  match v with
  | .nan _ _ => (0, fNV)
  | .inf n => (if n then lo else hi, fSAT)
  | .fin n m e s =>
    let (i, ix) := FVal.toInt rm n m e s
    let (c, cl) := clampInt lo hi i
    (c, (if ix then fNX else 0) ||| (if cl then fSAT else 0))

/-- A floating value narrowed to a floating format (R79). -/
def FVal.narrow (f : Fmt) (rm : RM) (v : FVal) : Nat × Flags :=
  match v with
  | .nan n s => if f.nan then (f.cnan, if s then fNV else 0) else (f.maxBits n, fNV)
  | .inf n => (f.maxBits n, fSAT)
  | .fin n m e s => if m = 0 ∧ !s then (f.sign n, 0) else roundFin f rm .clamp n m e s

/-- A widening conversion: exact, no flag, NaNs canonical (R79). -/
def FVal.widen (f : Fmt) (v : FVal) : Nat :=
  match v with
  | .nan _ _ => f.cnan
  | .inf n => f.infBits n
  | .fin n m e s => if m = 0 ∧ !s then f.sign n else (roundFin f .rne .clamp n m e s).1

/-! ### DS8 (R71, R72) -/

/-- The magnitudes of DS8 in units of 1/64, rising. -/
def ds8Mags : List Nat :=
  [0, 1, 2, 3, 4, 5, 6, 7, 8, 9, 10, 12, 14, 15, 16, 17, 18, 20, 24, 28, 30, 31, 32, 33, 34, 36, 40, 48, 56, 60, 62, 63,
   64, 65, 66, 68, 72, 80, 96, 128]

/-- One term of a DS8 code in units of 1/64. -/
def ds8Term (neg : Bool) (k : Nat) : Int :=
  if k = 7 then 0 else if neg then -((2 ^ (6 - k) : Nat) : Int) else ((2 ^ (6 - k) : Nat) : Int)

/-- The value of a DS8 code; zero is +0 (R71). -/
def ds8Decode (b : Nat) : FVal :=
  let v := ds8Term (b.testBit 7) (b / 16 % 8) + ds8Term (b.testBit 3) (b % 8)
  ofScaled v (-6) false

/-- The canonical code of a magnitude in units of 1/64 with a sign (R72). -/
def ds8Encode (neg : Bool) (d : Nat) : Nat :=
  let pairs := (List.range 7).flatMap fun a => (List.range (a + 1)).map fun b => (a, b)
  let s (n : Bool) (k : Nat) : Nat := (if n then 8 else 0) + k
  if d = 0 then 0x77
  else match (List.range 7).find? fun a => 2 ^ a == d with
    | some a => s neg (6 - a) * 16 + 7
    | none =>
      match pairs.find? fun p => 2 ^ p.1 + 2 ^ p.2 == d with
      | some p => s neg (6 - p.1) * 16 + s neg (6 - p.2)
      | none =>
        match pairs.find? fun p => 2 ^ p.1 - 2 ^ p.2 == d with
        | some p => s neg (6 - p.1) * 16 + s (!neg) (6 - p.2)
        | none => 0x77

/-- A finite value of magnitude at most 2 converted to DS8 (R72): n/2^k is its magnitude in units of 1/64. -/
def ds8Round (rm : RM) (neg : Bool) (n k : Nat) : Nat :=
  let lo := ds8Mags.foldl (fun acc d => if d * 2 ^ k ≤ n then d else acc) 0
  let hi := (ds8Mags.find? fun d => n ≤ d * 2 ^ k).getD 128
  let near (tieUp : Bool) : Nat :=
    let dl := n - lo * 2 ^ k
    let dh := hi * 2 ^ k - n
    if dl < dh then lo else if dh < dl then hi else if tieUp then hi else lo
  match rm with
  | .rne => near false
  | .rna => near true
  | .rtz => lo
  | .rup => if neg then lo else hi
  | .rdn => if neg then hi else lo

/-- Conversion to DS8 (R72, R79). -/
def FVal.toDs8 (rm : RM) (v : FVal) : Nat × Flags :=
  match v with
  | .nan n _ => (ds8Encode n 128, fNV)
  | .inf n => (ds8Encode n 128, fSAT)
  | .fin n m e _ =>
    if m = 0 then (0x77, 0)
    else
      let k := (-(e + 6)).toNat
      let num := m * 2 ^ (e + 6).toNat
      if 128 * 2 ^ k < num then (ds8Encode n 128, fSAT ||| fNX)
      else
        let d := ds8Round rm n num k
        let small := decide (num < 2 ^ k)
        (ds8Encode n d, (if d * 2 ^ k ≠ num || small then fNX else 0) ||| (if small then fUF else 0))

/-! ### Elements by format code (R66) -/

/-- The floating format of a memory format code. -/
def fmtOf (c : Nat) : Option Fmt :=
  match c with
  | 8 => some BF16
  | 9 => some FP16
  | 0xA => some FP32
  | 0xC => some E4M3
  | 0xD => some E5M2
  | 0xE => some E2M3
  | 0xF => some E2M1
  | _ => none

/-- Width in bits of a format code (R66). -/
def widthOf (c : Nat) : Nat :=
  match c with
  | 0 | 4 | 7 | 0xC | 0xD => 8
  | 1 | 5 | 8 | 9 => 16
  | 2 | 6 | 0xA => 32
  | 3 => 64
  | 0xE => 6
  | 0xF => 4
  | _ => 8

/-- The range of an integer format code (R68); none for the others. -/
def intRange (c : Nat) : Option (Int × Int) :=
  match c with
  | 0 => some (-128, 127)
  | 1 => some (-32768, 32767)
  | 2 => some (-2147483648, 2147483647)
  | 3 => some (-9223372036854775808, 9223372036854775807)
  | 4 => some (0, 255)
  | 5 => some (0, 65535)
  | 6 => some (0, 4294967295)
  | _ => none

/-- The integer that w bits give, signed or not. -/
def intOf (signed : Bool) (w b : Nat) : Int := if signed && b.testBit (w - 1) then (b : Int) - (2 ^ w : Nat) else b
/-- The low w bits of an integer. -/
def intBits (w : Nat) (v : Int) : Nat := (v % ((2 ^ w : Nat) : Int)).toNat

/-- The exact value of an element of any format code; an integer zero is +0. -/
def elemVal (c b : Nat) : FVal :=
  match fmtOf c with
  | some f => f.decode (b % 2 ^ f.width)
  | none =>
    if c = 7 then ds8Decode b
    else ofScaled (intOf (c ≤ 3) (widthOf c) (b % 2 ^ widthOf c)) 0 false

/-- An exact value narrowed into a format code (R79). -/
def toElem (c : Nat) (rm : RM) (v : FVal) : Nat × Flags :=
  match fmtOf c with
  | some f => v.narrow f rm
  | none =>
    if c = 7 then v.toDs8 rm
    else match intRange c with
      | some (lo, hi) =>
        let (i, fl) := v.narrowInt rm lo hi
        (intBits (widthOf c) i, fl)
      | none => (0, 0)

/-- The destination holds every value of a source with infinities or signalling NaNs (R79). -/
def widening (src dst : Nat) : Bool :=
  match src, dst with
  | 8, 0xA | 9, 0xA | 0xD, 9 | 0xD, 8 | 0xD, 0xA | 0xC, 9 | 0xC, 8 | 0xC, 0xA => true
  | _, _ => false

/-- The change of format of one element (R79): the same format copies bits. -/
def convertElem (src dst : Nat) (rm : RM) (b : Nat) : Nat × Flags :=
  if src = dst then (if src = 0xE then (b % 64, 0) else (b, 0))
  else match widening src dst, fmtOf dst with
    | true, some f => ((elemVal src b).widen f, 0)
    | _, _ => toElem dst rm (elemVal src b)

/-- A value times 2^k, exact. -/
def FVal.scale (v : FVal) (k : Int) : FVal :=
  match v with
  | .fin n m e s => .fin n m (e + k) s
  | w => w

/-- The canonical NaN of a format code, or the zero of a format that has none (R85; an integer zero). -/
def nanOf (c : Nat) : Nat :=
  match fmtOf c with
  | some f => if f.nan then f.cnan else 0
  | none => if c = 7 then 0x77 else 0

/-- A scaled element widened into a format code (R74). -/
def widenScaled (src code dst : Nat) (rm : RM) (b : Nat) : Nat × Flags :=
  if code = 0xFF then (nanOf dst, 0)
  else match elemVal src b with
    | .nan _ _ => (nanOf dst, 0)
    | .inf n => (match fmtOf dst with
        | some f => (f.infBits n, 0)
        | none => toElem dst rm (.inf n))
    | .fin n m e s =>
      match fmtOf dst with
      | none => toElem dst rm (.fin n m (e + code - 127) s)
      | some f =>
        if m = 0 then (f.sign n, 0)
        else
          let e1 : Int := e + code - 127
          let top : FVal := f.decode (f.maxBits false)
          if top.lt (.fin false m e1 false) then (f.maxBits n, fSAT)
          else roundFin f rm .clamp n m e1 s

/-- Quantisation of a value under a scale code (R85). -/
def quantise (dst code : Nat) (rm : RM) (v : FVal) : Nat × Flags :=
  if code = 0xFF then (nanOf dst, 0) else toElem dst rm (v.scale (127 - (code : Int)))

/-- emax of R84. -/
def emaxOf (c : Nat) : Int :=
  match c with
  | 0 => 6
  | 7 => 1
  | 0xC => 8
  | 0xD => 15
  | _ => 2

/-- The scale code of an amax for a target format (R84). -/
def scaleCode (dst : Nat) (amax : FVal) : Nat × Flags :=
  match amax with
  | .nan _ _ => (0xFF, 0)
  | .inf _ => (0xFE, fOF)
  | .fin _ m e _ =>
    if m = 0 then (0, 0)
    else
      let x := e + (Nat.log2 m : Int) - emaxOf dst
      if x < -127 then (0, fSU) else ((x + 127).toNat, 0)

/-! ### FTZ (R78) -/

/-- A subnormal input read as zero of its sign when flushing. -/
def flushIn (ftz : Bool) (f : Fmt) (b : Nat) : Nat :=
  if ftz && b / 2 ^ f.mb % 2 ^ f.eb == 0 then f.sign (f.signOf b) else b

/-- A subnormal result written as zero of its sign when flushing, with UF and NX. -/
def flushOut (ftz : Bool) (f : Fmt) (r : Nat × Flags) : Nat × Flags :=
  if ftz && r.1 / 2 ^ f.mb % 2 ^ f.eb == 0 && r.1 % 2 ^ f.mb != 0 then (f.sign (f.signOf r.1), r.2 ||| fUF ||| fNX) else r

/-! ### Arithmetic on patterns of one format -/

/-- The result of an exact operation, rounded, with its flags joined. -/
def finishF (f : Fmt) (rm : RM) (r : FVal × Flags) : Nat × Flags :=
  let (b, fl) := r.1.arith f rm
  (b, r.2 ||| fl)

def fAdd (f : Fmt) (rm : RM) (a b : Nat) : Nat × Flags := finishF f rm ((f.decode a).add rm (f.decode b))
def fSub (f : Fmt) (rm : RM) (a b : Nat) : Nat × Flags := finishF f rm ((f.decode a).add rm (f.decode b).flip)
def fMul (f : Fmt) (rm : RM) (a b : Nat) : Nat × Flags := finishF f rm ((f.decode a).mul (f.decode b))
def fDiv (f : Fmt) (rm : RM) (a b : Nat) : Nat × Flags := finishF f rm ((f.decode a).div (f.decode b))
def fSqrt (f : Fmt) (rm : RM) (a : Nat) : Nat × Flags := finishF f rm (f.decode a).sqrt
/-- c + a × b, and c − a × b, with one rounding. -/
def fMac (f : Fmt) (rm : RM) (c a b : Nat) : Nat × Flags :=
  finishF f rm ((f.decode c).mulAdd rm (f.decode a) (f.decode b))
def fNmsac (f : Fmt) (rm : RM) (c a b : Nat) : Nat × Flags :=
  finishF f rm ((f.decode c).mulAdd rm (f.decode a).flip (f.decode b))

/-- Minimum or maximum (R122): −0 below +0; one NaN gives the other operand; two give the canonical NaN. -/
def fMinMax (isMax : Bool) (f : Fmt) (a b : Nat) : Nat × Flags :=
  let x := f.decode a
  let y := f.decode b
  let fl := sigFlag x y
  if x.isNan && y.isNan then (f.cnan, fl)
  else if x.isNan then (b, fl)
  else if y.isNan then (a, fl)
  else
    let less := x.lt y || (x.eqv y && f.signOf a && !f.signOf b)
    (if less != isMax then a else b, fl)

/-- FCLASS (R123). -/
def fClass (f : Fmt) (b : Nat) : Nat :=
  let n := f.signOf b
  match f.decode b with
  | .nan _ s => if s then 256 else 512
  | .inf _ => if n then 1 else 128
  | .fin _ m _ _ =>
    if m = 0 then (if n then 8 else 16)
    else if m < 2 ^ f.mb then (if n then 4 else 32)
    else (if n then 2 else 64)

/-- A pattern with the sign given. -/
def withSign (f : Fmt) (b : Nat) (neg : Bool) : Nat := b % 2 ^ (f.eb + f.mb) + f.sign neg

end Sys2Proof.Machine
end

