-- ==== Sys2Proof/Machine/Operands.lean ====
section
/-!
DEFINITION. Vector operands: element width and placement, the prestart, body and tail of a destination, masks, second
operands, the issue checks of vector forms, domain tags, last-read marks and the element loop with its traps.
-/
namespace Sys2Proof.Machine

/-- A legal VTYPE image (R143): ET, LMUL and BL. -/
def vtypeLegal (v : Word) : Bool :=
  let et := fld v 0 4
  (et == 0 || et == 1 || et == 2 || et == 4 || et == 5 || et == 6 || et == 8 || et == 0xA)
    && decide (fld v 4 3 ≤ 3) && decide (fld v 7 3 ≤ 5)

/-- SEW of an element type (R139). -/
def sewOf (et : Nat) : Nat := widthOf et
/-- VLMAX of a VTYPE image with L lanes: 32 L / SEW × 2^LMUL (R139). -/
def vlmaxOf (v : Word) (l : Nat) : Nat := l * 32 / sewOf (fld v 0 4) * 2 ^ fld v 4 3
/-- VILL, and the VTYPE it stands in (R55). -/
def vill (v : Word) : Bool := bit v 63
def villImage : Word := 1 <<< 63
/-- VLMAX of the current configuration. While VILL is 1 the spec gives it no value (R53, R55, R139); 0 is the model's choice (log 66). -/
def State.vlmax (s : State) : Nat := if vill s.me.vtype then 0 else vlmaxOf s.me.vtype s.lanes

/-- What a vector instruction reads of its thread at issue (R139, R141). -/
structure VCtx where
  et : Nat
  sew : Nat
  lanes : Nat
  lmul : Nat
  vl : Nat
  vlmax : Nat
  estart : Nat
  ta : Bool
  ma : Bool
  rm : RM
  ftz : Bool
  te : Nat
  deriving DecidableEq, Repr

def State.vctx (s : State) : VCtx :=
  let t := s.me
  let vm := vlmaxOf t.vtype s.lanes
  { et := fld t.vtype 0 4, sew := sewOf (fld t.vtype 0 4), lanes := s.lanes, lmul := fld t.vtype 4 3,
    vl := min t.vl.toNat vm, vlmax := vm, estart := t.restart.getD t.estart.toNat, ta := bit t.vtype 10, ma := bit t.vtype 11,
    rm := rmOf t.fcsr, ftz := bit t.fcsr 15, te := fld t.fcsr 10 5 }

/-- Elements of one register (R139). -/
def VCtx.perReg (c : VCtx) : Nat := c.lanes * 32 / c.sew
/-- Registers of a group. -/
def VCtx.group (c : VCtx) (v : BitVec 5) : List Nat := (List.range (2 ^ c.lmul)).map (v.toNat + ·)
def VCtx.signed (c : VCtx) : Bool := decide (c.et ≤ 2)
def VCtx.isInt (c : VCtx) : Bool := (intRange c.et).isSome
def VCtx.isFp (c : VCtx) : Bool := c.et == 8 || c.et == 0xA
/-- FP32, or BF16 for its element type. -/
def VCtx.fmt (c : VCtx) : Fmt := if c.et = 8 then BF16 else FP32

/-- Bit position of index f of a register for elements of w bits with L lanes (R139). -/
def bitPos (w lanes f : Nat) : Nat := 32 * (f % lanes) + w * (f / lanes)
/-- Element e of a group, for elements of w bits and L lanes (R139). -/
def Thread.elem (t : Thread) (w lanes base e : Nat) : Nat :=
  let n := lanes * 32 / w
  fld (t.getV (base + e / n)) (bitPos w lanes (e % n)) w
/-- Element e of a group written. -/
def Thread.setElem (t : Thread) (w lanes base e x : Nat) : Thread :=
  let n := lanes * 32 / w
  t.setVBits (base + e / n) (bitPos w lanes (e % n)) w (putFld (t.getV (base + e / n)) (bitPos w lanes (e % n)) w x)
/-- Bit i of mask register m with L lanes: bit i / L of the slice of lane i % L (R139). -/
def Thread.maskBit (t : Thread) (lanes m i : Nat) : Bool := bit (t.getM m) (32 * (i % lanes) + i / lanes)
def Thread.setMaskBit (t : Thread) (lanes m i : Nat) (b : Bool) : Thread :=
  t.setMBit m (32 * (i % lanes) + i / lanes) b

def VCtx.get (c : VCtx) (t : Thread) (v : BitVec 5) (e : Nat) : Nat := t.elem c.sew c.lanes v.toNat e
def VCtx.put (c : VCtx) (t : Thread) (v : BitVec 5) (e x : Nat) : Thread := t.setElem c.sew c.lanes v.toNat e x
def VCtx.active (c : VCtx) (t : Thread) (vm : BitVec 3) (e : Nat) : Bool := t.maskBit c.lanes vm.toNat e
/-- The integer an element stands for, by the signedness of ET. -/
def VCtx.int (c : VCtx) (b : Nat) : Int := intOf c.signed c.sew b

/-- Every register of a group becomes live: an instruction writes it (R64). -/
def Thread.touchGroup (t : Thread) (rs : List Nat) : Thread := rs.foldl (fun t r => { t with vlive := t.vlive ||| (1 <<< r) }) t
/-- A mask register becomes live. -/
def Thread.touchM (t : Thread) (n : Nat) : Thread := { t with mlive := t.mlive ||| (1 <<< n) }
/-- A group takes a tag (R47). -/
def Thread.tagGroup (t : Thread) (rs : List Nat) (g : Word) : Thread := rs.foldl (fun t r => t.setTag r g) t
/-- The sources released at retirement: marked groups that the destination does not write (R64). A marked source that is also the
destination stays live with every element that the instruction did not write, although R141 reads a released register as zero
there: R64 leaves the two open against each other, and this is the model's choice (log 67). -/
def Thread.releaseGroups (t : Thread) (marked dst : List Nat) : Thread :=
  marked.foldl (fun t r => if dst.contains r then t else t.releaseV r) t

/-! ### Issue checks of vector forms (R102) -/

/-- A vector form's checks in the order of R102: what VTYPE decides of check 3 (R140, R145, R153), then VILL (check 5, R55), then the
grant (check 6, R28). While VILL is 1 every other field of VTYPE reads 0 (R55), and check 3 reads it so (log 11). -/
def State.vectorStop (s : State) (legal : Bool) : Option State :=
  if !legal then some (s.wordTrap 1 3)
  else if vill s.me.vtype then some (s.wordTrap 1 5)
  else if s.lanes = 0 then some (s.wordTrap 0xF 6)
  else none

/-- Group alignment (R140). -/
def aligned (c : VCtx) (v : BitVec 5) : Bool := v.toNat % 2 ^ c.lmul == 0
/-- Two groups share a register (R153). -/
def groupsMeet (c : VCtx) (a b : BitVec 5) : Bool :=
  decide (a.toNat < b.toNat + 2 ^ c.lmul ∧ b.toNat < a.toNat + 2 ^ c.lmul)

/-- References for the register-error check of groups and masks (R65). -/
def VCtx.refs (c : VCtx) (vs : List (BitVec 5)) (vm : BitVec 3) : List RegRef :=
  (vs.flatMap fun v => (c.group v).map fun n => (⟨0, n⟩ : RegRef)) ++ (if vm = 0 then [] else [⟨1, vm.toNat⟩])

/-! ### Domain tags (R214 to R218) -/

/-- The classes of R215 with their conditions. -/
inductive DomClass where
  | nonLinear
  | blind
  | one
  | like
  | bias
  | negate
  deriving DecidableEq, Repr

def isHaar (g : Word) : Bool := bit g 0
def tagLev (g : Word) : Nat := fld g 1 3
def tagMask (g : Word) : Nat := fld g 32 32
/-- Two tags are like when DOM and LEV agree (R216). -/
def like (a b : Word) : Bool := fld a 0 4 == fld b 0 4
/-- A tag with DOM, LEV and mask. -/
def mkTag (dom : Bool) (lev mask : Nat) : Word :=
  if dom then BitVec.ofNat 64 (1 + 2 * (lev % 8) + 2 ^ 32 * (mask % 2 ^ 32)) else 0

/-- Some element of vd below 32 keeps its old value under MA = 0 or TA = 0 (R216). An element before ESTART that the mask leaves out counts
as any other; one kept only because of ESTART does not. -/
def VCtx.keepsOld (c : VCtx) (t : Thread) (vm : BitVec 3) : Bool :=
  (List.range (min 32 c.vlmax)).any fun e => if c.vl ≤ e then !c.ta else !c.ma && !c.active t vm e

/-- The governing mask clears every detail row of a Haar source (R215). -/
def VCtx.clearsDetails (c : VCtx) (t : Thread) (vm : BitVec 3) (g : Word) : Bool :=
  (List.range 32).all fun e => e < 32 / 2 ^ tagLev g || !(vm != 0 && c.active t vm e || vm == 0)

/-- The result tag of a vector form, or the first offending source of its domain check (R214 to R216, R218). `dst` is the
destination whose kept elements count as a source. -/
def State.domain (s : State) (c : VCtx) (k : DomClass) (srcs : List (BitVec 5)) (dst : Option (BitVec 5)) (vm : BitVec 3) :
    Word ⊕ Trap :=
  let t := s.me
  let tag (v : BitVec 5) : Word := t.vtag.getD v.toNat 0
  let all := match dst with
    | some d => if c.keepsOld t vm && !srcs.contains d then srcs ++ [d] else srcs
    | none => srcs
  let tags := all.map tag
  let g0 := tags.headD 0
  let linear := match k with
    | .nonLinear | .blind => false
    | .one | .like => true
    | .bias => c.clearsDetails t vm (tag (srcs.headD 0))
    | .negate => srcs.all fun v => v == srcs.headD 0
  if k = .blind then .inl 0
  else if linear && tags.all (fun g => like g g0) then
    .inl (mkTag (isHaar g0) (tagLev g0) (tags.foldl (fun m g => m ||| tagMask g) 0))
  else match all.find? fun v => isHaar (tag v) with
    | some v => if bit t.dctl 0 then .inl 0
      else .inr { cause := 0xA, eval := BitVec.ofNat 64 v.toNat, eval2 := tag v }
    | none => .inl 0

/-! ### Second operands (R83, R145) -/

/-- The scalar operand of a vector-scalar form: converted once to BF16 with its flags, else its low bits (R83). -/
def VCtx.scalar (c : VCtx) (x : Word) : Nat × Flags :=
  if c.et = 8 then (FP32.decode (fld x 0 32)).arith BF16 c.rm |> fun r =>
    (r.1, r.2 ||| (if (FP32.decode (fld x 0 32)).isSig then fNV else 0))
  else (fld x 0 c.sew, 0)

/-- A vector-scalar form with its scalar operand converted once, before any element; an enabled flag of the conversion traps with
nothing written (R83). -/
def State.withScalar (s : State) (c : VCtx) (x : Word) (k : Nat → State → State) : State :=
  let (b, fl) := c.scalar x
  let s1 := s.raise fl
  if enabled s.me.fcsr fl ≠ 0 then
    s1.trap { cause := 0xC, eval := s.me.estart, eval2 := BitVec.ofNat 64 (enabled s.me.fcsr fl) }
  else k b s1

/-- imm5 sign-extended to the element width (R81). -/
def VCtx.imm (c : VCtx) (i : BitVec 5) : Nat := intBits c.sew i.toInt

/-! ### The element loop (R141, R142) -/

/-- What the elements from i on give, in order: the values and flags of those processed, and the element that raised an
enabled flag with its flags (R142). `f` answers none for an element that is not processed. -/
def runElems (te : Nat) (f : Nat → Option (Nat × Flags)) : List Nat → List (Nat × Nat × Flags) × Option (Nat × Flags)
  | [] => ([], none)
  | i :: r =>
    match f i with
    | none => runElems te f r
    | some (v, fl) =>
      if fld fl 0 5 &&& te ≠ 0 then ([], some (i, fl))
      else
        let (vs, stop) := runElems te f r
        ((i, v, fl) :: vs, stop)

/-- The body elements from ESTART on. -/
def VCtx.body (c : VCtx) : List Nat := (List.range c.vl).filter fun i => c.estart ≤ i
/-- The tail elements. -/
def VCtx.tail (c : VCtx) : List Nat := (List.range c.vlmax).filter fun i => c.vl ≤ i

/-- A destination group after its active elements took their values: inactive body elements below the stop follow MA and,
at retirement, the tail follows TA (R141). -/
def VCtx.writeDst (c : VCtx) (t : Thread) (vd : BitVec 5) (vm : BitVec 3) (govern : Bool) (vals : List (Nat × Nat))
    (stop : Option Nat) : Thread :=
  let t1 := vals.foldl (fun u p => c.put u vd p.1 p.2) (t.touchGroup (c.group vd))
  let t2 := if c.ma && govern then
      (c.body.filter fun i => !c.active t vm i && (match stop with | some k => decide (i < k) | none => true)).foldl
        (fun u i => c.put u vd i 0) t1
    else t1
  if c.ta && stop.isNone then c.tail.foldl (fun u i => c.put u vd i 0) t2 else t2

/-- The capture bits of processed elements (R96, R151). -/
def VCtx.capture (c : VCtx) (t : Thread) (vals : List (Nat × Nat × Flags)) : Thread :=
  vals.foldl (fun u p => u.setMaskBit c.lanes 7 p.1 (fld p.2.2 0 5 != 0)) t

/-- All flags of a list of processed elements. -/
def allFlags (vals : List (Nat × Nat × Flags)) : Flags := vals.foldl (fun a p => a ||| p.2.2) 0

/-- Trap of a vector element that raised an enabled flag (R142, R301). -/
def State.elemTrap (s : State) (i : Nat) (fl : Flags) : State :=
  (s.modMe fun t => { t with estart := BitVec.ofNat 64 i, restart := none }).trap
    { cause := 0xC, eval := BitVec.ofNat 64 i, eval2 := BitVec.ofNat 64 (enabled s.me.fcsr fl) }

/-- Retirement of a vector instruction: tag of the destination group, marked sources released, ESTART 0 (R64, R141, R216). -/
def State.vretire (s : State) (dst : List Nat) (tag : Option Word) (marked : List Nat) : State :=
  (s.modMe fun t =>
    let t1 := t.releaseGroups marked dst
    let t2 := match tag with | some g => t1.tagGroup dst g | none => t1
    { t2 with estart := 0, restart := none }).retire

/-- The groups that K1 and K2 mark. -/
def VCtx.marked (c : VCtx) (vs1 : BitVec 5) (k1 : BitVec 1) (vs2 : BitVec 5) (k2 : BitVec 1) : List Nat :=
  (if k1 = 1 then c.group vs1 else []) ++ (if k2 = 1 then c.group vs2 else [])

/-- An elementwise instruction with a vector destination: its elements run in order; on an enabled flag the earlier
elements stand and the trap is taken, else the instruction retires (R141, R142, R151). -/
def State.elementwise (s : State) (c : VCtx) (vd : BitVec 5) (vm : BitVec 3) (govern x : Bool) (tag : Word)
    (marked : List Nat) (f : Nat → Nat × Flags) : State :=
  let t := s.me
  let (vals, stop) := runElems c.te (fun i => if govern && !c.active t vm i then none else some (f i)) c.body
  let fl := allFlags vals ||| (match stop with | some p => p.2 | none => 0)
  let put := vals.map fun p => (p.1, p.2.1)
  let s1 := (s.modMe fun t =>
    let t1 := c.writeDst t vd vm govern put (stop.map Prod.fst)
    if x then c.capture t1 vals else t1).raise fl
  match stop with
  | some (i, e) => s1.elemTrap i e
  | none => s1.vretire (c.group vd) (some tag) marked

/-- An elementwise instruction whose destination is mask register md (R141, R155). -/
def State.elementwiseMask (s : State) (c : VCtx) (md : BitVec 5) (vm : BitVec 3) (marked : List Nat)
    (f : Nat → Bool × Flags) : State :=
  let t := s.me
  let (vals, stop) := runElems c.te
    (fun i => if c.active t vm i then some ((if (f i).1 then 1 else 0), (f i).2) else none) c.body
  let fl := allFlags vals ||| (match stop with | some p => p.2 | none => 0)
  let below (i : Nat) : Bool := match stop with | some p => decide (i < p.1) | none => true
  let s1 := (s.modMe fun t0 =>
    let t1 := t0.touchM md.toNat
    let t2 := vals.foldl (fun u p => u.setMaskBit c.lanes md.toNat p.1 (p.2.1 == 1)) t1
    let t3 := if c.ma then (c.body.filter fun i => !c.active t vm i && below i).foldl
        (fun u i => u.setMaskBit c.lanes md.toNat i false) t2 else t2
    if c.ta && stop.isNone then
      ((List.range (32 * c.lanes)).filter fun i => c.vl ≤ i).foldl (fun u i => u.setMaskBit c.lanes md.toNat i false) t3
    else t3).raise fl
  match stop with
  | some (i, e) => s1.elemTrap i e
  | none => s1.vretire [] none marked

end Sys2Proof.Machine
end

