-- ==== Sys2Proof/Machine/Control.lean ====
section
/-!
DEFINITION. Scalar loads and stores (R127 to R129), branches and jumps (R130 to R132), SUBBNZ (R134) and strip mining (R133).
-/
namespace Sys2Proof.Machine

/-- The effective address of a scalar access (R127). -/
def State.ea (s : State) (rs1 : BitVec 5) (imm : BitVec 16) : Word := s.x rs1 + sx imm

/-- A load that has passed its checks: the little-endian number of n bytes at its place. -/
def State.loaded (s : State) (p : Place) (n : Nat) : Nat := leNat (s.bytesKey p.key p.addr n)

/-- A scalar load of n bytes (R127, R128). -/
def loadForm (n : Nat) (ext : Nat → Word) (rd rs1 : BitVec 5) (imm : BitVec 16) (s : State) : Out :=
  .next (s.guard (xs [rs1])
    (match s.check (s.ea rs1 imm) n .load 0 loadWindows with
      | (.val p, s1) => s1.result rd (ext (s1.loaded p n))
      | (g, s1) => g.stop (s.ea rs1 imm) false 0 s1))

/-- A store of bytes at a checked place, or the trap of a full checkpoint log; `done` follows a store that was made. -/
def State.storeOr (s : State) (p : Place) (ea : Word) (strm : Nat) (bs : List Byte) (done : State → State) : State :=
  match s.storeAt p bs with
  | .inl s1 => done s1
  | .inr id => s.ckptTrap ea.toNat id strm

/-- A scalar store of n bytes (R127 to R129). -/
def storeForm (n : Nat) (rs rs1 : BitVec 5) (imm : BitVec 16) (s : State) : Out :=
  .next (s.guard (xs [rs1, rs])
    (match s.check (s.ea rs1 imm) n .store 0 storeWindows with
      | (.val p, s1) => s1.storeOr p (s.ea rs1 imm) 0 (leBytes n (s.x rs).toNat) State.retire
      | (g, s1) => g.stop (s.ea rs1 imm) true 0 s1))

def signExt (w : Nat) (v : Nat) : Word := BitVec.ofInt 64 (intOf true w v)
def zeroExt (v : Nat) : Word := BitVec.ofNat 64 v

/-- R127: signed byte. -/
def execLdb (rd rs1 : BitVec 5) (imm : BitVec 16) (s : State) : Out := loadForm 1 (signExt 8) rd rs1 imm s
/-- R127: unsigned byte. -/
def execLdbu (rd rs1 : BitVec 5) (imm : BitVec 16) (s : State) : Out := loadForm 1 zeroExt rd rs1 imm s
/-- R127: signed half. -/
def execLdh (rd rs1 : BitVec 5) (imm : BitVec 16) (s : State) : Out := loadForm 2 (signExt 16) rd rs1 imm s
/-- R127: unsigned half. -/
def execLdhu (rd rs1 : BitVec 5) (imm : BitVec 16) (s : State) : Out := loadForm 2 zeroExt rd rs1 imm s
/-- R127: signed word. -/
def execLdw (rd rs1 : BitVec 5) (imm : BitVec 16) (s : State) : Out := loadForm 4 (signExt 32) rd rs1 imm s
/-- R127: unsigned word. -/
def execLdwu (rd rs1 : BitVec 5) (imm : BitVec 16) (s : State) : Out := loadForm 4 zeroExt rd rs1 imm s
/-- R127: doubleword. -/
def execLdd (rd rs1 : BitVec 5) (imm : BitVec 16) (s : State) : Out := loadForm 8 zeroExt rd rs1 imm s
/-- R127: stores bits [7:0]. -/
def execStb (rs rs1 : BitVec 5) (imm : BitVec 16) (s : State) : Out := storeForm 1 rs rs1 imm s
/-- R127: stores bits [15:0]. -/
def execSth (rs rs1 : BitVec 5) (imm : BitVec 16) (s : State) : Out := storeForm 2 rs rs1 imm s
/-- R127: stores bits [31:0]. -/
def execStw (rs rs1 : BitVec 5) (imm : BitVec 16) (s : State) : Out := storeForm 4 rs rs1 imm s
/-- R127: stores bits [63:0]. -/
def execStd (rs rs1 : BitVec 5) (imm : BitVec 16) (s : State) : Out := storeForm 8 rs rs1 imm s

/-- The target of a branch: PC + sext(off16, 16) × 4 (R130). -/
def State.branchTarget (s : State) (off : BitVec 16) : Word := s.me.pc + sx off * 4

/-- A branch on two registers (R130). -/
def branchForm (cond : Word → Word → Bool) (rs1 rs2 : BitVec 5) (off : BitVec 16) (s : State) : Out :=
  .next (s.guard (xs [rs1, rs2])
    (if cond (s.x rs1) (s.x rs2) then s.jump (s.branchTarget off) else s.retire))

/-- R130: taken when equal. -/
def execBeq (rs1 rs2 : BitVec 5) (off : BitVec 16) (s : State) : Out := branchForm (fun a b => a == b) rs1 rs2 off s
/-- R130: taken when different. -/
def execBne (rs1 rs2 : BitVec 5) (off : BitVec 16) (s : State) : Out := branchForm (fun a b => a != b) rs1 rs2 off s
/-- R130: taken when less, signed. -/
def execBlt (rs1 rs2 : BitVec 5) (off : BitVec 16) (s : State) : Out := branchForm (fun a b => a.slt b) rs1 rs2 off s
/-- R130: taken when not less, signed. -/
def execBge (rs1 rs2 : BitVec 5) (off : BitVec 16) (s : State) : Out := branchForm (fun a b => !a.slt b) rs1 rs2 off s
/-- R130: taken when less, unsigned. -/
def execBltu (rs1 rs2 : BitVec 5) (off : BitVec 16) (s : State) : Out := branchForm (fun a b => a.ult b) rs1 rs2 off s
/-- R130: taken when not less, unsigned. -/
def execBgeu (rs1 rs2 : BitVec 5) (off : BitVec 16) (s : State) : Out := branchForm (fun a b => !a.ult b) rs1 rs2 off s

/-- R131: writes PC + 4 to rd and jumps by sext(off21, 21) × 4. -/
def execJal (rd : BitVec 5) (off : BitVec 21) (s : State) : Out :=
  .next ((s.setX rd (s.me.pc + 4)).jump (s.me.pc + sx off * 4))

/-- R131: jumps to rs1 + sext(imm16, 16), which must be a multiple of 4, and writes PC + 4 to rd. -/
def execJalr (rd rs1 : BitVec 5) (imm : BitVec 16) (s : State) : Out :=
  .next (s.guard (xs [rs1])
    (if fld (s.ea rs1 imm) 0 2 ≠ 0 then s.trap { cause := 4, eval := s.ea rs1 imm }
     else (s.setX rd (s.me.pc + 4)).jump (s.ea rs1 imm)))

/-- R134: rd := rd − rs, and branches when the difference is not zero. -/
def execSubbnz (rd rs : BitVec 5) (off : BitVec 16) (s : State) : Out :=
  .next (s.guard (xs [rd, rs])
    (if s.x rd - s.x rs ≠ 0 then (s.setX rd (s.x rd - s.x rs)).jump (s.branchTarget off)
     else s.result rd (s.x rd - s.x rs)))

/-- The pointer register and shift of SPSET entry i (R56). -/
def pregOf (sp : Word) (i : Nat) : BitVec 5 := BitVec.ofNat 5 (fld sp (8 * i) 5)
def pszOf (sp : Word) (i : Nat) : Nat := fld sp (8 * i + 5) 2

/-- The pointer registers of the entries that mask4 selects advance by the old VL (R133). -/
def State.advance (s : State) (mask4 : BitVec 4) (old : Word) : List Nat → State
  | [] => s
  | i :: r =>
    let p := pregOf s.me.spset i
    let s1 := if bit mask4 i && p != 0 then s.setX p (s.x p + (old <<< pszOf s.me.spset i)) else s
    s1.advance mask4 old r

/-- Unsigned minimum with a number. -/
def minWord (w : Word) (n : Nat) : Word := BitVec.ofNat 64 (min w.toNat n)

/-- R133: the lane boundary, the checks, the pointers, then VL := min(rs1, VLMAX), copied to rd. -/
def execStrip (rd rs1 : BitVec 5) (mask4 : BitVec 4) (s : State) : Out :=
  .next (s.guard (xs (rs1 :: ((List.range 4).filter fun i => bit mask4 i).map (pregOf s.me.spset)))
    (let b := s.boundary
     if b.lanes = 0 then b.wordTrap 0xF 6
     else if vill b.me.vtype then b.wordTrap 1 5
     else
       let vl := minWord (b.x rs1) b.vlmax
       (((b.advance mask4 b.me.vl [0, 1, 2, 3]).modMe fun t => { t with vl := vl }).result rd vl)))

end Sys2Proof.Machine
end

