-- ==== Sys2Proof/Machine/Csr.lean ====
section
/-!
DEFINITION. The CSRs (R53 to R60, R135 to R137, R295, R321, R325, R327): the value of each on a read, the fields each
write changes and its further effects, ownership of tiles and latches, and the CSR instructions.
-/
namespace Sys2Proof.Machine

/-! ### Ownership of tiles and latches (R60, R62) -/

/-- The owner byte of a unit: 0 to 7 tiles, 8 to 11 la0, la1, lb0, lb1. -/
def Core.ownerByte (c : Core) (u : Nat) : Nat := if u < 8 then fld c.town (8 * u) 8 else fld c.lown (8 * (u - 8)) 8
def Core.setOwner (c : Core) (u b : Nat) : Core :=
  if u < 8 then { c with town := putFld c.town (8 * u) 8 b } else { c with lown := putFld c.lown (8 * (u - 8)) 8 b }

/-- The name of a unit's storage in error marks: a tile, or a latch by its number 0 to 3. That cause 0x12 names a latch by 0 to 3 where
R60 counts units 8 to 11 is the model's reading of R65's "latch number" (log 63). -/
def unitRef (u : Nat) : RegRef := if u < 8 then ⟨4, u⟩ else ⟨5, u - 8⟩

/-- A tile's tag written as a whole, errors of its storage included (R65, log 47). -/
def Core.putTag (c : Core) (u : Nat) (g : Word) : Core :=
  { c with ttag := c.ttag.setIfInBounds u g, unitErr := c.unitErr.filter fun e => e.ref != ⟨3, 0x010 + u⟩ }

/-- A unit's storage written as a whole ends its errors (R65, log 47). -/
def Core.endUnitMarks (c : Core) (u : Nat) : Core := { c with unitErr := c.unitErr.filter fun e => e.ref != unitRef u }

/-- A tile's rows and tag written as a whole. -/
def Core.putTile (c : Core) (u : Nat) (rows : Vector VReg 32) (g : Word) : Core :=
  { (c.putTag u g).endUnitMarks u with acc := c.acc.setIfInBounds u rows }

/-- A latch written as a whole, by its unit number. -/
def Core.putLatch (c : Core) (u : Nat) (l : Latch) : Core :=
  { c.endUnitMarks u with latch := c.latch.setIfInBounds (u - 8) l }

/-- A unit's contents read as zero, its tag is 0, and a latch is empty (R60, R62, R187). -/
def Core.zeroUnit (c : Core) (u : Nat) : Core :=
  if u < 8 then c.putTile u (Vector.replicate 32 0) 0 else c.putLatch u {}

/-- A released unit: unowned, zero, its zeroing under way in the background (R62). -/
def Core.releaseUnit (c : Core) (u : Nat) : Core :=
  let c1 := (c.setOwner u 0).zeroUnit u
  { c1 with zeroing := if c1.zeroing.contains u then c1.zeroing else u :: c1.zeroing }

/-- The owner check of one unit (R60): proceed, wait for its zeroing, or trap. -/
inductive Claim where
  | ok (s : State)
  | wait
  | trap (t : Trap)

/-- The owner check of the current thread on a unit, with the claim of an unowned one. -/
def State.claim (s : State) (u : Nat) : Claim :=
  let c := s.myCore
  let b := c.ownerByte u
  let ctx := fld s.me.ctxid 0 7
  if c.zeroing.contains u then .wait
  else if b < 128 then .ok (s.modMyCore fun c => (c.zeroUnit u).setOwner u (128 + ctx))
  else if b % 128 = ctx then .ok s
  else .trap { cause := 0xB, eval := BitVec.ofNat 64 u }

/-- The owner checks of several units in order (R173 check 2): the state with its claims, and how they end. -/
def State.claims (s : State) : List Nat → State × Option (Option Trap)
  | [] => (s, none)
  | u :: r =>
    match s.claim u with
    | .ok s1 => s1.claims r
    | .wait => (s, some none)
    | .trap t => (s, some (some t))

/-- The instruction after its owner checks; a wait leaves the state as the claims made it. -/
def State.owning (s : State) (units : List Nat) (k : State → State) : State :=
  match s.claims units with
  | (s1, none) => k s1
  | (s1, some none) => s1.stall
  | (s1, some (some t)) => s1.trap t

/-- The instruction after its owner checks, which come before any other check of what it reads (R60); then errors of the registers that
it reads. The trap of an error has no effect, so that no claim of the instruction stands (R65). -/
def State.owned (s : State) (units : List Nat) (refs : List RegRef) (k : State → State) : State :=
  s.owning units fun s1 =>
    match s1.regError refs with
    | some r => s.regTrap r
    | none => (k s1).repair (s1.softMarks refs)

/-! ### Reading -/

/-- TILEDIM (R57): 32 rows, 32 columns, 8 tiles, or 0. -/
def State.tileDim (s : State) : Word := if s.hasArray s.cur then 0x8820 else 0
/-- FEAT (R327). -/
def State.feat (s : State) : Word := if s.hasArray s.cur then 0x1F else 0x1D
/-- CYCLE: the cycles since the core's reset, a free value (R53). -/
def State.cycle (s : State) : Word :=
  BitVec.ofNat 64 (Config.cyclesTo s.steps - Config.cyclesTo (s.layer (layerOf s.cur)).resetStep)
/-- HENT n with PEND, the inbox messages of the channel (R19). -/
def Core.hentRead (c : Core) (n : Nat) : Word :=
  putFld (c.hent.getD n 0) 37 7 ((c.inbox.filter fun m => m.chan == n).length)
/-- LPART as it reads: groups the core lacks read 0 (R25). -/
def lpartBits (all : Nat) : Word :=
  if all = 3 then 0x0000_030F_3333_3333#64 else 0x0000_0FFF_FFFF_FFFF#64

/-- The value of a CSR (R53, R59, R321, R325, R327); numbers not listed never reach this. -/
def State.readCsr (s : State) (n : Nat) : Word :=
  let t := s.me
  let c := s.myCore
  match n with
  | 0x001 => t.fcsr
  | 0x002 => t.vtype
  | 0x003 => t.vl
  | 0x004 => BitVec.ofNat 64 s.vlmax
  | 0x005 => t.estart
  | 0x006 => t.sstart
  | 0x007 => t.spset
  | 0x008 => t.dctl
  | 0x009 => t.vfill
  | 0x020 => t.taskid
  | 0x021 => BitVec.ofNat 64 (coreId s.cur + 4096 * s.curSlot)
  | 0x022 => BitVec.ofNat 64 (s.clsOf s.cur)
  | 0x023 => BitVec.ofNat 64 s.lanes
  | 0x024 => s.tileDim
  | 0x025 => s.feat
  | 0x030 => s.cycle
  | 0x031 => t.retired
  | 0x050 => s.myCluster.cflags
  | 0x051 => (s.layer (layerOf s.cur)).lflags
  | 0x060 => BitVec.ofNat 64 t.glease
  | 0x061 => BitVec.ofNat 64 (s.myTower.frame % 2 ^ 48)
  | 0x100 => c.xb
  | 0x101 => c.ovh
  | 0x102 => c.evec
  | 0x103 => t.ecause
  | 0x104 => t.epc
  | 0x105 => t.eval
  | 0x106 => t.eval2
  | 0x107 => t.estat
  | 0x108 => c.lpart &&& lpartBits (s.groupMask s.cur)
  | 0x109 => c.town
  | 0x10A => c.bkey
  | 0x10B => t.savep
  | 0x10C => t.ctxid
  | 0x10D => c.lown
  | 0x10E => if s.myTower.injen then c.einj else 0
  | 0x10F => t.oclaim
  | n =>
    if 0x010 ≤ n ∧ n ≤ 0x017 then c.ttag.getD (n - 0x010) 0
    else if 0x040 ≤ n ∧ n ≤ 0x047 then t.wm.getD (n - 0x040) 0
    else if 0x120 ≤ n ∧ n ≤ 0x13F then c.hentRead (n - 0x120)
    else 0

/-! ### Writing -/

/-- FCSR as a write leaves it: RM keeps its value for 5 to 7, reserved bits read zero (R54). -/
def fcsrWrite (old v : Word) : Word :=
  let w : Word := v &&& 0xFFFF
  if fld v 0 3 ≤ 4 then w else putFld w 0 3 (fld old 0 3)

/-- LPART written: only PENDG, HOME and LENT take the value, for the groups the core has (R25, R137). -/
def lpartWrite (all : Nat) (old v : Word) : Word :=
  let m : Word := 0x0000_0FFF_FFFF_0000#64 &&& lpartBits all
  (old &&& ~~~m) ||| (v &&& m)

/-- A tile tag written by a CSR form: a LEV of 6 or 7 leaves LEV unchanged (R51). -/
def ttagWrite (old v : Word) : Word :=
  let w : Word := v &&& 0xFFFF_FFFF_0000_000F#64
  if fld v 1 3 ≤ 5 then w else putFld w 1 3 (fld old 1 3)

/-- A handler entry written: PEND and the reserved bits do not take the write (R19). -/
def hentWrite (old v : Word) : Word := (old &&& ~~~0x1F_FFFF_FFFF#64) ||| (v &&& 0x1F_FFFF_FFFF#64)

/-- The channel of a thread has an incomplete bound command (R258, R259). -/
def State.channelBusy (s : State) (n k q : Nat) : Bool :=
  ((s.cluster (clusterOf n)).queues.getD q []).any fun e => e.wm && e.core == n && e.slot == k

/-- WMq written by software: ignored while the channel has an incomplete bound command; else it drops a rewound range
(R259). -/
def State.writeWm (s : State) (n k q : Nat) (v : Word) : State :=
  if s.channelBusy n k q then s
  else s.modThread n k fun t => { t with wm := t.wm.setIfInBounds q v, rewound := t.rewound.setIfInBounds q none }

/-- OCLAIM written: at most one owner byte changes, and the slot's read value is the byte before and DONE (R325). -/
def State.writeOclaim (s : State) (n k : Nat) (v : Word) : State :=
  let c := s.core n
  let u := fld v 0 4
  let b := if u < 12 then c.ownerByte u else 0
  let act := decide (u < 12) && (if bit v 15 then b ≥ 128 && b % 128 == fld v 16 7 else b < 128)
  let s1 := if act then s.modCore n fun c => c.setOwner u (128 + fld v 8 7) else s
  s1.modThread n k fun t => { t with oclaim := BitVec.ofNat 64 (b + if act then 256 else 0) }

/-- A write to a CSR of the current thread or its core (R53 to R60, R137); RO registers and fields ignore it (R9). -/
def State.writeCsr (s : State) (n : Nat) (v : Word) : State :=
  match n with
  | 0x001 => s.setFcsr (fcsrWrite s.me.fcsr v)
  | 0x002 =>
    if vtypeLegal v then
      let im : Word := v &&& 0xFFF
      s.modMe fun t => { t with vtype := im, vl := minWord t.vl (vlmaxOf im s.lanes) }
    else s.modMe fun t => { t with vtype := villImage }
  | 0x003 => s.modMe fun t => { t with vl := minWord v s.vlmax }
  | 0x005 => s.modMe fun t => { t with estart := v &&& 0xFFFF }
  | 0x006 => s.modMe fun t => { t with sstart := v &&& 3 }
  | 0x007 => s.modMe fun t => { t with spset := v &&& 0x7F7F_7F7F }
  | 0x008 => s.modMe fun t => { t with dctl := v &&& 1 }
  | 0x009 => s.modMe fun t => { t with vfill := v &&& 0xFFFF_FFFF }
  | 0x031 => s.modMe fun t => { t with retired := v - 1 }
  | 0x100 => s.modMyCore fun c => { c with xb := v &&& 0x7F000 }
  | 0x101 => s.modMyCore fun c => { c with ovh := v }
  | 0x102 => s.modMyCore fun c => { c with evec := v }
  | 0x103 => s.modMe fun t => { t with ecause := v &&& 0xFF }
  | 0x104 => s.modMe fun t => { t with epc := v }
  | 0x105 => s.modMe fun t => { t with eval := v }
  | 0x106 => s.modMe fun t => { t with eval2 := v }
  | 0x107 => s.modMe fun t => { t with estat := (t.estat &&& ~~~1#64) ||| (v &&& 1) }
  | 0x108 => s.modMyCore fun c => { c with lpart := lpartWrite (s.groupMask s.cur) c.lpart v }
  | 0x109 => s.modMyCore fun c => { c with town := v }
  | 0x10A => s.modMyCore fun c => { c with bkey := v }
  | 0x10B => s.modMe fun t => { t with savep := v }
  | 0x10C => s.modMe fun t => { t with ctxid := v &&& 0x7F }
  | 0x10D => s.modMyCore fun c => { c with lown := v &&& 0xFFFF_FFFF }
  | 0x10E => if s.myTower.injen then s.modMyCore fun c => { c with einj := v &&& 0xFFFF_FF7F } else s
  | 0x10F => s.writeOclaim s.cur s.curSlot v
  | n =>
    if 0x010 ≤ n ∧ n ≤ 0x017 then
      s.modMyCore fun c => c.putTag (n - 0x010) (ttagWrite (c.ttag.getD (n - 0x010) 0) v)
    else if 0x040 ≤ n ∧ n ≤ 0x047 then s.writeWm s.cur s.curSlot (n - 0x040) v
    else if 0x120 ≤ n ∧ n ≤ 0x13F then
      s.modMyCore fun c =>
        { c with hent := c.hent.setIfInBounds (n - 0x120) (hentWrite (c.hent.getD (n - 0x120) 0) v) }
    else s

/-! ### The CSR instructions (R135, R136) -/

/-- A tile tag CSR touches its tile (R51); the number of the tile. -/
def tileOfCsr (n : Nat) : Option Nat := if 0x010 ≤ n ∧ n ≤ 0x017 then some (n - 0x010) else none
/-- Units whose zeroing a write of the CSR waits for (R326). -/
def State.csrWaits (s : State) (n : Nat) (w : Option Word) : Bool :=
  match w with
  | none => false
  | some v =>
    ((n == 0x109 || n == 0x10D) && !s.myCore.zeroing.isEmpty)
      || (n == 0x10F && s.myCore.zeroing.contains (fld v 0 4))

/-- The CSR takes a write: it is not read-only (R53, R59), its channel is not busy (R259), injection is not closed (R321). A write that it
ignores changes nothing (R9). -/
def State.csrTakes (s : State) (n : Nat) : Bool :=
  if 0x040 ≤ n ∧ n ≤ 0x047 then !s.channelBusy s.cur s.curSlot (n - 0x040)
  else if n = 0x10E then s.myTower.injen
  else [0x001, 0x002, 0x003, 0x005, 0x006, 0x007, 0x008, 0x009, 0x031].contains n || decide (0x010 ≤ n ∧ n ≤ 0x017)
    || decide (0x100 ≤ n ∧ n ≤ 0x13F)

/-- A write that a CSR takes: its storage is written, and the error marks on it end (R65, log 47). -/
def State.putCsr (s : State) (n : Nat) (v : Word) : State :=
  if s.csrTakes n then (s.marksOf ⟨3, n⟩).foldl State.endMark (s.writeCsr n v) else s

/-- A CSR form: privilege (check 4), the touch of a tile, then rd takes the old value and the CSR the new one. `reads` says that the
form reads the CSR; `w` is the value to write as a function of the old one, none when the form does not write. The form waits at its
issue until the thread's older slices have retired (R136): `State.heldBySlices`. -/
def csrForm (rd : BitVec 5) (csr : BitVec 12) (reads : Bool) (refs : List RegRef) (w : Option (Word → Word)) (s : State) : Out :=
  let n := csr.toNat
  .next (
    if 0x100 ≤ n ∧ s.me.level = .T then s.wordTrap 3 4
    else s.owned (tileOfCsr n).toList (refs ++ if reads then [⟨3, n⟩] else []) fun s1 =>
      let old := s1.readCsr n
      let new := w.map fun f => f old
      if s1.csrWaits n new then s1.stall
      else (match new with | some v => s1.putCsr n v | none => s1).result rd old)

/-- R135: reads the CSR into rd and writes rs1 to it; with rd = x0 it does not read. -/
def execCsrrw (rd rs1 : BitVec 5) (csr : BitVec 12) (s : State) : Out :=
  csrForm rd csr (rd != 0) (xs [rs1]) (some fun _ => s.x rs1) s
/-- R135: sets the bits of rs1, unless the rs1 field is 0. -/
def execCsrrs (rd rs1 : BitVec 5) (csr : BitVec 12) (s : State) : Out :=
  csrForm rd csr true (xs [rs1]) (if rs1 = 0 then none else some fun o => o ||| s.x rs1) s
/-- R135: clears the bits of rs1, unless the rs1 field is 0. -/
def execCsrrc (rd rs1 : BitVec 5) (csr : BitVec 12) (s : State) : Out :=
  csrForm rd csr true (xs [rs1]) (if rs1 = 0 then none else some fun o => o &&& ~~~s.x rs1) s
/-- R135: reads the CSR into rd and writes the immediate; with rd = x0 it does not read. -/
def execCsrrwi (rd zimm : BitVec 5) (csr : BitVec 12) (s : State) : Out :=
  csrForm rd csr (rd != 0) [] (some fun _ => zx zimm) s
/-- R135: sets the bits of the immediate, unless it is 0. -/
def execCsrrsi (rd zimm : BitVec 5) (csr : BitVec 12) (s : State) : Out :=
  csrForm rd csr true [] (if zimm = 0 then none else some fun o => o ||| zx zimm) s
/-- R135: clears the bits of the immediate, unless it is 0. -/
def execCsrrci (rd zimm : BitVec 5) (csr : BitVec 12) (s : State) : Out :=
  csrForm rd csr true [] (if zimm = 0 then none else some fun o => o &&& ~~~zx zimm) s

end Sys2Proof.Machine
end

