-- ==== Sys2Proof/Machine/Joins.lean ====
section
/-!
DEFINITION. The ends of tasks as other agents bring them about: join-object updates (R12, R38), withdrawal of fault
records (R304, R388), kills of threads, messages, queued tasks, saved contexts and launches (R284, R377), the end of a launch.
-/
namespace Sys2Proof.Machine

/-! ### Join objects (R12, R37, R38) -/

/-- A join object's update at one stage: the word's offset and its new value; none when the stage has nothing to do. -/
def JoinOp.update (j : JoinOp) : Option (Nat × (Word → Word)) :=
  match j.stage with
  | 0 => if j.zero then some (0, fun _ => 0) else none
  | 1 => if j.status = 0 then none else some (8, fun v => v ||| j.status)
  | 2 => j.fail.map fun id => (16, fun v => if v = BitVec.allOnes 64 then id else v)
  | _ => if j.dec = 0 then none else some (0, fun v => v - BitVec.ofNat 64 j.dec)

/-- The fault record of a join update (R387). -/
def JoinOp.record (j : JoinOp) (va : Nat) (f : FaultRef) (who : Requester) : FaultRec :=
  { w0 := BitVec.ofNat 64 (va % 2 ^ 52 + 2 ^ 52 + 2 ^ 57)
    w1 := BitVec.ofNat 64 (j.core + j.slot * 2 ^ 12 + j.asn * 2 ^ 16 + f.kind * 2 ^ 24 + f.level * 2 ^ 27)
    w2 := f.entry, w3 := j.taskid, who := who, seq := 0 }

/-- The updates from the current stage on: a missing translation stops them with a fault record, a layer without power until it has
power (R296); an update that cannot be made is dropped with a machine check of SRC 10 (R38). -/
def State.joinRun (s : State) (tw : Nat) (who : Requester) (j : JoinOp) : Nat → State × JoinOp
  | 0 => (s, j)
  | n + 1 =>
    if 4 ≤ j.stage then (s, j)
    else
      let next : JoinOp := { j with stage := j.stage + 1, waiting := false, power := none }
      let dropped := s.machineCheck tw 10 j.core j.slot j.addr j.taskid 0
      match j.update with
      | none => s.joinRun tw who next n
      | some (off, f) =>
        match s.calderaPlace tw j.asn (j.addr.toNat + off) .atomic with
        | .fault r =>
          (s.modTower tw fun t => { t with heldFaults := t.heldFaults ++ [j.record (j.addr.toNat + off) r who] },
            { j with waiting := true })
        | .ok p =>
          if s.unreadable p.addr 8 then dropped.joinRun tw who next n
          else
            let s1 := s.touchLayer p.addr
            if s1.powerWaits p.addr then (s1, { j with waiting := true, power := (sramLayer p.addr).map Prod.fst })
            else
            let v : Word := BitVec.ofNat 64 (leNat (s1.bytesKey p.key p.addr 8))
            (s1.writeTo p (leBytes 8 (f v).toNat)).joinRun tw who next n
        | _ => dropped.joinRun tw who next n

/-! ### Launches (R12, R43, R367) -/

/-- Doubleword i of a launch record. -/
def recWord (r : List Word) (i : Nat) : Word := r.getD i 0
def Launch.join (l : Launch) : Word := recWord l.record 3

/-- A record enters the ring of a queue (R14, R369). -/
def State.enqueueRec (s : State) (tw q : Nat) (e : QEntry) : State :=
  s.modTower tw fun t =>
    let v := t.queues.getD q {}
    let v1 : Queue :=
      { v with ring := v.ring ++ [e], since := if v.ring.isEmpty && v.returned.isEmpty then s.steps else v.since }
    { t with queues := t.queues.setIfInBounds q v1 }

/-- The first index from i on that is not in a list. -/
def nextFrom (removed : List Nat) : Nat → Nat → Nat
  | 0, i => i
  | n + 1, i => if removed.contains i then nextFrom removed n (i + 1) else i

/-- The next task of a launch to dispatch: none when every task has been dispatched or removed. -/
def Launch.nextIndex (l : Launch) : Option Nat :=
  let i := nextFrom l.removed l.removed.length l.next
  if i < l.count then some i else none

/-- TASKID of a launch's task (R22). -/
def taskIdOf (slot index : Nat) : Word := BitVec.ofNat 64 (slot * 2 ^ 32 + index % 2 ^ 32)

/-- A launch whose last task has retired ends: its slot and its pool are free (R43); requests of its tasks that are not answered are
dropped (R324). -/
def State.endLaunch (s : State) (tw slot : Nat) : State :=
  match look (s.tower tw).launches slot with
  | none => s
  | some l =>
    if l.retired < l.count then s
    else s.modTower tw fun t =>
      { t with launches := drop t.launches slot,
               wqry := t.wqry.filter fun w => w.launch != slot,
               reclaim := (t.reclaim.map fun r => (r.1, r.2.1, r.2.2.filter (· != slot))).filter fun r => !r.2.2.isEmpty,
               pools := t.pools.map fun p => if p.2.launch = some slot then (p.1, { p.2 with launch := none }) else p }

/-- Tasks of a launch count as retired. -/
def State.retireCount (s : State) (tw slot n : Nat) : State :=
  (s.modTower tw fun t => { t with launches := t.launches.map fun p =>
    if p.1 = slot then (p.1, { p.2 with retired := p.2.retired + n }) else p }).endLaunch tw slot

/-! ### Barrier words and withdrawal (R273, R276) -/

/-- REGS of a barrier changed by one (R276). -/
def regsAdd (w : Word) (up : Bool) : Word := putFld w 0 16 (if up then fld w 0 16 + 1 else fld w 0 16 + 65535)

/-- The withdraw-broken message of a registration (R276): REGS falls by one and BROKEN is set. -/
def State.withdrawBroken (s : State) (core ea : Nat) : State :=
  match localPlace core false ea with
  | none => s
  | some p =>
    let s1 := s.setObjWord (p.addr + 8) (regsAdd (s.objWord (p.addr + 8)) false)
    s1.setObjWord p.addr (putBit (s1.objWord p.addr) 48 true)

/-! ### Operations of Lahar on join objects (R12, R38, R43, R284) -/

/-- The registrations of an operation withdraw, each once the layer that holds its barrier has power; the access wakes the layer
(R276, R296). -/
def State.withdrawRun (s : State) (j : JoinOp) : List (Nat × Nat) → State × JoinOp
  | [] => (s, { j with regs := [], waiting := false, power := none })
  | (n, ea) :: r =>
    match localPlace n false ea with
    | none => s.withdrawRun j r
    | some p =>
      let s1 := s.touchLayer p.addr
      if s1.powerWaits p.addr then
        (s1, { j with regs := (n, ea) :: r, waiting := true, power := (sramLayer p.addr).map Prod.fst })
      else (s1.withdrawBroken n ea).withdrawRun j r

/-- An operation of Lahar's own goes on: the withdrawals, the join updates, then the retirement that follows them. It is kept while a
fault record of it is not answered, or a layer has no power for it. -/
def State.runJob (s : State) (tw id : Nat) (j : JoinOp) : State :=
  let (s0, j0) := s.withdrawRun j j.regs
  let (s1, j1) := if j0.waiting then (s0, j0) else s0.joinRun tw (.lahar id) j0 5
  if j1.waiting then s1.modTower tw fun t => { t with jobs := put t.jobs id j1 }
  else
    let s2 := s1.modTower tw fun t => { t with jobs := drop t.jobs id }
    match j1.retire with
    | some (slot, n) => s2.retireCount tw slot n
    | none => s2

/-- An operation that waited may go on. -/
def JoinOp.ready (j : JoinOp) : JoinOp := { j with waiting := false, power := none }

/-- The power of a layer is up, or its replica copied: the join updates that waited for it go on, those of retiring threads at their
next TASK_RETIRE (R38, R296). -/
def State.resumeJoins (s : State) (gl : Nat) : State :=
  let s1 := s.cores.foldl (fun st p => (List.range 4).foldl (fun st k =>
    match (st.thread p.1 k).wait with
    | .retiring how (some j) =>
      if j.power = some gl then st.modThread p.1 k fun t => { t with wait := .retiring how (some j.ready) } else st
    | _ => st) st) s
  (List.range 2).foldl (fun st tw =>
    ((st.tower tw).jobs.filter fun p => p.2.power == some gl).foldl (fun st p => st.runJob tw p.1 p.2.ready) st) s1

/-- An operation of Lahar's own begins, without updates when no join object is named: the state and the operation's number. -/
def State.laharJob (s : State) (tw : Nat) (j : JoinOp) : State × Nat :=
  let id := (s.tower tw).nextJob
  if j.addr = 0 ∧ j.regs.isEmpty ∧ j.retire.isNone then (s, id)
  else
    ((s.modTower tw fun t => { t with nextJob := id + 1 }).runJob tw id (if j.addr = 0 then { j with stage := 4 } else j), id)

/-- Tasks that retire without a slot, as one operation of Lahar: `ids` are their indices, `regs` the registrations that they hold. They
count as retired when their join updates are over (R43). With it the operation's number, while it goes on (R38, R284). -/
def State.retireUnbound (s : State) (tw slot : Nat) (status : Word) (ids : List Nat) (n : Nat) (regs : List (Nat × Nat) := []) :
    State × List Nat :=
  match look (s.tower tw).launches slot with
  | none => (s, [])
  | some l =>
    if n = 0 then (s, [])
    else
      let id := taskIdOf slot (ids.headD 0)
      let (s1, j) := s.laharJob tw
        { asn := l.asn, addr := l.join, status := status, fail := some id, dec := n, taskid := id, regs := regs
          retire := some (slot, n) }
      (s1, if (look (s1.tower tw).jobs j).isSome then [j] else [])

/-! ### Fault records (R304, R388) -/

/-- The fault records of a requester are withdrawn: those in the ring are marked, one held for a full ring is dropped. -/
def State.withdraw (s : State) (tw : Nat) (who : Requester) : State :=
  s.modTower tw fun t =>
    { t with heldFaults := t.heldFaults.filter fun r => r.who != who
             faults := t.faults.map fun p =>
               if p.2.who = who && !p.2.answered then (p.1, { p.2 with w0 := p.2.w0 ||| (1 <<< 58), answered := true }) else p }

/-! ### Kills (R284, R304, R310, R377) -/

/-- A thread that may be killed: it holds a context and has not begun the steps of R43. One that has faulted, been killed or been
discarded, and still waits for its commands before those steps, counts as not yet retired, the model's choice (log 86). -/
def Thread.killable (t : Thread) : Bool :=
  t.occ != .free && (match t.wait with | .retiring _ (some _) => false | _ => true)

/-- The context of a slot stops at its issue boundary and retires in the given way (R284, R300, R318): slices that have not
started are dropped, a fault record is withdrawn. -/
def State.endThread (s : State) (n k : Nat) (how : Ending) : State :=
  let s1 := s.modCore n fun c =>
    { c with slices := c.slices.filter fun x => !(x.slot == k && !x.started) }
  (s1.withdraw (towerOf n) (.thread n k)).modThread n k fun t => { t with wait := .retiring how none, watchdog := none }

/-- The reservation of a message is returned: of a task record by its private range (R15), of a resume by its slot (R312). -/
def Core.dropResv (c : Core) (p : Resv → Bool) : Core := { c with resv := c.resv.filter fun r => !p r }

/-- Reservations that belong to a task record not yet bound. -/
def recordResv (i : TaskInfo) (r : Resv) : Bool := r.slot.isNone && r.pbase == i.pbase

/-- A save block's RES field as it stands in memory, or as it stood at the save (R312). -/
def State.resOf (s : State) (tw : Nat) (sv : Saved) : BitVec 12 × BitVec 12 :=
  match s.calderaPlace tw sv.info.asn (sv.block.toNat + 0x18) .load with
  | .ok p => (BitVec.ofNat 12 (leNat (s.bytesKey p.key p.addr 8)), BitVec.ofNat 12 (leNat (s.bytesKey p.key (p.addr + 4) 4)))
  | _ => (sv.res, sv.savedUnits)

/-- Units of a core's array that still belong to a context number are released (R62, R300). -/
def Core.releaseOwned (c : Core) (ctx : Nat) : Core :=
  (List.range 12).foldl (fun c u => if c.ownerByte u = 128 + ctx then c.releaseUnit u else c) c

/-- A saved context retires without resumption: its registrations withdraw, its units are released (R276, R284, R300, R377). -/
def State.retireSaved (s : State) (tw : Nat) (sv : Saved) (status : Word) : State × List Nat :=
  let s1 := (s.modCore sv.core fun c => c.releaseOwned sv.ctx).modTower tw fun t =>
    { t with saved := t.saved.filter fun x => !(x.ctx == sv.ctx && x.core == sv.core)
             launches := t.launches.map fun p =>
               if p.1 = sv.info.launch then (p.1, { p.2 with saved := p.2.saved - 1 }) else p }
  s1.retireUnbound tw sv.info.launch status [fld sv.taskid 0 32] 1 (sv.regs.map fun a => (sv.core, a))

/-- What a kill has brought about: how many tasks, which threads it waits for, which join operations. -/
structure Killed where
  count : Nat := 0
  threads : List (Nat × Nat × Nat) := []
  jobs : List Nat := []

/-- The threads of a tower that hold a context of a launch's task chosen by index. -/
def State.holders (s : State) (tw slot : Nat) (sel : Nat → Bool) : List (Nat × Nat × Nat) :=
  (s.cores.filter fun p => towerOf p.1 == tw).flatMap fun p =>
    (List.range 4).filterMap fun k =>
      let t := p.2.threads.getD k {}
      if t.occ == .task && t.killable && (t.task.map TaskInfo.launch) == some slot && sel (fld t.taskid 0 32)
      then some (p.1, k, t.bindStamp) else none

/-- A layer holds work, or has just held it: its idle time starts anew (R400). -/
def State.engage (s : State) (gl : Nat) : State := s.modLayer gl fun l => { l with idle := 0, busy := true }

/-- Messages leave the inbox of a core without being bound; until now the layer held them (R400). -/
def State.leaveInbox (s : State) (n : Nat) (which : Msg → Bool) : State :=
  let s1 := s.modCore n fun c => { c with inbox := c.inbox.filter fun m => !which m }
  if (s.core n).inbox.any which then s1.engage (layerOf n) else s1

/-- Task records on their way to, or in, the inboxes of a tower: removed with their reservations; the indices removed. -/
def State.dropMessages (s : State) (tw slot : Nat) (sel : Nat → Bool) : State × List Nat :=
  let hit (m : Msg) : Bool := match m.task with | some i => i.launch == slot && sel i.index | none => false
  (s.cores.filter fun p => towerOf p.1 == tw).foldl (fun acc p =>
    let gone := (p.2.inbox ++ p.2.net).filter hit
    if gone.isEmpty then acc
    else
      ((acc.1.leaveInbox p.1 hit).modCore p.1 fun c =>
        (gone.filterMap Msg.task).foldl (fun c i => c.dropResv (recordResv i)) { c with net := c.net.filter fun m => !hit m },
        acc.2 ++ gone.filterMap fun m => m.task.map TaskInfo.index)) (s, [])

/-- Tasks of a launch not yet dispatched are removed: those in a return list, and those of the record still in its ring. -/
def State.dropQueued (s : State) (tw slot : Nat) (sel : Nat → Bool) (all : Bool) (index : Nat) : State × List Nat × Nat :=
  match look (s.tower tw).launches slot with
  | none => (s, [], 0)
  | some l =>
    let q := (s.tower tw).queues.getD l.queue {}
    let hit (i : TaskInfo) : Bool := i.launch == slot && sel i.index
    let back := (q.returned.filter hit).map TaskInfo.index
    let ahead : Nat :=
      if all then (l.count - l.next) - l.removed.length
      else if l.next ≤ index ∧ index < l.count ∧ !l.removed.contains index then 1 else 0
    let l1 := if all then { l with next := l.count, removed := [] }
      else if ahead = 1 then { l with removed := index :: l.removed } else l
    let s1 := s.modTower tw fun t =>
      { t with launches := put t.launches slot l1
               queues := t.queues.setIfInBounds l.queue
                 { q with returned := q.returned.filter fun i => !hit i
                          ring := if l1.nextIndex.isNone then q.ring.filter fun e => e.accepted != some slot else q.ring } }
    (s1, back ++ (if ahead = 0 then [] else [if all then l.next else index]), back.length + ahead)

/-- A task waits in a queue: it stands in the return list, or in the record of the ring without having been dispatched or removed. -/
def State.waiting (s : State) (tw q : Nat) (h : Nat × Nat) : Bool :=
  let v := (s.tower tw).queues.getD q {}
  (v.returned.any fun i => i.launch == h.1 && i.index == h.2)
    || (v.ring.any fun e => e.accepted == some h.1) && (look (s.tower tw).launches h.1).any fun l =>
        decide (l.next ≤ h.2 ∧ h.2 < l.count) && !l.removed.contains h.2

/-- Reservations for heads that no longer wait, since they were placed elsewhere, killed or refused, are returned (R35). -/
def State.dropStale (s : State) (tw : Nat) : State :=
  (s.cores.filter fun p => towerOf p.1 == tw).foldl (fun st p =>
    let stale (r : Resv) : Bool := match r.queue, r.head with | some q, some h => !s.waiting tw q h | _, _ => false
    if p.2.resv.any stale then st.modCore p.1 fun c => c.dropResv stale else st) s

/-- The saved contexts of a launch's tasks are dropped without resumption; one that a resume message has bound stops in its
slot. -/
def State.killSaved (s : State) (tw slot : Nat) (sel : Nat → Bool) : State × Killed :=
  let mine := (s.tower tw).saved.filter fun sv => sv.info.launch == slot && sel (fld sv.taskid 0 32)
  mine.foldl (fun acc sv =>
    match sv.sent.filter fun w => (acc.1.thread w.1 w.2).occ == .message && (acc.1.thread w.1 w.2).resume == some sv.ctx with
    | some w =>
      (acc.1.endThread w.1 w.2 .killed,
        { acc.2 with count := acc.2.count + 1, threads := (w.1, w.2, (acc.1.thread w.1 w.2).bindStamp) :: acc.2.threads })
    | none =>
      let s1 := match sv.sent with
        | some w => (acc.1.leaveInbox w.1 fun m => m.ctx == some sv.ctx).modCore w.1 fun c =>
            { c.dropResv (fun r => r.slot == some w.2) with net := c.net.filter fun m => m.ctx != some sv.ctx }
        | none => acc.1
      let (s2, js) := s1.retireSaved tw sv 2
      (s2, { acc.2 with count := acc.2.count + 1, jobs := js ++ acc.2.jobs })) (s, {})

/-- KILL of the tasks of a launch: all of them, or the one of an index (R284). -/
def State.killTasks (s : State) (tw slot : Nat) (all : Bool) (index : Nat) : State × Killed :=
  let sel (i : Nat) : Bool := all || i == index
  let hs := s.holders tw slot sel
  let (s1, saved) := s.killSaved tw slot sel
  let s2 := hs.foldl (fun st h => st.endThread h.1 h.2.1 .killed) s1
  let (s3, inbox) := s2.dropMessages tw slot sel
  let (s4, queued, n) := s3.dropQueued tw slot sel all index
  let (s5, js) := (s4.dropStale tw).retireUnbound tw slot 2 (inbox ++ queued) (inbox.length + n)
  (s5, { count := hs.length + saved.count + inbox.length + n, threads := hs ++ saved.threads, jobs := js ++ saved.jobs })

/-- A launch is killed as KILL.l kills it, with a further bit of its join status (R340, R408). -/
def State.killLaunch (s : State) (tw slot : Nat) (bits : Word) (first : Option Word) : State :=
  match look (s.tower tw).launches slot with
  | none => s
  | some l =>
    let s1 := (s.laharJob tw { asn := l.asn, addr := l.join, status := bits, fail := first, dec := 0 }).1
    (s1.killTasks tw slot true 0).1

end Sys2Proof.Machine
end

