-- ==== Sys2Proof/Machine/Capture.lean ====
section
/-!
DEFINITION. What an atomic or another ordered event of a task does beside its own effect: the capture record or the replay
check of its launch (R406 to R408), and the count of mixed atomics (R405).
-/
namespace Sys2Proof.Machine

/-- An event of a launch: its KIND, COREID, ordering point (class and place), values, and a Geyser write's beat (R407). -/
structure Event where
  kind : Nat
  core : Nat
  cls : Nat
  place : Nat
  v0 : Word
  v1 : Word
  beat : List Byte := []

/-- The bank that orders an event of KIND 2 (R407): the memory's address plus the number of the bank, which the bank hash gives, a free
value (R59; log 20). An Onsen has 256 banks, a cluster scratchpad 64 (R2). -/
def State.bankPoint (s : State) (a : Nat) : Nat :=
  match physKind a with
  | .onsen gl => layerAperture gl + Config.bankOf 0 a % 256
  | .cluster gl => a / 0x800000 * 0x800000 + Config.bankOf (s.cluster (20 * gl + a % 0x10000000 / 0x800000)).bankKey a % 64
  | .priv n => privBase n + Config.bankOf (s.core n).bkey a % 256
  | _ => a

/-- A record of the buffer as read back, a Geyser write's with its beat. -/
structure CapRec where
  kind : Nat
  core : Nat
  seq : Word
  v0 : Word
  v1 : Word
  beat : List Byte := []

/-- Bytes of the capture buffer, through the launch's page table; none where it is not mapped. -/
def State.bufRead (s : State) (tw asn va n : Nat) : Option Nat :=
  match s.calderaPlace tw asn va .load with
  | .ok p => some (leNat (s.bytesKey p.key p.addr n))
  | _ => none
def State.bufWrite (s : State) (tw asn va : Nat) (bs : List Byte) : State :=
  match s.calderaPlace tw asn va .store with
  | .ok p => s.writeTo p bs
  | _ => s

/-- The records that a buffer holds, from record i on; the four beat records after a KIND 5 belong to it. -/
def State.bufRecords (s : State) (tw asn base count : Nat) : Nat → Nat → List CapRec
  | 0, _ => []
  | fuel + 1, i =>
    if count ≤ i then []
    else
      let rd (o : Nat) : Nat := (s.bufRead tw asn (base + 64 + 32 * i + o) 8).getD 0
      let k := rd 0
      { kind := k % 256, core := k / 256 % 4096, seq := BitVec.ofNat 64 (rd 8), v0 := BitVec.ofNat 64 (rd 16)
        v1 := BitVec.ofNat 64 (rd 24)
        beat := if k % 256 = 5 then (List.range 16).flatMap fun j => leBytes 8 (rd (32 + 8 * j)) else [] : CapRec }
        :: s.bufRecords tw asn base count fuel (if k % 256 = 5 then i + 5 else i + 1)

/-- The ordering point of a record. -/
def CapRec.point (s : State) (r : CapRec) : Nat × Nat :=
  match r.kind with
  | 1 | 6 => (0, r.core)
  | 2 => (1, s.bankPoint r.v0.toNat)
  | 3 => (2, 0)
  | 4 => (3, r.v0.toNat)
  | _ => (4, 0)

/-- A recorded event and one of the replay agree: the launch slot of a TASKID may differ, and so may a Geyser write's frame
and slot, but not its beat. -/
def CapRec.agrees (r : CapRec) (e : Event) : Bool :=
  r.kind == e.kind && r.core == e.core &&
    (match e.kind with
      | 5 => r.beat == e.beat
      | 4 => r.v0 == e.v0 && r.v1 == e.v1
      | _ => r.v0 == e.v0 && fld r.v1 0 32 == fld e.v1 0 32)

/-- How many events of a launch an ordering point has seen. -/
def Capture.seen (c : Capture) (cls place : Nat) : Nat :=
  ((c.seqs.find? fun p => p.1 == cls && p.2.1 == place).map fun p => p.2.2).getD 0
def Capture.see (c : Capture) (cls place : Nat) : Capture :=
  { c with seqs := (cls, place, c.seen cls place + 1) :: c.seqs.filter fun p => !(p.1 == cls && p.2.1 == place) }

def State.setCapture (s : State) (tw slot : Nat) (c : Capture) : State :=
  s.modTower tw fun t => { t with launches := t.launches.map fun p =>
    if p.1 = slot then (p.1, { p.2 with capture := some c }) else p }

/-- The bytes of an event's records: one, and four more of 32 bytes for a beat. -/
def Event.bytes (e : Event) (seq : Nat) : List Byte :=
  leBytes 8 (e.kind + 256 * e.core) ++ leBytes 8 seq ++ leBytes 8 e.v0.toNat ++ leBytes 8 e.v1.toNat ++ e.beat

/-- An event recorded, or OVF set when the buffer has no room (R407). -/
def State.recordEvent (s : State) (tw slot : Nat) (l : Launch) (c : Capture) (e : Event) : State :=
  let n := 1 + e.beat.length / 32
  if c.ovf then s
  else if c.size < 64 + 32 * (c.used + n) then
    (s.bufWrite tw l.asn (c.base + 8) (leBytes 8 1)).setCapture tw slot { c with ovf := true }
  else
    let s1 := s.bufWrite tw l.asn (c.base + 64 + 32 * c.used) ((e.bytes (c.seen e.cls e.place)).take 32)
    let s2 := (List.range (n - 1)).foldl (fun st i =>
      st.bufWrite tw l.asn (c.base + 64 + 32 * (c.used + 1 + i)) ((e.beat.drop (32 * i)).take 32)) s1
    (s2.bufWrite tw l.asn c.base (leBytes 8 (c.used + n))).setCapture tw slot
      { c.see e.cls e.place with used := c.used + n }

/-- A record is of the event's source. The answer of a work-pool request that comes before its turn is not yet known: only its task
counts. -/
def CapRec.expects (r : CapRec) (e : Event) : Bool :=
  if e.kind = 3 then r.kind == 3 && r.core == e.core && fld r.v1 0 32 == fld e.v1 0 32 else r.agrees e

/-- What a replay makes of an event: it happens, it is held, or the launch has diverged (R408). -/
inductive Verdict where
  | happens | held | diverged
  deriving DecidableEq, Repr

/-- The records that a buffer holds for an ordering point and that have not occurred in the replay. -/
def State.recordsLeft (s : State) (tw : Nat) (l : Launch) (c : Capture) (cls place : Nat) : List CapRec :=
  let count := (s.bufRead tw l.asn c.base 8).getD 0
  ((s.bufRecords tw l.asn c.base count count 0).filter fun r => r.kind != 6 && r.point s == (cls, place)).drop (c.seen cls place)

/-- An event that agrees with the next record of its ordering point happens; one that a later record expects is held; any other is a
divergence (R408; log 58). -/
def State.verdict (s : State) (tw : Nat) (l : Launch) (c : Capture) (e : Event) : Verdict :=
  if e.kind = 6 then .happens
  else match s.recordsLeft tw l c e.cls e.place with
    | [] => .diverged
    | r :: rest =>
      if r.agrees e then .happens
      else if r.expects e then .diverged
      else if rest.any fun x => x.expects e then .held
      else .diverged

/-- The replay check of an event: a launch that has diverged is killed, with its status bit 5. A frozen Lahar kills nothing: the event is
held until the freeze ends (R374, R408). -/
def State.replayEvent (s : State) (tw slot : Nat) (l : Launch) (c : Capture) (e : Event) : State × Bool :=
  match s.verdict tw l c e with
  | .happens => (if e.kind = 6 then s else s.setCapture tw slot (c.see e.cls e.place), true)
  | .held => (s, false)
  | .diverged => (if (s.tower tw).lfrz then s else s.killLaunch tw slot 0x20 none, false)

/-- A replay holds an event now. -/
def State.holdsEvent (s : State) (tw slot : Nat) (e : Event) : Bool :=
  (look (s.tower tw).launches slot).any fun l => l.capture.any fun c =>
    c.replay && (match s.verdict tw l c e with | .held => true | .diverged => (s.tower tw).lfrz | .happens => false)

/-- An event of a launch: recorded, checked, or without trace; false when it may not happen now. -/
def State.event (s : State) (tw slot : Nat) (e : Event) : State × Bool :=
  match look (s.tower tw).launches slot with
  | none => (s, true)
  | some l =>
    match l.capture with
    | none => (s, true)
    | some c => if c.replay then s.replayEvent tw slot l c e else (s.recordEvent tw slot l c e, true)

/-- An event of the current thread's task. -/
def State.myEvent (s : State) (kind cls place : Nat) (v0 v1 : Word) : State × Bool :=
  match s.me.task with
  | none => (s, true)
  | some i => s.event (towerOf s.cur) i.launch { kind := kind, core := coreId s.cur, cls := cls, place := place, v0 := v0, v1 := v1 }

/-- The current thread's event is held by a replay: its instruction runs again, unless the replay has killed its launch (R408). -/
def State.hold (s : State) : State := if s.me.wait.isRetiring then s else s.stall

/-- The event of a bank atomic, VAMO element or heap operation at an Onsen or scratchpad location (R407, KIND 2). -/
def State.bankEvent (s : State) (a : Nat) : State × Bool :=
  match physKind a with
  | .onsen _ | .cluster _ | .priv _ => s.myEvent 2 1 (s.bankPoint a) (BitVec.ofNat 64 a) s.me.taskid
  | _ => (s, true)

/-- Tower whose Caldera die holds the stack of an HBM address (R360). -/
def stackTower (a : Nat) : Nat := a / 0x4000000000

/-- The count of mixed atomics (R405): a device atomic to a global page without SA, in HBM, whose 64 KiB range the host has
touched. -/
def State.countMixed (s : State) (asn va : Nat) (p : Place) : State :=
  if p.win == .glob && !p.sa && decide (p.addr < hbmEnd) && s.hostTouched.contains (p.addr / 65536) then
    (s.count (stackTower p.addr) 5).modTower (stackTower p.addr) fun t =>
      { t with counters := t.counters.setIfInBounds 6 (BitVec.ofNat 64 (asn % 256 + va % 2 ^ 52 * 256)) }
  else s
def State.mixed (s : State) (ea : Word) (p : Place) : State := s.countMixed (s.asnOf s.cur s.curSlot) ea.toNat p

end Sys2Proof.Machine
end

