-- ==== Sys2Proof/Machine/VecInt.lean ====
section
/-!
DEFINITION. Vector configuration (R143) and the integer forms of major 0x2B (R145 to R147).
-/
namespace Sys2Proof.Machine

/-- A configuration form retires with rd written; as every vector instruction that retires it leaves ESTART 0 (R141). -/
def State.configured (s : State) (rd : BitVec 5) (v : Word) : State :=
  (s.modMe fun t => { t with estart := 0, restart := none }).result rd v

/-- VSETVL and VSETVLI (R143): the lane boundary, the grant check, then VTYPE, VL and rd. -/
def State.setVl (s : State) (rd rs1 : BitVec 5) (image : Word) : State :=
  let b := s.boundary
  if b.lanes = 0 then b.wordTrap 0xF 6
  else
    let im : Word := image &&& 0xFFF
    if !vtypeLegal im then (b.modMe fun t => { t with vtype := villImage, vl := 0 }).configured rd 0
    else
      let vm := vlmaxOf im b.lanes
      let vl : Word :=
        if rs1 ≠ 0 then minWord (b.x rs1) vm else if rd ≠ 0 then BitVec.ofNat 64 vm else minWord b.me.vl vm
      (b.modMe fun t => { t with vtype := im, vl := vl }).configured rd vl

/-- R143: sets VTYPE from x[rs2] and VL from rs1. -/
def execVsetvl (rd rs1 rs2 : BitVec 5) (s : State) : Out := .next (s.guard (xs [rs1, rs2]) (s.setVl rd rs1 (s.x rs2)))
/-- R143: sets VTYPE from the immediate and VL from rs1. -/
def execVsetvli (rd rs1 : BitVec 5) (imm : BitVec 12) (s : State) : Out :=
  .next (s.guard (xs [rs1]) (s.setVl rd rs1 (zx imm)))
/-- R143: the VLMAX that the image in rs2 would give. It leaves ESTART 0 as every vector instruction that retires (R141), although R143
has it change no state: the two stand against each other, and this is the model's choice (log 81). -/
def execVlmaxq (rd rs2 : BitVec 5) (s : State) : Out :=
  .next (match s.vectorStop true with
    | some s1 => s1
    | none => s.guard (xs [rs2])
        (s.configured rd (if vtypeLegal (s.x rs2 &&& 0xFFF) then BitVec.ofNat 64 (vlmaxOf (s.x rs2) s.lanes) else 0)))

/-- A vector form after its checks and its domain check (R102, R218): `k` runs it with the result's tag. R218 and R145 put the domain check
and the flags of a scalar operand's conversion both before any element and give no order between them: the model makes the domain check
first, its own choice (log 82). -/
def State.vector (s : State) (c : VCtx) (legal : Bool) (refs : List RegRef) (dc : DomClass) (srcs : List (BitVec 5))
    (dst : Option (BitVec 5)) (vm : BitVec 3) (k : Word → State) : State :=
  match s.vectorStop legal with
  | some s1 => s1
  | none => s.guard refs
      (match s.domain c dc srcs dst vm with
        | .inr t => s.trap t
        | .inl g => k g)

/-- The second operand of an integer form: element, scalar under R83 or immediate (R145). -/
inductive Src2 where
  | vec (v : BitVec 5)
  | reg (r : BitVec 5)
  | imm (x : Nat)

def Src2.groups : Src2 → List (BitVec 5)
  | .vec v => [v]
  | _ => []
def Src2.refs : Src2 → List RegRef
  | .reg r => xs [r]
  | _ => []
def Src2.val (c : VCtx) (t : Thread) (x : BitVec 5 → Word) : Src2 → Nat → Nat
  | .vec v, i => c.get t v i
  | .reg r, _ => (c.scalar (x r)).1
  | .imm n, _ => n
/-- The groups a second operand's K2 bit releases: none for a scalar or an immediate (R64). -/
def Src2.marked (c : VCtx) (k2 : BitVec 1) : Src2 → List Nat
  | .vec v => if k2 = 1 then c.group v else []
  | _ => []

/-- The scalar operand, where there is one, converted before any element (R83). -/
def Src2.convert (c : VCtx) (b : Src2) (s : State) (k : State → State) : State :=
  match b with
  | .reg r => s.withScalar c (s.x r) fun _ s1 => k s1
  | _ => k s

/-- A form of VA-INT (R146): f takes the context and the elements of vd, vs1 and the second operand. -/
def intVec (types : VCtx → Bool) (readsVd : Bool) (f : VCtx → Nat → Nat → Nat → Nat × Flags)
    (vd vs1 : BitVec 5) (s2 : VCtx → Src2) (vm : BitVec 3) (k1 k2 : BitVec 1) (s : State) : Out :=
  let c := s.vctx
  let b := s2 c
  let srcs := vs1 :: b.groups ++ (if readsVd then [vd] else [])
  .next (s.vector c (types c && aligned c vd && srcs.all (aligned c)) (c.refs srcs vm ++ b.refs) .nonLinear srcs (some vd) vm
    fun g => b.convert c s fun s1 =>
      s1.elementwise c vd vm true false g ((if k1 = 1 then c.group vs1 else []) ++ b.marked c k2) fun i =>
        f c (c.get s.me vd i) (c.get s.me vs1 i) (b.val c s.me s.x i))

/-- Low SEW bits of an integer result, no flag (R147). -/
def wrapTo (c : VCtx) (v : Int) : Nat × Flags := (intBits c.sew v, 0)
/-- A sum or difference clamped to the range of ET, with SAT (R147). -/
def clampTo (c : VCtx) (v : Int) : Nat × Flags :=
  match intRange c.et with
  | some (lo, hi) => let (r, cl) := clampInt lo hi v; (intBits c.sew r, if cl then fSAT else 0)
  | none => (0, 0)
/-- A right shift, arithmetic when ET is signed (R146). -/
def shiftRightElem (c : VCtx) (a n : Nat) : Nat × Flags := wrapTo c (c.int a / (2 ^ (n % c.sew) : Nat))
def anyType (_ : VCtx) : Bool := true

/-- R146: vs1 + s. -/
def execVaddVv (vd vs1 vs2 : BitVec 5) (vm : BitVec 3) (k1 k2 : BitVec 1) (s : State) : Out :=
  intVec VCtx.isInt false (fun c _ a b => wrapTo c (a + b)) vd vs1 (fun _ => .vec vs2) vm k1 k2 s

/-- R146: vs1 + s. -/
def execVaddVx (vd vs1 rs2 : BitVec 5) (vm : BitVec 3) (k1 k2 : BitVec 1) (s : State) : Out :=
  intVec VCtx.isInt false (fun c _ a b => wrapTo c (a + b)) vd vs1 (fun _ => .reg rs2) vm k1 k2 s

/-- R146: vs1 + s. -/
def execVaddVi (vd vs1 imm5 : BitVec 5) (vm : BitVec 3) (k1 k2 : BitVec 1) (s : State) : Out :=
  intVec VCtx.isInt false (fun c _ a b => wrapTo c (a + b)) vd vs1 (fun c => .imm (c.imm imm5)) vm k1 k2 s

/-- R146: vs1 − s. -/
def execVsubVv (vd vs1 vs2 : BitVec 5) (vm : BitVec 3) (k1 k2 : BitVec 1) (s : State) : Out :=
  intVec VCtx.isInt false (fun c _ a b => wrapTo c ((a : Int) - b)) vd vs1 (fun _ => .vec vs2) vm k1 k2 s

/-- R146: vs1 − s. -/
def execVsubVx (vd vs1 rs2 : BitVec 5) (vm : BitVec 3) (k1 k2 : BitVec 1) (s : State) : Out :=
  intVec VCtx.isInt false (fun c _ a b => wrapTo c ((a : Int) - b)) vd vs1 (fun _ => .reg rs2) vm k1 k2 s

/-- R146: imm − vs1. -/
def execVrsubVi (vd vs1 imm5 : BitVec 5) (vm : BitVec 3) (k1 k2 : BitVec 1) (s : State) : Out :=
  intVec VCtx.isInt false (fun c _ a b => wrapTo c ((b : Int) - a)) vd vs1 (fun c => .imm (c.imm imm5)) vm k1 k2 s

/-- R146: vs1 & s. -/
def execVandVv (vd vs1 vs2 : BitVec 5) (vm : BitVec 3) (k1 k2 : BitVec 1) (s : State) : Out :=
  intVec anyType false (fun _ _ a b => (a &&& b, 0)) vd vs1 (fun _ => .vec vs2) vm k1 k2 s

/-- R146: vs1 & s. -/
def execVandVx (vd vs1 rs2 : BitVec 5) (vm : BitVec 3) (k1 k2 : BitVec 1) (s : State) : Out :=
  intVec anyType false (fun _ _ a b => (a &&& b, 0)) vd vs1 (fun _ => .reg rs2) vm k1 k2 s

/-- R146: vs1 | s. -/
def execVorVv (vd vs1 vs2 : BitVec 5) (vm : BitVec 3) (k1 k2 : BitVec 1) (s : State) : Out :=
  intVec anyType false (fun _ _ a b => (a ||| b, 0)) vd vs1 (fun _ => .vec vs2) vm k1 k2 s

/-- R146: vs1 | s. -/
def execVorVx (vd vs1 rs2 : BitVec 5) (vm : BitVec 3) (k1 k2 : BitVec 1) (s : State) : Out :=
  intVec anyType false (fun _ _ a b => (a ||| b, 0)) vd vs1 (fun _ => .reg rs2) vm k1 k2 s

/-- R146: vs1 ^ s. -/
def execVxorVv (vd vs1 vs2 : BitVec 5) (vm : BitVec 3) (k1 k2 : BitVec 1) (s : State) : Out :=
  intVec anyType false (fun _ _ a b => (a ^^^ b, 0)) vd vs1 (fun _ => .vec vs2) vm k1 k2 s

/-- R146: vs1 ^ s. -/
def execVxorVx (vd vs1 rs2 : BitVec 5) (vm : BitVec 3) (k1 k2 : BitVec 1) (s : State) : Out :=
  intVec anyType false (fun _ _ a b => (a ^^^ b, 0)) vd vs1 (fun _ => .reg rs2) vm k1 k2 s

/-- R146: vs1 ^ s. -/
def execVxorVi (vd vs1 imm5 : BitVec 5) (vm : BitVec 3) (k1 k2 : BitVec 1) (s : State) : Out :=
  intVec anyType false (fun _ _ a b => (a ^^^ b, 0)) vd vs1 (fun c => .imm (c.imm imm5)) vm k1 k2 s

/-- R146: vs1 << (s % SEW). -/
def execVsllVv (vd vs1 vs2 : BitVec 5) (vm : BitVec 3) (k1 k2 : BitVec 1) (s : State) : Out :=
  intVec VCtx.isInt false (fun c _ a b => wrapTo c (a * 2 ^ (b % c.sew) : Nat)) vd vs1 (fun _ => .vec vs2) vm k1 k2 s

/-- R146: vs1 << (s % SEW). -/
def execVsllVi (vd vs1 imm5 : BitVec 5) (vm : BitVec 3) (k1 k2 : BitVec 1) (s : State) : Out :=
  intVec VCtx.isInt false (fun c _ a b => wrapTo c (a * 2 ^ (b % c.sew) : Nat)) vd vs1 (fun _ => .imm imm5.toNat) vm k1 k2 s

/-- R146: vs1 >> (s % SEW). -/
def execVsrVv (vd vs1 vs2 : BitVec 5) (vm : BitVec 3) (k1 k2 : BitVec 1) (s : State) : Out :=
  intVec VCtx.isInt false (fun c _ a b => shiftRightElem c a b) vd vs1 (fun _ => .vec vs2) vm k1 k2 s

/-- R146: vs1 >> (s % SEW). -/
def execVsrVi (vd vs1 imm5 : BitVec 5) (vm : BitVec 3) (k1 k2 : BitVec 1) (s : State) : Out :=
  intVec VCtx.isInt false (fun c _ a b => shiftRightElem c a b) vd vs1 (fun _ => .imm imm5.toNat) vm k1 k2 s

/-- R146: minimum. -/
def execVminVv (vd vs1 vs2 : BitVec 5) (vm : BitVec 3) (k1 k2 : BitVec 1) (s : State) : Out :=
  intVec VCtx.isInt false (fun c _ a b => (if c.int b < c.int a then b else a, 0)) vd vs1 (fun _ => .vec vs2) vm k1 k2 s

/-- R146: minimum. -/
def execVminVx (vd vs1 rs2 : BitVec 5) (vm : BitVec 3) (k1 k2 : BitVec 1) (s : State) : Out :=
  intVec VCtx.isInt false (fun c _ a b => (if c.int b < c.int a then b else a, 0)) vd vs1 (fun _ => .reg rs2) vm k1 k2 s

/-- R146: maximum. -/
def execVmaxVv (vd vs1 vs2 : BitVec 5) (vm : BitVec 3) (k1 k2 : BitVec 1) (s : State) : Out :=
  intVec VCtx.isInt false (fun c _ a b => (if c.int a < c.int b then b else a, 0)) vd vs1 (fun _ => .vec vs2) vm k1 k2 s

/-- R146: maximum. -/
def execVmaxVx (vd vs1 rs2 : BitVec 5) (vm : BitVec 3) (k1 k2 : BitVec 1) (s : State) : Out :=
  intVec VCtx.isInt false (fun c _ a b => (if c.int a < c.int b then b else a, 0)) vd vs1 (fun _ => .reg rs2) vm k1 k2 s

/-- R146: low SEW bits of the product. -/
def execVmulVv (vd vs1 vs2 : BitVec 5) (vm : BitVec 3) (k1 k2 : BitVec 1) (s : State) : Out :=
  intVec VCtx.isInt false (fun c _ a b => wrapTo c (a * b : Nat)) vd vs1 (fun _ => .vec vs2) vm k1 k2 s

/-- R146: low SEW bits of the product. -/
def execVmulVx (vd vs1 rs2 : BitVec 5) (vm : BitVec 3) (k1 k2 : BitVec 1) (s : State) : Out :=
  intVec VCtx.isInt false (fun c _ a b => wrapTo c (a * b : Nat)) vd vs1 (fun _ => .reg rs2) vm k1 k2 s

/-- R146: high SEW bits of the product. -/
def execVmulhVv (vd vs1 vs2 : BitVec 5) (vm : BitVec 3) (k1 k2 : BitVec 1) (s : State) : Out :=
  intVec VCtx.isInt false (fun c _ a b => wrapTo c (c.int a * c.int b / (2 ^ c.sew : Nat))) vd vs1 (fun _ => .vec vs2) vm k1 k2 s

/-- R146: vd + vs1 × s. -/
def execVmaccVv (vd vs1 vs2 : BitVec 5) (vm : BitVec 3) (k1 k2 : BitVec 1) (s : State) : Out :=
  intVec VCtx.isInt true (fun c d a b => wrapTo c (d + a * b : Nat)) vd vs1 (fun _ => .vec vs2) vm k1 k2 s

/-- R146: vd + vs1 × s. -/
def execVmaccVx (vd vs1 rs2 : BitVec 5) (vm : BitVec 3) (k1 k2 : BitVec 1) (s : State) : Out :=
  intVec VCtx.isInt true (fun c d a b => wrapTo c (d + a * b : Nat)) vd vs1 (fun _ => .reg rs2) vm k1 k2 s

/-- R146: vs1 + vs2, clamped. -/
def execVsaddVv (vd vs1 vs2 : BitVec 5) (vm : BitVec 3) (k1 k2 : BitVec 1) (s : State) : Out :=
  intVec VCtx.isInt false (fun c _ a b => clampTo c (c.int a + c.int b)) vd vs1 (fun _ => .vec vs2) vm k1 k2 s

/-- R146: vs1 − vs2, clamped. -/
def execVssubVv (vd vs1 vs2 : BitVec 5) (vm : BitVec 3) (k1 k2 : BitVec 1) (s : State) : Out :=
  intVec VCtx.isInt false (fun c _ a b => clampTo c (c.int a - c.int b)) vd vs1 (fun _ => .vec vs2) vm k1 k2 s

/-- R146, R147: m[i] ? vs2[i] : vs1[i] for every body element; linear when like-tagged (R215). -/
def execVmergeVv (vd vs1 vs2 : BitVec 5) (vm : BitVec 3) (k1 k2 : BitVec 1) (s : State) : Out :=
  let c := s.vctx
  .next (s.vector c (aligned c vd && aligned c vs1 && aligned c vs2) (c.refs [vs1, vs2] vm) .like [vs1, vs2] (some vd) 0
    fun g => s.elementwise c vd vm false false g (c.marked vs1 k1 vs2 k2) fun i =>
      (if c.active s.me vm i then c.get s.me vs2 i else c.get s.me vs1 i, 0))

/-- A move of one value into every active element (R146, R147). -/
def moveForm (val : VCtx → Nat) (refs : List RegRef) (vd : BitVec 5) (vm : BitVec 3) (s : State) : Out :=
  let c := s.vctx
  .next (s.vector c (aligned c vd) (c.refs [] vm ++ refs) .nonLinear [] (some vd) vm
    fun g => s.elementwise c vd vm true false g [] fun _ => (val c, 0))

/-- R146: low SEW bits of x[rs2], copied without conversion. -/
def execVmvVx (vd rs2 : BitVec 5) (vm : BitVec 3) (_k1 _k2 : BitVec 1) (s : State) : Out :=
  moveForm (fun c => fld (s.x rs2) 0 c.sew) (xs [rs2]) vd vm s
/-- R146: the immediate, sign-extended to the element width. -/
def execVmvVi (vd imm5 : BitVec 5) (vm : BitVec 3) (_k1 _k2 : BitVec 1) (s : State) : Out :=
  moveForm (fun c => c.imm imm5) [] vd vm s

end Sys2Proof.Machine
end

