-- ==== Sys2Proof/Machine/VecFp.lean ====
section
/-!
DEFINITION. The floating-point vector forms of major 0x2C (R148 to R151), with flushing, capture and the conversion of a
vector-scalar operand (R78, R83, R96).
-/
namespace Sys2Proof.Machine

/-- A form of VA-FP whose operands are vectors (R148): f takes the context and the elements of vd, vs1, vs2. -/
def fpVec (f : VCtx → Nat → Nat → Nat → Nat × Flags) (dc : DomClass) (readsVd : Bool)
    (vd vs1 : BitVec 5) (vs2 : Option (BitVec 5)) (vm : BitVec 3) (x k1 k2 : BitVec 1) (s : State) : Out :=
  let c := s.vctx
  let srcs := vs1 :: vs2.toList ++ (if readsVd then [vd] else [])
  .next (s.vector c (c.isFp && aligned c vd && srcs.all (aligned c)) (c.refs srcs vm) dc srcs (some vd) vm
    fun g => s.elementwise c vd vm true (x = 1) g (c.marked vs1 k1 (vs2.getD vs1) (if vs2.isSome then k2 else 0)) fun i =>
      f c (c.get s.me vd i) (c.get s.me vs1 i) (match vs2 with | some v => c.get s.me v i | none => 0))

/-- A form of VA-FP with a scalar operand: converted once, before any element, with its own trap (R83). -/
def fpVecX (f : VCtx → Nat → Nat → Nat → Nat × Flags) (dc : DomClass) (readsVd : Bool)
    (vd vs1 rs2 : BitVec 5) (vm : BitVec 3) (x k1 : BitVec 1) (s : State) : Out :=
  let c := s.vctx
  let srcs := vs1 :: (if readsVd then [vd] else [])
  .next (s.vector c (c.isFp && aligned c vd && srcs.all (aligned c)) (c.refs srcs vm ++ xs [rs2]) dc srcs (some vd) vm
    fun g => s.withScalar c (s.x rs2) fun b s1 =>
      s1.elementwise c vd vm true (x = 1) g (if k1 = 1 then c.group vs1 else []) fun i =>
        f c (c.get s.me vd i) (c.get s.me vs1 i) b)

/-- An operation with subnormal inputs read as zero and subnormal results written as zero under FTZ (R78). -/
def ftz2 (op : Fmt → RM → Nat → Nat → Nat × Flags) (c : VCtx) (a b : Nat) : Nat × Flags :=
  flushOut c.ftz c.fmt (op c.fmt c.rm (flushIn c.ftz c.fmt a) (flushIn c.ftz c.fmt b))
def ftz3 (op : Fmt → RM → Nat → Nat → Nat → Nat × Flags) (c : VCtx) (d a b : Nat) : Nat × Flags :=
  flushOut c.ftz c.fmt (op c.fmt c.rm (flushIn c.ftz c.fmt d) (flushIn c.ftz c.fmt a) (flushIn c.ftz c.fmt b))
def ftz1 (op : Fmt → RM → Nat → Nat × Flags) (c : VCtx) (a : Nat) : Nat × Flags :=
  flushOut c.ftz c.fmt (op c.fmt c.rm (flushIn c.ftz c.fmt a))

/-- 1 / a (R149). -/
def fRec (f : Fmt) (rm : RM) (a : Nat) : Nat × Flags := finishF f rm ((FVal.fin false 1 0 false).div (f.decode a))

/-- 1 / √a (R149). -/
def fRsqrt (f : Fmt) (rm : RM) (a : Nat) : Nat × Flags :=
  finishF f rm (match f.decode a with
    | .nan _ s => (.nan false false, if s then fNV else 0)
    | .inf n => if n then (.nan false false, fNV) else (.fin false 0 0 false, 0)
    | .fin n m e _ =>
      if m = 0 then (.inf n, fDZ) else if n then (.nan false false, fNV) else (FVal.rsqrtFin m e, 0))

/-- Working precision of the binary exponential, in bits. -/
def expPrec : Nat := 400

/-- Lower bounds of 2^(2^−i), i from 1 up, in units of 2^−expPrec: each is the floor of the square root of the last. -/
def expRoots : Nat → Nat → List Nat
  | 0, _ => []
  | k + 1, r =>
    let q := isqrt (r * 2 ^ expPrec) (expPrec + 1) 0
    q :: expRoots k q

/-- The product of the roots that the bits of a fraction select, the first root for the top bit. -/
def expProduct (frac bits : Nat) : List Nat → Nat → Nat → Nat
  | [], _, acc => acc
  | r :: rest, i, acc =>
    expProduct frac bits rest (i + 1) (if frac.testBit (bits - i) then acc * r / 2 ^ expPrec else acc)

/-- 2^a (R149). A non-integer argument has an irrational result; its leading bits decide the rounding. DEDUCED (log 12):
2^f − 1 of a fraction below 2^−160 is taken as the fraction's sticky part. -/
def fExp2 (f : Fmt) (rm : RM) (a : Nat) : Nat × Flags :=
  match f.decode a with
  | .nan _ s => (f.cnan, if s then fNV else 0)
  | .inf n => (if n then 0 else f.infBits false, 0)
  | .fin n m e _ =>
    if m = 0 then finishF f rm (.fin false 1 0 false, 0)
    else
      let bits : Nat := (-e).toNat
      let v : Int := if n then -((m * 2 ^ e.toNat : Nat) : Int) else ((m * 2 ^ e.toNat : Nat) : Int)
      let whole : Int := max (-1100) (min 1100 (v / (2 ^ bits : Nat)))
      let frac : Nat := (v % ((2 ^ bits : Nat) : Int)).toNat
      if frac = 0 then finishF f rm (.fin false 1 whole false, 0)
      else
        let y := expProduct frac bits (expRoots (min bits 160) (2 ^ (expPrec + 1))) 1 (2 ^ expPrec)
        finishF f rm (.fin false y (whole - expPrec) true, 0)

/-- Rounding to an integral value: NX when the value changes (R150). -/
def fRint (f : Fmt) (rm : RM) (a : Nat) : Nat × Flags :=
  match f.decode a with
  | .nan _ s => (f.cnan, if s then fNV else 0)
  | .inf n => (f.infBits n, 0)
  | .fin n m e s =>
    let (r, ix) := roundAt rm n m e s 0
    if 0 ≤ e then (a, 0) else ((FVal.fin n r 0 false).arith f rm |>.1, if ix then fNX else 0)

/-- The integer formats of the element width (R150). -/
def intCode (c : VCtx) (signed : Bool) : Nat := (if c.sew = 16 then 1 else 2) + (if signed then 0 else 4)

/-- FP to an integer of SEW bits (R150); subnormal inputs are read as zero under FTZ (R78). -/
def fCvtInt (signed : Bool) (c : VCtx) (a : Nat) : Nat × Flags :=
  toElem (intCode c signed) c.rm (c.fmt.decode (flushIn c.ftz c.fmt a))
/-- Element bits as an integer to FP (R150). -/
def fCvtFrom (signed : Bool) (c : VCtx) (a : Nat) : Nat × Flags := (ofScaled (intOf signed c.sew a) 0 false).narrow c.fmt c.rm
/-- Minimum and maximum with FTZ inputs (R78, R122). -/
def ftzMinMax (isMax : Bool) (c : VCtx) (a b : Nat) : Nat × Flags :=
  fMinMax isMax c.fmt (flushIn c.ftz c.fmt a) (flushIn c.ftz c.fmt b)

/-- R148: round(vs1 + s). -/
def execVfaddVv (vd vs1 vs2 : BitVec 5) (vm : BitVec 3) (x k1 k2 : BitVec 1) (s : State) : Out :=
  fpVec (fun c _ a b => ftz2 fAdd c a b) .like false vd vs1 (some vs2) vm x k1 k2 s
/-- R148: round(vs1 + s), s scalar. -/
def execVfaddVx (vd vs1 rs2 : BitVec 5) (vm : BitVec 3) (x k1 _k2 : BitVec 1) (s : State) : Out :=
  fpVecX (fun c _ a b => ftz2 fAdd c a b) .bias false vd vs1 rs2 vm x k1 s

/-- R148: round(vs1 − s). -/
def execVfsubVv (vd vs1 vs2 : BitVec 5) (vm : BitVec 3) (x k1 k2 : BitVec 1) (s : State) : Out :=
  fpVec (fun c _ a b => ftz2 fSub c a b) .like false vd vs1 (some vs2) vm x k1 k2 s
/-- R148: round(vs1 − s), s scalar. -/
def execVfsubVx (vd vs1 rs2 : BitVec 5) (vm : BitVec 3) (x k1 _k2 : BitVec 1) (s : State) : Out :=
  fpVecX (fun c _ a b => ftz2 fSub c a b) .bias false vd vs1 rs2 vm x k1 s

/-- R148: round(vs1 × s). -/
def execVfmulVv (vd vs1 vs2 : BitVec 5) (vm : BitVec 3) (x k1 k2 : BitVec 1) (s : State) : Out :=
  fpVec (fun c _ a b => ftz2 fMul c a b) .nonLinear false vd vs1 (some vs2) vm x k1 k2 s
/-- R148: round(vs1 × s), s scalar. -/
def execVfmulVx (vd vs1 rs2 : BitVec 5) (vm : BitVec 3) (x k1 _k2 : BitVec 1) (s : State) : Out :=
  fpVecX (fun c _ a b => ftz2 fMul c a b) .one false vd vs1 rs2 vm x k1 s

/-- R148: round(vs1 / s). -/
def execVfdivVv (vd vs1 vs2 : BitVec 5) (vm : BitVec 3) (x k1 k2 : BitVec 1) (s : State) : Out :=
  fpVec (fun c _ a b => ftz2 fDiv c a b) .nonLinear false vd vs1 (some vs2) vm x k1 k2 s
/-- R148: round(vs1 / s), s scalar. -/
def execVfdivVx (vd vs1 rs2 : BitVec 5) (vm : BitVec 3) (x k1 _k2 : BitVec 1) (s : State) : Out :=
  fpVecX (fun c _ a b => ftz2 fDiv c a b) .one false vd vs1 rs2 vm x k1 s

/-- R148: round(vd + vs1 × s), one rounding. -/
def execVfmaccVv (vd vs1 vs2 : BitVec 5) (vm : BitVec 3) (x k1 k2 : BitVec 1) (s : State) : Out :=
  fpVec (fun c d a b => ftz3 fMac c d a b) .nonLinear true vd vs1 (some vs2) vm x k1 k2 s
/-- R148: round(vd + vs1 × s), one rounding, s scalar. -/
def execVfmaccVx (vd vs1 rs2 : BitVec 5) (vm : BitVec 3) (x k1 _k2 : BitVec 1) (s : State) : Out :=
  fpVecX (fun c d a b => ftz3 fMac c d a b) .like true vd vs1 rs2 vm x k1 s

/-- R148: round(vd − vs1 × s), one rounding. -/
def execVfnmsacVv (vd vs1 vs2 : BitVec 5) (vm : BitVec 3) (x k1 k2 : BitVec 1) (s : State) : Out :=
  fpVec (fun c d a b => ftz3 fNmsac c d a b) .nonLinear true vd vs1 (some vs2) vm x k1 k2 s
/-- R148: round(vd − vs1 × s), one rounding, s scalar. -/
def execVfnmsacVx (vd vs1 rs2 : BitVec 5) (vm : BitVec 3) (x k1 _k2 : BitVec 1) (s : State) : Out :=
  fpVecX (fun c d a b => ftz3 fNmsac c d a b) .like true vd vs1 rs2 vm x k1 s

/-- R148: minimum (R122). -/
def execVfminVv (vd vs1 vs2 : BitVec 5) (vm : BitVec 3) (x k1 k2 : BitVec 1) (s : State) : Out :=
  fpVec (fun c _ a b => ftzMinMax false c a b) .nonLinear false vd vs1 (some vs2) vm x k1 k2 s
/-- R148: minimum (R122), s scalar. -/
def execVfminVx (vd vs1 rs2 : BitVec 5) (vm : BitVec 3) (x k1 _k2 : BitVec 1) (s : State) : Out :=
  fpVecX (fun c _ a b => ftzMinMax false c a b) .nonLinear false vd vs1 rs2 vm x k1 s

/-- R148: maximum (R122). -/
def execVfmaxVv (vd vs1 vs2 : BitVec 5) (vm : BitVec 3) (x k1 k2 : BitVec 1) (s : State) : Out :=
  fpVec (fun c _ a b => ftzMinMax true c a b) .nonLinear false vd vs1 (some vs2) vm x k1 k2 s
/-- R148: maximum (R122), s scalar. -/
def execVfmaxVx (vd vs1 rs2 : BitVec 5) (vm : BitVec 3) (x k1 _k2 : BitVec 1) (s : State) : Out :=
  fpVecX (fun c _ a b => ftzMinMax true c a b) .nonLinear false vd vs1 rs2 vm x k1 s

/-- R148: round(s − vs1). -/
def execVfrsubVx (vd vs1 rs2 : BitVec 5) (vm : BitVec 3) (x k1 _k2 : BitVec 1) (s : State) : Out :=
  fpVecX (fun c _ a b => ftz2 fSub c b a) .nonLinear false vd vs1 rs2 vm x k1 s

/-- R148: sign of vs2. -/
def execVfsgnjVv (vd vs1 vs2 : BitVec 5) (vm : BitVec 3) (k1 k2 : BitVec 1) (s : State) : Out :=
  fpVec (fun c _ a b => (withSign c.fmt a (c.fmt.signOf b), 0)) .nonLinear false vd vs1 (some vs2) vm 0 k1 k2 s
/-- R148: inverted sign of vs2; with one register twice it negates and is linear (R215). -/
def execVfsgnjnVv (vd vs1 vs2 : BitVec 5) (vm : BitVec 3) (k1 k2 : BitVec 1) (s : State) : Out :=
  fpVec (fun c _ a b => (withSign c.fmt a (!c.fmt.signOf b), 0)) .negate false vd vs1 (some vs2) vm 0 k1 k2 s
/-- R148: XOR of both signs. -/
def execVfsgnjxVv (vd vs1 vs2 : BitVec 5) (vm : BitVec 3) (k1 k2 : BitVec 1) (s : State) : Out :=
  fpVec (fun c _ a b => (withSign c.fmt a (c.fmt.signOf a != c.fmt.signOf b), 0)) .nonLinear false vd vs1 (some vs2) vm 0 k1 k2 s

/-- R148: √vs1. -/
def execVfsqrt (vd vs1 : BitVec 5) (vm : BitVec 3) (x k1 : BitVec 1) (s : State) : Out :=
  fpVec (fun c _ a _ => ftz1 fSqrt c a) .nonLinear false vd vs1 none vm x k1 0 s

/-- R148: 1 / vs1 (R149). -/
def execVfrec (vd vs1 : BitVec 5) (vm : BitVec 3) (x k1 : BitVec 1) (s : State) : Out :=
  fpVec (fun c _ a _ => ftz1 fRec c a) .nonLinear false vd vs1 none vm x k1 0 s

/-- R148: 1 / √vs1 (R149). -/
def execVfrsqrt (vd vs1 : BitVec 5) (vm : BitVec 3) (x k1 : BitVec 1) (s : State) : Out :=
  fpVec (fun c _ a _ => ftz1 fRsqrt c a) .nonLinear false vd vs1 none vm x k1 0 s

/-- R148: 2^vs1 (R149). -/
def execVfexp2 (vd vs1 : BitVec 5) (vm : BitVec 3) (x k1 : BitVec 1) (s : State) : Out :=
  fpVec (fun c _ a _ => ftz1 fExp2 c a) .nonLinear false vd vs1 none vm x k1 0 s

/-- R148: to a signed integer (R150). -/
def execVfcvtI (vd vs1 : BitVec 5) (vm : BitVec 3) (x k1 : BitVec 1) (s : State) : Out :=
  fpVec (fun c _ a _ => fCvtInt true c a) .nonLinear false vd vs1 none vm x k1 0 s

/-- R148: to an unsigned integer (R150). -/
def execVfcvtUi (vd vs1 : BitVec 5) (vm : BitVec 3) (x k1 : BitVec 1) (s : State) : Out :=
  fpVec (fun c _ a _ => fCvtInt false c a) .nonLinear false vd vs1 none vm x k1 0 s

/-- R148: from a signed integer (R150). -/
def execVfcvtFi (vd vs1 : BitVec 5) (vm : BitVec 3) (x k1 : BitVec 1) (s : State) : Out :=
  fpVec (fun c _ a _ => fCvtFrom true c a) .nonLinear false vd vs1 none vm x k1 0 s

/-- R148: from an unsigned integer (R150). -/
def execVfcvtFui (vd vs1 : BitVec 5) (vm : BitVec 3) (x k1 : BitVec 1) (s : State) : Out :=
  fpVec (fun c _ a _ => fCvtFrom false c a) .nonLinear false vd vs1 none vm x k1 0 s

/-- R148: to an integral value (R150). -/
def execVfcvtRint (vd vs1 : BitVec 5) (vm : BitVec 3) (x k1 : BitVec 1) (s : State) : Out :=
  fpVec (fun c _ a _ => fRint c.fmt c.rm (flushIn c.ftz c.fmt a)) .nonLinear false vd vs1 none vm x k1 0 s

/-- R148: the class bits of R123. -/
def execVfclass (vd vs1 : BitVec 5) (vm : BitVec 3) (k1 : BitVec 1) (s : State) : Out :=
  fpVec (fun c _ a _ => (fClass c.fmt a, 0)) .nonLinear false vd vs1 none vm 0 k1 0 s

end Sys2Proof.Machine
end

