-- ==== Sys2Proof/Machine/VecPerm.lean ====
section
/-!
DEFINITION. The permutes and moves of major 0x2D (R152, R153).
-/
namespace Sys2Proof.Machine

/-- The context of a cross-element instruction: it ignores ESTART (R142). -/
def State.vctx0 (s : State) : VCtx := { s.vctx with estart := 0 }

/-- fill: the low SEW bits of VFILL (R152). -/
def State.fill (s : State) (c : VCtx) : Nat := fld s.me.vfill 0 c.sew

/-- A cross-element form of VA-PERM with a vector destination (R152, R153): element i of the body, when active, takes
`f i`; `apart` lists the source groups that vd must not overlap. -/
def permVec (c : VCtx) (vd : BitVec 5) (srcs : List (BitVec 5)) (apart : Bool) (refs : List RegRef) (vm : BitVec 3)
    (marked : List Nat) (f : Nat → Nat) (s : State) : Out :=
  .next (s.vector c (aligned c vd && srcs.all (aligned c) && (!apart || srcs.all fun v => !groupsMeet c vd v))
    (c.refs srcs vm ++ refs) .nonLinear srcs (some vd) vm
    fun g => s.elementwise c vd vm true false g marked fun i => (f i, 0))

/-- R152: vd[i] := vs1[i − n], or fill below n. -/
def execVslupVi (vd vs1 n : BitVec 5) (vm : BitVec 3) (k1 _k2 : BitVec 1) (s : State) : Out :=
  let c := s.vctx0
  permVec c vd [vs1] true [] vm (c.marked vs1 k1 vs1 0)
    (fun i => if n.toNat ≤ i then c.get s.me vs1 (i - n.toNat) else s.fill c) s

/-- R152: vd[i] := vs1[i + n], or fill from VL on. -/
def execVsldnVi (vd vs1 n : BitVec 5) (vm : BitVec 3) (k1 _k2 : BitVec 1) (s : State) : Out :=
  let c := s.vctx0
  permVec c vd [vs1] true [] vm (c.marked vs1 k1 vs1 0)
    (fun i => if i + n.toNat < c.vl then c.get s.me vs1 (i + n.toNat) else s.fill c) s

/-- R152: vd[i] := vs1[vs2[i]], or 0 for an index from VL on. -/
def execVrgathVv (vd vs1 vs2 : BitVec 5) (vm : BitVec 3) (k1 k2 : BitVec 1) (s : State) : Out :=
  let c := s.vctx0
  permVec c vd [vs1, vs2] true [] vm (c.marked vs1 k1 vs2 k2)
    (fun i => if c.get s.me vs2 i < c.vl then c.get s.me vs1 (c.get s.me vs2 i) else 0) s

/-- The active elements of 0 to VL − 1 in order. -/
def State.activeElems (s : State) (c : VCtx) (vm : BitVec 3) : List Nat :=
  (List.range c.vl).filter fun i => c.active s.me vm i

/-- R152: the active elements of vs1 packed; the rest of vd is tail. -/
def execVcompress (vd vs1 : BitVec 5) (vm : BitVec 3) (k1 : BitVec 1) (s : State) : Out :=
  let c := s.vctx0
  let act := s.activeElems c vm
  .next (s.vector { c with vl := act.length } (aligned c vd && aligned c vs1 && !groupsMeet c vd vs1) (c.refs [vs1] vm) .nonLinear
    [vs1] (some vd) 0
    fun g =>
      (s.modMe fun t => { c with vl := act.length }.writeDst t vd vm false (act.mapIdx fun j i => (j, c.get t vs1 i)) none).vretire
        (c.group vd) (some g) (c.marked vs1 k1 vs1 0))

/-- R152: the j-th active element takes vs1[j]. -/
def execVexpand (vd vs1 : BitVec 5) (vm : BitVec 3) (k1 : BitVec 1) (s : State) : Out :=
  let c := s.vctx0
  permVec c vd [vs1] true [] vm (c.marked vs1 k1 vs1 0)
    (fun i => c.get s.me vs1 ((s.activeElems c vm).countP fun j => decide (j < i))) s

/-- R152: the set bits of ms among active elements below i. -/
def execViota (vd ms : BitVec 5) (vm : BitVec 3) (s : State) : Out :=
  let c := s.vctx0
  .next (s.vector c (c.isInt && aligned c vd) (c.refs [] vm ++ c.refs [] (ms.setWidth 3)) .nonLinear [] (some vd) vm
    fun g => s.elementwise c vd vm true false g [] fun i =>
      (((s.activeElems c vm).countP fun j => decide (j < i) && s.me.maskBit c.lanes ms.toNat j) % 2 ^ c.sew, 0))

/-- R152: vd[i] := i modulo 2^SEW; elementwise. -/
def execVid (vd : BitVec 5) (vm : BitVec 3) (s : State) : Out :=
  let c := s.vctx
  .next (s.vector c (c.isInt && aligned c vd) (c.refs [] vm) .nonLinear [] (some vd) vm
    fun g => s.elementwise c vd vm true false g [] fun i => (i % 2 ^ c.sew, 0))

/-- R152: vd[i] := vs1[i], with vs1's tag; elementwise. -/
def execVmvVv (vd vs1 : BitVec 5) (vm : BitVec 3) (k1 : BitVec 1) (s : State) : Out :=
  let c := s.vctx
  .next (s.vector c (aligned c vd && aligned c vs1) (c.refs [vs1] vm) .one [vs1] (some vd) vm
    fun g => s.elementwise c vd vm true false g (c.marked vs1 k1 vs1 0) fun i => (c.get s.me vs1 i, 0))

/-- An element placed in a scalar register: by the signedness of its integer type, FP bits zero-extended (R45, R152). -/
def VCtx.toScalar (c : VCtx) (b : Nat) : Word := BitVec.ofInt 64 (c.int b)

/-- R152: element x[rs2] of vs1, or 0 from VLMAX on. -/
def execVextx (rd vs1 rs2 : BitVec 5) (k1 _k2 : BitVec 1) (s : State) : Out :=
  let c := s.vctx0
  .next (s.vector c (aligned c vs1) (c.refs [vs1] 0 ++ xs [rs2]) .blind [vs1] none 0
    fun _ =>
      let i := (s.x rs2).toNat
      (s.setX rd (if i < c.vlmax then c.toScalar (c.get s.me vs1 i) else 0)).vretire [] none (c.marked vs1 k1 vs1 0))

/-- The tag VINSX leaves: the row's SMASK bit is set for a Haar tag and an index below 32 (R215). It is used where the element is
inserted: for an index below 32 but not below VL, R152 inserts nothing and R215 would set the bit; the model leaves the tag, its own
choice (log 83). -/
def insTag (g : Word) (i : Nat) : Word := if isHaar g && decide (i < 32) then g ||| (1 <<< (32 + i)) else g

/-- R152: element x[rs2] of vd takes the low bits of x[rs1], when the index is below VL. -/
def execVinsx (vd rs1 rs2 : BitVec 5) (_k1 _k2 : BitVec 1) (s : State) : Out :=
  let c := s.vctx0
  .next (s.vector c (aligned c vd) (c.refs [vd] 0 ++ xs [rs1, rs2]) .one [vd] none 0
    fun g =>
      let i := (s.x rs2).toNat
      if i < c.vl then
        (s.modMe fun t => c.put t vd i (fld (s.x rs1) 0 c.sew)).vretire (c.group vd) (some (insTag g i)) []
      else s.vretire [] none [])

end Sys2Proof.Machine
end

