-- ==== Sys2Proof/Machine/VecRed.lean ====
section
/-!
DEFINITION. The reductions, comparisons and mask forms of major 0x2E (R88, R154 to R156).
-/
namespace Sys2Proof.Machine

/-! ### Reductions -/

/-- A reduction (R154): `f` takes the start value and the body's elements, none for an inactive one, and gives the result
and its flags; an enabled flag traps with vd unchanged, at element 0, where a cross-element instruction starts (log 13). -/
def redVec (types : VCtx → Bool) (dc : DomClass) (f : VCtx → Nat → List (Option Nat) → Nat × Flags)
    (vd vs1 vs2 : BitVec 5) (vm : BitVec 3) (k1 k2 : BitVec 1) (s : State) : Out :=
  let c := s.vctx0
  .next (s.vector { c with vl := 1 } (types c && aligned c vd && aligned c vs1 && aligned c vs2) (c.refs [vs1, vs2] vm) dc
    [vs1, vs2] (some vd) 0
    fun g =>
      let es := (List.range c.vl).map fun i => if c.active s.me vm i then some (c.get s.me vs1 i) else none
      let (r, fl) := f c (c.get s.me vs2 0) es
      let s1 := s.raise fl
      if enabled s.me.fcsr fl ≠ 0 then
        s1.elemTrap 0 fl
      else (s1.modMe fun t => { c with vl := 1 }.writeDst t vd vm false [(0, r)] none).vretire (c.group vd) (some g)
        (c.marked vs1 k1 vs2 k2))

def VCtx.numeric (c : VCtx) : Bool := c.isInt || c.isFp

/-- round(a + b) under FCSR.RM and FTZ (R88). -/
def VCtx.addF (c : VCtx) (a b : Nat) : Nat × Flags := ftz2 fAdd c a b

/-- One level of the pairwise tree. -/
def pairSums (c : VCtx) : List Nat → List Nat × Flags
  | a :: b :: r =>
    let (rest, fl) := pairSums c r
    let (v, f1) := c.addF a b
    (v :: rest, fl ||| f1)
  | l => (l, 0)

/-- The pairwise tree, level by level (R88). -/
def treeSum (c : VCtx) : Nat → List Nat → Nat × Flags
  | 0, l => (l.headD 0, 0)
  | k + 1, l =>
    let (l1, f1) := pairSums c l
    let (v, f2) := treeSum c k l1
    (v, f1 ||| f2)

/-- log2 of the smallest power of two that is at least n and 1. -/
def ceilLog2 (n : Nat) : Nat := if n ≤ 1 then 0 else Nat.log2 (n - 1) + 1

/-- The floating VREDSUM (R88): inactive and absent leaves are −0. -/
def fRedSum (c : VCtx) (start : Nat) (es : List (Option Nat)) : Nat × Flags :=
  let neg0 := c.fmt.sign true
  let k := ceilLog2 es.length
  let leaves := (List.range (2 ^ k)).map fun i => ((es.getD i none).getD neg0)
  let (t, f1) := treeSum c k leaves
  let (r, f2) := c.addF start t
  (r, f1 ||| f2)

/-- A fold over the active elements with flags. -/
def foldFlags (f : Nat → Nat → Nat × Flags) (start : Nat) (es : List (Option Nat)) : Nat × Flags :=
  (es.filterMap id).foldl (fun acc e => let (v, fl) := f acc.1 e; (v, acc.2 ||| fl)) (start, 0)

/-- Minimum or maximum of two elements: R122 for FP, by signedness for integers. -/
def minMaxElem (isMax : Bool) (c : VCtx) (a b : Nat) : Nat × Flags :=
  if c.isFp then ftzMinMax isMax c a b
  else (if decide (c.int a < c.int b) != isMax then a else b, 0)

/-- The start value of a minimum or maximum: FTZ reads a subnormal as zero (R78). -/
def startElem (c : VCtx) (a : Nat) : Nat := if c.isFp then flushIn c.ftz c.fmt a else a

/-- R154: the sum. -/
def execVredsum (vd vs1 vs2 : BitVec 5) (vm : BitVec 3) (k1 k2 : BitVec 1) (s : State) : Out :=
  redVec VCtx.numeric .nonLinear
    (fun c a es => if c.isFp then fRedSum c a es else ((es.filterMap id).foldl (· + ·) a % 2 ^ c.sew, 0)) vd vs1 vs2 vm k1 k2 s
/-- R154: the sequential sum. With no active element the start value is returned as it stands, a subnormal one unflushed under FTZ and a
signalling NaN too: the spec states no result there, and this is the model's choice (log 68). -/
def execVredosum (vd vs1 vs2 : BitVec 5) (vm : BitVec 3) (k1 k2 : BitVec 1) (s : State) : Out :=
  redVec VCtx.isFp .nonLinear (fun c a es => foldFlags c.addF a es) vd vs1 vs2 vm k1 k2 s
/-- R154: the minimum. With no active element the start value is returned, flushed under FTZ; a NaN start keeps its bits and raises no
flag: the spec states no result there, and this is the model's choice (log 68). -/
def execVredmin (vd vs1 vs2 : BitVec 5) (vm : BitVec 3) (k1 k2 : BitVec 1) (s : State) : Out :=
  redVec VCtx.numeric .nonLinear (fun c a es => foldFlags (minMaxElem false c) (startElem c a) es) vd vs1 vs2 vm k1 k2 s
/-- R154: the maximum; with no active element as VREDMIN (log 68). -/
def execVredmax (vd vs1 vs2 : BitVec 5) (vm : BitVec 3) (k1 k2 : BitVec 1) (s : State) : Out :=
  redVec VCtx.numeric .nonLinear (fun c a es => foldFlags (minMaxElem true c) (startElem c a) es) vd vs1 vs2 vm k1 k2 s
/-- R154: AND of all. -/
def execVredand (vd vs1 vs2 : BitVec 5) (vm : BitVec 3) (k1 k2 : BitVec 1) (s : State) : Out :=
  redVec VCtx.isInt .nonLinear (fun _ a es => foldFlags (fun x y => (x &&& y, 0)) a es) vd vs1 vs2 vm k1 k2 s
/-- R154: OR of all. -/
def execVredor (vd vs1 vs2 : BitVec 5) (vm : BitVec 3) (k1 k2 : BitVec 1) (s : State) : Out :=
  redVec VCtx.isInt .nonLinear (fun _ a es => foldFlags (fun x y => (x ||| y, 0)) a es) vd vs1 vs2 vm k1 k2 s
/-- R154: XOR of all. -/
def execVredxor (vd vs1 vs2 : BitVec 5) (vm : BitVec 3) (k1 k2 : BitVec 1) (s : State) : Out :=
  redVec VCtx.isInt .nonLinear (fun _ a es => foldFlags (fun x y => (x ^^^ y, 0)) a es) vd vs1 vs2 vm k1 k2 s

/-- The larger magnitude, exact; a NaN gives the canonical NaN (R154). -/
def maxAbs (f : Fmt) (a b : Nat) : Nat × Flags :=
  if (f.decode a).isNan || (f.decode b).isNan then (f.cnan, 0)
  else (max (withSign f a false) (withSign f b false), 0)

/-- R154: the largest magnitude of start and elements; tag-blind, no flag. -/
def execVamax (vd vs1 vs2 : BitVec 5) (vm : BitVec 3) (k1 k2 : BitVec 1) (s : State) : Out :=
  redVec VCtx.isFp .blind (fun c a es => foldFlags (maxAbs c.fmt) (maxAbs c.fmt a a).1 es) vd vs1 vs2 vm k1 k2 s

/-! ### Comparisons (R155) -/

/-- The relations of the comparisons. -/
inductive Rel where
  | eq | ne | lt | le | gt | ge
  deriving DecidableEq, Repr

/-- A relation of two FP values with NV as R123 and R155 say. -/
def Rel.fp (r : Rel) (x y : FVal) : Bool × Flags :=
  let un := x.isNan || y.isNan
  match r with
  | .eq => (!un && x.eqv y, sigFlag x y)
  | .ne => (un || !x.eqv y, sigFlag x y)
  | .lt => (!un && x.lt y, if un then fNV else 0)
  | .le => (!un && !y.lt x, if un then fNV else 0)
  | .gt => (!un && y.lt x, if un then fNV else 0)
  | .ge => (!un && !x.lt y, if un then fNV else 0)

/-- A relation of two integers. -/
def Rel.int (r : Rel) (x y : Int) : Bool :=
  match r with
  | .eq => x == y
  | .ne => x != y
  | .lt => decide (x < y)
  | .le => decide (x ≤ y)
  | .gt => decide (y < x)
  | .ge => decide (y ≤ x)

/-- A relation of two elements; the comparisons see subnormals as they are (R78). -/
def Rel.elem (r : Rel) (c : VCtx) (a b : Nat) : Bool × Flags :=
  if c.isFp then r.fp (c.fmt.decode a) (c.fmt.decode b)
  else (r.int (c.int a) (c.int b), 0)

/-- A comparison of vectors. -/
def cmpVv (r : Rel) (md vs1 vs2 : BitVec 5) (vm : BitVec 3) (k1 k2 : BitVec 1) (s : State) : Out :=
  let c := s.vctx
  .next (s.vector c (aligned c vs1 && aligned c vs2) (c.refs [vs1, vs2] vm) .nonLinear [vs1, vs2] none vm
    fun _ => s.elementwiseMask c md vm (c.marked vs1 k1 vs2 k2) fun i => r.elem c (c.get s.me vs1 i) (c.get s.me vs2 i))

/-- A comparison with a scalar, converted once under R83 for BF16. -/
def cmpVx (r : Rel) (md vs1 rs2 : BitVec 5) (vm : BitVec 3) (k1 : BitVec 1) (s : State) : Out :=
  let c := s.vctx
  .next (s.vector c (aligned c vs1) (c.refs [vs1] vm ++ xs [rs2]) .nonLinear [vs1] none vm
    fun _ => s.withScalar c (s.x rs2) fun b s1 =>
      s1.elementwiseMask c md vm (c.marked vs1 k1 vs1 0) fun i => r.elem c (c.get s.me vs1 i) b)

/-- R155: equal. -/
def execVmseqVv (md vs1 vs2 : BitVec 5) (vm : BitVec 3) (k1 k2 : BitVec 1) (s : State) : Out := cmpVv .eq md vs1 vs2 vm k1 k2 s
/-- R155: not equal. -/
def execVmsneVv (md vs1 vs2 : BitVec 5) (vm : BitVec 3) (k1 k2 : BitVec 1) (s : State) : Out := cmpVv .ne md vs1 vs2 vm k1 k2 s
/-- R155: less. -/
def execVmsltVv (md vs1 vs2 : BitVec 5) (vm : BitVec 3) (k1 k2 : BitVec 1) (s : State) : Out := cmpVv .lt md vs1 vs2 vm k1 k2 s
/-- R155: less or equal. -/
def execVmsleVv (md vs1 vs2 : BitVec 5) (vm : BitVec 3) (k1 k2 : BitVec 1) (s : State) : Out := cmpVv .le md vs1 vs2 vm k1 k2 s
/-- R155: equal, to a scalar. -/
def execVmseqVx (md vs1 rs2 : BitVec 5) (vm : BitVec 3) (k1 _k2 : BitVec 1) (s : State) : Out := cmpVx .eq md vs1 rs2 vm k1 s
/-- R155: not equal, to a scalar. -/
def execVmsneVx (md vs1 rs2 : BitVec 5) (vm : BitVec 3) (k1 _k2 : BitVec 1) (s : State) : Out := cmpVx .ne md vs1 rs2 vm k1 s
/-- R155: less, than a scalar. -/
def execVmsltVx (md vs1 rs2 : BitVec 5) (vm : BitVec 3) (k1 _k2 : BitVec 1) (s : State) : Out := cmpVx .lt md vs1 rs2 vm k1 s
/-- R155: less or equal, to a scalar. -/
def execVmsleVx (md vs1 rs2 : BitVec 5) (vm : BitVec 3) (k1 _k2 : BitVec 1) (s : State) : Out := cmpVx .le md vs1 rs2 vm k1 s
/-- R155: greater, than a scalar. -/
def execVmsgtVx (md vs1 rs2 : BitVec 5) (vm : BitVec 3) (k1 _k2 : BitVec 1) (s : State) : Out := cmpVx .gt md vs1 rs2 vm k1 s
/-- R155: greater or equal, to a scalar. -/
def execVmsgeVx (md vs1 rs2 : BitVec 5) (vm : BitVec 3) (k1 _k2 : BitVec 1) (s : State) : Out := cmpVx .ge md vs1 rs2 vm k1 s

/-! ### Mask forms (R156) -/

/-- A logical form on masks; elementwise over bits 0 to VL − 1. -/
def maskForm (f : Bool → Bool → Bool) (md ms1 ms2 : BitVec 5) (s : State) : Out :=
  let c := s.vctx
  .next (s.vector c true (c.refs [] (ms1.setWidth 3) ++ c.refs [] (ms2.setWidth 3)) .nonLinear [] none 0
    fun _ => s.elementwiseMask c md 0 [] fun i =>
      (f (s.me.maskBit c.lanes ms1.toNat i) (s.me.maskBit c.lanes ms2.toNat i), 0))

/-- R156: ms1 AND ms2. -/
def execVmand (md ms1 ms2 : BitVec 5) (s : State) : Out := maskForm (fun a b => a && b) md ms1 ms2 s
/-- R156: ms1 OR ms2. -/
def execVmor (md ms1 ms2 : BitVec 5) (s : State) : Out := maskForm (fun a b => a || b) md ms1 ms2 s
/-- R156: ms1 XOR ms2. -/
def execVmxor (md ms1 ms2 : BitVec 5) (s : State) : Out := maskForm (fun a b => a != b) md ms1 ms2 s
/-- R156: ms1 AND NOT ms2. -/
def execVmandn (md ms1 ms2 : BitVec 5) (s : State) : Out := maskForm (fun a b => a && !b) md ms1 ms2 s

/-- The active elements below VL whose bit is set in ms, written to rd by f. -/
def maskCount (f : List Nat → Word) (rd ms : BitVec 5) (vm : BitVec 3) (s : State) : Out :=
  let c := s.vctx0
  .next (s.vector c true (c.refs [] vm ++ c.refs [] (ms.setWidth 3)) .blind [] none vm
    fun _ => (s.setX rd (f ((s.activeElems c vm).filter fun i => s.me.maskBit c.lanes ms.toNat i))).vretire [] none [])

/-- R156: how many active bits are set. -/
def execVmpop (rd ms : BitVec 5) (vm : BitVec 3) (s : State) : Out := maskCount (fun l => BitVec.ofNat 64 l.length) rd ms vm s
/-- R156: the lowest active set bit, or all ones. -/
def execVmfirst (rd ms : BitVec 5) (vm : BitVec 3) (s : State) : Out :=
  maskCount (fun l => match l with | [] => BitVec.allOnes 64 | i :: _ => BitVec.ofNat 64 i) rd ms vm s

end Sys2Proof.Machine
end

