-- ==== Sys2Proof/Machine/VecMem.lean ====
section
/-!
DEFINITION. Vector loads and stores, VLDQ and VLDFF (R157 to R163), and the vector atomics (R164, R165). Elements are
performed one at a time in element order; an element that must wait leaves those before it performed (log 14).
-/
namespace Sys2Proof.Machine

/-- What ends an element loop early: a trap, a missing translation, a wait, an enabled FP flag, a full checkpoint log. -/
inductive Halt where
  | trap (t : Trap)
  | fault (f : FaultRef)
  | stall
  | fp (fl : Flags)
  | ckpt (ea id strm : Nat)

/-- The point at which the instruction goes on: ESTART at level T, held internally at level S (R142, R303). -/
def State.restartAt (s : State) (i : Nat) : State :=
  s.modMe fun t =>
    match t.level with
    | .T => { t with estart := BitVec.ofNat 64 i, restart := none }
    | .S => { t with restart := some i }

/-- The loop ends at element i (R160); a stall of a launch that a replay has killed is its end (R408). -/
def State.halt (s : State) (i : Nat) : Halt → State
  | .trap t => (s.restartAt i).trap t
  | .fault f => (s.restartAt i).suspend f
  | .stall => if s.me.wait.isRetiring then s else s.modMe fun t => { t with restart := some i, wait := .stalled }
  | .fp fl => (s.raise fl).elemTrap i fl
  | .ckpt ea id strm => (s.restartAt i).ckptTrap ea id strm

/-- The elements of a list performed in order: what each gave, and where the loop stopped. -/
def runMem {σ : Type} (f : Nat → σ → σ × ((Nat × Flags) ⊕ Halt)) :
    List Nat → σ → σ × List (Nat × Nat × Flags) × Option (Nat × Halt)
  | [], s => (s, [], none)
  | i :: r, s =>
    match f i s with
    | (s1, .inl (v, fl)) =>
      let (s2, vs, stop) := runMem f r s1
      (s2, (i, v, fl) :: vs, stop)
    | (s1, .inr h) => (s1, [], some (i, h))

/-- A failed check as the end of an element. -/
def Got.halt (g : Got) (ea : Word) (wr : Bool) (strm : Nat) : Halt :=
  match g with
  | .val _ => .stall
  | .trap c e => .trap { cause := c, eval := ea, eval2 := e, wr := wr, strm := strm }
  | .fault f => .fault f
  | .stall => .stall

/-- The active elements of the body. -/
def VCtx.activeBody (c : VCtx) (t : Thread) (vm : BitVec 3) : List Nat := c.body.filter fun i => c.active t vm i

/-! ### Formats (R66, R67, R157 to R159) -/

/-- Bytes that an access of a memory format takes. -/
def memSize (f : Nat) : Nat := if f = 0xF then 1 else (widthOf f + 7) / 8
/-- Byte offset of element i from the base in a unit-stride access: E2M1 is packed two to a byte (R67). -/
def unitOff (f i : Nat) : Nat := if f = 0xF then i / 2 else i * memSize f
/-- The element's bits within the bytes of its access. -/
def pickElem (f i v : Nat) : Nat := if f = 0xF then (v / 16 ^ (i % 2)) % 16 else if f = 0xE then v % 64 else v
/-- The bytes of an access with the element's bits put in. -/
def placeElem (f i old v : Nat) : Nat :=
  if f = 0xF then (if i % 2 = 0 then old / 16 * 16 + v % 16 else old % 16 + v % 16 * 16) else v

/-- The scale code of element i (R158). -/
def State.scaleOf (s : State) (qn bl i : Nat) : Nat :=
  let j := i / 2 ^ bl
  fld (s.me.q.getD ((qn + j / 64) % 16) 0) (8 * (j % 64)) 8
/-- The q registers that VL elements read. -/
def scaleRefs (c : VCtx) (qn bl : Nat) : List RegRef :=
  if c.vl = 0 then [] else (List.range ((c.vl - 1) / 2 ^ bl / 64 + 1)).map fun k => ⟨6, (qn + k) % 16⟩

/-- How a memory element becomes a register element, and back (R159). -/
structure Conv where
  fmt : Nat
  load : Nat → Nat → Nat × Flags
  store : Nat → Nat → Nat × Flags

/-- The conversion between an unscaled memory format and ET. -/
def plainConv (c : VCtx) (f : Nat) : Conv :=
  { fmt := f, load := fun _ b => convertElem f c.et c.rm b, store := fun _ b => convertElem c.et f c.rm b }
/-- The conversion with q-register scales: widening under R74, quantising under R85. -/
def scaledConv (s : State) (c : VCtx) (f qn : Nat) : Conv :=
  let bl := fld s.me.vtype 7 3
  { fmt := f, load := fun i b => widenScaled f (s.scaleOf qn bl i) c.et c.rm b,
    store := fun i b => quantise f (s.scaleOf qn bl i) c.rm (elemVal c.et b) }

/-! ### Loads and stores -/

/-- One element of a load. -/
def loadElem (c : VCtx) (cv : Conv) (ea : Nat → Word) (strm : Nat) (i : Nat) (s : State) : State × ((Nat × Flags) ⊕ Halt) :=
  match s.check (ea i) (memSize cv.fmt) .load strm loadWindows with
  | (.val p, s1) =>
    let (v, fl) := cv.load i (pickElem cv.fmt i (s1.loaded p (memSize cv.fmt)))
    (s1, if fld fl 0 5 &&& c.te ≠ 0 then .inr (.fp fl) else .inl (v, fl))
  | (g, s1) => (s1, .inr (g.halt (ea i) false strm))

/-- One element of a store (R159 to R161): its check, its conversion, then the write under R30 and R31. -/
def storeElem (c : VCtx) (cv : Conv) (vs3 : BitVec 5) (ea : Nat → Word) (strm : Nat) (i : Nat) (sd : State × List (Nat × Nat)) :
    (State × List (Nat × Nat)) × ((Nat × Flags) ⊕ Halt) :=
  match sd.1.check (ea i) (memSize cv.fmt) .store strm storeWindows with
  | (.val p, s1) =>
    let (v, fl) := cv.store i (c.get s1.me vs3 i)
    if fld fl 0 5 &&& c.te ≠ 0 then ((s1, sd.2), .inr (.fp fl))
    else
      let old := if cv.fmt = 0xF then s1.loaded p 1 else 0
      match s1.storePart p (leBytes (memSize cv.fmt) (placeElem cv.fmt i old v)) sd.2
          (if cv.fmt = 0xF then some (i % 2) else none) with
      | .inl s2 => (s2, .inl (0, fl))
      | .inr id => ((s1, sd.2), .inr (.ckpt (ea i).toNat id strm))
  | (g, s1) => ((s1, sd.2), .inr (g.halt (ea i) true strm))

/-- A vector load's elements, then its destination, flags and end (R141, R159, R160). -/
def State.loadVec (s : State) (c : VCtx) (cv : Conv) (ea : Nat → Word) (vd : BitVec 5) (vm : BitVec 3) (strm : Nat) : State :=
  let (s1, vals, stop) := runMem (loadElem c cv ea strm) (c.activeBody s.me vm) s
  let s2 := (s1.modMe fun t => c.writeDst t vd vm true (vals.map fun p => (p.1, p.2.1)) (stop.map Prod.fst)).raise
    (allFlags vals)
  match stop with
  | some (i, h) => s2.halt i h
  | none => s2.vretire (c.group vd) (some 0) []

/-- A vector store's elements, then its flags and end. -/
def State.storeVec (s : State) (c : VCtx) (cv : Conv) (ea : Nat → Word) (vs3 : BitVec 5) (vm : BitVec 3) (strm : Nat) : State :=
  let (s1, vals, stop) := runMem (storeElem c cv vs3 ea strm) (c.activeBody s.me vm) (s, [])
  let s2 := s1.1.raise (allFlags vals)
  match stop with
  | some (i, h) => s2.halt i h
  | none => s2.vretire [] none []

/-- Unit-stride addresses. -/
def State.unitEa (s : State) (rs1 : BitVec 5) (f : Nat) (i : Nat) : Word := s.x rs1 + BitVec.ofNat 64 (unitOff f i)
/-- Strided addresses: base + i × stride, modulo 2^64. -/
def State.strideEa (s : State) (rs1 rs2 : BitVec 5) (i : Nat) : Word := s.x rs1 + BitVec.ofNat 64 i * s.x rs2
/-- Indexed addresses: the index is an unsigned element. -/
def State.indexEa (s : State) (c : VCtx) (rs1 vs2 : BitVec 5) (i : Nat) : Word :=
  s.x rs1 + BitVec.ofNat 64 (c.get s.me vs2 i)

/-- The conversion that fmt5 and qn name, with its legality under VTYPE and the q registers it reads (R158). -/
def State.fmtConv (s : State) (c : VCtx) (fmt qn : BitVec 5) : Conv × Bool × List RegRef :=
  let f := fld fmt 0 4
  if bit fmt 4 then (scaledConv s c f qn.toNat, c.isFp, scaleRefs c qn.toNat (fld s.me.vtype 7 3))
  else (plainConv c f, true, [])

/-- R157: unit-stride load. -/
def execVld (vd rs1 qn : BitVec 5) (vm stream : BitVec 3) (fmt : BitVec 5) (s : State) : Out :=
  let c := s.vctx
  let (cv, legal, refs) := s.fmtConv c fmt qn
  .next (s.vector c (legal && aligned c vd) (c.refs [] vm ++ refs ++ xs [rs1]) .blind [] none vm
    fun _ => s.loadVec c cv (s.unitEa rs1 cv.fmt) vd vm stream.toNat)

/-- R157: unit-stride store. -/
def execVst (vs3 rs1 qn : BitVec 5) (vm stream : BitVec 3) (fmt : BitVec 5) (s : State) : Out :=
  let c := s.vctx
  let (cv, legal, refs) := s.fmtConv c fmt qn
  .next (s.vector c (legal && aligned c vs3) (c.refs [vs3] vm ++ refs ++ xs [rs1]) .blind [] none vm
    fun _ => s.storeVec c cv (s.unitEa rs1 cv.fmt) vs3 vm stream.toNat)

/-- R157: strided load. -/
def execVlds (vd rs1 rs2 : BitVec 5) (vm stream : BitVec 3) (fmt : BitVec 5) (s : State) : Out :=
  let c := s.vctx
  .next (s.vector c (aligned c vd) (c.refs [] vm ++ xs [rs1, rs2]) .blind [] none vm
    fun _ => s.loadVec c (plainConv c (fld fmt 0 4)) (s.strideEa rs1 rs2) vd vm stream.toNat)

/-- R157: strided store. -/
def execVsts (vs3 rs1 rs2 : BitVec 5) (vm stream : BitVec 3) (fmt : BitVec 5) (s : State) : Out :=
  let c := s.vctx
  .next (s.vector c (aligned c vs3) (c.refs [vs3] vm ++ xs [rs1, rs2]) .blind [] none vm
    fun _ => s.storeVec c (plainConv c (fld fmt 0 4)) (s.strideEa rs1 rs2) vs3 vm stream.toNat)

/-- R157: indexed load; vd must not overlap vs2. -/
def execVldx (vd rs1 vs2 : BitVec 5) (vm stream : BitVec 3) (fmt : BitVec 5) (s : State) : Out :=
  let c := s.vctx
  .next (s.vector c (aligned c vd && aligned c vs2 && !groupsMeet c vd vs2) (c.refs [vs2] vm ++ xs [rs1]) .blind [] none vm
    fun _ => s.loadVec c (plainConv c (fld fmt 0 4)) (s.indexEa c rs1 vs2) vd vm stream.toNat)

/-- R157: indexed store. -/
def execVstx (vs3 rs1 vs2 : BitVec 5) (vm stream : BitVec 3) (fmt : BitVec 5) (s : State) : Out :=
  let c := s.vctx
  .next (s.vector c (aligned c vs3 && aligned c vs2) (c.refs [vs3, vs2] vm ++ xs [rs1]) .blind [] none vm
    fun _ => s.storeVec c (plainConv c (fld fmt 0 4)) (s.indexEa c rs1 vs2) vs3 vm stream.toNat)

/-- A halt by which VLDFF shortens VL: a failed check of cause 0x04 to 0x08, a missing translation among them (R163). -/
def Halt.short : Halt → Bool
  | .trap t => decide (4 ≤ t.cause ∧ t.cause ≤ 8) && t.eval2 == 0
  | .fault _ => true
  | _ => false

/-- R163: unit-stride load that shortens VL at the first failing element above the lowest active one of the body that ESTART
begins, wherever a stall has left the instruction. -/
def execVldff (vd rs1 : BitVec 5) (vm stream : BitVec 3) (fmt : BitVec 4) (s : State) : Out :=
  let c := s.vctx
  let cv := plainConv c fmt.toNat
  .next (s.vector c (aligned c vd) (c.refs [] vm ++ xs [rs1]) .blind [] none vm
    fun _ =>
      let es := c.activeBody s.me vm
      let (s1, vals, stop) := runMem (loadElem c cv (s.unitEa rs1 cv.fmt) stream.toNat) es s
      let ends (c : VCtx) (stop : Option Nat) : State :=
        (s1.modMe fun t => c.writeDst t vd vm true (vals.map fun p => (p.1, p.2.1)) stop).raise (allFlags vals)
      match stop with
      | none => (ends c none).vretire (c.group vd) (some 0) []
      | some (i, h) =>
        if h.short && (({ c with estart := s.me.estart.toNat }.activeBody s.me vm).head? != some i) then
          ((ends { c with vl := i } none).modMe fun t => { t with vl := BitVec.ofNat 64 i }).vretire (c.group vd) (some 0) []
        else (ends c (some i)).halt i h)

/-- The doublewords of an access of 64 bytes or more, checked and read in rising order, or the first that fails. -/
def loadDwords (strm : Nat) (allow : Window → Bool) : List Word → State → State × (List Word ⊕ (Word × Got))
  | [], s => (s, .inl [])
  | a :: r, s =>
    match s.check a 8 .load strm allow with
    | (.val p, s1) =>
      let v := BitVec.ofNat 64 (s1.loaded p 8)
      (match loadDwords strm allow r s1 with
        | (s2, .inl vs) => (s2, .inl (v :: vs))
        | (s2, .inr e) => (s2, .inr e))
    | (g, s1) => (s1, .inr (a, g))

/-- The doublewords of n bytes from an address on. -/
def dwordsAt (base : Word) (n : Nat) : List Word := (List.range n).map fun k => base + BitVec.ofNat 64 (8 * k)

/-- Doublewords joined, the first in the low bits. -/
def joinWords (w : Nat) (vs : List Word) : BitVec w := BitVec.ofNat w (vs.foldr (fun v acc => v.toNat + 2 ^ 64 * acc) 0)

/-- R162: 64 bytes into q[qd]; ESTART 0 when it traps. -/
def execVldq (qd rs1 : BitVec 5) (stream : BitVec 3) (s : State) : Out :=
  .next (match s.vectorStop true with
    | some s1 => s1
    | none => s.guard (xs [rs1])
      (match loadDwords stream.toNat loadWindows (dwordsAt (s.x rs1) 8) s with
        | (s1, .inl vs) => (s1.modMe fun t => t.setQ qd.toNat (joinWords 512 vs)).vretire [] none []
        | (s1, .inr (a, g)) => g.stop a false stream.toNat (match g with | .stall => s1 | _ => s1.modMe fun t =>
            match t.level with | .T => { t with estart := 0 } | .S => t)))

/-! ### Vector atomics (R164, R165) -/

/-- The class D and other checks of a VAMO element. -/
def State.vamoCheck (s : State) (ord : Bool) (ea : Word) (strm : Nat) : Got × State :=
  match s.check ea 4 .atomic strm storeWindows with
  | (.val p, s1) => if !ord && p.dcls then (.trap 6 0, s1) else (.val p, s1)
  | r => r

/-- How one element performed at its home comes out: the old value, a full checkpoint log, or an event held by a replay. -/
inductive Elem where
  | old (v : Nat)
  | full (id : Nat)
  | held

/-- One element performed at its home, with its event and its count as a mixed atomic (R164, R405, R407). -/
def vamoElem (f : Nat → Nat → Nat) (x : Nat) (ea : Word) (p : Place) (s : State) : State × Elem :=
  let old := s.loaded p 4
  match s.bankEvent p.addr with
  | (s1, false) => (s1, .held)
  | (s1, true) =>
    match s1.storeAt p (leBytes 4 (f old x)) with
    | .inl s2 => (s2.mixed ea p, .old old)
    | .inr id => (s, .full id)

/-- The checks of all elements of an unordered VAMO, before any is performed. -/
def vamoScan (ea : Nat → Word) (strm : Nat) : List Nat → State → State × (List (Nat × Place) ⊕ (Nat × Got))
  | [], s => (s, .inl [])
  | i :: r, s =>
    match s.vamoCheck false (ea i) strm with
    | (.val p, s1) =>
      (match vamoScan ea strm r s1 with
        | (s2, .inl ps) => (s2, .inl ((i, p) :: ps))
        | (s2, .inr e) => (s2, .inr e))
    | (g, s1) => (s1, .inr (i, g))

/-- The elements of an unordered VAMO performed in element order: their old values, and the element at which a full
checkpoint log (log 16) or a held event stopped it. -/
def vamoPerform (f : Nat → Nat → Nat) (x : Nat → Nat) (ea : Nat → Word) :
    List (Nat × Place) → State → State × List (Nat × Nat) × Option (Nat × Option Nat)
  | [], s => (s, [], none)
  | (i, p) :: r, s =>
    match vamoElem f (x i) (ea i) p s with
    | (s1, .old v) =>
      let (s2, vs, e) := vamoPerform f x ea r s1
      (s2, (i, v) :: vs, e)
    | (s1, .full id) => (s1, [], some (i, some id))
    | (s1, .held) => (s1, [], some (i, none))

/-- How a failed check of an ordered VAMO's element ends it: cause 0x0D with the underlying cause (R165). -/
def Got.vamoHalt (g : Got) (ea : Word) (strm : Nat) : Halt :=
  match g with
  | .trap c _ => .trap { cause := 0xD, eval := ea, eval2 := BitVec.ofNat 64 c, wr := true, strm := strm }
  | .fault f => .fault { f with vamo := true }
  | _ => .stall

/-- One element of an ordered VAMO: its check and its effect. -/
def vamoOrdered (f : Nat → Nat → Nat) (x : Nat → Nat) (ea : Nat → Word) (strm : Nat) (i : Nat) (s : State) :
    State × ((Nat × Flags) ⊕ Halt) :=
  match s.vamoCheck true (ea i) strm with
  | (.val p, s1) =>
    (match vamoElem f (x i) (ea i) p s1 with
      | (s2, .old v) => (s2, .inl (v, 0))
      | (s2, .full id) => (s2, .inr (.ckpt (ea i).toNat id strm))
      | (s2, .held) => (s2, .inr .stall))
  | (g, s1) => (s1, .inr (g.vamoHalt (ea i) strm))

/-- A VAMO with its new value as a function of the old value and the operand (R164). The ordered form starts at ESTART (R302). R302
names no start for the unordered one, and the body of R141 begins at ESTART: that it starts there too is the model's choice
(log 65). -/
def vamoForm (types : VCtx → Bool) (f : VCtx → Nat → Nat → Nat) (vd rs1 vs2 : BitVec 5) (vm stream : BitVec 3)
    (ord : BitVec 1) (s : State) : Out :=
  let c := s.vctx
  let es := c.activeBody s.me vm
  let ea (i : Nat) : Word := s.x rs1 + BitVec.ofNat 64 (c.get s.me vs2 i)
  let x (i : Nat) : Nat := c.get s.me vd i
  let ends (s1 : State) (vals : List (Nat × Nat)) (stop : Option Nat) : State :=
    s1.modMe fun t => c.writeDst t vd vm true vals stop
  .next (s.vector c (decide (c.sew = 32) && types c && aligned c vd && aligned c vs2) (c.refs [vd, vs2] vm ++ xs [rs1])
    .blind [] none vm
    fun _ =>
      if ord = 1 then
        match runMem (vamoOrdered (f c) x ea stream.toNat) es s with
        | (s1, vals, some (i, h)) => (ends s1 (vals.map fun p => (p.1, p.2.1)) (some i)).halt i h
        | (s1, vals, none) => (ends s1 (vals.map fun p => (p.1, p.2.1)) none).vretire (c.group vd) (some 0) []
      else
        match vamoScan ea stream.toNat es s with
        | (s1, .inr (_, .stall)) => s1.stall
        | (s1, .inr (i, g)) => s1.halt 0 (g.halt (ea i) true stream.toNat)
        | (s1, .inl ps) =>
          match vamoPerform (f c) x ea ps s1 with
          | (s2, vals, none) => (ends s2 vals none).vretire (c.group vd) (some 0) []
          | (_, _, some (i, some id)) => s1.halt 0 (.ckpt (ea i).toNat id stream.toNat)
          | (s2, vals, some (i, none)) => (ends s2 vals (some i)).halt i .stall)

/-- 32-bit addition at the home: modulo 2^32, or FP32 under RNE with no flag. -/
def vamoAdd (c : VCtx) (old x : Nat) : Nat := if c.isFp then (fAdd FP32 .rne old x).1 else (old + x) % 2 ^ 32
/-- Minimum or maximum at the home. -/
def vamoMinMax (isMax : Bool) (c : VCtx) (old x : Nat) : Nat :=
  if c.isFp then (fMinMax isMax FP32 old x).1 else if decide (c.int old < c.int x) != isMax then old else x

/-- R164: addition. -/
def execVamoadd (vd rs1 vs2 : BitVec 5) (vm stream : BitVec 3) (ord : BitVec 1) (s : State) : Out :=
  vamoForm VCtx.numeric vamoAdd vd rs1 vs2 vm stream ord s
/-- R164: AND. -/
def execVamoand (vd rs1 vs2 : BitVec 5) (vm stream : BitVec 3) (ord : BitVec 1) (s : State) : Out :=
  vamoForm VCtx.isInt (fun _ a b => a &&& b) vd rs1 vs2 vm stream ord s
/-- R164: OR. -/
def execVamoor (vd rs1 vs2 : BitVec 5) (vm stream : BitVec 3) (ord : BitVec 1) (s : State) : Out :=
  vamoForm VCtx.isInt (fun _ a b => a ||| b) vd rs1 vs2 vm stream ord s
/-- R164: XOR. -/
def execVamoxor (vd rs1 vs2 : BitVec 5) (vm stream : BitVec 3) (ord : BitVec 1) (s : State) : Out :=
  vamoForm VCtx.isInt (fun _ a b => a ^^^ b) vd rs1 vs2 vm stream ord s
/-- R164: minimum. -/
def execVamomin (vd rs1 vs2 : BitVec 5) (vm stream : BitVec 3) (ord : BitVec 1) (s : State) : Out :=
  vamoForm VCtx.numeric (vamoMinMax false) vd rs1 vs2 vm stream ord s
/-- R164: maximum. -/
def execVamomax (vd rs1 vs2 : BitVec 5) (vm stream : BitVec 3) (ord : BitVec 1) (s : State) : Out :=
  vamoForm VCtx.numeric (vamoMinMax true) vd rs1 vs2 vm stream ord s
/-- R164: exchange. -/
def execVamoswp (vd rs1 vs2 : BitVec 5) (vm stream : BitVec 3) (ord : BitVec 1) (s : State) : Out :=
  vamoForm VCtx.numeric (fun _ _ b => b) vd rs1 vs2 vm stream ord s

end Sys2Proof.Machine
end

