-- ==== Sys2Proof/Machine/Atomics.lean ====
section
/-!
DEFINITION. Home scopes (R222), the waits of a release (R230), the bank atomics of major 0x26 (R269 to R271), FENCE and SBAR
(R228 to R230).
-/
namespace Sys2Proof.Machine

/-! ### Home scopes and releases -/

/-- Home scope of a location as seen from core n: the narrowest scope whose unit holds it (R29, R222). Cores 0 to 3 and 4 to 7
of a cluster are its quads (R2). -/
def homeScope (n a : Nat) : Nat :=
  match physKind a with
  | .priv c => if c = n then 0 else if c / 4 = n / 4 then 1 else if c / 8 = n / 8 then 2
      else if layerOf c = layerOf n then 3 else if towerOf c = towerOf n then 4 else 5
  | .cluster gl => if gl ≠ layerOf n then (if gl / 8 = towerOf n then 4 else 5)
      else if a / 0x800000 = clusterBase gl (cluIdx n) / 0x800000 then 2 else 3
  | .onsen gl => if gl = layerOf n then 3 else if gl / 8 = towerOf n then 4 else 5
  | .replica gl => if gl / 8 = towerOf n then 4 else 5
  | .mirror t => if t = towerOf n then 4 else 5
  | .hbm => if stackTower a = towerOf n then 4 else 5
  | .host => 5
  | _ => 6

/-- Home scope of an address of core n as a copy engine reaches it; 4 for the region and for what has no translation yet. -/
def State.scopeOf (s : State) (n asn ea : Nat) : Nat :=
  if ea < 0x100000000 then
    match localPlace n true ea with
    | some p => if p.win = .region then 4 else homeScope n p.addr
    | none => 4
  else
    match s.walk (towerOf n) asn ea with
    | .leaf e => ((s.locate (towerOf n) (ptePA e.leaf + (ea - e.base))).map (homeScope n)).getD 4
    | .fail _ _ _ => 4

/-- The first bytes of the pages that a command's destination touches. -/
def EngCmd.destPages (c : EngCmd) : List Nat :=
  match c.kind with
  | .scat => c.index.flatMap fun i =>
      let a := (c.dst + BitVec.ofNat 64 i * c.st.rowPitch).toNat
      a :: (unitsOf a c.len 65536).drop 1
  | _ => c.dst.toNat :: (unitsOf c.dst.toNat c.span 65536).drop 1

/-- A release at a scope has to wait: an older engine command of the thread with a covered destination has not completed, or,
at `.stack` or wider, an own GST or GAMO is pending (R230, R239). -/
def State.releaseWaits (s : State) (scope : Nat) : Bool :=
  ((s.myCluster.queues.toList.flatten).any fun c =>
    c.core == s.cur && c.slot == s.curSlot.val && c.kind != .qfence &&
      (c.span == 0 || c.destPages.any fun a => s.scopeOf s.cur c.asn a ≤ scope))
    || (4 ≤ scope && s.myTower.gpend.any fun g => g.core == s.cur && g.slot == s.curSlot.val && g.engine.isNone)

/-- R228 to R230: a release waits; an acquire has nothing to wait for, since older loads have been performed. -/
def execFence (ord : BitVec 2) (scope : BitVec 3) (s : State) : Out :=
  .next (if bit ord 1 && s.releaseWaits scope.toNat then s.stall else s.retire)

/-- R228, R229: every older access of the thread has been performed. -/
def execSbar (_mask : BitVec 8) (s : State) : Out := .next s.retire

/-! ### Bank atomics (R269 to R271) -/

/-- An atomic of n bytes at x[rs1]: the new value as a function of the old one, none when a comparison fails, and the value
written to rd. A held event of a replay, and the waits of an access, leave it unperformed. On an SA page its scope is `.pkg` or wider
(R242). -/
def State.atomic (s : State) (rd rs1 : BitVec 5) (refs : List RegRef) (scope : BitVec 3) (ord : BitVec 2) (n : Nat)
    (new : Nat → Option Nat) (res : Nat → Word) : State :=
  s.guard (xs [rs1] ++ refs)
    (if bit ord 1 && s.releaseWaits scope.toNat then s.stall
     else
       match s.check (s.x rs1) n .atomic 0 storeWindows with
       | (.val p, s1) =>
         if bit ord 1 && p.sa && s1.releaseWaits (max scope.toNat 5) then s1.stall
         else
         (match s1.bankEvent p.addr with
           | (s2, false) => s2.hold
           | (s2, true) =>
             let old := s2.loaded p n
             let done := match new old with
               | some v => s2.storeAt p (leBytes n v)
               | none => (match s2.beforeStore p n [] with | .inl r => .inl r.1 | .inr id => .inr id)
             match done with
             | .inl s3 => (s3.mixed (s.x rs1) p).result rd (res old)
             | .inr id => s1.ckptTrap (s.x rs1).toNat id 0)
       | (g, s1) => g.stop (s.x rs1) true 0 s1)

/-- Bytes and bits of the two widths (R269). -/
def atomBytes (w : BitVec 1) : Nat := if w = 1 then 4 else 8
/-- The old value in rd: the 32-bit forms sign-extend (R270). -/
def atomOld (w : BitVec 1) (v : Nat) : Word := if w = 1 then signExt 32 v else zeroExt v
/-- The low 32 or 64 bits of a register. -/
def atomArg (w : BitVec 1) (v : Word) : Nat := fld v 0 (8 * atomBytes w)

/-- An integer atomic that always writes (R269, R270). -/
def atomForm (f : Nat → Nat → Nat → Nat) (rd rs1 rs2 : BitVec 5) (scope : BitVec 3) (ord : BitVec 2) (w : BitVec 1)
    (s : State) : Out :=
  .next (s.atomic rd rs1 (xs [rs2]) scope ord (atomBytes w)
    (fun old => some (f (8 * atomBytes w) old (atomArg w (s.x rs2)))) (atomOld w))

/-- The smaller or larger of two values of w bits. -/
def atomPick (signed isMax : Bool) (w a b : Nat) : Nat :=
  if decide (intOf signed w a < intOf signed w b) != isMax then a else b

/-- R269: addition. -/
def execAadd (rd rs1 rs2 : BitVec 5) (scope : BitVec 3) (ord : BitVec 2) (w : BitVec 1) (s : State) : Out :=
  atomForm (fun n a b => (a + b) % 2 ^ n) rd rs1 rs2 scope ord w s
/-- R269: AND. -/
def execAand (rd rs1 rs2 : BitVec 5) (scope : BitVec 3) (ord : BitVec 2) (w : BitVec 1) (s : State) : Out :=
  atomForm (fun _ a b => a &&& b) rd rs1 rs2 scope ord w s
/-- R269: OR. -/
def execAor (rd rs1 rs2 : BitVec 5) (scope : BitVec 3) (ord : BitVec 2) (w : BitVec 1) (s : State) : Out :=
  atomForm (fun _ a b => a ||| b) rd rs1 rs2 scope ord w s
/-- R269: exclusive or. -/
def execAxor (rd rs1 rs2 : BitVec 5) (scope : BitVec 3) (ord : BitVec 2) (w : BitVec 1) (s : State) : Out :=
  atomForm (fun _ a b => a ^^^ b) rd rs1 rs2 scope ord w s
/-- R269: signed minimum. -/
def execAmin (rd rs1 rs2 : BitVec 5) (scope : BitVec 3) (ord : BitVec 2) (w : BitVec 1) (s : State) : Out :=
  atomForm (atomPick true false) rd rs1 rs2 scope ord w s
/-- R269: signed maximum. -/
def execAmax (rd rs1 rs2 : BitVec 5) (scope : BitVec 3) (ord : BitVec 2) (w : BitVec 1) (s : State) : Out :=
  atomForm (atomPick true true) rd rs1 rs2 scope ord w s
/-- R269: unsigned minimum. -/
def execAminu (rd rs1 rs2 : BitVec 5) (scope : BitVec 3) (ord : BitVec 2) (w : BitVec 1) (s : State) : Out :=
  atomForm (atomPick false false) rd rs1 rs2 scope ord w s
/-- R269: unsigned maximum. -/
def execAmaxu (rd rs1 rs2 : BitVec 5) (scope : BitVec 3) (ord : BitVec 2) (w : BitVec 1) (s : State) : Out :=
  atomForm (atomPick false true) rd rs1 rs2 scope ord w s
/-- R269: exchange. -/
def execAswap (rd rs1 rs2 : BitVec 5) (scope : BitVec 3) (ord : BitVec 2) (w : BitVec 1) (s : State) : Out :=
  atomForm (fun _ _ b => b) rd rs1 rs2 scope ord w s
/-- R269, R270: compare and swap; rd is also read. -/
def execAcas (rd rs1 rs2 : BitVec 5) (scope : BitVec 3) (ord : BitVec 2) (w : BitVec 1) (s : State) : Out :=
  .next (s.atomic rd rs1 (xs [rs2, rd]) scope ord (atomBytes w)
    (fun old => if old = atomArg w (s.x rd) then some (atomArg w (s.x rs2)) else none) (atomOld w))
/-- R269, R270: floating-point addition under RNE, without flags; the old FP32 value is zero-extended. -/
def execAfadd (rd rs1 rs2 : BitVec 5) (scope : BitVec 3) (ord : BitVec 2) (w : BitVec 1) (s : State) : Out :=
  let f := if w = 1 then FP32 else FP64
  .next (s.atomic rd rs1 (xs [rs2]) scope ord (atomBytes w)
    (fun old => some (fAdd f .rne old (atomArg w (s.x rs2))).1) zeroExt)

end Sys2Proof.Machine
end

