-- ==== Sys2Proof/Machine/Geyser.lean ====
section
/-!
DEFINITION. The stack broadcast as a thread uses it: GSLOT, GREL, GST, GAMO, GFRAME (R290 to R295).
-/
namespace Sys2Proof.Machine

/-- Slots 8 to 239 that no thread holds (R291). -/
def Tower.freeSlots (t : Tower) : List Nat := ((List.range 232).map (8 + ·)).filter fun s => !t.leases.any fun l => l.1 == s

/-- The cheaper of two selections, each with its cost; the first when they cost the same. -/
def cheaper (best : Option (Nat × List Nat)) (next : Nat × List Nat) : Option (Nat × List Nat) :=
  match best with
  | some b => if next.1 < b.1 then some next else some b
  | none => some next

/-- For each free slot that may be the last of them, the cheapest selection of k slots after the first slot f, latest first: the cost
is the sum of the squares of the gaps. -/
def evenAfter (f : Nat) (free : List Nat) : Nat → List (Nat × List Nat)
  | 0 => [(0, [f])]
  | k + 1 =>
    let shorter := evenAfter f free k
    free.filterMap fun g => (shorter.filter fun p => p.2.headD 0 < g).foldl
      (fun best p => cheaper best (p.1 + (g - p.2.headD 0) * (g - p.2.headD 0), g :: p.2)) none

/-- n of the free slots, spaced as evenly through the frame of 256 as they allow: the squares of the gaps, the one across the frame's
end with them, have the least sum (R292; the measure, and the lowest slots among equals, are the model's, log 21). -/
def pickEven (free : List Nat) : Nat → List Nat
  | 0 => []
  | n + 1 =>
    let closed := free.flatMap fun f => (evenAfter f free n).map fun p =>
      (p.1 + (f + 256 - p.2.headD 0) * (f + 256 - p.2.headD 0), p.2)
    ((closed.foldl cheaper none).map fun p => p.2.reverse).getD []

/-- Grants up to n slots to a thread; answers how many (R292). -/
def State.grantSlots (s : State) (core slot n : Nat) : State × Nat :=
  let tw := towerOf core
  let free := (s.tower tw).freeSlots
  let g := min n (min (64 - (s.thread core slot).glease) free.length)
  ((s.modTower tw fun t => { t with leases := t.leases ++ (pickEven free g).map fun x => (x, core, slot) }).modThread core slot
    fun t => { t with glease := t.glease + g }, g)

/-- Releases the n highest-numbered slots of a thread (R292; log 21). -/
def State.releaseSlots (s : State) (core slot n : Nat) : State :=
  let tw := towerOf core
  let mine := ((s.tower tw).leases.filter fun l => l.2 == (core, slot)).map Prod.fst
  let kept := ((List.range 256).filter mine.contains).take (mine.length - n)
  (s.modTower tw fun t => { t with leases := t.leases.filter fun l => l.2 != (core, slot) || kept.contains l.1 }).modThread
    core slot fun t => { t with glease := t.glease - n }

/-- A form of major 0x29 traps in a slot that a message holds without a task (R309). -/
def State.geyser (s : State) (k : State) : State := if s.noTask then s.operandTrap else k

/-- R292: asks for slots. -/
def execGslot (rd rs1 : BitVec 5) (s : State) : Out :=
  .next (s.guard (xs [rs1]) (s.geyser
    (let (s1, g) := s.grantSlots s.cur s.curSlot (s.x rs1).toNat
     s1.result rd (BitVec.ofNat 64 g))))

/-- Writes of a thread that wait for a slot, its broadcast beats among them. -/
def State.pendingWrites (s : State) (core slot : Nat) : List GWrite :=
  (s.tower (towerOf core)).gpend.filter fun g => g.core == core && g.slot == slot

/-- R292: releases slots, once the writes pending in them have gone out. -/
def execGrel (rd rs1 : BitVec 5) (s : State) : Out :=
  .next (s.guard (xs [rs1]) (s.geyser
    (let n := min (s.x rs1).toNat s.me.glease
     if n ≠ 0 ∧ !(s.pendingWrites s.cur s.curSlot).isEmpty then s.stall
     else
       let s1 := s.releaseSlots s.cur s.curSlot n
       s1.result rd (BitVec.ofNat 64 s1.me.glease))))

/-- R295: frame count and slot. -/
def execGframe (rd : BitVec 5) (s : State) : Out :=
  .next (s.geyser (s.result rd (BitVec.ofNat 64 (s.myTower.frame % 2 ^ 48 + s.myTower.gslot % 256 * 2 ^ 48))))

/-- The local window of the stack-broadcast region (R220). -/
def inRegion (ea : Nat) : Bool := decide (0x30000000 ≤ ea ∧ ea < 0x32000000)

/-- The address checks of GST and GAMO, the trap of a poisoned region, the commit, and the limit of 16 pending writes; then
the write joins the thread's pending writes (R293, R294). -/
def State.broadcast (s : State) (ea : Word) (n : Nat) (op : GOp) (rd : Option (BitVec 5)) (k : State → State) : State :=
  if ea.toNat % n ≠ 0 then s.trap { cause := 4, eval := ea, wr := true }
  else if !inRegion ea.toNat then s.trap { cause := 6, eval := ea, wr := true }
  else if s.myTower.regionPoison then s.trap { cause := 0x11, eval := ea }
  else
    let s1 := s.implicitCommit
    if 16 ≤ ((s1.pendingWrites s.cur s.curSlot).filter fun g => g.engine.isNone).length then s1.stall
    else k (s1.modTower (towerOf s.cur) fun t =>
      { t with gpend := t.gpend ++ [{ core := s.cur, slot := s.curSlot, engine := none, off := ea.toNat - 0x30000000,
                                      op := op, rd := rd, size := n }] })

/-- The lane slices that a GST of more than 8 bytes sends: slice k from register rs2 + k / L, position k mod L (R293). -/
def Thread.gstData (t : Thread) (lanes base n : Nat) : BitVec 1024 :=
  BitVec.ofNat 1024 (((List.range (n / 4)).map fun k => fld (t.getV (base + k / lanes)) (32 * (k % lanes)) 32).foldr
    (fun v acc => v + 2 ^ 32 * acc) 0)

/-- R293: 2^SZ bytes to the region. In a message slot with an empty grant the trap of R28 goes before that of R309, the model's choice
(log 87). -/
def execGst (rs1 rs2 : BitVec 5) (sz : BitVec 3) (s : State) : Out :=
  let n := 2 ^ sz.toNat
  let mask : BitVec 128 := BitVec.ofNat 128 (2 ^ n - 1)
  .next (
    if n ≤ 8 then s.guard (xs [rs1, rs2]) (s.geyser
      (s.broadcast (s.x rs1) n (.write mask (BitVec.ofNat 1024 (fld (s.x rs2) 0 (8 * n)))) none State.retire))
    else if s.lanes = 0 then s.wordTrap 0xF 6
    else
      let last := rs2.toNat + (n / 4 - 1) / s.lanes
      if 31 < last then s.operandTrap
      else s.guard (xs [rs1] ++ (List.range (last - rs2.toNat + 1)).map fun i => ⟨0, rs2.toNat + i⟩) (s.geyser
        (s.broadcast (s.x rs1) n (.write mask (s.me.gstData s.lanes rs2.toNat n)) none State.retire)))

/-- The operation of a GAMO (R294). -/
def gamoOp (op : BitVec 2) (x old : Word) : GOp :=
  match op.toNat with
  | 0 => .add x
  | 1 => .max x
  | 2 => .swap x
  | _ => .cas old x

/-- R294: an atomic in the total order; the thread waits for the old value unless rd is x0. -/
def execGamo (rd rs1 rs2 : BitVec 5) (op : BitVec 2) (s : State) : Out :=
  .next (s.guard (xs ([rs1, rs2] ++ if op = 3 then [rd] else [])) (s.geyser
    (s.broadcast (s.x rs1) 8 (gamoOp op (s.x rs2) (s.x rd)) (if rd = 0 then none else some rd) fun s1 =>
      if rd = 0 then s1.retire else s1.modMe fun t => { t with wait := .gamo rd none })))

end Sys2Proof.Machine
end

