-- ==== Sys2Proof/Machine/Sync.lean ====
section
/-!
DEFINITION. Waiting on a word, phase barriers and heaps: WAITA, BARR, BWAIT, BJOIN, BLEAVE, PQPUSH, PQPOP (R272 to R280), with
the evaluations that wake and time out a waiting thread.
-/
namespace Sys2Proof.Machine

/-- The limit of a wait begun now: 64 << t cycles, none for t = 31 (R272). -/
def State.limitOf (s : State) (t : BitVec 5) : Option Nat :=
  if t = 31 then none else some (Config.cyclesTo s.steps + 64 * 2 ^ t.toNat)
/-- A limit has passed. -/
def State.expired (s : State) (limit : Option Nat) : Bool :=
  match limit with
  | none => false
  | some d => decide (d ≤ Config.cyclesTo s.steps)

/-! ### WAITA (R272) -/

/-- One evaluation of WAITA: the word ends the wait, the limit has ended it, or the thread keeps the given wait. -/
def State.evalWaita (s : State) (rd : BitVec 5) (a mask val : Word) (timeout : Bool) (keep : Wait) : State :=
  match s.check a 8 .load 0 loadWindows with
  | (.val p, s1) =>
    let w : Word := BitVec.ofNat 64 (s1.loaded p 8)
    if (w ^^^ val) &&& mask ≠ 0 ∨ timeout then s1.result rd w else s1.modMe fun t => { t with wait := keep }
  | (g, s1) => g.stop a false 0 s1

/-- R272: waits until the word at x[rs1] differs from x[rs2] under the mask x[rd], or the limit passes. -/
def execWaita (rd rs1 rs2 t : BitVec 5) (s : State) : Out :=
  .next (s.guard (xs [rd, rs1, rs2])
    (s.evalWaita rd (s.x rs1) (s.x rd) (s.x rs2) false (.waita rd (s.x rs1) (s.x rd) (s.x rs2) (s.limitOf t))))

/-- WAITA_WAKE: a waiting WAITA evaluates its word again. -/
def execWaitaWake (core slot : Nat) (s : State) : Out :=
  .next (match (s.thread core slot).wait with
    | .waita rd a mask val limit => s.within core slot fun s => s.evalWaita rd a mask val false (.waita rd a mask val limit)
    | _ => s)

/-- WAITA_TIMEOUT: a waiting WAITA whose limit has passed ends. -/
def execWaitaTimeout (core slot : Nat) (s : State) : Out :=
  .next (match (s.thread core slot).wait with
    | .waita rd a mask val limit =>
      if s.expired limit then s.within core slot fun s => s.evalWaita rd a mask val true .none else s
    | _ => s)

/-! ### Phase barriers (R273 to R278) -/

/-- Barrier misuse, with the object's address and the code (R278). -/
def State.misuse (s : State) (ea : Word) (code : Nat) : State :=
  s.trap { cause := 0x10, eval := ea, eval2 := BitVec.ofNat 64 code }

/-- The windows of a barrier object, and of a heap object (R273, R279). -/
def barrierWindows : Window → Bool
  | .clus | .other | .onsen => true
  | _ => false
def heapWindows : Window → Bool
  | .onsen => true
  | _ => false

/-- The access to a synchronisation object: the checks of R128, then its windows (R278). -/
def State.object (s : State) (ea : Word) (align : Nat) (use : Use) (allow : Window → Bool) (k : Place → State → State) : State :=
  match s.check ea align use 0 loadWindows with
  | (.val p, s1) =>
    if use ≠ .load ∧ p.win = .region then s1.trap { cause := 6, eval := ea, wr := true }
    else if !allow p.win then s1.misuse ea 8
    else k p s1
  | (g, s1) => g.stop ea (use ≠ .load) 0 s1

/-- The arrival of R274 on the first doubleword of a barrier: the new doubleword, and whether the phase completes. -/
def barrArrive (b : Word) (err : Bool) : Word × Bool :=
  let b1 := if err then putBit b 49 true else b
  if fld b1 0 16 ≤ fld b1 16 16 + 1 then
    (putBit (putBit (putFld (putFld b1 16 16 0) 32 16 (fld b1 32 16 + 1)) 50 (bit b1 49)) 49 false, true)
  else (putFld b1 16 16 (fld b1 16 16 + 1), false)

/-- R274: arrives at a barrier; a release at its home scope, and a commit. An arrival is an event of its phase, and one that completes
the phase is followed by the barrier's release, an event of the new phase (R407; log 20). -/
def execBarr (rd rs1 : BitVec 5) (s : State) : Out :=
  let ea := s.x rs1
  .next (s.guard (xs [rs1])
    (if s.noTask then s.operandTrap
     else s.object ea 16 .atomic barrierWindows fun p s1 =>
       if s1.releaseWaits (homeScope s.cur p.addr) then s1.stall
       else
         let s2 := s1.implicitCommit
         let b := s2.objWord p.addr
         if fld b 0 16 = 0 then s2.misuse ea 4
         else
           match s2.myEvent 4 3 p.addr (BitVec.ofNat 64 p.addr) (BitVec.ofNat 64 (fld b 32 16)) with
           | (s3, false) => s3.hold
           | (s3, true) =>
             let (b1, done) := barrArrive b false
             let s4 := s3.setObjWord p.addr b1
             let s5 := if done then (s4.myEvent 4 3 p.addr (BitVec.ofNat 64 p.addr) (BitVec.ofNat 64 (fld b1 32 16))).1 else s4
             if s5.me.wait.isRetiring then s5
             else s5.result rd (BitVec.ofNat 64 (fld b 32 16 + if done then 2 ^ 16 else 0))))

/-- An engine's arrival for a task (R256, R274): it changes nothing at EXPECT 0 or outside the barrier windows; false while a
replay holds it. -/
def State.engineArrive (s : State) (core : Nat) (ea : Word) (err : Bool) (launch : Option Nat) : State × Bool :=
  match localPlace core true ea.toNat with
  | none => (s, true)
  | some p =>
    let b := s.objWord p.addr
    if !barrierWindows p.win || fld b 0 16 = 0 then (s, true)
    else
      let (s1, ok) := match launch with
        | some l => s.event (towerOf core) l { kind := 4, core := coreId core, cls := 3, place := p.addr
                                               v0 := BitVec.ofNat 64 p.addr, v1 := BitVec.ofNat 64 (fld b 32 16) }
        | none => (s, true)
      if ok then
        let (b1, done) := barrArrive b err
        let s2 := s1.setObjWord p.addr b1
        (match done, launch with
          | true, some l => (s2.event (towerOf core) l { kind := 4, core := coreId core, cls := 3, place := p.addr
                                                         v0 := BitVec.ofNat 64 p.addr, v1 := BitVec.ofNat 64 (fld b1 32 16) }).1
          | _, _ => s2, true)
      else (s1, false)

/-- The cases of R275 in order: none to keep waiting, the status, or the trap. -/
inductive BwaitCase where
  | keep
  | status (n : Nat)
  | trap

def bwaitCase (b : Word) (token : Nat) : BwaitCase :=
  let d := (fld b 32 16 + 2 ^ 16 - token % 2 ^ 16) % 2 ^ 16
  if 32768 ≤ d then .trap
  else if bit b 48 then .status 1
  else if 2 ≤ d then .status 2
  else if d = 1 then .status (if bit b 50 then 3 else 0)
  else if bit b 49 then .status 3
  else .keep

/-- One evaluation of BWAIT. -/
def State.evalBwait (s : State) (rd : BitVec 5) (ea : Word) (token : Nat) (timeout : Bool) (keep : Wait) : State :=
  s.object ea 16 .load barrierWindows fun p s1 =>
    let b := s1.objWord p.addr
    let out (n : Nat) : State := s1.result rd (BitVec.ofNat 64 (n + fld b 32 16 * 2 ^ 32))
    match bwaitCase b token with
    | .trap => s1.misuse ea 1
    | .status n => out n
    | .keep => if timeout then out 4 else s1.modMe fun t => { t with wait := keep }

/-- R275: waits on a barrier's phase. -/
def execBwait (rd rs1 rs2 t : BitVec 5) (s : State) : Out :=
  let token := fld (s.x rs2) 0 16
  .next (s.guard (xs [rs1, rs2]) (s.evalBwait rd (s.x rs1) token false (.bwait rd (s.x rs1) token (s.limitOf t))))

/-- BWAIT_WAKE: a waiting BWAIT evaluates its barrier again. -/
def execBwaitWake (core slot : Nat) (s : State) : Out :=
  .next (match (s.thread core slot).wait with
    | .bwait rd a token limit => s.within core slot fun s => s.evalBwait rd a token false (.bwait rd a token limit)
    | _ => s)

/-- BWAIT_TIMEOUT: a waiting BWAIT whose limit has passed ends. -/
def execBwaitTimeout (core slot : Nat) (s : State) : Out :=
  .next (match (s.thread core slot).wait with
    | .bwait rd a token limit => if s.expired limit then s.within core slot fun s => s.evalBwait rd a token true .none else s
    | _ => s)

/-- R276: registers the thread at a barrier. -/
def execBjoin (rs1 : BitVec 5) (s : State) : Out :=
  let ea := s.x rs1
  .next (s.guard (xs [rs1])
    (if s.noTask then s.operandTrap
     else s.object ea 16 .atomic barrierWindows fun p s1 =>
       if s.me.regs.contains ea.toNat then s1.implicitCommit.retire
       else if 8 ≤ s.me.regs.length then s1.misuse ea 2
       else
         let s2 := s1.implicitCommit
         ((s2.setObjWord (p.addr + 8) (regsAdd (s2.objWord (p.addr + 8)) true)).modMe fun t =>
           { t with regs := t.regs ++ [ea.toNat] }).retire))

/-- R276: removes the thread's registration. -/
def execBleave (rs1 : BitVec 5) (s : State) : Out :=
  let ea := s.x rs1
  .next (s.guard (xs [rs1])
    (if s.noTask then s.operandTrap
     else s.object ea 16 .atomic barrierWindows fun p s1 =>
       if !s.me.regs.contains ea.toNat then s1.misuse ea 3
       else
         let s2 := s1.implicitCommit
         ((s2.setObjWord (p.addr + 8) (regsAdd (s2.objWord (p.addr + 8)) false)).modMe fun t =>
           { t with regs := t.regs.filter (· ≠ ea.toNat) }).retire))

/-! ### Heaps (R279, R280) -/

/-- Key order: rising, or falling when MAXH is set. -/
def keyLe (max : Bool) (a b : Nat × Nat) : Bool := if max then decide (b.1 ≤ a.1) else decide (a.1 ≤ b.1)

/-- The heap property: every entry comes after its parent. -/
def isHeap (max : Bool) (es : List (Nat × Nat)) : Bool :=
  (List.range es.length).all fun i => i == 0 || keyLe max (es.getD ((i - 1) / 2) (0, 0)) (es.getD i (0, 0))

/-- An entry inserted into a list in key order. -/
def insertKey (max : Bool) (e : Nat × Nat) : List (Nat × Nat) → List (Nat × Nat)
  | [] => [e]
  | f :: r => if keyLe max e f then e :: f :: r else f :: insertKey max e r

/-- The arrangement of a heap's entries: the bank's, a free value, when it is a heap of the same entries (log 22). -/
def heapLayout (max : Bool) (es : List (Nat × Nat)) : List (Nat × Nat) :=
  let h := Config.heapArrange max es
  if h.isPerm es && isHeap max h then h else es.foldr (insertKey max) []

/-- The header of a heap is malformed (R279). -/
def heapBad (w0 w1 : Word) (rest : List Word) : Bool :=
  let cap := fld w0 32 32
  decide (cap < fld w0 0 32) || cap == 0 || decide (65536 < cap) || fld w1 1 63 != 0 || rest.any (· ≠ 0)

/-- The entries of a heap. -/
def State.heapEntries (s : State) (a n : Nat) : List (Nat × Nat) :=
  (List.range n).map fun i => ((s.objWord (a + 64 + 16 * i)).toNat, (s.objWord (a + 64 + 16 * i + 8)).toNat)

/-- A heap's COUNT and entries written. -/
def State.heapStore (s : State) (a : Nat) (es : List (Nat × Nat)) : State :=
  let s1 := (es.mapIdx fun i e => (i, e)).foldl (fun st p =>
    (st.setObjWord (a + 64 + 16 * p.1) (BitVec.ofNat 64 p.2.1)).setObjWord (a + 64 + 16 * p.1 + 8) (BitVec.ofNat 64 p.2.2)) s
  s1.setObjWord a (putFld (s1.objWord a) 0 32 es.length)

/-- The first poisoned doubleword among a heap's entries, as an offset (R402). -/
def State.heapPoison (s : State) (a n : Nat) : Option Nat :=
  ((List.range (2 * n)).map fun i => 64 + 8 * i).find? fun o => s.poisoned (a + o) 8

/-- A heap operation: its checks, its commit, the header's check, its event, then its effect on the entries. A push into a full heap reads
no entry. -/
def State.heapOp (s : State) (ea : Word) (rel : Bool) (k : Nat → State → State) : State :=
  if s.noTask then s.operandTrap
  else s.object ea 64 .atomic heapWindows fun p s1 =>
    if rel && s1.releaseWaits 3 then s1.stall
    else
      let s2 := s1.implicitCommit
      let w (i : Nat) : Word := s2.objWord (p.addr + 8 * i)
      if heapBad (w 0) (w 1) ((List.range 6).map fun i => w (i + 2)) then s2.misuse ea 5
      else if 0x30000000 < ea.toNat + 64 + 16 * fld (w 0) 32 32 then s2.misuse ea 8
      else
        match s2.heapPoison p.addr (if rel && fld (w 0) 32 32 ≤ fld (w 0) 0 32 then 0 else fld (w 0) 0 32) with
        | some o => s2.trap { cause := 5, eval := ea + BitVec.ofNat 64 o, eval2 := 0xE, wr := true }
        | none =>
        match s2.bankEvent p.addr with
        | (s3, false) => s3.hold
        | (s3, true) => k p.addr s3

/-- R280: inserts an entry; a release at `.layer`. -/
def execPqpush (rd rs1 rs2 : BitVec 5) (s : State) : Out :=
  .next (s.guard (xs [rs1, rs2, rd]) (s.heapOp (s.x rs1) true fun a s1 =>
    let w0 := s1.objWord a
    let max := bit (s1.objWord (a + 8)) 0
    if fld w0 0 32 < fld w0 32 32 then
      let es := s1.heapEntries a (fld w0 0 32) ++ [(fld (s.x rs2) 0 63, (s.x rd).toNat)]
      (s1.heapStore a (heapLayout max es)).result rd 0
    else s1.result rd 1))

/-- The index of the first entry in key order. -/
def heapFirst (max : Bool) (es : List (Nat × Nat)) : Nat :=
  (List.range es.length).foldl (fun b i => if keyLe max (es.getD b (0, 0)) (es.getD i (0, 0)) then b else i) 0

/-- R280: removes the first entry; an acquire at `.layer`. -/
def execPqpop (rd rs1 rs2 : BitVec 5) (s : State) : Out :=
  .next (s.guard (xs [rs1]) (s.heapOp (s.x rs1) false fun a s1 =>
    let max := bit (s1.objWord (a + 8)) 0
    let es := s1.heapEntries a (fld (s1.objWord a) 0 32)
    match es[heapFirst max es]? with
    | none => (s1.setX rd 0x8000000000000000).result rs2 0
    | some e =>
      let s2 := s1.heapStore a (heapLayout max (es.eraseIdx (heapFirst max es)))
      (s2.setX rd (BitVec.ofNat 64 e.1)).result rs2 (BitVec.ofNat 64 e.2)))

end Sys2Proof.Machine
end

