-- ==== Sys2Proof/Machine/Checkpoint.lean ====
section
/-!
DEFINITION. Checkpoints: CKMARK, CKROLL, CKCOMMIT, CKSTAT (R286 to R289).
-/
namespace Sys2Proof.Machine

/-- A range wholly inside the own cluster scratchpad window at 0x0010_0000 or the own layer's Onsen: its physical address. -/
def ckptRange (n ea len : Nat) : Option Nat :=
  if (0x100000 ≤ ea ∧ ea + len ≤ 0x900000) ∨ (0x10000000 ≤ ea ∧ ea + len ≤ 0x30000000) then
    (localPlace n false ea).map Place.addr
  else none

/-- The log area: 64 KiB, 64-byte aligned, wholly in the own layer's Onsen. -/
def ckptLog (n ea : Nat) : Option Nat :=
  if ea % 64 = 0 ∧ 0x10000000 ≤ ea ∧ ea + 65536 ≤ 0x30000000 then (localPlace n false ea).map Place.addr else none

/-- The cluster's mark of an id. -/
def Cluster.mark (c : Cluster) (id : Nat) : Option Ckpt := c.ckpts.find? fun m => m.id == id

/-- A range overlaps a marked region or its log area. -/
def Ckpt.meets (m : Ckpt) (a n : Nat) : Bool := overlaps a n m.base m.len || overlaps a n m.logBase 65536

/-- R286: marks a region once every older access of the thread has been performed: its pending GSTs and GAMOs. -/
def execCkmark (rl rs1 rs2 : BitVec 5) (id : BitVec 4) (s : State) : Out :=
  let (b, n) := (s.x rs1, (s.x rs2).toNat)
  .next (s.guard (xs [rl, rs1, rs2])
    (if s.noTask then s.operandTrap
     else if (s.myCluster.mark id.toNat).isSome then s.misuse (zx id) 6
     else
       match (if b.toNat % 8 ≠ 0 ∨ n % 8 ≠ 0 ∨ n = 0 then none else ckptRange s.cur b.toNat n), ckptLog s.cur (s.x rl).toNat with
       | some base, some log =>
         if overlaps base n log 65536 || s.myCluster.ckpts.any fun m => m.meets base n || m.meets log 65536 then s.misuse b 7
         else if (s.pendingWrites s.cur s.curSlot).any fun g => g.engine.isNone then s.implicitCommit.stall
         else (s.implicitCommit.modCluster (clusterOf s.cur) fun c =>
           { c with ckpts := c.ckpts ++ [{ id := id.toNat, base := base, len := n, logBase := log }] }).retire
       | _, _ => s.misuse b 7))

/-- One log entry written back: the word whose local address stands at the entry (R287, R288). -/
def State.rollEntry (s : State) (m : Ckpt) (i : Nat) : State :=
  match localPlace s.cur false (s.dword (m.logBase + 16 * i)).toNat with
  | some p => s.setObjWord p.addr (s.dword (m.logBase + 16 * i + 8))
  | none => s

/-- CKROLL and CKCOMMIT: the commit, the fence at `.layer`, the write-backs, the empty log or the removed mark (R288). -/
def ckEnd (roll : Bool) (u : BitVec 1) (id : BitVec 4) (s : State) : Out :=
  .next (if s.noTask then s.operandTrap
    else match s.myCluster.mark id.toNat with
    | none => s.misuse (zx id) 6
    | some m =>
      let s1 := s.implicitCommit
      if s1.releaseWaits 3 then s1.stall
      else
        let s2 := if roll then (List.range m.count).reverse.foldl (fun st i => st.rollEntry m i) s1 else s1
        (s2.modCluster (clusterOf s.cur) fun c =>
          { c with ckpts := if u = 1 then c.ckpts.filter fun x => x.id != m.id
                    else c.ckpts.map fun x => if x.id = m.id then { x with count := 0, full := false } else x }).retire)

/-- R288: writes the old values back, youngest entry first. -/
def execCkroll (u : BitVec 1) (id : BitVec 4) (s : State) : Out := ckEnd true u id s
/-- R288: empties the log. -/
def execCkcommit (u : BitVec 1) (id : BitVec 4) (s : State) : Out := ckEnd false u id s

/-- R289: entries, MARKED and FULL of an id. -/
def execCkstat (rd : BitVec 5) (id : BitVec 4) (s : State) : Out :=
  .next (if s.noTask then s.operandTrap
    else s.result rd (match s.myCluster.mark id.toNat with
      | none => 0
      | some m => BitVec.ofNat 64 (m.count + 2 ^ 16 + if m.full then 2 ^ 17 else 0)))

end Sys2Proof.Machine
end

