-- ==== Sys2Proof/Machine/Elf.lean ====
section
/-!
DEFINITION. The object container: ELF64 headers, sections, symbols and relocation records (R348 to R351), the portable
container's header and function table (R329 to R331), and the patching of words (R350). The byte layout of ELF64 is the
standard's (log 26).
-/
namespace Sys2Proof.Machine

/-- The little-endian number of n bytes at an offset of an image. -/
def rdNat (img : List Byte) (o n : Nat) : Nat := leNat ((img.drop o).take n)

/-- The bytes of a text. -/
def asciiBytes (t : String) : List Byte := t.toList.map fun c => BitVec.ofNat 8 c.toNat

/-- A section header with its name. -/
structure Sect where
  name : List Byte
  type : Nat
  addr : Nat
  off : Nat
  size : Nat
  link : Nat
  info : Nat

/-- The name at an offset of a string table. -/
def nameAt (img : List Byte) (table o : Nat) : List Byte := (img.drop (table + o)).takeWhile (· ≠ 0)

/-- The sections of an image. -/
def sectsOf (img : List Byte) : List Sect :=
  let sh := rdNat img 40 8
  let strs := rdNat img (sh + 64 * rdNat img 62 2 + 24) 8
  (List.range (rdNat img 60 2)).map fun i =>
    let o := sh + 64 * i
    { name := nameAt img strs (rdNat img o 4), type := rdNat img (o + 4) 4, addr := rdNat img (o + 16) 8
      off := rdNat img (o + 24) 8, size := rdNat img (o + 32) 8, link := rdNat img (o + 40) 4, info := rdNat img (o + 44) 4 }

/-- The section of a name, with its index. -/
def findSect (ss : List Sect) (name : String) : Option (Nat × Sect) :=
  (ss.findIdx? fun x => x.name == asciiBytes name).bind fun i => ss[i]?.map fun x => (i, x)
def Sect.bytes (x : Sect) (img : List Byte) : List Byte := (img.drop x.off).take x.size
/-- The name begins with a text. -/
def Sect.named (x : Sect) (pre : String) : Bool := (asciiBytes pre).isPrefixOf x.name

/-- A symbol: section index, value, type. -/
structure Sym where
  shndx : Nat
  value : Nat
  type : Nat

/-- The symbols of an image. -/
def symsOf (img : List Byte) (ss : List Sect) : List Sym :=
  match ss.find? fun x => x.type == 2 with
  | none => []
  | some t => (List.range (t.size / 24)).map fun i =>
      let o := t.off + 24 * i
      { shndx := rdNat img (o + 6) 2, value := rdNat img (o + 8) 8, type := rdNat img (o + 4) 1 % 16 }

/-- The ELF header of a code object (R348): an executable of the part, with its flags. -/
def elfHeaderOk (img : List Byte) : Bool :=
  rdNat img 0 4 == 0x464C457F && rdNat img 4 1 == 2 && rdNat img 5 1 == 1 && rdNat img 7 1 == 0
    && rdNat img 16 2 == 2 && rdNat img 18 2 == 0xAB0D && rdNat img 48 4 / 2 == 0

/-- The relocation records of a section (R350), their symbols resolved: functions by their offset in `text`, pools by their
descriptor. -/
def relocsOf (img : List Byte) (syms : List Sym) (text : Option (Nat × Sect)) (funcAt : Nat → Option Nat)
    (poolAt : Nat → Nat → Nat → Option Nat) (rel : Sect) : List Reloc :=
  (List.range (rel.size / 24)).map fun i =>
    let o := rel.off + 24 * i
    let y := syms.getD (rdNat img (o + 12) 4) { shndx := 0, value := 0, type := 0 }
    let inText := (text.map Prod.fst) == some y.shndx
    { off := rdNat img o 8, kind := rdNat img (o + 8) 4, sym := BitVec.ofNat 64 y.value, inText := inText
      isFunc := y.type == 2
      func := if inText then (text.bind fun t => funcAt (y.value - t.2.addr)) else none
      pool := poolAt y.shndx y.value y.type, addend := BitVec.ofNat 64 (rdNat img (o + 16) 8) }

/-- The bytes of the relocation records of section i, as stored. -/
def relaBytes (img : List Byte) (ss : List Sect) (i : Nat) : List Byte :=
  (ss.filter fun x => x.type == 4 && x.info == i).flatMap fun x => x.bytes img

/-- A record that R350 refuses wherever it is placed: a type that is not listed, or a symbol of the wrong kind. -/
def Reloc.never (r : Reloc) (portable : Bool) : Bool :=
  decide (12 < r.kind) || (r.kind == 8 && !r.isFunc) || (r.kind == 9 && r.pool.isNone)
    || (decide (10 ≤ r.kind) && !(portable && r.func.isSome))

/-! ### Patching (R109, R350) -/

/-- hi and lo of a value (R109). -/
def hiOf (v : Word) : Int := (v + 0x8000).toInt / 65536
def loOf (v : Word) : Nat := fld v 0 16

/-- A signed number fits n bits. -/
def fits (n : Nat) (v : Int) : Bool := decide (-(2 ^ (n - 1) : Int) ≤ v ∧ v < (2 ^ (n - 1) : Int))
/-- Its n low bits. -/
def lowBits (n : Nat) (v : Int) : Nat := (v % (2 ^ n : Int)).toNat

/-- The places that a patch needs: of the symbol, where a function of a portable object is its stub (R334), and in the text as linked; of
the word, of the stub of the symbol's function, of the start of the text; the object's id. -/
structure Places where
  sym : Word
  linked : Word
  word : Word
  stub : Option Word
  text : Word
  id : Nat

/-- A patched value: bytes, field width in bits, value; none when the record is refused. -/
def Reloc.patch (r : Reloc) (p : Places) : Option (Nat × Nat × Nat) :=
  let v := p.sym + r.addend
  let field (n : Nat) (x : Int) : Option (Nat × Nat × Nat) := if fits n x then some (4, n, lowBits n x) else none
  let jump (n : Nat) (dest : Word) : Option (Nat × Nat × Nat) :=
    let d := (dest - p.word).toInt
    if d % 4 = 0 then field n (d / 4) else none
  match r.kind with
  | 0 => some (0, 0, 0)
  | 1 => some (8, 64, v.toNat)
  | 2 => if v.toNat < 2 ^ 32 then some (4, 32, v.toNat) else none
  | 3 => field 21 (hiOf v)
  | 4 => some (4, 16, loOf v)
  | 5 => field 21 (v - p.word).toInt
  | 6 => jump 21 v
  | 7 => jump 16 v
  | 8 => if r.isFunc then some (8, 64, (p.id * 2 ^ 32 ||| (p.linked + r.addend - p.text).toNat) % 2 ^ 64) else none
  | 9 => r.pool.map fun n => (8, 64, n)
  | 10 => p.stub.bind fun g => jump 21 g
  | 11 => p.stub.bind fun g => field 21 (hiOf (g + r.addend))
  | 12 => p.stub.map fun g => (4, 16, loOf (g + r.addend))
  | _ => none

/-- The bytes of a section with one record applied: only the field's bits change. -/
def patchBytes (bytes : List Byte) (off : Nat) (q : Nat × Nat × Nat) : List Byte :=
  let (n, w, v) := q
  let old := leNat ((bytes.drop off).take n)
  bytes.take off ++ leBytes n (old / 2 ^ w * 2 ^ w + v) ++ bytes.drop (off + n)

/-- The bytes of a section with its records applied, none when one is refused or patches outside. -/
def applyRelocs (place : Reloc → Places) (start : Nat) : List Reloc → List Byte → Option (List Byte)
  | [], bs => some bs
  | r :: rest, bs =>
    match r.patch (place r) with
    | none => none
    | some q =>
      if r.kind = 0 then applyRelocs place start rest bs
      else if r.off < start ∨ bs.length < r.off - start + q.1 then none
      else applyRelocs place start rest (patchBytes bs (r.off - start) q)

/-! ### The portable container (R329 to R331) -/

/-- The header's fields are as R330 and R332 state. -/
def noteOk (note : List Byte) : Bool :=
  note.length == 32 && rdNat note 0 4 == 0x50535947 && rdNat note 4 2 == 1 && rdNat note 6 2 == 0
    && rdNat note 16 8 / 256 == 0 && rdNat note 24 8 == 0

/-- A function of the table, with its relocation records, malformed when they pass the end of the object's (R337); none when a reserved bit
is set or it leaves the text. -/
def funcOf (tab : List Byte) (textSize : Nat) (relocs : List Reloc) (stored : List Byte) (i : Nat) : Option Func :=
  let o := 32 * i
  let off := rdNat tab o 4
  let size := rdNat tab (o + 4) 4
  if rdNat tab (o + 12) 4 / 2 ≠ 0 ∨ textSize < off + size ∨ off % 4 ≠ 0 ∨ size % 4 ≠ 0 ∨ size < 4 ∨ 262144 < size then none
  else
    let first := rdNat tab (o + 24) 4
    let count := rdNat tab (o + 28) 4
    some { off := off, size := size, entry := rdNat tab (o + 12) 1 % 2 == 1, uses := BitVec.ofNat 64 (rdNat tab (o + 16) 8)
           relocs := (relocs.drop first).take count, stored := (stored.drop (24 * first)).take (24 * count)
           bad := decide (relocs.length < first + count), stub := 0 }

end Sys2Proof.Machine
end

