-- ==== Sys2Proof/WellFormed.lean ====
section
/-!
DEFINITION. The legality of an instruction word's fields that no state decides (R93 to R100, check 3 of R102): which
formats, register codes, orders, scopes and sub-selects each form admits. What VTYPE decides (element types, group
alignment) is checked when the instruction issues.
-/
namespace Sys2Proof

/-- The memory format codes a vector load or store may name (R66): every code but INT64 and the reserved one. -/
def fmtVector (f : BitVec 4) : Bool := f != 0x3 && f != 0xB

/-- The formats whose Scaled column says yes (R66). -/
def fmtScaled (f : BitVec 4) : Bool := f == 0x0 || f == 0x7 || f == 0xC || f == 0xD || f == 0xE || f == 0xF

/-- The CSR numbers of R53 and R59, with FEAT (R327), EINJ (R321) and OCLAIM (R325). -/
def csrListed (c : BitVec 12) : Bool :=
  let n := c.toNat
  (1 ≤ n && n ≤ 9) || (0x10 ≤ n && n ≤ 0x17) || (0x20 ≤ n && n ≤ 0x25) || n == 0x30 || n == 0x31 ||
  (0x40 ≤ n && n ≤ 0x47) || n == 0x50 || n == 0x51 || n == 0x60 || n == 0x61 ||
  (0x100 ≤ n && n ≤ 0x10F) || (0x120 ≤ n && n ≤ 0x13F)

/-- An atomic names a scope other than 7 (R98). -/
def scopeOk (s : BitVec 3) : Bool := s != 7

/-- A mask register read as a source: 0 to 7 (R140). -/
def maskSrc (r : BitVec 5) : Bool := r.toNat ≤ 7

/-- A mask register written: 1 to 7 (R48, R140). -/
def maskDst (r : BitVec 5) : Bool := 1 ≤ r.toNat && r.toNat ≤ 7

/-- A bfloat16 pattern that is a signalling NaN (R82). -/
def bf16Signalling (i : BitVec 16) : Bool :=
  i.extractLsb' 7 8 == 0xFF && i.extractLsb' 0 7 != 0 && i.extractLsb' 6 1 == 0

/-- The formats of VSTW and VLDW (R206, R207). -/
def fmtColumn (f : BitVec 4) : Bool := f == 0xA || f == 0x8 || f == 0xC || f == 0xD

/-- VLD and VST: a legal format; a scaled one names q0 to q15 in [15:11], an unscaled one has 0 there (R158). -/
def unitFmtOk (qn : BitVec 5) (f : BitVec 5) : Bool :=
  let c := f.extractLsb' 0 4
  if f.extractLsb' 4 1 == 1 then fmtScaled c && qn.toNat ≤ 15 else fmtVector c && qn == 0

/-- The strided and indexed forms: unscaled and not E2M1 (R157, R158). -/
def plainFmtOk (f : BitVec 5) : Bool :=
  f.extractLsb' 4 1 == 0 && fmtVector (f.extractLsb' 0 4) && f.extractLsb' 0 4 != 0xF

/-- A tile is any number; a latch unit is 0 to 3 (R171). -/
def unitOk (u : BitVec 3) (kind : BitVec 2) : Bool := kind == 0 || (kind == 1 && u.toNat ≤ 3)

/-- TLD and TST: S needs an 8-bit format, and without S the scale register field is 0 (R171). -/
def tileFmtOk (qs ty : BitVec 2) (sc : BitVec 1) : Bool := if sc == 1 then 2 ≤ ty.toNat else qs == 0

/-- The fields of an instruction word are legal whatever the state (R93, R102 check 3). -/
def Instr.wf : Instr → Bool
  | .faddi _ _ imm => !bf16Signalling imm
  | .fmuli _ _ imm => !bf16Signalling imm
  | .csrrw _ _ c | .csrrs _ _ c | .csrrc _ _ c | .csrrwi _ _ c | .csrrsi _ _ c | .csrrci _ _ c => csrListed c
  | .aadd _ _ _ s _ _ | .aand _ _ _ s _ _ | .aor _ _ _ s _ _ | .axor _ _ _ s _ _ | .amin _ _ _ s _ _
  | .amax _ _ _ s _ _ | .aminu _ _ _ s _ _ | .amaxu _ _ _ s _ _ | .aswap _ _ _ s _ _ | .acas _ _ _ s _ _
  | .afadd _ _ _ s _ _ => scopeOk s
  | .fence ord s => ord != 0 && scopeOk s
  | .sbar m => m != 0
  | .pqpop rd _ rs2 => rs2 != rd || rs2 == 0
  | .vmvVx _ _ _ k1 _ | .vmvVi _ _ _ k1 _ => k1 == 0
  | .vmseqVv d _ _ _ _ _ | .vmsneVv d _ _ _ _ _ | .vmsltVv d _ _ _ _ _ | .vmsleVv d _ _ _ _ _
  | .vmseqVx d _ _ _ _ _ | .vmsneVx d _ _ _ _ _ | .vmsltVx d _ _ _ _ _ | .vmsleVx d _ _ _ _ _
  | .vmsgtVx d _ _ _ _ _ | .vmsgeVx d _ _ _ _ _ => maskDst d
  | .vmand d a b | .vmor d a b | .vmxor d a b | .vmandn d a b => maskDst d && maskSrc a && maskSrc b
  | .vmpop _ ms _ | .vmfirst _ ms _ | .viota _ ms _ => maskSrc ms
  | .vhaar _ _ lev _ _ => lev.toNat ≤ 5
  | .thset hd _ _ _ _ => hd.toNat ≤ 3
  | .thget _ hs n _ => hs.toNat ≤ 3 && n.toNat ≤ 1
  | .dtagmk d _ _ | .dtagma d _ _ => maskDst d
  | .vld _ _ qn _ _ f | .vst _ _ qn _ _ f => unitFmtOk qn f
  | .vlds _ _ _ _ _ f | .vsts _ _ _ _ _ f | .vldx _ _ _ _ _ f | .vstx _ _ _ _ _ f => plainFmtOk f
  | .vldq qd _ _ => qd.toNat ≤ 15
  | .vldff _ _ _ _ f => fmtVector f && f != 0xF
  | .vstw _ _ lev _ f | .vldw _ _ lev _ f => lev.toNat ≤ 5 && fmtColumn f
  | .opr _ _ _ _ ty _ => ty.toNat ≤ 1
  | .opl _ _ _ g _ => g.toNat ≤ 2
  | .tmovv _ c _ _ ty => c.toNat ≤ 1 && ty.toNat ≤ 1
  | .tamax _ c _ _ => c.toNat ≤ 1
  | .scalex qd _ f _ h => qd.toNat ≤ 15 && h.toNat ≤ 1 &&
      (f == 0x00 || f == 0x07 || (0x0C ≤ f.toNat && f.toNat ≤ 0x0F))
  | .trel u k | .tsave u k _ | .trestore u k _ => unitOk u k
  | .thaar _ lev => lev.toNat ≤ 5
  | .opld qs _ _ _ lf depth sc =>
      lf.toNat ≤ 6 && depth.toNat ≤ 2 && (if sc == 1 then lf != 0 else qs == 0)
  | .opldx _ _ _ lf _ sc => lf.toNat ≤ 6 && (sc == 0 || lf != 0)
  | .tld _ qs _ _ _ ty sc | .tst _ qs _ _ _ ty sc => tileFmtOk qs ty sc
  | .tstw _ _ _ lev ty sc => lev.toNat ≤ 5 && (sc == 0 || 2 ≤ ty.toNat)
  | .csig raddr rval _ _ => raddr != 0 || rval == 0
  | .cchk cont rseed _ _ verify kind =>
      kind != 3 && (kind != 0 || (cont == 0 && verify == 0)) && (cont == 0 || rseed == 0)
  | .scat _ _ _ _ wm => wm == 0
  | _ => true

end Sys2Proof
end

