-- ==== Sys2Proof/Machine/Forms.lean ====
section
/-!
DEFINITION. The instruction words of the part as the translator's first check takes them (R102, R337): the masks and patterns
of the encodings, and the limits of their fields. It is the decoder's verdict without the instruction.
-/
namespace Sys2Proof.Machine

/-- Masks of fixed bits with the patterns of the forms that have no further limits. -/
def plainForms : List (Nat × List Nat) :=
  [(0xFC0007FF, [0x04000000, 0x04000001, 0x04000002, 0x04000003, 0x04000004, 0x04000005, 0x04000006, 0x04000007,
    0x04000008, 0x04000009, 0x0400000A, 0x0400000B, 0x0400000C, 0x0400000D, 0x0400000E, 0x0400000F, 0x04000010,
    0x04000011, 0x04000012, 0x04000013, 0x04000014, 0x04000015, 0x04000016, 0x04000017]), (0xFC0007FF, [0x04000018,
    0x04000019, 0x0400001A, 0x9C000600, 0xA8000000]), (0xFC00FFFF, [0x0400001B, 0x0400001C, 0x0400001D, 0x9C000300,
    0xA0000006, 0xA4000000, 0xA4000001]), (0xFC000000, [0x08000000, 0x0C000000, 0x10000000, 0x14000000, 0x18000000,
    0x1C000000, 0x24000000, 0x28000000, 0x38000000, 0x40000000, 0x44000000, 0x48000000, 0x4C000000, 0x50000000,
    0x54000000, 0x58000000, 0x5C000000, 0x60000000, 0x64000000, 0x68000000, 0x6C000000, 0x70000000, 0x74000000,
    0x78000000]), (0xFC000000, [0x7C000000, 0x80000000, 0x84000000, 0x88000000, 0x8C000000]), (0xFC00FFC0, [0x20000000,
    0x20000040, 0x20000080, 0x200000C0]), (0xFC0006FF, [0x2C000000, 0x2C000001, 0x2C000002, 0x2C000003, 0x2C000005,
    0x2C000006, 0x2C000007, 0x2C000008, 0x2C00000B, 0x2C000028, 0x2C00002B, 0x2C000048, 0x2C00004B, 0x2C000068]),
    (0xFC00FEFF, [0x2C000004, 0x2C000009, 0x2C00000A, 0x2C00002A, 0x2C00004A, 0x2C00006A, 0x2C00008A, 0x2C0000AA,
    0x2C0000CA]), (0xFC00F000, [0x3C000000]), (0xFC00FFF0, [0x90000000]), (0xFFF0000F, [0x94000008]), (0xFFFFFFFF,
    [0x94000009, 0x9400000C, 0x9400000D, 0xA0000001, 0xA0000004, 0xA0000005]), (0xFFE007FF, [0x9400000A, 0xA0000000]),
    (0xFFE0FFFF, [0x9400000B, 0x9C000500, 0x9C000501, 0xA0000003]), (0xFC0007E0, [0x9C000200, 0x9C000400]), (0xFC00FFDF,
    [0xA0000002]), (0xFC00061F, [0xA0000008]), (0xFFFFFC1F, [0xA0000009, 0xA000000A]), (0xFC1FFE1F, [0xA000000B]),
    (0xFFE0078F, [0xA4000002]), (0xFC0007CF, [0xA4000003]), (0xFC1FFFFF, [0xA4000004]), (0xFC1F07FF, [0xA8000001]),
    (0xFC00009F, [0xAC000000, 0xAC000001, 0xAC000002, 0xAC000003, 0xAC000004, 0xAC000005, 0xAC000006, 0xAC000007,
    0xAC000008, 0xAC000009, 0xAC00000A, 0xAC00000B, 0xAC00000C, 0xAC00000D, 0xAC00000E, 0xAC00000F, 0xAC000010,
    0xAC000011, 0xAC000012, 0xAC000013, 0xAC000014, 0xAC000015, 0xAC000016, 0xAC000017]), (0xFC00009F, [0xAC000018,
    0xAC000019, 0xAC00001A, 0xAC00001B, 0xAC00001C, 0xB0000012, 0xB0000013, 0xB0000014, 0xB4000000, 0xB4000001,
    0xB4000002, 0xB8000000, 0xB8000001, 0xB8000002, 0xB8000003, 0xB8000004, 0xB8000005, 0xB8000006, 0xB8000007,
    0xE8000001]), (0xFC1F009F, [0xAC00001D, 0xAC00001E]), (0xFC00001F, [0xB0000000, 0xB0000001, 0xB0000002, 0xB0000003,
    0xB0000004, 0xB0000005, 0xB0000006, 0xB0000007, 0xB0000008, 0xB000000A, 0xB000000B, 0xB000000C, 0xB000000D,
    0xB000000E, 0xB000000F, 0xB0000010, 0xB0000011]), (0xFC00F83F, [0xB0000009, 0xB0000015, 0xB0000016, 0xB0000017,
    0xB0000018, 0xB0000818, 0xB0001018, 0xB0001818, 0xB0002018]), (0xFC00F8BF, [0xB0000019, 0xB4000003, 0xB4000004,
    0xB4000007]), (0xFC1FF8FF, [0xB4000006]), (0xFC00079F, [0xB4000008, 0xB4000009]), (0xFC00FFBF, [0xBC000001,
    0xBC000004, 0xBC000005]), (0xFC00000F, [0xD8000000, 0xD8000001, 0xD8000002, 0xD8000003, 0xD8000004, 0xD8000005,
    0xD8000006]), (0xFC7FF8FF, [0xE0000002]), (0xFC7FFFFF, [0xE0000009]), (0xFC60FFFF, [0xE4000009]), (0xFC0000DF,
    [0xE8000000, 0xE8000002]), (0xFFE0F8FF, [0xE8000004, 0xE800000B]), (0xFC00F8FF, [0xE800000A]), (0xFFE000FF,
    [0xE800000C]), (0xFC1FF8DF, [0xE800000D])]

/-- The forms whose fields have limits, with the limits. -/
def limitedForms : List (Nat × List Nat × (Half → Bool)) :=
  [(0xFC000000, [0x30000000, 0x34000000], fun w => !bf16Signalling (w.extractLsb' 0 16)),
   (0xFC00000F, [0x94000000, 0x94000001, 0x94000002, 0x94000003, 0x94000004, 0x94000005], fun w => csrListed (w.extractLsb'
     4 12)),
   (0xFC00040F, [0x98000000, 0x98000001, 0x98000002, 0x98000003, 0x98000004, 0x98000005, 0x98000006, 0x98000007,
     0x98000008, 0x98000009, 0x9800000A], fun w => scopeOk (w.extractLsb' 7 3)),
   (0xFFFFFFE0, [0x9C000000], fun w => (w.extractLsb' 3 2) != 0 && scopeOk (w.extractLsb' 0 3)),
   (0xFFFFFF00, [0x9C000100], fun w => (w.extractLsb' 0 8) != 0),
   (0xFC0007FF, [0x9C000601], fun w => (w.extractLsb' 11 5) != (w.extractLsb' 21 5) || (w.extractLsb' 11 5) == 0),
   (0xFC00F8FF, [0xB4000005, 0xB8000016, 0xB8000017], fun w => maskSrc (w.extractLsb' 16 5)),
   (0xFC00009F, [0xB8000008, 0xB8000009, 0xB800000A, 0xB800000B, 0xB800000C, 0xB800000D, 0xB800000E, 0xB800000F,
     0xB8000010, 0xB8000011], fun w => maskDst (w.extractLsb' 21 5)),
   (0xFC00FFBF, [0xBC000006, 0xBC000007], fun w => maskDst (w.extractLsb' 21 5)),
   (0xFC0007FF, [0xB8000012, 0xB8000013, 0xB8000014, 0xB8000015], fun w => maskDst (w.extractLsb' 21 5) && maskSrc
     (w.extractLsb' 16 5) && maskSrc (w.extractLsb' 11 5)),
   (0xFC00079F, [0xBC000000], fun w => (w.extractLsb' 11 5).toNat ≤ 5),
   (0xFC00079F, [0xBC000002], fun w => (w.extractLsb' 21 5).toNat ≤ 3),
   (0xFC0007DF, [0xBC000003], fun w => (w.extractLsb' 16 5).toNat ≤ 3 && (w.extractLsb' 11 5).toNat ≤ 1),
   (0xFC000000, [0xC0000000, 0xC4000000], fun w => unitFmtOk (w.extractLsb' 11 5) (w.extractLsb' 0 5)),
   (0xFC000000, [0xC8000000, 0xCC000000, 0xD0000000, 0xD4000000], fun w => plainFmtOk (w.extractLsb' 0 5)),
   (0xFC00FF1F, [0xDC000000], fun w => (w.extractLsb' 21 5).toNat ≤ 15),
   (0xFC00F810, [0xDC000800], fun w => fmtVector (w.extractLsb' 0 4) && (w.extractLsb' 0 4) != 0xF),
   (0xFC00F810, [0xDC001000, 0xDC001800], fun w => (w.extractLsb' 8 3).toNat ≤ 5 && fmtColumn (w.extractLsb' 0 4)),
   (0xFC60001F, [0xE0000000], fun w => (w.extractLsb' 6 2).toNat ≤ 1),
   (0xFC1FF81F, [0xE0000001], fun w => (w.extractLsb' 6 2).toNat ≤ 2)]
  ++ [(0xFC00073F, [0xE0000003], fun w => (w.extractLsb' 21 2).toNat ≤ 1 && (w.extractLsb' 6 2).toNat ≤ 1),
   (0xFC1F00FF, [0xE0000004], fun w => (w.extractLsb' 21 2).toNat ≤ 1),
   (0xFC00003F, [0xE0000005], fun w => (w.extractLsb' 21 5).toNat ≤ 15 && (w.extractLsb' 6 2).toNat ≤ 1 && ((w.extractLsb'
     11 5) == 0x00 || (w.extractLsb' 11 5) == 0x07 || (0x0C ≤ (w.extractLsb' 11 5).toNat && (w.extractLsb' 11 5).toNat ≤
     0x0F))),
   (0xFC1FFFFF, [0xE0000006], fun w => unitOk (w.extractLsb' 23 3) (w.extractLsb' 21 2)),
   (0xFC00FFFF, [0xE4000004, 0xE4000005], fun w => unitOk (w.extractLsb' 23 3) (w.extractLsb' 21 2)),
   (0xFC60FFFF, [0xE0000008], fun w => (w.extractLsb' 16 5).toNat ≤ 5),
   (0xFC00001F, [0xE4000000], fun w => (w.extractLsb' 8 3).toNat ≤ 6 && (w.extractLsb' 6 2).toNat ≤ 2 && (if (w.extractLsb'
     5 1) == 1 then (w.extractLsb' 8 3) != 0 else (w.extractLsb' 23 3) == 0)),
   (0xFC00001F, [0xE4000001], fun w => (w.extractLsb' 8 3).toNat ≤ 6 && ((w.extractLsb' 5 1) == 0 || (w.extractLsb' 8 3) !=
     0)),
   (0xFC00001F, [0xE4000002, 0xE4000003], fun w => tileFmtOk (w.extractLsb' 21 2) (w.extractLsb' 6 2) (w.extractLsb' 5 1)),
   (0xFC00071F, [0xE4000008], fun w => (w.extractLsb' 11 5).toNat ≤ 5 && ((w.extractLsb' 5 1) == 0 || 2 ≤ (w.extractLsb' 6
     2).toNat)),
   (0xFC0000DF, [0xE8000003], fun w => (w.extractLsb' 5 1) == 0),
   (0xFC0000FF, [0xE8000008], fun w => (w.extractLsb' 21 5) != 0 || (w.extractLsb' 16 5) == 0),
   (0xFFC0001F, [0xE8000009], fun w => (w.extractLsb' 5 2) != 3 && ((w.extractLsb' 5 2) != 0 || ((w.extractLsb' 21 1) == 0
     && (w.extractLsb' 7 1) == 0)) && ((w.extractLsb' 21 1) == 0 || (w.extractLsb' 16 5) == 0))]

/-- A word passes checks 1 to 3 of R102. -/
def wordLegal (w : Half) : Bool :=
  let n := w.toNat
  plainForms.any (fun f => f.2.contains (n &&& f.1)) || limitedForms.any fun f => f.2.1.contains (n &&& f.1) && f.2.2 w

end Sys2Proof.Machine
end

