-- ==== Sys2Proof/Machine/Matrix.lean ====
section
/-!
DEFINITION. The outer-product array: the slice forms OPR, OPL, TZERO, TLD, TST and the retirement of their slices, and the
whole forms TMOVV, TAMAX, SCALEX, TREL, OPLD, OPLDX, TSAVE, TRESTORE (R166 to R195, R217, R218).
-/
namespace Sys2Proof.Machine

/-! ### Checks at issue (R102, R173) -/

/-- The decode checks 3 to 6 of a matrix instruction and check 1 of R173. -/
def State.matrix (s : State) (legal priv vtype : Bool) (k : State) : State :=
  if !legal then s.wordTrap 1 3
  else if priv && s.me.level == .T then s.wordTrap 3 4
  else if !s.hasArray s.cur then s.wordTrap 1 5
  else if s.lanes = 0 then s.wordTrap 0xF 6
  else if vtype && vill s.me.vtype then s.wordTrap 1 5
  else k

/-- A vector group holds 32 elements of w bits (R173 check 3). -/
def State.holds32 (s : State) (w : Nat) : Bool := 32 ≤ s.lanes * 32 / w * 2 ^ fld s.me.vtype 4 3
/-- A register number is a multiple of 2^LMUL (R171). -/
def State.lmulAligned (s : State) (v : BitVec 5) : Bool := v.toNat % 2 ^ fld s.me.vtype 4 3 == 0
/-- The registers of a group under VTYPE.LMUL. -/
def State.groupRegs (s : State) (v : BitVec 5) : List Nat := (List.range (2 ^ fld s.me.vtype 4 3)).map (v.toNat + ·)
/-- References to a group. -/
def State.groupRefs (s : State) (v : BitVec 5) : List RegRef := (s.groupRegs v).map fun n => ⟨0, n⟩
def maskRef (rm : BitVec 3) : List RegRef := if rm = 0 then [] else [⟨1, rm.toNat⟩]
/-- The rows a row mask selects, ascending (R167). -/
def State.rowsOf (s : State) (rm : BitVec 3) : List Nat :=
  (List.range 32).filter fun i => rm == 0 || s.me.maskBit s.lanes rm.toNat i
/-- The rows as a 32-bit mask. -/
def rowBits (rows : List Nat) : Nat := rows.foldl (fun m i => m ||| 2 ^ i) 0

/-- Compacted slices with their numbers (R167), from SSTART on (R193). -/
def slicesOf (start : Nat) (rows : List Nat) : List (Nat × List Nat) :=
  ((List.range ((rows.length + 7) / 8)).filter fun n => start ≤ n).map fun n => (n, (rows.drop (8 * n)).take 8)

/-- A unit that some queued slice reads or writes (R170); `writes` counts only slices that write it. -/
def SliceOp.uses (o : SliceOp) (acc : Nat) (writes : Bool) (u : Nat) : Bool :=
  match o with
  | .opr _ _ _ _ | .tzero | .tld _ _ _ => u == acc
  | .opl la lb _ _ _ => u == acc || (!writes && (u == 8 + la || u == 8 + lb))
  | .tst _ _ _ _ _ => !writes && u == acc
def Core.unitBusy (c : Core) (writes : Bool) (u : Nat) : Bool := c.slices.any fun x => x.op.uses x.acc writes u
/-- The wait of R170 and R326 for a unit. -/
def State.unitWaits (s : State) (writes : Bool) (u : Nat) : Bool :=
  s.myCore.unitBusy writes u || s.myCore.zeroing.contains u

/-! ### Local accesses of matrix forms (R173 check 4, R177 to R181) -/

/-- The windows of latch fills, TLD and TST. -/
def fillWindows : Window → Bool
  | .priv | .clus => true
  | _ => false
def tileLoadWindows : Window → Bool
  | .priv | .clus | .onsen | .region => true
  | _ => false
def tileStoreWindows : Window → Bool
  | .priv | .clus | .onsen => true
  | _ => false

/-- The accesses of a form in order, each with its EVAL2: the places, or the first that fails or waits. For cause 0x08 R191 names row and
column and R301's row says 0: the model takes R191's, which is about these forms (log 80). -/
def localScan (size : Nat) (use : Use) (allow : Window → Bool) : List (Word × Nat) → State → State × (List Place ⊕ State)
  | [], s => (s, .inl [])
  | (a, e2) :: r, s =>
    match s.check a size use 0 allow with
    | (.val p, s1) =>
      (match localScan size use allow r s1 with
        | (s2, .inl ps) => (s2, .inl (p :: ps))
        | (s2, .inr h) => (s2, .inr h))
    | (.trap c e, s1) =>
      (s1, .inr (s1.trap { cause := c, eval := a, eval2 := if e = 0xE then e else BitVec.ofNat 64 e2, wr := use.writes }))
    | (.fault f, s1) => (s1, .inr (s1.suspend f))
    | (.stall, s1) => (s1, .inr s1.stall)

/-- The element addresses of a tile row: 32 consecutive elements, with row and column for EVAL2 (R191). -/
def rowElems (base pitch : Word) (size : Nat) (i : Nat) : List (Word × Nat) :=
  (List.range 32).map fun j => (base + BitVec.ofNat 64 i * pitch + BitVec.ofNat 64 (j * size), i * 256 + j)

/-- A list cut into rows of n. -/
def chunks (n : Nat) : Nat → List Nat → List (List Nat)
  | 0, _ => []
  | k + 1, l => l.take n :: chunks n k (l.drop n)

/-! ### Arithmetic of the array (R86, R87) -/

/-- acc + Σ a × b, exact, then rounded once under RNE; ∞ × 0 and sums of both infinities are invalid, and only an operand
that is a signalling NaN raises NV otherwise. Where ∞ × 0 or both infinities meet a NaN operand or accumulator, two rows of R86's
table apply and no order is stated: NV is raised, the model's choice (log 69). -/
def accumulate (acc : Nat) (terms : List (FVal × FVal)) : Nat × Flags :=
  let ps := terms.map fun t => t.1.mul t.2
  let fl : Flags := ps.foldl (fun f p => f ||| p.2) 0
  let vs := FP32.decode acc :: ps.map Prod.fst
  let pos := vs.any fun v => v.isInf && !v.neg
  let neg := vs.any fun v => v.isInf && v.neg
  if pos && neg then (FP32.cnan, fl ||| fNV)
  else if vs.any FVal.isNan then (FP32.cnan, fl)
  else if pos || neg then (FP32.infBits neg, fl)
  else
    let e0 : Int := vs.foldl (fun m v => match v with | .fin _ _ e _ => min m e | _ => m) 0
    let sum : Int := vs.foldl (fun a v => match v with | .fin n m e _ => a + FVal.scaled n m e e0 | _ => a) 0
    let (r, f) := (ofScaled sum e0 (vs.all FVal.neg)).arith FP32 .rne
    (r, fl ||| f)

/-- Element j of a tile row. -/
def rowElem (row : VReg) (j : Nat) : Nat := fld row (32 * j) 32
/-- A tile row of 32 elements. -/
def mkRow (es : List Nat) : VReg := BitVec.ofNat 1024 (es.foldr (fun e acc => e % 2 ^ 32 + 2 ^ 32 * acc) 0)

/-- One element over the groups in order: its value, and the flags of each group. -/
def elemGroups (terms : Nat → List (FVal × FVal)) : List Nat → Nat → Nat × List (Nat × Flags)
  | [], acc => (acc, [])
  | g :: r, acc =>
    let (v, fl) := accumulate acc (terms g)
    let (w, fs) := elemGroups terms r v
    (w, if fl = 0 then fs else (g, fl) :: fs)

/-! ### Latches (R52, R175, R176) -/

/-- Container bits of a latch format, and its capacity in k-steps. -/
def latchBits (code : Nat) : Nat := if code = 8 then 16 else if code = 0xF then 4 else 8
def latchCap (code : Nat) : Nat := 64 / latchBits code
def latchCode (l : Latch) : Nat := fld l.fmt 0 4
/-- The latch formats by selector (R176). -/
def latchFmt (lf : Nat) : Nat := [8, 0, 7, 0xC, 0xD, 0xE, 0xF].getD lf 8
/-- Raw element m, k-step k. -/
def Latch.raw (l : Latch) (m k : Nat) : Nat := fld (l.data.getD m 0) (latchBits (latchCode l) * k) (latchBits (latchCode l))
/-- wval of R175: BF16 as it stands, else widened to BF16 with the row's code. -/
def Latch.val (l : Latch) (m k : Nat) : FVal :=
  if latchCode l = 8 then BF16.decode (l.raw m k)
  else BF16.decode (widenScaled (latchCode l) (l.scale.getD m 0).toNat 8 .rne (l.raw m k)).1
/-- d of R87. -/
def stepsPerGroup (a b : Nat) : Nat :=
  let narrow (c : Nat) : Bool := c == 7 || c == 0xE || c == 0xF
  if a = 8 then 1 else if narrow a && narrow b then 4 else 2

/-! ### Slices and their retirement (R168, R174, R175, R179 to R181, R190) -/

/-- What a slice does when it retires: its rows, the flags of its elements by group, row and column, and its stores. -/
structure SliceOut where
  rows : List (Nat × VReg) := []
  flags : List (Nat × Nat × Nat × Flags) := []
  stores : List (Word × List Byte) := []

/-- The update of rows by groups of products. -/
def updateRows (tile : Vector VReg 32) (z : Bool) (groups : Nat) (rows : List Nat)
    (terms : Nat → Nat → Nat → List (FVal × FVal)) : SliceOut :=
  let out := rows.map fun i =>
    let old := if z then 0 else tile.getD i 0
    (i, (List.range 32).map fun j => elemGroups (fun g => terms g i j) (List.range groups) (rowElem old j))
  { rows := out.map fun p => (p.1, mkRow (p.2.map Prod.fst)),
    flags := out.flatMap fun p => (p.2.mapIdx fun j e => e.2.map fun gf => (gf.1, p.1, j, gf.2)).flatten }

/-- The format code that tf names (R171). -/
def tfCode (tf : Nat) : Nat := [0xA, 8, 0xC, 0xD].getD tf 0xA

/-- The work of one slice on the state of its core (R174, R175, R179 to R181). -/
def Core.sliceOut (c : Core) (x : Slice) : SliceOut :=
  let tile := c.acc.getD x.acc (Vector.replicate 32 0)
  match x.op with
  | .opr bf z a b =>
    let f := if bf then BF16 else FP32
    updateRows tile z 1 x.rows fun _ i j => [(f.decode (a.getD i 0), f.decode (b.getD j 0))]
  | .opl la lb n d z =>
    let l := c.latch.getD la {}
    let r := c.latch.getD lb {}
    updateRows tile z n x.rows fun g i j =>
      (List.range d).map fun u => (l.val i (x.ka + g * d + u), r.val j (x.kb + g * d + u))
  | .tzero => { rows := x.rows.map fun i => (i, 0) }
  | .tld f sc q =>
    let out := (x.rows.zip x.data).map fun p =>
      (p.1, p.2.map fun b => if sc then widenScaled f (fld q (8 * p.1) 8) 0xA .rne b else convertElem f 0xA .rne b)
    { rows := out.map fun p => (p.1, mkRow (p.2.map Prod.fst)),
      flags := out.flatMap fun p => (p.2.mapIdx fun j e => if e.2 = 0 then [] else [(0, p.1, j, e.2)]).flatten }
  | .tst base pitch f sc q =>
    let out := x.rows.map fun i =>
      (i, (List.range 32).map fun j =>
        let b := rowElem (tile.getD i 0) j
        if sc then quantise f (fld q (8 * i) 8) .rne (FP32.decode b) else convertElem 0xA f .rne b)
    { stores := out.map fun p => (base + BitVec.ofNat 64 p.1 * pitch, p.2.flatMap fun e => leBytes (memSize f) e.1),
      flags := out.flatMap fun p => (p.2.mapIdx fun j e => if e.2 = 0 then [] else [(0, p.1, j, e.2)]).flatten }

/-- The first element, by group, row and column, that raised an enabled flag (R190). -/
def firstBad (te : Nat) (fl : List (Nat × Nat × Nat × Flags)) : Option (Nat × Nat × Nat) :=
  let bad := fl.filter fun e => fld e.2.2.2 0 5 &&& te ≠ 0
  (List.range 4).findSome? fun g => (bad.find? fun e => e.1 == g).map fun e => (e.1, e.2.1, e.2.2.1)

/-- EVAL2 of an enabled flag in a slice (R191). The latch k-step of [19:16] is that of the A latch: where the two latches stand at
different k-steps the spec does not say whose it is, and this is the model's choice (log 70). -/
def Core.sliceEval2 (c : Core) (x : Slice) (g i j : Nat) : Nat :=
  match x.op with
  | .opr _ _ _ _ => i + 256 * j
  | .opl la lb _ d _ =>
    let l := c.latch.getD la {}
    let r := c.latch.getD lb {}
    ((l.rowMap.getD i 0).toNat) + 256 * (r.rowMap.getD j 0).toNat + 65536 * ((x.ka + g * d) % 16)
  | _ => 0

/-- The stores of a TST slice, all or none (R181, R287): a word that two rows store to is written, and logged, twice. What is logged
follows the level and the marked regions under which the thread issued TST (R188, R287; log 8). -/
def storeRows : List (Word × List Byte) → State × List (Nat × Nat) → (State × List (Nat × Nat)) ⊕ (Word × Nat)
  | [], sd => .inl sd
  | (a, bs) :: r, (s, d) =>
    match localPlace s.cur false a.toNat with
    | none => storeRows r (s, d)
    | some p =>
      match s.storePart p bs [] with
      | .inl (s1, _) => storeRows r (s1, d)
      | .inr id => .inr (a, id)

/-- The instruction's other effects when its last slice has retired: the tile's tag (R217), which TST leaves, the depths of OPL's
latches (R175), SSTART 0 (R193). -/
def State.finishSlices (s : State) (acc : Nat) (op : SliceOp) (tag : Word) : State :=
  let s1 := s.modMyCore fun c =>
    match op with
    | .tst _ _ _ _ _ => c
    | .opl la lb n d _ =>
      let use (l : Latch) : Latch := { l with depth := l.depth - n * d }
      { c.putTag acc tag with
          latch := (c.latch.setIfInBounds la (use (c.latch.getD la {}))).setIfInBounds lb (use (c.latch.getD lb {})) }
    | _ => c.putTag acc tag
  (s1.modMe fun t => { t with sstart := 0 }).retire

/-- The slices of a slot leave the queue. -/
def Core.dropSlices (c : Core) (k : Nat) (which : Slice → Bool) : Core :=
  { c with slices := c.slices.filter fun x => !(x.slot == k && which x) }

/-- A trap at the retirement of a slice (R190): the younger slices are discarded, SSTART names this one. -/
def State.sliceTrap (s : State) (x : Slice) (tr : Trap) : State :=
  ((s.modMyCore fun c => c.dropSlices x.slot fun _ => true).modMe fun t =>
    { t with sstart := BitVec.ofNat 64 x.num, wait := .none }).trap tr

/-- The rows that a slice writes replace their storage, errors included (R65, log 47); a row holds thirty-two elements. -/
def Core.endRowMarks (c : Core) (acc : Nat) (rows : List Nat) : Core :=
  { c with unitErr := c.unitErr.filter fun e => !(e.ref == unitRef acc && rows.contains (e.word / 32)) }

/-- The stores of a slice in its thread. Of a slice whose thread has gone on, the level is that of its issue, and no region was marked
then: `State.mayGoOn` (log 8). -/
def State.sliceStores (s : State) (x : Slice) (stores : List (Word × List Byte)) : State ⊕ (Word × Nat) :=
  let cl := clusterOf s.cur
  let issued := (s.modMe fun t => { t with level := x.level }).modCluster cl fun c => if x.released then { c with ckpts := [] } else c
  match storeRows stores (issued, []) with
  | .inr e => .inr e
  | .inl (t, _) =>
    .inl ((t.modMe fun u => { u with level := s.me.level }).modCluster cl fun c =>
      if x.released then { c with ckpts := (s.cluster cl).ckpts } else c)

/-- The head slice retires in its thread: its flags, its trap if one is enabled, its stores and rows, and the end of its
instruction with the last, unless its thread has gone on (R168, R169, R190, R192). -/
def State.retireSlice (s : State) (x : Slice) : State :=
  let c := s.myCore
  let o := c.sliceOut x
  let alive := s.me.wait == .slices && !x.released
  let s1 := s.raise (o.flags.foldl (fun a e => a ||| e.2.2.2) 0)
  match firstBad (fld s.me.fcsr 10 5) o.flags, alive with
  | some (g, i, j), true =>
    s1.sliceTrap x { cause := 0xC, eval := BitVec.ofNat 64 (i * 256 + j), eval2 := BitVec.ofNat 64 (c.sliceEval2 x g i j) }
  | _, _ =>
    match s1.sliceStores x o.stores, alive with
    | .inr (a, id), true =>
      (s1.ckptMarkFull (clusterOf s.cur) id).sliceTrap x
        { cause := 0xE, eval := a, eval2 := BitVec.ofNat 64 id, wr := true }
    | r, _ =>
      let s2 := match r with | .inl t => t | .inr _ => s1
      let s3 := s2.modMyCore fun c =>
        { c.endRowMarks x.acc (o.rows.map Prod.fst) with
                 slices := c.slices.drop 1,
                 acc := c.acc.setIfInBounds x.acc (o.rows.foldl (fun t p => t.setIfInBounds p.1 p.2)
                   (c.acc.getD x.acc (Vector.replicate 32 0))) }
      if !alive then s3
      else if x.last then s3.finishSlices x.acc x.op x.tag
      else if s3.myCore.slices.any fun y => y.slot == x.slot && !y.released then s3
      else s3.modMe fun t => { t with wait := .none }

/-- A slice may start (R168): older slices of its instruction have started, and no older slice of the queue reads or
writes any of its rows of its tile. -/
def startable (older : List Slice) (x : Slice) : Bool :=
  !x.started && older.all fun y => (y.slot != x.slot || y.started) && (y.acc != x.acc || y.rows.all fun i => !x.rows.contains i)

/-- The queue with its oldest startable slice started. -/
def startFirst (older : List Slice) : List Slice → List Slice
  | [] => []
  | x :: r => if startable older x then { x with started := true } :: r else x :: startFirst (older ++ [x]) r

/-- A thread may go on in the cycle in which its last slice starts, unless a trap enable is set (R169). While a region of the cluster is
marked, TST's thread waits until its slices have retired: one that finds a log full traps, and nothing younger may have issued by then
(R190, R287; log 8). -/
def State.mayGoOn (s : State) (n : Nat) (x : Slice) : Bool :=
  x.last && (s.thread n x.slot).wait == .slices && fld (s.thread n x.slot).fcsr 10 5 == 0
    && match x.op with | .tst _ _ _ _ _ => (s.cluster (clusterOf n)).ckpts.isEmpty | _ => true

/-- The oldest slice that may start. -/
def firstStartable (older : List Slice) : List Slice → Option Slice
  | [] => none
  | x :: r => if startable older x then some x else firstStartable (older ++ [x]) r

/-- SLICE_START: a free pipe of the four takes the oldest slice that may start (R166, R168); with the last of an instruction its
thread may go on (R169). -/
def execSliceStart (core : Nat) (s : State) : Out :=
  let c := s.core core
  .next (
    if (c.slices.filter Slice.started).length < 4 then
      let s1 := s.modCore core fun c => { c with slices := startFirst [] c.slices }
      match firstStartable [] c.slices with
      | some x =>
        if s.mayGoOn core x then
          (s1.modCore core fun c => { c with slices := c.slices.map fun y =>
              if y.slot = x.slot then { y with released := true } else y }).within core x.slot fun s => s.finishSlices x.acc x.op x.tag
        else s1
      | none => s1
    else s)

/-- SLICE_RETIRE: the oldest slice retires, when it has started (R168). -/
def execSliceRetire (core : Nat) (s : State) : Out :=
  .next (match (s.core core).slices with
    | x :: _ => if x.started then s.within core x.slot fun s => s.retireSlice x else s
    | [] => s)

/-- The k-steps at which OPL finds its latches (R175). -/
def Core.stepsOf (c : Core) : SliceOp → Nat × Nat
  | .opl la lb _ _ _ =>
    let l := c.latch.getD la {}
    let r := c.latch.getD lb {}
    (l.filled - l.depth, r.filled - r.depth)
  | _ => (0, 0)

/-- A slice form placed in the queue (R167, R168): the thread waits for its slices, or retires at once without any; while the queue of
16, which holds the slices that no pipe has taken, lacks room it waits (R166). -/
def State.enqueue (s : State) (acc : Nat) (op : SliceOp) (tag : Word) (rows : List Nat) (data : Nat → List Nat) : State :=
  let k := s.curSlot.val
  let parts := slicesOf (s.me.sstart.toNat) rows
  match parts.getLast? with
  | none => s.finishSlices acc op tag
  | some (lastNum, _) =>
    if 16 < (s.myCore.slices.filter fun x => !x.started).length + parts.length then s.stall
    else
      let (ka, kb) := s.myCore.stepsOf op
      (s.modMyCore fun c => { c with slices := c.slices ++ parts.map fun p =>
          { slot := k, acc := acc, op := op, num := p.1, rows := p.2, last := p.1 == lastNum, tag := tag,
            data := p.2.map data, ka := ka, kb := kb, level := s.me.level } }).modMe fun t => { t with wait := .slices }

/-! ### Slice forms -/

/-- The tile's tag. -/
def State.ttag (s : State) (acc : Nat) : Word := s.myCore.ttag.getD acc 0

/-- The tag OPR leaves, or its domain fault (R217, R218). -/
def State.oprTag (s : State) (acc : Nat) (vs1 vs2 : BitVec 5) (sel : Nat) (z : Bool) : Word ⊕ Trap :=
  let ta := s.me.vtag.getD vs1.toNat 0
  let tb := s.me.vtag.getD vs2.toNat 0
  let tt := s.ttag acc
  let r : Word := if isHaar ta then ta &&& 0xF else 0
  let fault (n : Nat) (g : Word) : Word ⊕ Trap :=
    if bit s.me.dctl 0 then .inl 0 else .inr { cause := 0xA, eval := BitVec.ofNat 64 n, eval2 := g }
  if isHaar tb then (if isHaar ta then fault vs1.toNat ta else fault vs2.toNat tb)
  else if z then
    .inl (r ||| BitVec.ofNat 64 (2 ^ 32 * ((tagMask ta &&& sel) ||| (if like tt r then tagMask tt &&& (0xFFFFFFFF ^^^ sel) else 0))))
  else if !like tt r then fault (32 + acc) tt
  else .inl (tt ||| BitVec.ofNat 64 (2 ^ 32 * (tagMask ta &&& sel)))

/-- The tag after rows of a tile were written from untagged sources: with DOM 1 they are present (R217). -/
def presentTag (tt : Word) (sel : Nat) : Word := if isHaar tt then tt ||| BitVec.ofNat 64 (2 ^ 32 * sel) else tt

/-- R174: rank-one update from vector registers. -/
def execOpr (acc : BitVec 3) (vs1 vs2 : BitVec 5) (rm : BitVec 3) (ty : BitVec 2) (z : BitVec 1) (s : State) : Out :=
  let w := if ty = 1 then 16 else 32
  .next (s.matrix (s.lmulAligned vs1 && s.lmulAligned vs2) false true
    (s.owned [acc.toNat] (s.groupRefs vs1 ++ s.groupRefs vs2 ++ maskRef rm ++ [unitRef acc.toNat]) fun s1 =>
      if !s1.holds32 w then s1.operandTrap
      else
        let rows := s1.rowsOf rm
        match s1.oprTag acc.toNat vs1 vs2 (rowBits rows) (z = 1) with
        | .inr t => s1.trap t
        | .inl g =>
          let elems (v : BitVec 5) : List Nat := (List.range 32).map fun i => s1.me.elem w s1.lanes v.toNat i
          s1.enqueue acc.toNat (.opr (ty = 1) (z = 1) (elems vs1) (elems vs2)) g rows fun _ => []))

/-- R175: rank-one updates from a latch pair. -/
def execOpl (acc : BitVec 3) (pair : BitVec 2) (rm : BitVec 3) (g : BitVec 2) (z : BitVec 1) (s : State) : Out :=
  let la := pair.toNat / 2
  let lb := 2 + pair.toNat % 2
  .next (s.matrix true false false
    (s.owned [acc.toNat, 8 + la, 8 + lb] (maskRef rm ++ [unitRef acc.toNat, unitRef (8 + la), unitRef (8 + lb)]) fun s1 =>
      let l := s1.myCore.latch.getD la {}
      let r := s1.myCore.latch.getD lb {}
      let n := [4, 2, 1].getD g.toNat 1
      let d := stepsPerGroup (latchCode l) (latchCode r)
      if (latchCode l == 8) != (latchCode r == 8) || l.depth < n * d || r.depth < n * d then s1.operandTrap
      else
        let rows := s1.rowsOf rm
        s1.enqueue acc.toNat (.opl la lb n d (z = 1)) (presentTag (s1.ttag acc.toNat) (rowBits rows)) rows fun _ => []))

/-- R179: rows of +0. -/
def execTzero (acc rm : BitVec 3) (s : State) : Out :=
  .next (s.matrix true false false
    (s.owned [acc.toNat] (maskRef rm) fun s1 =>
      let rows := s1.rowsOf rm
      s1.enqueue acc.toNat .tzero (if rows.length = 32 then 0 else s1.ttag acc.toNat) rows fun _ => []))

/-- R180: rows loaded, after check 4 on every element; the elements are read at issue. -/
def execTld (acc : BitVec 3) (qs : BitVec 2) (rs1 rs2 : BitVec 5) (rm : BitVec 3) (ty : BitVec 2) (sc : BitVec 1)
    (s : State) : Out :=
  let f := tfCode ty.toNat
  .next (s.matrix true false false
    (s.owned [acc.toNat] (maskRef rm ++ xs [rs1, rs2] ++ (if sc = 1 then [⟨6, 12 + qs.toNat⟩] else [])) fun s1 =>
      let rows := s1.rowsOf rm
      match localScan (memSize f) .load tileLoadWindows (rows.flatMap (rowElems (s1.x rs1) (s1.x rs2) (memSize f))) s1 with
      | (_, .inr h) => h
      | (s2, .inl ps) =>
        let vals := chunks 32 rows.length (ps.map fun p => s2.loaded p (memSize f))
        s2.enqueue acc.toNat (.tld f (sc = 1) (s2.me.q.getD (12 + qs.toNat) 0))
          (if rows.length = 32 then 0 else presentTag (s2.ttag acc.toNat) (rowBits rows)) rows
          fun i => vals.getD (rows.idxOf i) []))

/-- R181: rows stored when their slices retire, after check 4 on every element. -/
def execTst (acc : BitVec 3) (qs : BitVec 2) (rs1 rs2 : BitVec 5) (rm : BitVec 3) (ty : BitVec 2) (sc : BitVec 1)
    (s : State) : Out :=
  let f := tfCode ty.toNat
  .next (s.matrix true false false
    (s.owned [acc.toNat] (maskRef rm ++ xs [rs1, rs2] ++ [unitRef acc.toNat] ++ (if sc = 1 then [⟨6, 12 + qs.toNat⟩] else [])) fun s1 =>
      let rows := s1.rowsOf rm
      match localScan (memSize f) .store tileStoreWindows (rows.flatMap (rowElems (s1.x rs1) (s1.x rs2) (memSize f))) s1 with
      | (_, .inr h) => h
      | (s2, .inl _) =>
        s2.enqueue acc.toNat (.tst (s2.x rs1) (s2.x rs2) f (sc = 1) (s2.me.q.getD (12 + qs.toNat) 0))
          (s2.ttag acc.toNat) rows fun _ => []))

/-! ### Whole forms -/

/-- A whole form retires: SSTART 0 (R193). -/
def State.wholeRetire (s : State) : State := (s.modMe fun t => { t with sstart := 0 }).retire

/-- Values with flags as a whole form raises them: the enabled-flag trap with its EVAL, or the continuation (R190). -/
def State.wholeFlags (s : State) (fl : List (Nat × Flags)) (k : State → State) : State :=
  let s1 := s.raise (fl.foldl (fun a e => a ||| e.2) 0)
  match fl.find? fun e => enabled s.me.fcsr e.2 != 0 with
  | some e => s1.trap { cause := 0xC, eval := BitVec.ofNat 64 e.1 }
  | none => k s1

/-- Elements 0 to 31 of a group written, the others kept; the group's tag. -/
def Thread.setElems32 (t : Thread) (w lanes : Nat) (vd : BitVec 5) (es : List Nat) : Thread :=
  (es.mapIdx fun i e => (i, e)).foldl (fun u p => u.setElem w lanes vd.toNat p.1 p.2) t

/-- R182: a row or column to a vector group. -/
def execTmovv (acc : BitVec 3) (col : BitVec 2) (rs1 vd : BitVec 5) (ty : BitVec 2) (s : State) : Out :=
  let w := if ty = 1 then 16 else 32
  .next (s.matrix (s.lmulAligned vd) false true
    (s.owned [acc.toNat] (xs [rs1] ++ [unitRef acc.toNat]) fun s1 =>
      if s1.unitWaits true acc.toNat then s1.stall
      else if !s1.holds32 w then s1.operandTrap
      else
        let k := fld (s1.x rs1) 0 5
        let tile := s1.myCore.acc.getD acc.toNat (Vector.replicate 32 0)
        let src := (List.range 32).map fun i => if col = 1 then rowElem (tile.getD i 0) k else rowElem (tile.getD k 0) i
        let res := src.map fun b => if ty = 1 then convertElem 0xA 8 .rne b else (b, 0)
        let tt := s1.ttag acc.toNat
        let tag : Word := if col = 1 then mkTag (isHaar tt) (tagLev tt) (tagMask tt) else 0
        s1.wholeFlags (res.mapIdx fun i e => (i, e.2)) fun s2 =>
          (s2.modMe fun t => ((t.touchGroup (s1.groupRegs vd)).setElems32 w s1.lanes vd (res.map Prod.fst)).tagGroup
            (s1.groupRegs vd) tag).wholeRetire))

/-- The largest magnitude of FP32 values, +0 for none, the canonical NaN with a NaN (R183). -/
def amaxOf (vs : List Nat) : Nat := (foldFlags (maxAbs FP32) 0 (vs.map some)).1

/-- R183: magnitudes by row or by column. -/
def execTamax (acc : BitVec 3) (col : BitVec 2) (vd : BitVec 5) (rm : BitVec 3) (s : State) : Out :=
  .next (s.matrix (s.lmulAligned vd) false true
    (s.owned [acc.toNat] (maskRef rm ++ [unitRef acc.toNat]) fun s1 =>
      if s1.unitWaits true acc.toNat then s1.stall
      else if !s1.holds32 32 then s1.operandTrap
      else
        let rows := s1.rowsOf rm
        let tile := s1.myCore.acc.getD acc.toNat (Vector.replicate 32 0)
        let res := (List.range 32).map fun e =>
          if col = 1 then amaxOf (rows.map fun i => rowElem (tile.getD i 0) e)
          else if rows.contains e then amaxOf ((List.range 32).map fun j => rowElem (tile.getD e 0) j) else 0
        (s1.modMe fun t => ((t.touchGroup (s1.groupRegs vd)).setElems32 32 s1.lanes vd res).tagGroup
          (s1.groupRegs vd) 0).wholeRetire))

/-- R184: scale codes of FP32 magnitudes into half of a q register. -/
def execScalex (qd vs1 fmt : BitVec 5) (rm : BitVec 3) (half : BitVec 2) (s : State) : Out :=
  .next (s.matrix (s.lmulAligned qd && s.lmulAligned vs1) false true
    (s.guard (maskRef rm ++ s.groupRefs vs1)
      (if !s.holds32 32 then s.operandTrap
       else
         let res := (s.rowsOf rm).map fun i =>
           (i, scaleCode fmt.toNat (FP32.decode (s.me.elem 32 s.lanes vs1.toNat i)))
         s.wholeFlags (res.map fun p => (p.1, p.2.2)) fun s1 =>
           (s1.modMe fun t => t.setQ qd.toNat (res.foldl
             (fun q p => putFld q (8 * (p.1 + 32 * half.toNat)) 8 p.2.1) (t.q.getD qd.toNat 0))).wholeRetire)))

/-- The unit that TREL, TSAVE and TRESTORE name (R171). -/
def unitNo (unit : BitVec 3) (kind : BitVec 2) : Nat := if kind = 1 then 8 + unit.toNat else unit.toNat

/-- R185: releases a tile or latch. -/
def execTrel (unit : BitVec 3) (kind : BitVec 2) (s : State) : Out :=
  let u := unitNo unit kind
  .next (s.matrix true false false
    (s.owning [u] fun s1 =>
      if s1.unitWaits false u then s1.stall
      else (s1.modMyCore fun c => c.releaseUnit u).wholeRetire))

/-- The bytes a fill reads of one element row, with the k-step of each for EVAL2 (R177, R191). -/
def fillElems (code steps : Nat) (m : Nat) (a : Word) : List (Word × Nat) :=
  let size := max 1 (latchBits code / 8)
  (List.range (steps * latchBits code / 8 / size)).map fun k =>
    (a + BitVec.ofNat 64 (k * size), m * 256 + (if code = 0xF then 2 * k else k))

/-- A latch fill from 32 row addresses (R176 to R178). -/
def State.fillLatch (s : State) (latch code steps : Nat) (scaled : Bool) (codes : BitVec 512) (addr : Nat → Word)
    (rowMap : Nat → Nat) : State :=
  let size := max 1 (latchBits code / 8)
  let per := steps * latchBits code / 8 / size
  match localScan size .load fillWindows ((List.range 32).flatMap fun m => fillElems code steps m (addr m)) s with
  | (_, .inr h) => h
  | (s1, .inl ps) =>
    let rows := chunks per 32 (ps.map fun p => s1.loaded p size)
    let pack (l : List Nat) : Word :=
      BitVec.ofNat 64 (l.foldr (fun e acc => (if code = 0xE then e % 64 else e) + 2 ^ (8 * size) * acc) 0)
    let scale (m : Nat) : Nat := if scaled then fld codes (8 * m) 8 else 0x7F
    let new : Latch :=
      { data := Vector.ofFn fun (i : Fin 32) => pack (rows.getD i []),
        scale := Vector.ofFn fun (i : Fin 32) => BitVec.ofNat 8 (scale i),
        rowMap := Vector.ofFn fun (i : Fin 32) => BitVec.ofNat 5 (rowMap i),
        fmt := BitVec.ofNat 8 (code + if scaled then 16 else 0), filled := steps, depth := steps }
    let flags := (List.range 32).flatMap fun m => (List.range steps).map fun k =>
      (m * 256 + k, if code = 8 then 0 else (widenScaled code (scale m) 8 .rne (new.raw m k)).2)
    s1.wholeFlags flags fun s2 => (s2.modMyCore fun c => c.putLatch (8 + latch) new).wholeRetire

/-- R177: fills a latch from strided rows. -/
def execOpld (qs : BitVec 3) (latch : BitVec 2) (rs1 rs2 : BitVec 5) (lf : BitVec 3) (depth : BitVec 2) (sc : BitVec 1)
    (s : State) : Out :=
  let code := latchFmt lf.toNat
  .next (s.matrix true false false
    (s.owned [8 + latch.toNat] (xs [rs1, rs2] ++ (if sc = 1 then [⟨6, 8 + qs.toNat⟩] else [])) fun s1 =>
      if s1.unitWaits false (8 + latch.toNat) then s1.stall
      else s1.fillLatch latch.toNat code (latchCap code / 2 ^ depth.toNat) (sc = 1) (s1.me.q.getD (8 + qs.toNat) 0)
        (fun m => s1.x rs1 + BitVec.ofNat 64 m * s1.x rs2) id))

/-- R178: fills a latch from indexed rows. -/
def execOpldx (pitch rs1 vs2 : BitVec 5) (lf : BitVec 3) (latch : BitVec 2) (sc : BitVec 1) (s : State) : Out :=
  let code := latchFmt lf.toNat
  .next (s.matrix (s.lmulAligned vs2) false true
    (s.owned [8 + latch.toNat] (xs [rs1, pitch] ++ s.groupRefs vs2 ++ (if sc = 1 then [⟨6, 8⟩] else [])) fun s1 =>
      if s1.unitWaits false (8 + latch.toNat) then s1.stall
      else if !s1.holds32 32 then s1.operandTrap
      else
        let idx (m : Nat) : Nat := s1.me.elem 32 s1.lanes vs2.toNat m
        s1.fillLatch latch.toNat code (latchCap code) (sc = 1) (s1.me.q.getD 8 0)
          (fun m => s1.x rs1 + BitVec.ofNat 64 (idx m) * s1.x pitch) (fun m => idx m % 32)))

/-! ### TSAVE and TRESTORE (R186, R187) -/

/-- The windows of TSAVE and TRESTORE. -/
def recordWindows : Window → Bool
  | .region | .coreWin => false
  | _ => true

/-- The record of a unit (R187); an unowned latch reads as an empty one. -/
def Core.record (c : Core) (u : Nat) : List Byte :=
  if u < 8 then
    ((c.acc.getD u (Vector.replicate 32 0)).toList.flatMap fun r => leBytes 128 r.toNat)
      ++ leBytes 8 (c.ttag.getD u 0).toNat ++ List.replicate 56 0
  else
    let l := if c.ownerByte u < 128 then {} else c.latch.getD (u - 8) {}
    (l.data.toList.flatMap fun d => leBytes 8 d.toNat) ++ l.scale.toList
      ++ leBytes 20 (l.rowMap.toList.foldr (fun r acc => r.toNat + 32 * acc) 0)
      ++ [l.fmt, BitVec.ofNat 8 l.filled, BitVec.ofNat 8 l.depth] ++ List.replicate 9 0

/-- A number read from bytes at an offset of a record. -/
def at_ (bs : List Byte) (off n : Nat) : Nat := leNat ((bs.drop off).take n)

/-- A latch record that TRESTORE accepts (R186). -/
def latchRecordOk (bs : List Byte) : Bool :=
  let fmt := at_ bs 0x134 1
  let code := fmt % 16
  let f := at_ bs 0x135 1
  let cap := latchCap code
  fmt < 32 && (code == 8 || code == 0 || code == 7 || code == 0xC || code == 0xD || code == 0xE || code == 0xF)
    && fmt != 0x18 && (f == 0 || f == cap || f == cap / 2 || f == cap / 4) && at_ bs 0x136 1 ≤ f && at_ bs 0x137 9 == 0

/-- A unit's contents from a record (R187); a tag image takes effect as a write of the tag, LEV 6 or 7 leaving LEV unchanged (R51). -/
def Core.install (c : Core) (u : Nat) (bs : List Byte) : Core :=
  if u < 8 then
    c.putTile u (Vector.ofFn fun (i : Fin 32) => BitVec.ofNat 1024 (at_ bs (128 * i) 128))
      (ttagWrite (c.ttag.getD u 0) (BitVec.ofNat 64 (at_ bs 0x1000 8)))
  else
    c.putLatch u
      { data := Vector.ofFn fun (i : Fin 32) => BitVec.ofNat 64 (at_ bs (8 * i) 8),
        scale := Vector.ofFn fun (i : Fin 32) => BitVec.ofNat 8 (at_ bs (0x100 + i) 1),
        rowMap := Vector.ofFn fun (i : Fin 32) => BitVec.ofNat 5 (at_ bs 0x120 20 / 2 ^ (5 * i.val)),
        fmt := BitVec.ofNat 8 (at_ bs 0x134 1), filled := at_ bs 0x135 1, depth := at_ bs 0x136 1 }

/-- Size of a record in doublewords. -/
def recordDwords (u : Nat) : Nat := if u < 8 then 520 else 40

/-- The doublewords of a store of many, checked in rising order before any is written. -/
def storeScan (use : Use) (allow : Window → Bool) (strm : Nat) : List Word → State → State × (List Place ⊕ (Word × Got))
  | [], s => (s, .inl [])
  | a :: r, s =>
    match s.check a 8 use strm allow with
    | (.val p, s1) =>
      (match storeScan use allow strm r s1 with
        | (s2, .inl ps) => (s2, .inl (p :: ps))
        | (s2, .inr e) => (s2, .inr e))
    | (g, s1) => (s1, .inr (a, g))

/-- Bytes written at checked places of 8 bytes, at level S: not logged (R188). -/
def writePlaces : List Place → List Byte → State → State
  | [], _, s => s
  | p :: r, bs, s => writePlaces r (bs.drop 8) (s.writeTo p (bs.take 8))

/-- R186: writes the unit's record and takes the unit over. -/
def execTsave (unit : BitVec 3) (kind : BitVec 2) (rs1 : BitVec 5) (s : State) : Out :=
  let u := unitNo unit kind
  .next (s.matrix true true false
    (s.guard (xs [rs1] ++ [unitRef u])
      (if s.unitWaits false u then s.stall
       else if fld (s.x rs1) 0 6 ≠ 0 then s.trap { cause := 4, eval := s.x rs1, wr := true }
       else match storeScan .store recordWindows 0 (dwordsAt (s.x rs1) (recordDwords u)) s with
         | (s1, .inr (a, g)) => g.stop a true 0 s1
         | (s1, .inl ps) =>
           ((writePlaces ps (s1.myCore.record u) s1).modMyCore fun c =>
             c.setOwner u (128 + fld s1.me.ctxid 0 7)).wholeRetire)))

/-- R186: reads a record and installs it; a latch record is checked first. -/
def execTrestore (unit : BitVec 3) (kind : BitVec 2) (rs1 : BitVec 5) (s : State) : Out :=
  let u := unitNo unit kind
  .next (s.matrix true true false
    (s.guard (xs [rs1])
      (if s.unitWaits false u then s.stall
       else if fld (s.x rs1) 0 6 ≠ 0 then s.trap { cause := 4, eval := s.x rs1 }
       else match loadDwords 0 recordWindows (dwordsAt (s.x rs1) (recordDwords u)) s with
         | (s1, .inr (a, g)) => g.stop a false 0 s1
         | (s1, .inl ws) =>
           let bs := ws.flatMap fun w => leBytes 8 w.toNat
           if 8 ≤ u && !latchRecordOk bs then s1.trap { cause := 5, eval := s1.x rs1 }
           else (s1.modMyCore fun c => c.install u bs).wholeRetire)))

/-- TILE_ZERO_DONE: the background zeroing of a released unit ends (R62). -/
def execTileZeroDone (core unit : Nat) (s : State) : Out :=
  .next (s.modCore core fun c => { c with zeroing := c.zeroing.filter (· != unit) })

end Sys2Proof.Machine
end

