-- ==== Sys2Proof/Machine/Wavelet.lean ====
section
/-!
DEFINITION. The Haar domain: exact transforms (R89), thresholds (R50), the forms of major 0x2F (R201 to R205), the column
stores and loads VSTW and VLDW (R206 to R208) and the tile forms THAAR, TIHAAR, TSTW, TLDW (R209 to R213).
-/
namespace Sys2Proof.Machine

/-! ### Exact transforms (R89) -/

/-- A transform value: its exact value and the flags raised on the way to it. -/
abbrev HVal := FVal × Flags

/-- Exact sum; an exact zero is +0 unless both terms are −0 (log 17). -/
def hAdd (a b : HVal) : HVal := let r := a.1.add .rne b.1; (r.1, a.2 ||| b.2 ||| r.2)
def hSub (a b : HVal) : HVal := hAdd a (b.1.flip, b.2)
/-- Half of a value, exact. -/
def hHalf (a : HVal) : HVal := (match a.1 with | .fin n m e s => .fin n m (e - 1) s | v => v, a.2)
def hZero : HVal := (.fin false 0 0 false, 0)

/-- The pairs (x[2j], x[2j+1]) of a list. -/
def pairs : List HVal → List (HVal × HVal)
  | a :: b :: r => (a, b) :: pairs r
  | _ => []

/-- haar_fwd (R89): approximations first, then the details from the coarsest level on. -/
def haarFwd : Nat → List HVal → List HVal
  | 0, x => x
  | l + 1, x =>
    haarFwd l ((pairs x).map fun p => hHalf (hAdd p.1 p.2)) ++ (pairs x).map fun p => hHalf (hSub p.1 p.2)

/-- One level of the inverse: sums and differences of approximations and details. -/
def haarJoin (a d : List HVal) : List HVal := (a.zip d).flatMap fun p => [hAdd p.1 p.2, hSub p.1 p.2]

/-- haar_inv (R89): `n` approximations rebuilt with the rows of the next level, level by level. -/
def haarUp : Nat → List HVal → List HVal → List HVal
  | 0, a, _ => a
  | l + 1, a, rest => haarUp l (haarJoin a (rest.take a.length)) (rest.drop a.length)
def haarInv (l : Nat) (c : List HVal) : List HVal := haarUp l (c.take (32 / 2 ^ l)) (c.drop (32 / 2 ^ l))

/-- A value rounded to a register or tile format (R75, R89): a NaN is canonical, a signalling one or an invalid sum raises
NV. -/
def hRound (f : Fmt) (rm : RM) (v : HVal) : Nat × Flags :=
  let r := v.1.arith f rm
  (r.1, r.2 ||| v.2 ||| (if v.1.isSig then fNV else 0))
/-- A value narrowed to a memory format (R79, R89). -/
def hNarrow (f : Fmt) (rm : RM) (v : HVal) : Nat × Flags :=
  let r := v.1.narrow f rm
  (r.1, r.2 ||| v.2)

/-! ### Levels and thresholds (R50, R196) -/

/-- rowlev: 0 for an approximation. -/
def rowLevel (i l : Nat) : Nat := if i < 32 / 2 ^ l then 0 else 5 - Nat.log2 i
/-- approx(L): the mask of approximation rows. -/
def approxMask (l : Nat) : Nat := 2 ^ (32 / 2 ^ l) - 1

/-- A row of coefficients survives its level's threshold (R50). -/
def survives (h : BitVec 128) (i l : Nat) (row : List FVal) : Bool :=
  let lev := rowLevel i l
  let t := BF16.decode (fld h (16 * (lev - 1)) 15)
  lev == 0 || !bit h 80 || t.isNan || row.any fun v => v.isNan || !v.abs.lt t

/-! ### Threshold registers and tags (R201, R205) -/

/-- R201: h[hd] from x[rs1] and x[rs2]; reads neither VTYPE nor the grant. -/
def execThset (hd rs1 rs2 : BitVec 5) (_k1 _k2 : BitVec 1) (s : State) : Out :=
  .next (s.guard (xs [rs1, rs2])
    ((s.modMe fun t => t.setH hd.toNat (BitVec.ofNat 128 ((s.x rs1).toNat + 2 ^ 64 * fld (s.x rs2) 0 17))).vretire [] none []))

/-- R201: half of h[hs]; reads neither VTYPE nor the grant. -/
def execThget (rd hs n : BitVec 5) (_k2 : BitVec 1) (s : State) : Out :=
  .next (s.guard [⟨7, hs.toNat⟩]
    ((s.setX rd (BitVec.ofNat 64 (fld (s.me.h.getD hs.toNat 0) (64 * n.toNat) 64))).vretire [] none []))

/-- R205: the tag image of vs1. -/
def execDtagr (rd vs1 : BitVec 5) (k1 : BitVec 1) (s : State) : Out :=
  let c := s.vctx0
  .next (s.vector c (aligned c vs1) [] .blind [vs1] none 0
    fun _ => (s.setX rd (s.me.vtag.getD vs1.toNat 0)).vretire [] none (c.marked vs1 k1 vs1 0))

/-- R205: the tag of a group; LEV 6 and 7 trap. -/
def execDtagw (vd rs1 : BitVec 5) (_k1 : BitVec 1) (s : State) : Out :=
  let c := s.vctx0
  .next (s.vector c (aligned c vd) (xs [rs1]) .blind [] none 0
    fun _ =>
      let v := s.x rs1
      if 5 < tagLev v then s.operandTrap
      else (s.modMe fun t => t.touchGroup (c.group vd)).vretire (c.group vd) (some (mkTag (isHaar v) (tagLev v) (tagMask v))) [])

/-- A mask register whose bits 0 to 31 are given, the rest 0. -/
def Thread.setMask32 (t : Thread) (lanes md m : Nat) : Thread :=
  (List.range 32).foldl (fun u i => u.setMaskBit lanes md i (m.testBit i)) (t.setM md 0)

/-- R205: a mask from 32 bits of a scalar register. -/
def execDtagmk (md rs1 : BitVec 5) (_k1 : BitVec 1) (s : State) : Out :=
  .next (s.vector s.vctx0 true (xs [rs1]) .blind [] none 0
    fun _ => (s.modMe fun t => t.setMask32 s.lanes md.toNat (fld (s.x rs1) 0 32)).vretire [] none [])

/-- R205: the mask of the approximation rows of vs1's level. -/
def execDtagma (md vs1 : BitVec 5) (k1 : BitVec 1) (s : State) : Out :=
  let c := s.vctx0
  .next (s.vector c (aligned c vs1) [] .blind [vs1] none 0
    fun _ => (s.modMe fun t => t.setMask32 s.lanes md.toNat (approxMask (tagLev (t.vtag.getD vs1.toNat 0)))).vretire []
      none (c.marked vs1 k1 vs1 0))

/-! ### Column forms (R202 to R208) -/

/-- A column form after its checks: VTYPE, alignment and grant, the size of its groups, register errors (R202). -/
def State.column (s : State) (c : VCtx) (groups : List (BitVec 5)) (refs : List RegRef) (k : State) : State :=
  match s.vectorStop (c.isFp && groups.all (aligned c)) with
  | some s1 => s1
  | none => if !s.holds32 c.sew then s.operandTrap else s.guard refs k

/-- The 32 elements of a group as values; rows outside the mask are +0 (R197). -/
def State.columnVals (s : State) (c : VCtx) (v : BitVec 5) (mask : Nat) (flush : Bool) : List HVal :=
  (List.range 32).map fun i =>
    if mask.testBit i then (c.fmt.decode (flushIn flush c.fmt (c.get s.me v i)), 0) else hZero

/-- The trap of a cross-element form whose result raised an enabled flag: EVAL names the first such element, EVAL2 all the
enabled flags raised, ESTART is 0 and nothing is written (R142, R301; log 13). -/
def State.columnFlags (s : State) (fl : List Flags) (k : State → State) : State :=
  let all : Flags := fl.foldl (· ||| ·) 0
  let s1 := s.raise all
  match fl.findIdx? fun f => enabled s.me.fcsr f != 0 with
  | some i =>
    (s1.modMe fun t => { t with estart := 0, restart := none }).trap
      { cause := 0xC, eval := BitVec.ofNat 64 i, eval2 := BitVec.ofNat 64 (enabled s.me.fcsr all) }
  | none => k s1

/-- A domain fault on vector register v (R218). -/
def State.domainFault (s : State) (v : BitVec 5) : State :=
  s.trap { cause := 0xA, eval := BitVec.ofNat 64 v.toNat, eval2 := s.me.vtag.getD v.toNat 0 }

/-- A transform from vs1 to vd with the tag of its result. -/
def State.columnForm (s : State) (c : VCtx) (vd vs1 : BitVec 5) (k1 : BitVec 1) (tag : Word) (out : List HVal) : State :=
  let res := out.map fun v => flushOut c.ftz c.fmt (hRound c.fmt c.rm v)
  s.columnFlags (res.map Prod.snd) fun s1 =>
    (s1.modMe fun t => (t.touchGroup (c.group vd)).setElems32 c.sew c.lanes vd (res.map Prod.fst)).vretire (c.group vd)
      (some tag) (c.marked vs1 k1 vs1 0)

/-- R203: the forward transform with L levels. -/
def execVhaar (vd vs1 lev : BitVec 5) (k1 _k2 : BitVec 1) (s : State) : Out :=
  let c := s.vctx0
  .next (s.column c [vd, vs1] (c.refs [vs1] 0)
    (if isHaar (s.me.vtag.getD vs1.toNat 0) then s.domainFault vs1
     else s.columnForm c vd vs1 k1 (mkTag true lev.toNat 0xFFFFFFFF)
       (haarFwd lev.toNat (s.columnVals c vs1 0xFFFFFFFF c.ftz))))

/-- R204: the inverse transform with the levels of vs1's tag. -/
def execVihaar (vd vs1 : BitVec 5) (k1 : BitVec 1) (s : State) : Out :=
  let c := s.vctx0
  let tag := s.me.vtag.getD vs1.toNat 0
  .next (s.column c [vd, vs1] (c.refs [vs1] 0)
    (if !isHaar tag then s.domainFault vs1
     else s.columnForm c vd vs1 k1 0 (haarInv (tagLev tag) (s.columnVals c vs1 (tagMask tag) c.ftz))))

/-- The 32 addresses of a column in memory. -/
def State.columnEas (s : State) (rs1 : BitVec 5) (size : Nat) : List (Word × Nat) :=
  (List.range 32).map fun i => (s.x rs1 + BitVec.ofNat 64 (i * size), i)

/-- The checks of all 32 elements before any is accessed (R208): the places, or the state the form ends in. -/
def columnScan (size : Nat) (use : Use) (strm : Nat) : List (Word × Nat) → State → State × (List Place ⊕ State)
  | [], s => (s, .inl [])
  | (a, _) :: r, s =>
    let zero (s : State) : State := s.modMe fun t => match t.level with | .T => { t with estart := 0 } | .S => t
    match s.check a size use strm (if use = .load then loadWindows else storeWindows) with
    | (.val p, s1) =>
      if p.dcls then (s1, .inr ((zero s1).trap { cause := use.cause, eval := a, wr := use.writes, strm := strm }))
      else
        (match columnScan size use strm r s1 with
          | (s2, .inl ps) => (s2, .inl (p :: ps))
          | (s2, .inr h) => (s2, .inr h))
    | (.stall, s1) => (s1, .inr s1.stall)
    | (g, s1) => (s1, .inr (g.stop a use.writes strm (zero s1)))

/-- Stores at checked places, all or none: a full checkpoint log stops them before any is made (log 16). -/
def storeList : List (Word × Place × List Byte) → State × List (Nat × Nat) → (State × List (Nat × Nat)) ⊕ (Word × Nat)
  | [], sd => .inl sd
  | (a, p, bs) :: r, (s, d) =>
    match s.storePart p bs d with
    | .inl sd => storeList r sd
    | .inr id => .inr (a, id)

/-- R206: stores a column in the Haar domain, thresholded with h0. -/
def execVstw (vs3 rs1 : BitVec 5) (lev stream : BitVec 3) (fmt : BitVec 4) (s : State) : Out :=
  let c := s.vctx0
  let l := lev.toNat
  let f := (fmtOf fmt.toNat).getD FP32
  let size := memSize fmt.toNat
  let tag := s.me.vtag.getD vs3.toNat 0
  .next (s.column c [vs3] (c.refs [vs3] 0 ++ xs [rs1] ++ [⟨7, 0⟩])
    (if isHaar tag && tagLev tag != l then s.domainFault vs3
     else
       let cand := if isHaar tag then tagMask tag ||| approxMask l else 0xFFFFFFFF
       let res :=
         if isHaar tag then (List.range 32).map fun i =>
           if (tagMask tag).testBit i then convertElem c.et fmt.toNat c.rm (c.get s.me vs3 i) else (0, 0)
         else if l = 0 then (List.range 32).map fun i => convertElem c.et fmt.toNat c.rm (c.get s.me vs3 i)
         else (haarFwd l (s.columnVals c vs3 0xFFFFFFFF false)).map (hNarrow f c.rm)
       let kept := res.mapIdx fun i e =>
         if cand.testBit i && survives (s.me.h.getD 0 0) i l [f.decode e.1] then e.1 else 0
       match columnScan size .store stream.toNat (s.columnEas rs1 size) s with
       | (_, .inr h) => h
       | (s1, .inl ps) =>
         s1.columnFlags (res.map Prod.snd) fun s2 =>
           match storeList ((s.columnEas rs1 size).zip (ps.zip (kept.map (leBytes size))) |>.map fun p => (p.1.1, p.2)) (s2, []) with
           | .inl sd => sd.1.vretire [] none []
           | .inr (a, id) => (s2.modMe fun t => { t with estart := 0 }).ckptTrap a.toNat id stream.toNat))

/-- R207: loads a column and finds its survival mask. -/
def execVldw (vd rs1 : BitVec 5) (lev stream : BitVec 3) (fmt : BitVec 4) (s : State) : Out :=
  let c := s.vctx0
  let l := lev.toNat
  let size := memSize fmt.toNat
  .next (s.column c [vd] (xs [rs1])
    (match columnScan size .load stream.toNat (s.columnEas rs1 size) s with
      | (_, .inr h) => h
      | (s1, .inl ps) =>
        let res := ps.map fun p => convertElem fmt.toNat c.et c.rm (s1.loaded p size)
        let mask := (res.mapIdx fun i e => if (c.fmt.decode e.1).isZero then 0 else 2 ^ i).foldl (· ||| ·) (approxMask l)
        s1.columnFlags (res.map Prod.snd) fun s2 =>
          (s2.modMe fun t => (t.touchGroup (c.group vd)).setElems32 c.sew c.lanes vd (res.map Prod.fst)).vretire (c.group vd)
            (some (mkTag true l mask)) []))

/-! ### Tile forms (R209 to R213) -/

/-- The columns of a tile as values; rows outside the mask are +0. -/
def tileColumns (tile : Vector VReg 32) (mask : Nat) : List (List HVal) :=
  (List.range 32).map fun j => (List.range 32).map fun i =>
    if mask.testBit i then (FP32.decode (rowElem (tile.getD i 0) j), 0) else hZero

/-- A domain fault on tile t (R218). -/
def State.tileFault (s : State) (acc : Nat) : State :=
  s.trap { cause := 0xA, eval := BitVec.ofNat 64 (32 + acc), eval2 := s.ttag acc }

/-- A whole tile replaced by columns of transform values, rounded once under RNE (R210). The spec gives no EVAL and no EVAL2 for an
enabled flag of THAAR and TIHAAR (R191 and R301 list other forms): the model takes row × 256 + column of the first offending element in
row order, and 0, its own choice (log 79). -/
def State.tileForm (s : State) (acc : Nat) (tag : Word) (cols : List (List HVal)) : State :=
  let res := cols.map fun col => col.map fun v => hRound FP32 .rne v
  let elem (i j : Nat) : Nat × Flags := (res.getD j []).getD i (0, 0)
  let flags := (List.range 32).flatMap fun i => (List.range 32).map fun j => (i * 256 + j, (elem i j).2)
  s.wholeFlags flags fun s1 =>
    (s1.modMyCore fun c =>
      c.putTile acc (Vector.ofFn fun (i : Fin 32) => mkRow ((List.range 32).map fun j => (elem i j).1)) tag).wholeRetire

/-- A whole form on one tile after its checks and waits. -/
def State.tileWhole (s : State) (acc : Nat) (refs : List RegRef) (k : State → State) : State :=
  s.matrix true false false (s.owned [acc] refs fun s1 => if s1.unitWaits false acc then s1.stall else k s1)

/-- R210: the forward transform of every column. -/
def execThaar (acc : BitVec 3) (lev : BitVec 5) (s : State) : Out :=
  .next (s.tileWhole acc.toNat [unitRef acc.toNat] fun s1 =>
    if isHaar (s1.ttag acc.toNat) then s1.tileFault acc.toNat
    else s1.tileForm acc.toNat (mkTag true lev.toNat 0xFFFFFFFF)
      ((tileColumns (s1.myCore.acc.getD acc.toNat (Vector.replicate 32 0)) 0xFFFFFFFF).map (haarFwd lev.toNat)))

/-- R210: the inverse transform of every column. -/
def execTihaar (acc : BitVec 3) (s : State) : Out :=
  .next (s.tileWhole acc.toNat [unitRef acc.toNat] fun s1 =>
    let tt := s1.ttag acc.toNat
    if !isHaar tt then s1.tileFault acc.toNat
    else s1.tileForm acc.toNat 0
      ((tileColumns (s1.myCore.acc.getD acc.toNat (Vector.replicate 32 0)) (tagMask tt)).map (haarInv (tagLev tt))))

/-- The value an element of a stored image stands for: with the scale of its row applied when scaled (R211). -/
def imageVal (f code : Nat) (sc : Bool) (b : Nat) : FVal :=
  if sc then (if code = 0xFF then .nan false false else (elemVal f b).scale ((code : Int) - 127)) else elemVal f b

/-- The accesses of an image: header and scale block by doubleword, then the payload by element with row and column
(R191, R213). -/
def headElems (base : Word) : List (Word × Nat) := (dwordsAt base 8).map fun a => (a, 0)
def payloadElems (base : Word) (size : Nat) : List (Word × Nat) :=
  (List.range 32).flatMap fun i => (List.range 32).map fun j =>
    (base + BitVec.ofNat 64 (64 + (i * 32 + j) * size), i * 256 + j)

/-- R211: writes a dense Haar image of the tile. With no level, or of a Haar tile, an FP32 image holds the elements as they are (R79). -/
def execTstw (acc : BitVec 3) (hn : BitVec 2) (rs1 lev : BitVec 5) (ty : BitVec 2) (sc : BitVec 1) (s : State) : Out :=
  let a := acc.toNat
  let l := lev.toNat
  let f := tfCode ty.toNat
  let size := memSize f
  .next (s.tileWhole a ([unitRef a] ++ xs [rs1] ++ [⟨7, hn.toNat⟩] ++ (if sc = 1 then [⟨6, 12⟩] else [])) fun s1 =>
    let tt := s1.ttag a
    let q := s1.me.q.getD 12 0
    let h := s1.me.h.getD hn.toNat 0
    let base := s1.x rs1
    if isHaar tt && tagLev tt != l then s1.tileFault a
    else if fld base 0 6 ≠ 0 then s1.trap { cause := 4, eval := base, wr := true }
    else match localScan 8 .store tileStoreWindows (headElems base) s1 with
      | (_, .inr st) => st
      | (s2, .inl hp) =>
        match localScan size .store tileStoreWindows (payloadElems base size) s2 with
        | (_, .inr st) => st
        | (s3, .inl pp) =>
          let tile := s3.myCore.acc.getD a (Vector.replicate 32 0)
          let cols := if isHaar tt then tileColumns tile (tagMask tt) else (tileColumns tile 0xFFFFFFFF).map (haarFwd l)
          let cand := if isHaar tt then tagMask tt ||| approxMask l else 0xFFFFFFFF
          let conv (i : Nat) (v : HVal) : Nat × Flags :=
            if sc = 1 then (let r := quantise f (fld q (8 * i) 8) .rne v.1; (r.1, r.2 ||| v.2))
            else hNarrow ((fmtOf f).getD FP32) .rne v
          let elem (i j : Nat) : Nat × Flags :=
            if f = 0xA && isHaar tt then
              (if (tagMask tt).testBit i then rowElem (tile.getD i 0) j else 0, 0)
            else if f = 0xA && l = 0 then (rowElem (tile.getD i 0) j, 0)
            else conv i ((cols.getD j []).getD i hZero)
          let rows := (List.range 32).map fun i => (List.range 32).map fun j => elem i j
          let flags := (rows.mapIdx fun i r => r.mapIdx fun j e => (i * 256 + j, e.2)).flatten
          let keep (i : Nat) (r : List (Nat × Flags)) : Bool :=
            cand.testBit i && survives h i l (r.map fun e => imageVal f (fld q (8 * i) 8) (sc = 1) e.1)
          let mask := (rows.mapIdx fun i r => if keep i r then 2 ^ i else 0).foldl (· ||| ·) 0
          let header := 1 + 2 * l + 16 * f + 512 * hn.toNat + (if sc = 1 then 2048 else 0)
          let head := leBytes 8 header ++ leBytes 8 mask ++ (if sc = 1 then leBytes 32 (q.toNat % 2 ^ 256) else List.replicate 32 0)
            ++ List.replicate 16 0
          let body := (rows.mapIdx fun i r => r.flatMap fun e => leBytes size (if keep i r then e.1 else 0)).flatten
          s3.wholeFlags flags fun s4 =>
            let stores := (hp.mapIdx fun k p => (base, p, (head.drop (8 * k)).take 8))
              ++ (pp.mapIdx fun k p => (base, p, (body.drop (size * k)).take size))
            match storeList stores (s4, []) with
            | .inl sd => sd.1.wholeRetire
            | .inr (ea, id) => s4.ckptTrap ea.toNat id 0)

/-- A malformed header (R200). -/
def headerBad (w0 w1 : Word) : Bool :=
  let f := fld w0 4 4
  decide (5 < fld w0 1 3) || !(f == 0xA || f == 8 || f == 0xC || f == 0xD) || (bit w0 11 && (f == 0xA || f == 8))
    || bit w0 8 || (!bit w0 0 && (fld w0 1 3 != 0 || fld w1 0 32 != 0xFFFFFFFF)) || fld w0 12 52 != 0 || fld w1 32 32 != 0

/-- R212: loads a dense Haar image. The mask of its tag is the header's with all approximation rows, which R197 asks of every mask that
TLDW writes (log 72). -/
def execTldw (acc : BitVec 3) (rs1 : BitVec 5) (s : State) : Out :=
  let a := acc.toNat
  .next (s.tileWhole a (xs [rs1]) fun s1 =>
    let base := s1.x rs1
    if fld base 0 6 ≠ 0 then s1.trap { cause := 4, eval := base }
    else match localScan 8 .load tileLoadWindows (headElems base) s1 with
      | (_, .inr st) => st
      | (s2, .inl hp) =>
        let words := hp.map fun p => BitVec.ofNat 64 (s2.loaded p 8)
        let w0 : Word := words.headD 0
        let w1 : Word := words.getD 1 0
        if headerBad w0 w1 then s2.trap { cause := 5, eval := base, eval2 := BitVec.allOnes 64 }
        else
          let f := fld w0 4 4
          let size := memSize f
          match localScan size .load tileLoadWindows (payloadElems base size) s2 with
          | (_, .inr st) => st
          | (s3, .inl pp) =>
            let raw := chunks 32 32 (pp.map fun p => s3.loaded p size)
            let code (i : Nat) : Nat := fld (words.getD (2 + i / 8) 0) (8 * (i % 8)) 8
            let elem (i j : Nat) : Nat × Flags :=
              if (fld w1 0 32).testBit i then
                let b := (raw.getD i []).getD j 0
                if bit w0 11 then widenScaled f (code i) 0xA .rne b else convertElem f 0xA .rne b
              else (0, 0)
            let flags := (List.range 32).flatMap fun i => (List.range 32).map fun j => (i * 256 + j, (elem i j).2)
            s3.wholeFlags flags fun s4 =>
              (s4.modMyCore fun c =>
                c.putTile a (Vector.ofFn fun (i : Fin 32) => mkRow ((List.range 32).map fun j => (elem i j).1))
                  (mkTag (bit w0 0) (fld w0 1 3) (fld w1 0 32 ||| approxMask (fld w0 1 3)))).wholeRetire)

end Sys2Proof.Machine
end

