-- ==== Sys2Proof/Machine/Engine.lean ====
section
/-!
DEFINITION. Copy-engine instructions: staging, the geometry of a command, its checks at issue, commit and acceptance, fences and
queue status (R244 to R267, R321, R322).
-/
namespace Sys2Proof.Machine

/-! ### Staging (R245, R255, R260, R263) -/

/-- A form of major 0x3A traps in a slot that a message holds without a task (R309). -/
def State.engine (s : State) (refs : List RegRef) (k : State) : State := s.guard refs (if s.noTask then s.operandTrap else k)

/-- One staging set of the current thread. -/
def State.staging (s : State) (q : BitVec 3) : Staging := s.me.staging.getD q.toNat {}
/-- The set of a queue changed; the instruction retires. -/
def State.stage (s : State) (q : BitVec 3) (f : Staging → Staging) : State :=
  (s.modMe fun t => { t with staging := t.staging.setIfInBounds q.toNat (f (t.staging.getD q.toNat {})) }).retire

/-- R255: stages completion word and barrier; a value with bit 63 set traps. -/
def execCsig (raddr rval rbar : BitVec 5) (queue : BitVec 3) (s : State) : Out :=
  .next (s.engine (xs [raddr, rval, rbar])
    (if bit (s.x rval) 63 then s.operandTrap
     else s.stage queue fun g => { g with sigAddr := s.x raddr, sigVal := s.x rval, sigBar := s.x rbar }))

/-- R263: stages kind, CONT, V, seed and expected value. -/
def execCchk (cont : BitVec 1) (rseed rexp : BitVec 5) (queue : BitVec 3) (verify : BitVec 1) (kind : BitVec 2) (s : State) :
    Out :=
  .next (s.engine (xs [rseed, rexp])
    (s.stage queue fun g =>
      { g with chk := if kind = 1 then .crc else if kind = 2 then .add32 else .none
               cont := cont = 1, verify := verify = 1
               seed := BitVec.ofNat 32 (s.x rseed).toNat, expected := BitVec.ofNat 32 (s.x rexp).toNat }))

/-- R260: stages the transform descriptor and the scale-array address. -/
def execCxf (rscale rdesc : BitVec 5) (queue : BitVec 3) (s : State) : Out :=
  .next (s.engine (xs [rscale, rdesc]) (s.stage queue fun g => { g with xf := s.x rdesc, scaleAddr := s.x rscale }))

/-- R245: stages the fill pattern. -/
def execCfill (rsrc : BitVec 5) (queue : BitVec 3) (s : State) : Out :=
  .next (s.engine (xs [rsrc]) (s.stage queue fun g => { g with fill := s.x rsrc }))

/-- R253: stages row bytes and pitch. -/
def execCrow (rsrc rpitch : BitVec 5) (queue : BitVec 3) (s : State) : Out :=
  .next (s.engine (xs [rsrc, rpitch]) (s.stage queue fun g => { g with rowBytes := s.x rsrc, rowPitch := s.x rpitch }))

/-! ### Geometry (R250 to R253, R260 to R262) -/

/-- KIND, SF, DF and SC of a descriptor. -/
def xfKind (d : Word) : Nat := fld d 0 3
def xfSrc (d : Word) : Nat := fld d 4 4
def xfDst (d : Word) : Nat := fld d 8 4
def xfScaled (d : Word) : Bool := bit d 12

/-- Bits that an element takes in memory: E2M3 a whole byte, E2M1 half a byte (R67). -/
def memBits (f : Nat) : Nat := if f = 0xE then 8 else widthOf f
/-- The Scaled column of R66. -/
def scaledFmt (f : Nat) : Bool := f == 0 || f == 7 || (decide (0xC ≤ f) && decide (f ≤ 0xF))

/-- The descriptor is allowed with a form (R260). -/
def xfAllowed (d : Word) (k : CmdKind) (wm : Bool) : Bool :=
  fld d 13 51 == 0 && !bit d 3 &&
  (match xfKind d with
   | 0 => true
   | 1 =>
     if xfScaled d then
       decide (k = .cpy) && ((scaledFmt (xfSrc d) && (xfDst d == 0xA || xfDst d == 8))
         || (scaledFmt (xfDst d) && (xfSrc d == 0xA || xfSrc d == 8)))
     else
       xfSrc d != 0xB && xfDst d != 0xB && ((xfSrc d == 3) == (xfDst d == 3))
         && !(decide (k = .cpyt) && (xfSrc d == 0xF || xfDst d == 0xF))
   | 2 | 3 => decide (k = .cpy) && fld d 4 9 == 0 && !wm
   | _ => false)

/-- Elements of one unit of a converting row or copy: 32 when scaled, as many as whole units of 8 bytes take on both sides when it
moves such units, two with E2M1, else one (R67, R223, R261). -/
def unitElems (d : Word) (eight : Bool) : Nat :=
  if xfScaled d then 32
  else if eight then max (64 / memBits (xfSrc d)) (64 / memBits (xfDst d))
  else if xfSrc d = 0xF ∨ xfDst d = 0xF then 2 else 1
/-- Source and destination bytes of one unit of CPY, GATH and SCAT; `eight`: it moves aligned units of 8 bytes. -/
def unitBytes (d : Word) (eight : Bool) : Nat × Nat :=
  if xfKind d = 1 then (unitElems d eight * memBits (xfSrc d) / 8, unitElems d eight * memBits (xfDst d) / 8)
  else if eight then (8, 8) else (1, 1)

/-- The length that a convert gives a number of source bytes, the byte of a last half counted whole. -/
def convertLen (d : Word) (n : Nat) : Nat :=
  if xfKind d = 1 then (n * memBits (xfDst d) + memBits (xfSrc d) - 1) / memBits (xfSrc d) else n

/-- A CPY's length is a whole number of elements, and of blocks when scaled (R261). -/
def wholeElems (d : Word) (n : Nat) : Bool :=
  xfKind d != 1 || (if xfScaled d then 8 * n % (32 * memBits (xfSrc d)) == 0 else 8 * n % memBits (xfSrc d) == 0)

/-- A CPY that moves aligned units of 8 bytes (R223, R250). -/
def EngCmd.eight (c : EngCmd) : Bool :=
  decide (c.kind = .cpy) && c.len % 8 == 0 && convertLen c.st.xf c.len % 8 == 0 && fld c.src 0 3 == 0 && fld c.dst 0 3 == 0
def EngCmd.unitLen (c : EngCmd) : Nat × Nat := unitBytes c.st.xf c.eight
/-- Elide or expand (R262). -/
def EngCmd.images (c : EngCmd) : Bool := xfKind c.st.xf == 2 || xfKind c.st.xf == 3

/-- Stride, far edge and box of dimension i of a layout record (R251). -/
def EngCmd.stride (c : EngCmd) (i : Nat) : Word := sx (c.layout.getD i 0)
def EngCmd.rem (c : EngCmd) (i : Nat) : Nat := fld (c.layout.getD (4 + i) 0) 0 16
def EngCmd.box (c : EngCmd) (i : Nat) : Nat := fld (c.layout.getD (4 + i) 0) 16 12
/-- Element size of the source. -/
def EngCmd.esz (c : EngCmd) : Nat := 2 ^ fld (c.layout.getD 4 0) 28 2
def EngCmd.boxTotal (c : EngCmd) : Nat := (List.range c.dims).foldl (fun n i => n * c.box i) 1
/-- Coordinates of a box element. -/
def EngCmd.coords (c : EngCmd) : Nat → Nat → Nat → List Nat
  | 0, _, _ => []
  | n + 1, i, e => e % c.box i :: c.coords n (i + 1) (e / c.box i)

/-- One unit of a command: source, bytes read, destination, bytes written, whether it is clipped fill, its scale code's
address. The last unit of a convert to an odd number of E2M1 elements is one element. -/
structure XUnit where
  src : Word
  n : Nat
  dst : Word
  m : Nat
  clip : Bool := false
  code : Option Word := none

/-- Unit i of a command that moves no images. -/
def EngCmd.unitAt (c : EngCmd) (i : Nat) : XUnit :=
  let g := c.unitLen
  let off (k : Nat) : Word := BitVec.ofNat 64 k
  match c.kind with
  | .cpyt =>
    let cs := c.coords c.dims 0 i
    let clip := (cs.mapIdx fun d v => decide (c.rem d ≤ v)).any id
    { src := (cs.mapIdx fun d v => off v * c.stride d).foldl (· + ·) c.src
      n := if clip then 0 else c.esz
      dst := c.dst + off (i * c.len), m := if clip && c.nofill then 0 else c.len, clip := clip }
  | .gath =>
    let per := c.st.rowBytes.toNat / g.1
    { src := c.src + off (c.index.getD (i / per) 0) * c.st.rowPitch + off (i % per * g.1), n := g.1
      dst := c.dst + off (i * g.2), m := g.2 }
  | .scat =>
    let per := c.st.rowBytes.toNat / g.1
    { src := c.src + off (i * g.1), n := g.1
      dst := c.dst + off (c.index.getD (i / per) 0) * c.st.rowPitch + off (i % per * g.2), m := g.2 }
  | _ => { src := c.src + off (i * g.1), n := min g.1 (c.len - i * g.1), dst := c.dst + off (i * g.2), m := g.2
           code := if xfKind c.st.xf = 1 ∧ xfScaled c.st.xf then some (c.st.scaleAddr + off i) else none }

/-! ### Haar images (R198 to R200, R262) -/

/-- Bytes of an image by its header: dense, or elided. -/
def imageBytes (w0 w1 : Word) (elided : Bool) : Nat :=
  64 + (if elided && bit w0 0 then ((List.range 32).filter fun i => bit w1 i).length else 32) * 32 * memSize (fld w0 4 4)
/-- A header that an elide (or expand) refuses: malformed but for ELIDED, or of a Haar image whose ELIDED is not 0 for elide and 1 for
expand (R262). -/
def imageBad (w0 w1 : Word) (expand : Bool) : Bool :=
  headerBad (putBit w0 8 false) w1 || (bit w0 0 && bit w0 8 != expand)
/-- The bytes that n images take at least: dense ones those of an 8-bit format, elided ones their headers (R198, R262). -/
def leastImages (n : Nat) (elided : Bool) : Nat := n * if elided then 64 else 1088
/-- The first 64-byte boundary at or after an address, as an offset from a base. -/
def toBoundary (base : Word) (off : Nat) : Nat := off + (64 - (base + BitVec.ofNat 64 off).toNat % 64) % 64

/-! ### Checks at issue (R248, R249) -/

/-- A range that a command touches: address, bytes, use, and whether it may lie in the stack-broadcast region. -/
abbrev Touch := Word × Nat × Use × Bool

/-- The pieces of a range cut at multiples of 64 KiB: windows and XB begin and end in whole pieces. -/
def pieces (a : Word) (n : Nat) : List Word :=
  if n = 0 then [] else a :: (List.range ((fld a 0 16 + n - 1) / 65536)).map fun i =>
    a + BitVec.ofNat 64 ((i + 1) * 65536 - fld a 0 16)

/-- The check of one local address of an engine range by core n: none when it passes or is global (R249). -/
def State.localBad (s : State) (n : Nat) (use : Use) (region : Bool) (a : Word) : Option (Nat × Word) :=
  if 0x100000000 ≤ a.toNat then none
  else match localPlace n true a.toNat with
    | none => some (use.cause, a)
    | some p =>
      if (p.win = .priv ∨ p.win = .coreWin) ∧ p.addr < privBase p.core + (s.core p.core).xb.toNat then some (8, a)
      else if p.win = .region ∧ !region then some (6, a)
      else none

/-- The first failing address of the ranges in their order. -/
def State.touchBad (s : State) (n : Nat) (ts : List Touch) : Option (Nat × Word × Use) :=
  ts.findSome? fun t => (pieces t.1 t.2.1).findSome? fun a => (s.localBad n t.2.2.1 t.2.2.2 a).map fun b => (b.1, b.2, t.2.2.1)

/-- The ranges of the images as they can be told at issue, and whether all can: from headers in local memory, up to the first that is
refused; behind a header that cannot be read at issue, the bytes that the images left take at least (log 53). -/
def State.imageTouches (s : State) (c : EngCmd) : Nat → Nat → Nat → List Touch × Bool
  | 0, _, _ => ([], true)
  | k + 1, so, eo =>
    let a := c.src + BitVec.ofNat 64 so
    let d := c.dst + BitVec.ofNat 64 eo
    let head : Touch := (a, 16, .load, true)
    let expand := xfKind c.st.xf = 3
    match (if (s.touchBad c.core [head]).isNone && decide (a.toNat < 0x100000000) then localPlace c.core true a.toNat else none) with
    | none => ([(a, leastImages (k + 1) expand, .load, true), (d, leastImages (k + 1) (!expand), .store, true)], false)
    | some p =>
      let w0 := s.dword p.addr
      let w1 := s.dword (p.addr + 8)
      if imageBad w0 w1 expand then ([head], false)
      else
        let n := imageBytes w0 w1 expand
        let m := imageBytes w0 w1 (!expand)
        let so1 := if expand then toBoundary c.src (so + n) else so + n
        let eo1 := if expand then eo + m else toBoundary c.dst (eo + m)
        let (ts, told) := s.imageTouches c k so1 eo1
        ((a, n, .load, true) :: (d, m, .store, true) :: ts, told)

/-- Source and destination ranges of a command. -/
def State.dataTouches (s : State) (c : EngCmd) : List Touch × List Touch :=
  let rows (f : Nat → Word) (n : Nat) (use : Use) : List Touch := (List.range c.index.length).map fun i => (f i, n, use, true)
  let pitch (base : Word) (i : Nat) : Word := base + BitVec.ofNat 64 (c.index.getD i 0) * c.st.rowPitch
  match c.kind with
  | .cpyt =>
    let us := (List.range c.units).map c.unitAt
    ((us.filter fun u => u.n ≠ 0).map fun u => (u.src, u.n, .load, true),
     (us.filter fun u => u.m ≠ 0).map fun u => (u.dst, u.m, .store, true))
  | .gath => (rows (pitch c.src) c.st.rowBytes.toNat .load, [(c.dst, c.span, .store, true)])
  | .scat => ([(c.src, c.index.length * c.st.rowBytes.toNat, .load, true)], rows (pitch c.dst) c.len .store)
  | _ =>
    if c.images then
      let ts := (s.imageTouches c c.units 0 0).1
      (ts.filter fun t => t.2.2.1 = .load, ts.filter fun t => t.2.2.1 = .store)
    else ([(c.src, c.len, .load, true)], [(c.dst, c.span, .store, true)])

/-- The scale array of a scaled convert: one code for each unit; written when the destination is the scaled format (R261). -/
def EngCmd.scaleTouch (c : EngCmd) : List Touch :=
  if xfKind c.st.xf = 1 ∧ xfScaled c.st.xf then
    [(c.st.scaleAddr, c.units, if scaledFmt (xfDst c.st.xf) then .store else .load, false)]
  else []

/-- Completion word and barrier. -/
def EngCmd.sigTouch (c : EngCmd) : List Touch :=
  (if c.st.sigAddr = 0 then [] else [(c.st.sigAddr, 8, .store, false)])
    ++ (if c.st.sigBar = 0 then [] else [(c.st.sigBar, 16, .store, false)])

/-- Step 2 of R248: the trap of the first failing range, in the order source, destination, completion word, barrier, scale
array. -/
def State.touchTrap (s : State) (c : EngCmd) : Option Trap :=
  let d := s.dataTouches c
  let bad (ts : List Touch) : Option Trap := (s.touchBad c.core ts).map fun b =>
    { cause := b.1, eval := b.2.1, wr := b.2.2.writes }
  let mis (a : Word) (n : Nat) : Option Trap :=
    if a.toNat % n = 0 then none else some { cause := 4, eval := a, wr := true }
  let sig := c.sigTouch
  (bad (d.1 ++ d.2)).orElse fun _ => (mis c.st.sigAddr 8).orElse fun _ =>
    (bad (sig.filter fun t => t.2.1 = 8)).orElse fun _ => (mis c.st.sigBar 16).orElse fun _ =>
      (bad (sig ++ c.scaleTouch))

/-- Every byte of a range lies in the private-scratchpad area of the current thread's task, through either window (R249). -/
def State.inOwnArea (s : State) (t : Touch) : Bool :=
  let base := (s.me.task.map TaskInfo.pbase).getD 0
  let size := (s.me.task.map TaskInfo.psize).getD 0
  let inside (a : Word) : Bool :=
    decide (a.toNat < 0x100000000) && (match localPlace s.cur true a.toNat with
      | some p => (p.win == .priv || p.win == .coreWin) && p.core == s.cur
          && decide (privBase s.cur + base ≤ p.addr) && decide (p.addr < privBase s.cur + base + size)
      | none => false)
  t.2.1 == 0 || (inside t.1 && inside (t.1 + BitVec.ofNat 64 (t.2.1 - 1)) && decide (t.2.1 ≤ size))

/-- Step 3 of R248: the commit of R31 unless every byte written lies in the task's own area; images that cannot be told at issue are
taken at their greatest size (R262). -/
def State.engineCommit (s : State) (c : EngCmd) : State :=
  let dst := if c.images && !(s.imageTouches c c.units 0 0).2 then [(c.dst, c.span, Use.store, true)] else (s.dataTouches c).2
  let written := dst ++ c.sigTouch ++ c.scaleTouch.filter (fun t => t.2.2.1 = .store)
  if written.all s.inOwnArea then s else s.implicitCommit

/-! ### Acceptance (R244, R258, R259, R264, R322) -/

/-- The error words of R257. -/
def errMismatch (v : Half) : Word := BitVec.ofNat 64 (2 ^ 63 + 2 ^ 56 + v.toNat)
def errAccess (a : Word) : Word := BitVec.ofNat 64 (2 ^ 63 + 2 * 2 ^ 56 + fld a 0 52)
def errChain : Word := BitVec.ofNat 64 (2 ^ 63 + 3 * 2 ^ 56)

def State.queueOf (s : State) (cl q : Nat) : List EngCmd := (s.cluster cl).queues.getD q []
def State.setQueue (s : State) (cl q : Nat) (es : List EngCmd) : State :=
  s.modCluster cl fun c => { c with queues := c.queues.setIfInBounds q es }

/-- The chain of the issuing thread after a command has been accepted, and whether the command's chain has failed. -/
def Chain.accept (h : Chain) (g : Staging) : Chain × Bool :=
  if g.chk = .none then (h, false)
  else ({ h with open_ := if g.verify then none else if g.cont then h.open_ else some g.chk }, g.cont && h.open_ != some g.chk)

/-- A bound command's range governs its channel from its acceptance, and drops a rewound range (R258, R259). -/
def State.bindChannel (s : State) (c : EngCmd) (q : Nat) : State :=
  if !c.wm then s
  else
    let first := !s.channelBusy c.core c.slot q
    s.modThread c.core c.slot fun t =>
      { t with rewound := t.rewound.setIfInBounds q none
               wm := if first then t.wm.setIfInBounds q c.dst else t.wm }

/-- A data command enters its queue: the fault injection is taken up, the chain joined, the channel bound, staging reset, and
the instruction retires. -/
def State.acceptData (s : State) (c : EngCmd) (q : Nat) : State :=
  let cl := clusterOf c.core
  let e := (s.core c.core).einj
  let armed := (s.tower (towerOf c.core)).injen && bit e 0 && fld e 1 3 == q
  let (h, failed) := ((s.thread c.core c.slot).chains.getD q {}).accept c.st
  let c1 := { c with
    stamp := s.steps, flip := if armed then some (fld e 8 24, fld e 4 3) else none
    error := if failed then some errChain else c.error, wm := c.wm && !failed }
  let s1 := (s.bindChannel c1 q).modCore c.core fun k => { k with einj := if armed then putBit k.einj 0 false else k.einj }
  let s2 := s1.modThread c.core c.slot fun t =>
    { t with staging := t.staging.setIfInBounds q {}, chains := t.chains.setIfInBounds q h }
  (s2.setQueue cl q (s2.queueOf cl q ++ [c1])).within c.core c.slot State.retire

/-- A fence enters its queue; one that names no queue completes at once (R254). -/
def State.acceptFence (s : State) (c : EngCmd) (q : Nat) : State :=
  let cl := clusterOf c.core
  let s1 := if c.mask = 0 then s else s.setQueue cl q (s.queueOf cl q ++ [{ c with stamp := s.steps }])
  s1.within c.core c.slot State.retire

/-- Acceptance, or the stall at a full queue (R244, R248). -/
def State.offer (s : State) (c : EngCmd) (q : Nat) : State :=
  if 16 ≤ (s.queueOf (clusterOf c.core) q).length then
    s.modThread c.core c.slot fun t => { t with wait := .engineFull q c }
  else if c.kind = .qfence then s.acceptFence c q else s.acceptData c q

/-- ENGINE_ACCEPT: an entry has freed for a thread that stalls at a full queue. -/
def execEngineAccept (core slot : Nat) (s : State) : Out :=
  .next (match (s.thread core slot).wait with
    | .engineFull q c => if 16 ≤ (s.queueOf (clusterOf core) q).length then s else s.offer c q
    | _ => s)

/-! ### The commands (R250 to R254) -/

/-- What every command takes from its thread. -/
def State.command (s : State) (kind : CmdKind) (q : BitVec 3) : EngCmd :=
  { kind := kind, core := s.cur, slot := s.curSlot, taskid := s.me.taskid, asn := s.asnOf s.cur s.curSlot
    lvs := s.me.level = .S, launch := s.me.task.map TaskInfo.launch, st := if kind = .qfence then {} else s.staging q }

/-- The operand checks that every data command shares: transform, scale array, chain (R248 step 1, R260, R263, R264). The spec does not say
when a scale-array address is absent: the model takes the address 0 so, its own choice (log 84). -/
def State.operandsOk (s : State) (c : EngCmd) (q : BitVec 3) : Bool :=
  let h := (s.me.chains.getD q.toNat {}).open_
  xfAllowed c.st.xf c.kind c.wm
    && !(xfKind c.st.xf == 1 && xfScaled c.st.xf && c.st.scaleAddr == 0)
    && (c.st.chk == .none || (if c.st.cont then h == some c.st.chk else h.isNone))

/-- Steps 1 to 4 of R248 for a command whose own limits hold or not. -/
def State.data (s : State) (c : EngCmd) (q : BitVec 3) (limits : Bool) : State :=
  if !(s.operandsOk c q && limits) then s.operandTrap
  else match s.touchTrap c with
    | some t => s.trap t
    | none => (s.engineCommit c).offer c q.toNat

/-- R250, R261, R262: copies bytes, elements or images. -/
def execCpy (rdst rsrc rlen : BitVec 5) (queue : BitVec 3) (wm : BitVec 1) (s : State) : Out :=
  .next (s.engine (xs [rdst, rsrc, rlen])
    (let n := (s.x rlen).toNat
     let c0 := { s.command .cpy queue with dst := s.x rdst, src := s.x rsrc, len := n, wm := wm = 1 }
     let c := { c0 with span := if c0.images then 4160 * n else convertLen c0.st.xf n
                        units := if c0.images then n else (n + c0.unitLen.1 - 1) / c0.unitLen.1 }
     s.data c queue (decide (n < 2 ^ 32)
       && (if c.images then decide (1 ≤ n) && decide (n ≤ 65535) else wholeElems c.st.xf n))))

/-- The layout record obeys its limits (R251). -/
def EngCmd.layoutOk (c : EngCmd) : Bool :=
  decide (1 ≤ c.dims) && decide (c.dims ≤ 4)
    && ((List.range c.dims).all fun i =>
      decide (1 ≤ c.box i) && decide (c.box i ≤ 2048)
        && fld (c.layout.getD (4 + i) 0) (if i = 0 then 30 else 28) (if i = 0 then 2 else 4) == 0)
    && decide (c.boxTotal * c.esz ≤ 2 ^ 24)
    && (xfKind c.st.xf != 1 || 8 * c.esz == memBits (xfSrc c.st.xf))

/-- R251, R252: copies a box of a tensor. In a message slot with an empty grant check 6 of R102 goes before R309's trap, the model's choice
(log 87). -/
def execCpyt (rdst rsrc vlay : BitVec 5) (queue : BitVec 3) (nofill wm : BitVec 1) (s : State) : Out :=
  .next (
    if s.lanes = 0 then s.wordTrap 0xF 6
    else s.engine (xs [rdst, rsrc] ++ [⟨0, vlay.toNat⟩])
      (let c0 := { s.command .cpyt queue with
         dst := s.x rdst, src := s.x rsrc, wm := wm = 1, nofill := nofill = 1, dims := s.me.vl.toNat
         layout := (List.range 8).map fun i => BitVec.ofNat 32 (fld (s.me.getV vlay.toNat) (32 * i) 32) }
       if !c0.layoutOk then s.operandTrap
       else
         let size := if xfKind c0.st.xf = 1 then memBits (xfDst c0.st.xf) / 8 else c0.esz
         s.data { c0 with len := size, span := c0.boxTotal * size, units := c0.boxTotal } queue true))

/-- The row commands: R bytes of a whole number of elements, R′ whole bytes (R253). In a message slot with an empty grant check 6 of R102
goes before R309's trap, the model's choice (log 87). -/
def State.rows (s : State) (kind : CmdKind) (rdst rsrc vidx : BitVec 5) (queue : BitVec 3) (wm : Bool) : State :=
  let v := s.vctx
  match s.vectorStop (aligned v vidx) with
  | some s1 => s1
  | none => s.engine (xs [rdst, rsrc] ++ v.refs [vidx] 0)
      (let c0 := { s.command kind queue with
         dst := s.x rdst, src := s.x rsrc, wm := wm, index := (List.range v.vl).map fun i => v.get s.me vidx i }
       let r := c0.st.rowBytes.toNat
       let w := convertLen c0.st.xf r
       s.data { c0 with len := w, span := v.vl * w, units := v.vl * (r / c0.unitLen.1) } queue
         (decide (1 ≤ r) && decide (r ≤ 65536) && r % c0.unitLen.1 == 0))

/-- R253: gathers rows. -/
def execGath (rdst rsrc vidx : BitVec 5) (queue : BitVec 3) (wm : BitVec 1) (s : State) : Out :=
  .next (s.rows .gath rdst rsrc vidx queue (wm = 1))
/-- R253: scatters rows. -/
def execScat (rdst rsrc vidx : BitVec 5) (queue : BitVec 3) (_wm : BitVec 1) (s : State) : Out :=
  .next (s.rows .scat rdst rsrc vidx queue false)

/-- R254: places a fence entry. -/
def execQfence (rs : BitVec 5) (queue : BitVec 3) (s : State) : Out :=
  .next (s.engine (xs [rs])
    (s.offer { s.command .qfence queue with mask := BitVec.ofNat 8 (s.x rs).toNat } queue.toNat))

/-- R267: reads a queue's status; `.clr` clears SAT and NV after the read. -/
def execCqst (rd : BitVec 5) (queue : BitVec 3) (clr : BitVec 1) (s : State) : Out :=
  let q := queue.toNat
  let c := s.myCluster
  let es := c.queues.getD q []
  let v := (if bit c.qsat q then 1 else 0) + (if bit c.qnv q then 2 else 0) + 256 * es.length
    + (if (es.head?.map EngCmd.paused).getD false then 2 ^ 13 else 0) + (c.srcb.getD q 0).toNat * 2 ^ 32
  .next (s.engine []
    ((if clr = 1 then s.modCluster (clusterOf s.cur) fun c => { c with qsat := putBit c.qsat q false, qnv := putBit c.qnv q false }
      else s).result rd (BitVec.ofNat 64 v)))

end Sys2Proof.Machine
end

