-- ==== Sys2Proof/Machine/Life.lean ====
section
/-!
DEFINITION. How a context leaves its slot: the waits and steps of retirement and discard (R34, R43, R62, R268), the freed
slot, and the step TASK_RETIRE.
-/
namespace Sys2Proof.Machine

/-- Commands of a thread in the queues of its cluster's engine. -/
def State.commandsOf (s : State) (n k : Nat) : List EngCmd :=
  ((s.cluster (clusterOf n)).queues.toList.flatten).filter fun c => c.core == n && c.slot == k

/-- The waits before a context leaves its slot: its engine commands, its pending GSTs and GAMOs, its started slices (R168,
R268, R283). -/
def State.leaveWaits (s : State) (n k : Nat) : Bool :=
  !(s.commandsOf n k).isEmpty || !(s.pendingWrites n k).isEmpty || (s.core n).slices.any fun x => x.slot == k

/-- Slots that hold a context. -/
def Core.occupied (c : Core) (k : Nat) : Bool := (c.threads.getD k {}).occ != .free

/-- The slot becomes free: leases end, lane groups retire, the private area and the slot are free, the layer's idle time starts anew,
a request of its overlay handler has no one to answer (R340); resources freed by a pre-emption are reserved for the head that waits for them, if it still does (R26, R34, R35, R43, R292, R400). -/
def State.freeSlot (s : State) (n k : Nat) : State :=
  let t := s.thread n k
  let tw := towerOf n
  let resv := ((s.tower tw).preempts.filter fun p => p.2.1 == n && p.2.2.1 == k && s.waiting tw p.1 p.2.2.2).map fun p =>
    let r : Option TaskInfo := t.task
    ({ slot := none, groups := pop4 (force (s.core n).lpart k), tiles := (r.map TaskInfo.tiles).getD 0
       pbase := (r.map TaskInfo.pbase).getD 0, psize := (r.map TaskInfo.psize).getD 0, queue := some p.1
       head := some p.2.2.2 } : Resv)
  let s1 := (s.modTower tw fun w =>
    { w with leases := w.leases.filter fun l => l.2 != (n, k)
             requests := w.requests.filter fun r => !(r.core == n && r.slot == k)
             preempts := w.preempts.filter fun p => !(p.2.1 == n && p.2.2.1 == k) }).modCore n fun c =>
    { c with lpart := lpRetire c.occupied c.lpart k, resv := c.resv ++ resv }
  (s1.engage (layerOf n)).putThread n k { oclaim := t.oclaim, bindStamp := t.bindStamp }

/-- A task's units, registrations and slot are given up (R43, R62, R276). -/
def State.leave (s : State) (n k : Nat) : State :=
  let ctx := fld (s.thread n k).ctxid 0 7
  (s.modCore n fun c => c.releaseOwned ctx).freeSlot n k

/-- Its registrations withdraw (R43 step 1). -/
def State.withdrawAll (s : State) (n k : Nat) : State :=
  (s.thread n k).regs.foldl (fun st a => st.withdrawBroken n a) (s.modThread n k fun t => { t with regs := [] })

/-- A pre-commit task's stores are undone (R33), a done task's log is discarded (R32). -/
def State.settleLog (s : State) (n k : Nat) (how : Ending) : State :=
  if (s.thread n k).post then s
  else match how with
    | .done => s.commitAt n k
    | _ => s.rollback n k

/-- The join updates of a retiring task (R38). -/
def State.joinOf (s : State) (n k : Nat) (how : Ending) : JoinOp :=
  let t := s.thread n k
  { asn := s.asnOf n k, addr := (t.task.map TaskInfo.join).getD 0
    status := match how with | .faulted => 1 | .killed => 2 | _ => 0
    fail := match how with | .faulted | .killed => some t.taskid | _ => none
    core := coreId n, slot := k, taskid := t.taskid, stage := if (t.task.map TaskInfo.join).getD 0 = 0 then 4 else 0 }

/-- The join updates go on; when they are over, the steps of R43 end. -/
def State.runRetire (s : State) (n k : Nat) (how : Ending) (j : JoinOp) : State :=
  let (s1, j1) := s.joinRun (towerOf n) (.join n k) j 5
  if j1.waiting then s1.modThread n k fun t => { t with wait := .retiring how (some j1) }
  else
    let slot := ((s1.thread n k).task.map TaskInfo.launch).getD 0
    (s1.leave n k).retireCount (towerOf n) slot 1

/-- A slot that a message holds ends: a resume's saved context retires with it (R300). -/
def State.endMessage (s : State) (n k : Nat) (how : Ending) : State :=
  let tw := towerOf n
  let t := s.thread n k
  let s1 := (s.freeSlot n k).modCore n fun c => c.dropResv fun r => r.slot == some k
  match t.resume.bind fun c => (s.tower tw).saved.find? fun sv => sv.ctx == c && sv.sent == some (n, k) with
  | some sv => (s1.retireSaved tw sv (if how = .killed then 2 else 1)).1
  | none => s1

/-- A discarded task's record returns to its queue (R34). -/
def State.returnTask (s : State) (tw : Nat) (i : TaskInfo) : State :=
  s.modTower tw fun t =>
    let q := t.queues.getD i.queue {}
    let q1 : Queue :=
      { q with returned := q.returned ++ [i], since := if q.returned.isEmpty then s.steps else q.since }
    { t with queues := t.queues.setIfInBounds i.queue q1 }

/-- TASK_RETIRE: the retirement steps of a context whose waits are over (R34, R43). While Lahar is frozen, its blocks stand
still (R374; log 23). -/
def execTaskRetire (core slot : Nat) (s : State) : Out :=
  let t := s.thread core slot
  .next (
    if (s.tower (towerOf core)).lfrz then s
    else match t.wait with
    | .retiring how (some j) => if j.waiting then s else s.runRetire core slot how j
    | .retiring how none =>
      if s.leaveWaits core slot then s
      else match t.occ with
        | .free => s
        | .message => s.endMessage core slot how
        | .task =>
          let s1 := (s.settleLog core slot how).withdrawAll core slot
          match how, t.task with
          | .discarded, some i => (s1.leave core slot).returnTask (towerOf core) i
          | _, _ => s1.runRetire core slot how (s1.joinOf core slot how)
    | _ => s)

end Sys2Proof.Machine
end

