-- ==== Sys2Proof/Machine/EngineSteps.lean ====
section
/-!
DEFINITION. The copy engines at work: the range checker (R235), units moved with their transforms (R250 to R253, R261, R262),
broadcast beats (R266), watermarks (R258, R259), checksums (R263 to R265), completion (R256, R257) and fences (R234, R254).
-/
namespace Sys2Proof.Machine

/-! ### Range checker (R235) -/

/-- The pieces of a range with their lengths. -/
def cuts (a : Word) (n : Nat) : List (Word × Nat) :=
  (pieces a n).map fun p => (p, min (65536 - fld p 0 16) (n - (p - a).toNat))

/-- The scratchpad locations of a range as core n's engine reaches them: private scratchpads of the cluster and the cluster
scratchpad. -/
def scratchLocs (n : Nat) (a : Word) (len : Nat) : List (Nat × Nat) :=
  (cuts a len).filterMap fun p =>
    if p.1.toNat < 0x100000000 then
      match localPlace n true p.1.toNat with
      | some l => if l.win = .priv ∨ l.win = .coreWin ∨ l.win = .clus then some (l.addr, p.2) else none
      | none => none
    else none

/-- What a command has still to read and to write of its data: address, bytes, whether it writes. -/
def EngCmd.dataLeft (c : EngCmd) : List (Word × Nat × Bool) :=
  let g := c.unitLen
  let off (k : Nat) : Word := BitVec.ofNat 64 k
  let left := c.units - c.pos
  if c.error.isSome || left == 0 then []
  else
    let per := c.st.rowBytes.toNat / g.1
    let rows (base : Word) (u : Nat) (w : Bool) : List (Word × Nat × Bool) :=
      ((List.range c.index.length).filter fun r => c.pos / per ≤ r).map fun r =>
        let skip := if r = c.pos / per then c.pos % per * u else 0
        (base + off (c.index.getD r 0) * c.st.rowPitch + off skip, per * u - skip, w)
    match c.kind with
    | .qfence => []
    | .cpyt => ((List.range left).map fun i => c.unitAt (c.pos + i)).flatMap fun u => [(u.src, u.n, false), (u.dst, u.m, true)]
    | .gath => (c.dst + off (c.pos * g.2), left * g.2, true) :: rows c.src g.1 false
    | .scat => (c.src + off (c.pos * g.1), left * g.1, false) :: rows c.dst g.2 true
    | .cpy =>
      if c.images then [(c.src + off c.srcPos, 4160 * left, false), (c.dst + off c.outPos, 4160 * left, true)]
      else [(c.src + off (c.pos * g.1), left * g.1, false), (c.dst + off (c.pos * g.2), left * g.2, true)]
        ++ (c.scaleTouch.map fun t => (t.1 + off c.pos, left, t.2.2.1.writes))

/-- What a command has still to read and to write: its data, then its completion word and its barrier (R248, R256). -/
def EngCmd.remaining (c : EngCmd) : List (Word × Nat × Bool) :=
  c.dataLeft ++ ((c.sigTouch.filter fun t => t.2.1 = 16 || !c.noSig).map fun t => (t.1, t.2.1, true))

/-- An access of a command has to wait for an earlier command of the cluster's engine (R235). -/
def State.checkerHolds (s : State) (c : EngCmd) (a : Word) (n : Nat) (writes : Bool) : Bool :=
  let mine := scratchLocs c.core a n
  !mine.isEmpty && ((s.cluster (clusterOf c.core)).queues.toList.flatten.any fun e =>
    decide (e.stamp < c.stamp) && e.remaining.any fun r =>
      (writes || r.2.2) && (scratchLocs e.core r.1 r.2.1).any fun l => mine.any fun m => overlaps l.1 l.2 m.1 m.2)

/-! ### Accesses of the engine (R221, R249, R257) -/

/-- How an access of a command comes out: places of its pieces, a wait, a missing translation, or a failing address. -/
inductive EGot where
  | ok (ps : List (Place × Nat))
  | wait
  | fault (f : FaultRef)
  | bad (a : Word)

/-- A class D range that breaks R250: the command could not move it in aligned units of 8 bytes, each once (R223, log 53). -/
def EngCmd.breaksD (c : EngCmd) (use : Use) : Bool :=
  let odd (w : Word) : Bool := fld w 0 3 != 0
  match c.kind with
  | .qfence => false
  | .cpy => odd c.src || odd c.dst || (!c.images && (c.len % 8 != 0 || c.span % 8 != 0))
  | .gath | .scat => odd c.src || odd c.dst || odd c.st.rowPitch || odd c.st.rowBytes || c.len % 8 != 0
  | .cpyt =>
    if use.writes then odd c.dst || c.span % 8 != 0
    else odd c.src || c.stride 0 != BitVec.ofNat 64 c.esz || c.esz * c.box 0 % 8 != 0
      || (List.range c.dims).any fun i => decide (1 ≤ i) && odd (c.stride i)

/-- The region as the engine of core n's cluster reads it waits while the replica is being copied (R241, R266). -/
def State.replicaWaits (s : State) (n : Nat) : Bool :=
  let l := s.layer (layerOf n)
  l.season == .spring || l.stale

/-- The pieces of an access placed. -/
def State.engPlaces (s : State) (c : EngCmd) (use : Use) : List (Word × Nat) → State × EGot
  | [] => (s, .ok [])
  | (a, n) :: r =>
    match s.place c.core c.asn a.toNat use true (fun _ => true) with
    | (.trap _ _, s1) => (s1, .bad a)
    | (.stall, s1) => (s1, .wait)
    | (.fault f, s1) => (s1, .fault f)
    | (.ok p, s1) =>
      let s2 := if p.win = .glob then s1.touchLayer p.addr else s1
      if p.dcls && c.breaksD use then (s2, .bad a)
      else if (p.win == .glob && s1.powerWaits p.addr) || (use == .load && p.win == .region && s1.replicaWaits c.core)
          || s1.checkerHolds c a n use.writes then (s2, .wait)
      else if use == .load && s2.unreadable p.addr n then (s2, .bad a)
      else match s2.engPlaces c use r with
        | (s3, .ok ps) => (s3, .ok ((p, n) :: ps))
        | e => e

/-- The bytes at the places of a range at address a: those fetched from class D pages as they were read (R223), those that an
overlapping copy has overwritten as they were (R250). -/
def State.engBytes (s : State) (c : EngCmd) (a : Word) : List (Place × Nat) → List Byte
  | [] => []
  | (p, n) :: r =>
    ((s.bytesKey p.key p.addr n).mapIdx fun i b =>
      ((look c.seen (a + BitVec.ofNat 64 i).toNat).orElse fun _ => look c.held (p.addr + i)).getD b)
      ++ s.engBytes c (a + BitVec.ofNat 64 n) r

/-- Bytes that a CPY may read from its source: its length, or the greatest size of its images (R250, R262). -/
def EngCmd.srcSpan (c : EngCmd) : Nat := if c.images then 4160 * c.units else c.len

/-- A write of n bytes at a place makes whole a unit under ECC whose other bytes the same command has written before, in rising order
from `before` bytes below: the unit is no longer poisoned (R402). -/
def State.coverPoison (s : State) (c : EngCmd) (before : Word) (p : Place) (n : Nat) : State :=
  if s.poison.isEmpty || c.kind == .scat || c.nofill || xfKind c.st.xf == 2 || p.ro then s
  else
    let u := poisonUnit p.addr
    { s with poison := s.poison.filter fun b =>
        !(p.addr ≤ b + before.toNat && decide (p.addr < b + u ∧ b + u ≤ p.addr + n)) }

/-- Bytes written at placed pieces: what stood there is kept where a copy's source has it (R250); bytes for the region are gathered, and
those of GATH, SCAT and CPYT for class D pages (R223); others are performed. -/
def State.engWrite (s : State) (c : EngCmd) (a : Word) : List (Place × Nat) → List Byte → State × EngCmd
  | [], _ => (s, c)
  | (p, n) :: r, bs =>
    let here := bs.take n
    let at_ (i : Nat) : Nat := (a + BitVec.ofNat 64 i).toNat
    let c1 := if c.kind = .cpy ∧ s.rangeHas c.core c.asn c.src.toNat c.srcSpan p.addr n then
        { c with held := (List.range n).foldl (fun h i =>
            if (look h (p.addr + i)).isSome then h else put h (p.addr + i) (s.byteKey p.key (p.addr + i))) c.held }
      else c
    let (s1, c2) :=
      if p.win = .region then (s, { c1 with out := c1.out ++ here.mapIdx fun i b => (at_ i, b) })
      else if p.dcls && c.kind != .cpy then
        (s, { c1 with late := ((List.range n).zip here).foldl (fun m b => put m (at_ b.1) b.2) c1.late })
      else ((s.writeTo p here).coverPoison c (a - c.dst) p n, c1)
    s1.engWrite c2 (a + BitVec.ofNat 64 n) r (bs.drop n)

/-! ### One unit -/

/-- Elements of w bits of a run of bytes. -/
def splitBits (w cnt : Nat) (bs : List Byte) : List Nat :=
  let v := leNat bs
  (List.range cnt).map fun i => v / 2 ^ (w * i) % 2 ^ w
def joinBits (w : Nat) (vs : List Nat) : Nat := vs.foldr (fun v acc => v % 2 ^ w + 2 ^ w * acc) 0

/-- The largest magnitude of a block of FP32 or BF16 elements (R261). -/
def blockAmax (f : Nat) (vs : List Nat) : FVal :=
  FP32.decode (amaxOf (vs.map fun v => if f = 8 then v * 65536 else v))

/-- A unit converted: bytes written, flags, and the scale code it writes (R261). Half a byte that no element of the command fills keeps
its old value, as in a store of E2M1 (R161; log 53). -/
def EngCmd.transform (c : EngCmd) (bs : List Byte) (code old : Nat) : List Byte × Flags × Option Nat :=
  let d := c.st.xf
  if xfKind d ≠ 1 then (bs, 0, none)
  else
    let sf := xfSrc d
    let df := xfDst d
    let cnt := if c.kind = .cpyt then 1 else min (unitElems d c.eight) (8 * bs.length / memBits sf)
    let es := splitBits (memBits sf) cnt bs
    let (rs, out) : List (Nat × Flags) × Option Nat :=
      if !xfScaled d then (es.map fun e => convertElem sf df .rne e, none)
      else if scaledFmt sf then (es.map fun e => widenScaled sf code df .rne e, none)
      else
        let k := (scaleCode df (blockAmax sf es)).1
        (es.map fun e => quantise df k .rne (elemVal sf e), some k)
    let bits := cnt * memBits df
    let kept := if bits % 8 = 0 then 0 else old / 2 ^ (bits % 8) * 2 ^ bits
    (leBytes ((bits + 7) / 8) (joinBits (memBits df) (rs.map Prod.fst) + kept), rs.foldl (fun a r => a ||| r.2) 0, out)

/-- Bytes of a unit's payload with the injected bit inverted (R322), counted, and kept while a checksum runs (R263). -/
def EngCmd.pay (c : EngCmd) (bs : List Byte) : EngCmd × List Byte :=
  let bs1 := match c.flip with
    | some (o, b) => bs.mapIdx fun i v => if c.paid + i = o then v ^^^ ((1 : Byte) <<< b) else v
    | none => bs
  ({ c with paid := c.paid + bs.length, payload := if c.st.chk = .none then [] else c.payload ++ bs1 }, bs1)

/-- SAT and NV of converts are recorded in the queue (R261, R267). -/
def State.queueFlags (s : State) (cl q : Nat) (fl : Flags) : State :=
  s.modCluster cl fun c =>
    { c with qsat := if fl &&& fSAT ≠ 0 then putBit c.qsat q true else c.qsat
             qnv := if fl &&& fNV ≠ 0 then putBit c.qnv q true else c.qnv }

/-- The record of an engine's page fault (R387). -/
def EngCmd.record (c : EngCmd) (q : Nat) (f : FaultRef) : FaultRec :=
  { w0 := BitVec.ofNat 64 (f.va % 2 ^ 52 + (if f.write then 2 ^ 52 else 0) + 2 ^ 56 + (if c.lvs then 2 ^ 57 else 0))
    w1 := BitVec.ofNat 64 (coreId (c.core / 8 * 8) + q * 2 ^ 12 + c.asn * 2 ^ 16 + f.kind * 2 ^ 24 + f.level * 2 ^ 27)
    w2 := f.entry, w3 := c.taskid, who := .engine (clusterOf c.core) q c.stamp, seq := 0 }

/-- An access that did not come to places: the command waits, pauses with a fault record, or ends with code 2 (R257). -/
def State.engStop (s : State) (c : EngCmd) (q : Nat) (e : EGot) : State × EngCmd × Bool :=
  match e with
  | .fault f =>
    (s.modTower (towerOf c.core) fun t => { t with heldFaults := t.heldFaults ++ [c.record q f] }, { c with paused := true }, false)
  | .bad a => (s, { c with error := some (errAccess a) }, false)
  | _ => (s, c, false)

/-- The words of a source in rising order, each once. -/
def EngCmd.sourceWords (c : EngCmd) : List Nat :=
  ((List.range c.units).foldl (fun m i =>
    let u := c.unitAt i
    (unitsOf u.src.toNat u.n 8).foldl (fun m w => put m w ()) m) ([] : List (Nat × Unit))).map Prod.fst

/-- A command at an access beside its data: of its completion word or its scale array. -/
def EngCmd.beside (c : EngCmd) : EngCmd := { c with kind := .qfence }

/-- The next word of a source that lies on class D pages: read where its page is of class D (R223). -/
def State.fetchWord (s : State) (c : EngCmd) (q : Nat) : State × EngCmd × Bool :=
  match c.sourceWords[c.fetched]? with
  | none => (s, c, false)
  | some w =>
    match s.engPlaces c .load [(BitVec.ofNat 64 w, 8)] with
    | (s1, .ok ps) =>
      let seen := ps.flatMap fun p => if p.1.dcls then (s1.bytesKey p.1.key p.1.addr 8).mapIdx fun i b => (w + i, b) else []
      (s1, { c with fetched := c.fetched + 1, seen := c.seen ++ seen }, true)
    | (s1, e) => s1.engStop c q e

/-- The next 8 bytes that wait for a class D page, in rising order (R223). Where they are no aligned unit the command ends with code 2. -/
def State.flushWord (s : State) (c : EngCmd) (q : Nat) : State × EngCmd × Bool :=
  let w := (c.late.headD (0, 0)).1
  let base := if c.kind = .cpy then c.st.scaleAddr else c.dst
  let here := c.late.takeWhile fun b => b.1 < w + 8
  if w % 8 ≠ 0 ∨ here.length ≠ 8 then (s, { c with error := some (errAccess (BitVec.ofNat 64 w)) }, false)
  else match s.engPlaces (if c.kind = .cpy then c.beside else c) .store [(BitVec.ofNat 64 w, 8)] with
    | (s1, .ok ps) =>
      (ps.foldl (fun st p => (st.writeTo p.1 (here.map Prod.snd)).coverPoison c (BitVec.ofNat 64 w - base) p.1 8) s1,
        { c with late := c.late.drop 8 }, true)
    | (s1, e) => s1.engStop c q e

/-- The aligned word of a scale array on a class D page, read once for its eight codes (R223). -/
def State.fetchCodes (s : State) (c : EngCmd) (q : Nat) (w : Word) : State × EngCmd × Bool :=
  match s.engPlaces c.beside .load [(w, 8)] with
  | (s1, .ok ps) =>
    (s1, { c with seen := c.seen ++ ps.flatMap fun p => (s1.bytesKey p.1.key p.1.addr 8).mapIdx fun i b => (w.toNat + i, b) }, true)
  | (s1, e) => s1.engStop c q e

/-- Unit `pos` of a command that moves no images: false when it did not happen. A source on class D pages, but a CPY's, which comes in
rising order, is read before the first unit that needs it (R223). -/
def State.moveUnit (s : State) (c : EngCmd) (q : Nat) : State × EngCmd × Bool :=
  let u := c.unitAt c.pos
  match s.engPlaces c .load (cuts u.src u.n) with
  | (s1, .ok rs) =>
    if c.kind ≠ .cpy ∧ c.fetched < c.sourceWords.length ∧ rs.any (fun p => p.1.dcls) then s1.fetchWord c q
    else
    (match s1.engPlaces c .store (cuts u.dst u.m) with
     | (s2, .ok ws) =>
       let a := u.code.getD 0
       let writes := (c.scaleTouch.map fun t => t.2.2.1).contains .store
       let scale := match u.code with
         | some a => s2.engPlaces c.beside (if writes then .store else .load) [(a, 1)]
         | none => (s2, .ok [])
       (match scale with
        | (s3, .ok ks) =>
          let dcls := ks.any fun k => k.1.dcls
          if dcls && (fld c.st.scaleAddr 0 3 != 0 || c.units % 8 != 0) then (s3, { c with error := some (errAccess a) }, false)
          else if dcls && !writes && (look c.seen a.toNat).isNone then s3.fetchCodes c q (a - BitVec.ofNat 64 (fld a 0 3))
          else
          let code := (((if dcls then look c.seen a.toNat else none).orElse fun _ =>
            ks.head?.map fun k => s3.byteKey k.1.key k.1.addr).map BitVec.toNat).getD 0
          let old := (ws.head?.map fun w => (s3.byteKey w.1.key w.1.addr).toNat).getD 0
          let (bs, fl, wrote) := if u.clip then (leBytes u.m c.st.fill.toNat, 0, none)
            else c.transform (s3.engBytes c u.src rs) code old
          let (c1, bs1) := if u.clip then (c, bs) else c.pay bs
          let (s4, c2) := s3.engWrite { c1 with pos := c.pos + 1, srcRead := c.srcRead + u.n } u.dst ws bs1
          let (s5, c3) := match wrote, ks.head? with
            | some k, some p =>
              if p.1.dcls then (s4, { c2 with late := put c2.late a.toNat (BitVec.ofNat 8 k) })
              else ((s4.writeTo p.1 [BitVec.ofNat 8 k]).coverPoison c (a - c.st.scaleAddr) p.1 1, c2)
            | _, _ => (s4, c2)
          (s5.queueFlags (clusterOf c.core) q fl, c3, true)
        | (s3, e) => s3.engStop c q e)
     | (s2, e) => s2.engStop c q e)
  | (s1, e) => s1.engStop c q e

/-- The rows of an image that its mask names, spread to 32 rows or gathered from them. -/
def imageRows (w1 : Word) (row : Nat) (expand : Bool) (body : List Byte) : List Byte :=
  let kept := (List.range 32).filter fun i => bit w1 i
  if expand then
    (List.range 32).flatMap fun i =>
      match kept.findIdx? fun k => k == i with
      | some j => (body.drop (j * row)).take row
      | none => List.replicate row 0
  else kept.flatMap fun i => (body.drop (i * row)).take row

/-- One image elided or expanded (R262): header first, then the image as a whole. -/
def State.moveImage (s : State) (c : EngCmd) (q : Nat) : State × EngCmd × Bool :=
  let expand := xfKind c.st.xf = 3
  let src := c.src + BitVec.ofNat 64 c.srcPos
  let dst := c.dst + BitVec.ofNat 64 c.outPos
  match s.engPlaces c .load (cuts src 16) with
  | (s1, .ok hs) =>
    let head := leNat (s1.engBytes c src hs)
    let w0 : Word := BitVec.ofNat 64 head
    let w1 : Word := BitVec.ofNat 64 (head / 2 ^ 64)
    if imageBad w0 w1 expand then (s1, { c with error := some (errAccess src) }, false)
    else
      let n := imageBytes w0 w1 expand
      let m := imageBytes w0 w1 (!expand)
      (match s1.engPlaces c .load (cuts src n) with
       | (s2, .ok rs) =>
         (match s2.engPlaces c .store (cuts dst m) with
          | (s3, .ok ws) =>
            let bs := s3.engBytes c src rs
            let row := 32 * memSize (fld w0 4 4)
            let w0' := if bit w0 0 then putBit w0 8 (!expand) else w0
            let new := leBytes 8 w0'.toNat ++ (bs.drop 8).take 56
              ++ (if bit w0 0 then imageRows w1 row expand (bs.drop 64) else bs.drop 64)
            let (c1, bs1) := c.pay new
            let (s4, c2) := s3.engWrite { c1 with
              pos := c.pos + 1, srcRead := c.srcRead + n
              srcPos := if expand then toBoundary c.src (c.srcPos + n) else c.srcPos + n
              outPos := if expand then c.outPos + m else toBoundary c.dst (c.outPos + m) } dst ws bs1
            (s4, c2, true)
          | (s3, e) => s3.engStop c q e)
       | (s2, e) => s2.engStop c q e)
  | (s1, e) => s1.engStop c q e

/-- Up to n units, in payload order, then what waits for class D pages, until one does not happen. -/
def State.moveUnits (s : State) (c : EngCmd) (q : Nat) : Nat → State × EngCmd
  | 0 => (s, c)
  | n + 1 =>
    if c.units ≤ c.pos ∧ c.late.isEmpty then (s, c)
    else match (if c.units ≤ c.pos then s.flushWord c q else if c.images then s.moveImage c q else s.moveUnit c q) with
      | (s1, c1, true) => s1.moveUnits c1 q n
      | (s1, c1, false) => (s1, c1)

/-! ### Broadcast beats (R266) -/

/-- The beats of gathered region bytes, ascending: a later byte at one address replaces an earlier one (R253). -/
def EngCmd.beatsOf (c : EngCmd) (q : Nat) : List GWrite :=
  let blocks := c.out.foldl (fun m b => put m (b.1 / 128) ()) ([] : List (Nat × Unit))
  blocks.map fun b =>
    let mine := c.out.filter fun o => o.1 / 128 = b.1
    let m := mine.foldl (fun acc o => (acc.1 ||| (1 : BitVec 128) <<< (o.1 % 128), putFld acc.2 (8 * (o.1 % 128)) 8 o.2.toNat))
      ((0 : BitVec 128), (0 : BitVec 1024))
    { core := c.core, slot := c.slot, engine := some q, off := b.1 * 128 - 0x30000000, op := .write m.1 m.2, size := 128 }

/-- The beats of command i of a queue go out once all its bytes are gathered and those of earlier commands are out. -/
def State.emitBeats (s : State) (es : List EngCmd) (i : Nat) (c : EngCmd) (q : Nat) : State × EngCmd :=
  if c.pos < c.units || c.error.isSome || c.emitted || c.out.isEmpty
      || !((es.take i).all fun e => e.emitted || e.error.isSome || e.kind == .qfence || (e.units ≤ e.pos && e.out.isEmpty)) then
    (s, c)
  else
    let bs := c.beatsOf q
    (s.modTower (towerOf c.core) fun t => { t with gpend := t.gpend ++ bs },
      { c with emitted := true, beats := bs.length, outPos := (c.out.headD (0, 0)).1 - c.dst.toNat, out := [] })

/-! ### Watermarks (R258, R259) -/

/-- The address just past the contiguous performed prefix of a bound command. What waits of a CPY are scale codes. -/
def EngCmd.prefixEnd (c : EngCmd) : Word :=
  match c.out ++ (if c.kind = .cpy then [] else c.late) with
  | o :: _ => BitVec.ofNat 64 o.1
  | [] =>
    if c.beats ≠ 0 then c.dst + BitVec.ofNat 64 c.outPos
    else c.dst + BitVec.ofNat 64 (c.pos * (if c.kind = .cpyt then c.len else c.unitLen.2))

/-- WMq follows the oldest incomplete bound command of a thread. -/
def State.refreshWm (s : State) (n k q : Nat) : State :=
  match (s.queueOf (clusterOf n) q).find? fun e => e.wm && e.core == n && e.slot == k with
  | some e => s.modThread n k fun t => { t with wm := t.wm.setIfInBounds q e.prefixEnd }
  | none => s

/-! ### Chains that fail (R259, R265) -/

/-- A thread's chain on a queue changed. -/
def Thread.modChain (t : Thread) (q : Nat) (f : Chain → Chain) : Thread :=
  { t with chains := t.chains.setIfInBounds q (f (t.chains.getD q {})) }

/-- The members that follow a member of a chain, up to the one that closes it: positions in a queue's later entries. -/
def chainRest (c : EngCmd) : List EngCmd → List Nat
  | es =>
    let mine := (es.mapIdx fun i e => (i, e)).filter fun p =>
      p.2.kind != .qfence && p.2.core == c.core && p.2.slot == c.slot && p.2.st.chk != .none
    let run := mine.takeWhile fun p => p.2.st.cont
    let upTo := (run.takeWhile fun p => !p.2.st.verify).length
    (run.take (upTo + 1)).map Prod.fst

/-- The chain of a failed member: its later members end with code 3 and are no longer bound; an open chain closes. -/
def State.failChain (s : State) (q i : Nat) (c : EngCmd) : State :=
  let cl := clusterOf c.core
  let es := s.queueOf cl q
  if c.st.chk = .none || c.st.verify then s
  else
    let rest := (chainRest c (es.drop (i + 1))).map (i + 1 + ·)
    let closed := rest.any fun j => ((es[j]?).map fun e => e.st.verify).getD false
    let s1 := s.setQueue cl q (es.mapIdx fun j e => if rest.contains j then { e with error := some errChain, paused := false } else e)
    if closed then s1
    else s1.modThread c.core c.slot fun t =>
      t.modChain q fun h => { h with open_ := none }

/-- The hull of bound ranges joined with a command's destination when it is bound. -/
def hullWith (h : Option (Word × Nat × Nat)) (c : EngCmd) : Option (Word × Nat × Nat) :=
  if !c.wm then h
  else
    let lo := c.dst.toNat
    let hi := c.dst.toNat + c.span
    match h with
    | none => some (c.dst, lo, hi)
    | some (f, a, b) => some (f, min a lo, max b hi)

/-- The rewind of a failed chain, or of a bound command outside any chain, when the failing command completes; `es` are the
entries that remain (R259). -/
def State.rewind (s : State) (q : Nat) (c : EngCmd) (es : List EngCmd) : State :=
  let rest := if c.st.chk = .none || c.st.verify then [] else chainRest c es
  let before := if c.st.chk ≠ .none ∧ c.st.cont then ((s.thread c.core c.slot).chains.getD q {}).bound else none
  let hull := rest.foldl (fun h j => match es[j]? with | some e => hullWith h e | none => h) (hullWith before c)
  let es1 := es.mapIdx fun j e => if rest.contains j then { e with wm := false } else e
  let s1 := s.setQueue (clusterOf c.core) q es1
  match hull with
  | none => s1
  | some (f, lo, hi) =>
    if es1.any fun e => e.wm && e.core == c.core && e.slot == c.slot then s1.refreshWm c.core c.slot q
    else s1.modThread c.core c.slot fun t =>
      { t with wm := t.wm.setIfInBounds q f, rewound := t.rewound.setIfInBounds q (some { lo := lo, hi := hi }) }

/-! ### Transfer -/

/-- A cluster's engine runs while its layer does (R296). -/
def State.engineRuns (s : State) (cl : Nat) : Bool :=
  match (s.layer (cl / 20)).season with
  | .inReset | .winter => false
  | _ => true

/-- ENGINE_TRANSFER: up to `count` units of entry `index` of a queue are performed; its beats go out when all are gathered.
Nothing moves behind a fence (R234). -/
def execEngineTransfer (cluster queue index count : Nat) (s : State) : Out :=
  let es := s.queueOf cluster queue
  .next (match es[index]? with
    | none => s
    | some c =>
      if !s.engineRuns cluster || c.kind = .qfence || c.paused || c.error.isSome
          || (es.take index).any fun e => e.kind == .qfence then s
      else
        let (s1, c1) := s.moveUnits c queue count
        let (s2, c2) := s1.emitBeats es index c1 queue
        let s3 := s2.setQueue cluster queue (es.set index c2)
        let s4 := if c2.error.isSome then s3.failChain queue index c2 else s3
        s4.refreshWm c.core c.slot queue)

/-! ### Checksums (R263, R264) -/

/-- One byte of a CRC-32C, least-significant bit first. -/
def crcByte (r : Half) (b : Byte) : Half :=
  (List.range 8).foldl (fun (r : Half) _ => if bit r 0 then (r >>> 1) ^^^ 0x82F63B78#32 else r >>> 1) (r ^^^ b.setWidth 32)
/-- The CRC-32C of bytes from a seed. -/
def crc32c (seed : Half) (bs : List Byte) : Half := ~~~(bs.foldl crcByte (~~~seed))

/-- The sum of the whole words of bytes from a seed, and the bytes of a partial word. -/
def add32 : Nat → Half → List Byte → Half × List Byte
  | 0, r, bs => (r, bs)
  | n + 1, r, bs => if bs.length < 4 then (r, bs) else add32 n (r + BitVec.ofNat 32 (leNat (bs.take 4))) (bs.drop 4)

/-- The chain after a member's payload; its own seed unless it joins. -/
def Chain.settle (h : Chain) (c : EngCmd) : Chain :=
  let r0 := if c.st.cont then h.running else c.st.seed
  let p0 := if c.st.cont then h.pending else []
  match c.st.chk with
  | .none => h
  | .crc => { h with kind := .crc, running := crc32c r0 c.payload, pending := [] }
  | .add32 =>
    let bs := p0 ++ c.payload
    let (r, p) := add32 (bs.length / 4 + 1) r0 bs
    { h with kind := .add32, running := r, pending := p }
/-- The value that a verifying member compares: a final partial word is completed by zero bytes. -/
def Chain.final (h : Chain) : Half := h.running + BitVec.ofNat 32 (leNat h.pending)

/-! ### Completion (R256, R257, R265) -/

/-- A command may complete: its payload is performed and its beats have passed, or it has failed. -/
def EngCmd.finished (c : EngCmd) : Bool :=
  decide (c.kind ≠ .qfence) && !c.paused && c.beats == 0
    && (c.error.isSome || (decide (c.units ≤ c.pos) && c.late.isEmpty && (c.emitted || c.out.isEmpty)))

/-- The head entry leaves its queue: SRCB, chain, watermark. -/
def State.leaveQueue (s : State) (q : Nat) (c : EngCmd) (h : Chain) (es : List EngCmd) : State :=
  let cl := clusterOf c.core
  let s1 := (s.setQueue cl q es).modCluster cl fun k => { k with srcb := k.srcb.setIfInBounds q (BitVec.ofNat 32 c.srcRead) }
  let failed := c.error.isSome && c.error != some errChain
  if c.error = some errChain then
    if c.wm then s1.refreshWm c.core c.slot q else s1
  else if failed then
    let s2 := s1.rewind q c es
    if c.st.chk = .none then s2 else s2.modThread c.core c.slot fun t => t.modChain q fun g => { g with bound := none }
  else
    let b := if c.st.chk = .none then h.bound else hullWith (if c.st.cont then h.bound else none) c
    let s2 := s1.modThread c.core c.slot fun t =>
      { t.modChain q fun g =>
          { g with kind := h.kind, running := h.running, pending := h.pending, bound := if c.st.verify then none else b } with
        wm := if c.wm then t.wm.setIfInBounds q (c.dst + BitVec.ofNat 64 c.span) else t.wm }
    if c.wm then s2.refreshWm c.core c.slot q else s2

/-- The barrier at which a command is to arrive cannot be read (R402). -/
def State.barrierLost (s : State) (c : EngCmd) : Bool :=
  (localPlace c.core true c.st.sigBar.toNat).any fun p => barrierWindows p.win && s.poisoned p.addr 8

/-- The arrival and the departure of a command whose completion word has been written in the second state; a replay that
holds the arrival leaves the first (R408). At a poisoned barrier there is no arrival, and the command ends with code 2 (R402). -/
def State.arriveAndLeave (s s1 : State) (q : Nat) (c : EngCmd) (h : Chain) (es : List EngCmd) : State :=
  if c.st.sigBar = 0 then s1.leaveQueue q c h es
  else if s1.barrierLost c then
    let s2 := if c.error.isNone then s1.failChain q 0 c else s1
    s2.leaveQueue q { c with error := some (c.error.getD (errAccess c.st.sigBar)) } h ((s2.queueOf (clusterOf c.core) q).drop 1)
  else match s1.engineArrive c.core c.st.sigBar c.error.isSome c.launch with
    | (s2, true) => s2.leaveQueue q c h es
    | (_, false) => (s.engineArrive c.core c.st.sigBar c.error.isSome c.launch).1

/-- The completion word, the arrival and the departure of the head entry, once its checksum is settled. A completion word
that cannot be written is passed over; the command ends with code 2, which fails its chain (R265), and its arrival is with error. -/
def State.signal (s : State) (q : Nat) (c : EngCmd) (h : Chain) (es : List EngCmd) : State :=
  if c.st.sigAddr = 0 || c.noSig then s.arriveAndLeave s q c h es
  else match s.engPlaces c.beside .store [(c.st.sigAddr, 8)] with
    | (s1, .ok (p :: _)) =>
      s1.arriveAndLeave (s1.writeTo p.1 (leBytes 8 (c.error.getD c.st.sigVal).toNat)) q c h es
    | (s1, .fault f) =>
      let (s2, c1, _) := s1.engStop c q (.fault f)
      s2.setQueue (clusterOf c.core) q (c1 :: es)
    | (s1, .bad a) =>
      let s2 := if c.error.isNone then s1.failChain q 0 c else s1
      s1.arriveAndLeave s2 q { c with error := some (c.error.getD (errAccess a)) } h ((s2.queueOf (clusterOf c.core) q).drop 1)
    | (s1, _) => s1

/-- ENGINE_COMPLETE: the head command of a queue settles its checksum, writes its completion word, arrives at its barrier and
frees its entry, in that order. It waits for earlier commands that have still to touch the bytes of its barrier (R235). -/
def execEngineComplete (cluster queue : Nat) (s : State) : Out :=
  .next (match s.queueOf cluster queue with
    | [] => s
    | c :: es =>
      if !s.engineRuns cluster || !c.finished || (c.st.sigBar != 0 && s.checkerHolds c c.st.sigBar 16 true) then s
      else
        let h := ((s.thread c.core c.slot).chains.getD queue {})
        let h1 := if c.error.isSome then h else h.settle c
        let c1 := if c.error.isNone && c.st.chk != .none && c.st.verify && h1.final != c.st.expected then
            { c with error := some (errMismatch h1.final) } else c
        s.signal queue c1 h1 es)

/-- QFENCE_COMPLETE: the first fence of a queue whose named queues hold no entry accepted earlier leaves its queue. -/
def execQfenceComplete (cluster queue : Nat) (s : State) : Out :=
  let es := s.queueOf cluster queue
  let ready (e : EngCmd) : Bool := e.kind == .qfence && (List.range 8).all fun j =>
    !bit e.mask j || (s.queueOf cluster j).all fun x => decide (e.stamp ≤ x.stamp)
  .next (match es.findIdx? ready with
    | some i => s.setQueue cluster queue (es.eraseIdx i)
    | none => s)

/-- The answer to an engine's fault record: the command goes on, or ends with code 2; a completion word that cannot be
written is passed over (R257, R388). -/
def State.engineAnswer (s : State) (cl q stamp : Nat) (va : Word) (failed : Bool) : State :=
  let es := s.queueOf cl q
  match es.findIdx? fun e => e.stamp == stamp && e.paused with
  | none => s
  | some i =>
    match es[i]? with
    | none => s
    | some c =>
      if !failed then s.setQueue cl q (es.set i { c with paused := false })
      else if { c with paused := false }.finished then
        let s1 := s.setQueue cl q (es.set i { c with paused := false, noSig := true, error := some (c.error.getD (errAccess va)) })
        if c.error.isNone then s1.failChain q i c else s1
      else
        let c1 := { c with paused := false, error := some (errAccess va) }
        ((s.setQueue cl q (es.set i c1)).failChain q i c1).refreshWm c.core c.slot q

end Sys2Proof.Machine
end

