-- ==== Sys2Proof/Machine/GeyserSteps.lean ====
section
/-!
DEFINITION. A Geyser slot passes: which write goes out, its application to every current replica and to the base mirror, and
what its issuer learns of it (R238, R239, R266, R291, R292, R294).
-/
namespace Sys2Proof.Machine

/-- A write may go out: of the beats of one engine queue only the first (R266). -/
def Tower.eligible (t : Tower) (g : GWrite) : Bool :=
  match g.engine with
  | none => true
  | some q =>
    (t.gpend.find? fun e => e.engine == some q && clusterOf e.core == clusterOf g.core) == some g

/-- Caldera's own write in one of slots 0 to 7: what it sends there, if anything, is free (R238, R291, log 78). -/
def State.calderaWrite (s : State) (tw : Nat) : Option GWrite :=
  let t := s.tower tw
  if 8 ≤ t.gslot then none
  else (Config.calderaBeat tw t.frame t.gslot).map fun b =>
    { core := tw * 1280, slot := 0, engine := none, off := b.1 % (regionSize / 128) * 128, op := .write b.2.1 b.2.2, size := 128 }

/-- The write that a slot of a frame carries: its holder's oldest one, or the oldest unleased one of the layer whose turn the
commons slot is; none in Caldera's slots (R291, R292). -/
def State.dueWrite (s : State) (tw : Nat) : Option GWrite :=
  let t := s.tower tw
  if t.gslot < 8 then none
  else match t.leases.find? fun l => l.1 == t.gslot with
  | some (_, core, slot) => t.gpend.find? fun g => g.core == core && g.slot == slot && t.eligible g
  | none =>
    if t.gslot < 240 then none
    else t.gpend.find? fun g =>
      layerOf g.core == tw * 8 + (t.frame + t.gslot) % 8 && (s.thread g.core g.slot).glease == 0 && t.eligible g

/-- The new value of a GAMO's word (R294). -/
def GOp.value (op : GOp) (old : Word) : Word :=
  match op with
  | .write _ _ => old
  | .add v => old + v
  | .max v => if old.slt v then v else old
  | .swap v => v
  | .cas e v => if old = e then v else old

/-- A write applied to one copy of the region. -/
def State.applyCopy (s : State) (base : Nat) (g : GWrite) : State :=
  match g.op with
  | .write m d =>
    (List.range 128).foldl (fun st i =>
      if bit m i then st.write (.random 0) (base + g.off + i) [BitVec.ofNat 8 (fld d (8 * i) 8)] else st) s
  | op => s.write (.random 0) (base + g.off) (leBytes 8 (op.value (s.dword (base + g.off))).toNat)

/-- A layer's replica is current: it applies writes as their slots pass (R238, R241, R296). -/
def State.replicaCurrent (s : State) (gl : Nat) : Bool :=
  let l := s.layer gl
  !l.stale && (l.season == .summer || l.season == .autumn)

/-- A write applied to the base mirror and to the tower's current replicas. -/
def State.applyWrite (s : State) (tw : Nat) (g : GWrite) : State :=
  ((List.range 8).filter fun l => s.replicaCurrent (tw * 8 + l)).foldl
    (fun st l => st.applyCopy (layerAperture (tw * 8 + l) + regionOff) g) (s.applyCopy (mirrorBase tw) g)

/-- The old value of a GAMO as its issuer's replica holds it; the base mirror's, which agrees, while that replica is not
current. -/
def State.gamoOld (s : State) (tw : Nat) (g : GWrite) : Word :=
  let gl := layerOf g.core
  s.dword ((if s.replicaCurrent gl then layerAperture gl + regionOff else mirrorBase tw) + g.off)

/-- The beat of a write as the capture buffer takes it: 128 bytes from its aligned block. -/
def GWrite.beat (g : GWrite) : List Byte :=
  match g.op with
  | .write m d =>
    let o := g.off % 128
    (List.range 128).map fun i => if o ≤ i ∧ bit m (i - o) then BitVec.ofNat 8 (fld d (8 * (i - o)) 8) else 0
  | .add v | .max v | .swap v | .cas _ v =>
    (List.range 128).map fun i => if g.off % 128 ≤ i ∧ i < g.off % 128 + 8 then BitVec.ofNat 8 (fld v (8 * (i - g.off % 128)) 8) else 0

/-- The issuing command learns that its beat has passed (R266, R258). -/
def State.beatPassed (s : State) (g : GWrite) (q : Nat) : State :=
  let cl := clusterOf g.core
  let es := s.queueOf cl q
  match es.findIdx? fun e => e.beats != 0 with
  | none => s
  | some i =>
    (s.setQueue cl q (es.mapIdx fun j e =>
      if j = i then { e with beats := e.beats - 1, outPos := min e.span (0x30000000 + g.off + 128 - e.dst.toNat) } else e)).refreshWm
      g.core g.slot q

/-- The issuing thread learns the old value of its GAMO; while its replica is being copied it goes on waiting (R239, R241). -/
def State.gamoPassed (s : State) (g : GWrite) (old : Word) : State :=
  match (s.thread g.core g.slot).wait with
  | .gamo rd none =>
    if s.replicaCurrent (layerOf g.core) then s.within g.core g.slot fun s => s.result rd old
    else s.modThread g.core g.slot fun t => { t with wait := .gamo rd (some old) }
  | _ => s

/-- GAMOs of a layer whose slots have passed end when its replica is current again. -/
def State.releaseGamos (s : State) (gl : Nat) : State :=
  (s.cores.filter fun p => layerOf p.1 == gl).foldl (fun st p =>
    (List.range 4).foldl (fun st k =>
      match (st.thread p.1 k).wait with
      | .gamo rd (some old) => st.within p.1 k fun s => s.result rd old
      | _ => st) st) s

/-- GEYSER_SLOT: the slot on the channel passes, carrying Caldera's write or the one that is due, and the next one follows. -/
def execGeyserSlot (tower : Nat) (s : State) : Out :=
  let t := s.tower tower
  let next (st : State) : State := st.modTower tower fun t =>
    if t.gslot = 255 then { t with gslot := 0, frame := t.frame + 1 } else { t with gslot := t.gslot + 1 }
  .next (
    if 2 ≤ tower then s
    else match s.calderaWrite tower, s.dueWrite tower with
      | some g, _ => next (s.applyWrite tower g)
      | none, none => next s
      | none, some g =>
        let ev : Event := { kind := 5, core := coreId g.core, cls := 4, place := 0, v0 := BitVec.ofNat 64 t.frame
                            v1 := BitVec.ofNat 64 t.gslot, beat := g.beat }
        let (s1, ok) := match (s.thread g.core g.slot).task with
          | some i => s.event tower i.launch ev
          | none => (s, true)
        if !ok then next s1
        else
          let old := s1.gamoOld tower g
          let s2 := (s1.applyWrite tower g).modTower tower fun t => { t with gpend := t.gpend.erase g }
          let s3 := match g.engine with
            | some q => s2.beatPassed g q
            | none => if g.rd.isSome then s2.gamoPassed g old else s2
          next s3)

end Sys2Proof.Machine
end

