-- ==== Sys2Proof/Machine/Task.lean ====
section
/-!
DEFINITION. The task forms of major 0x28 but the checkpoints: SPAWN, TCOMMIT, KILL, WQRY, DONE, YIELD, JOINW (R281 to R285), with
the steps that end their waits.
-/
namespace Sys2Proof.Machine

/-- The windows of a SPAWN record and of a WQRY answer word (R282, R285). -/
def ownWindows : Window → Bool
  | .priv | .clus => true
  | _ => false

/-- R282: copies a launch record to Lahar, with its count replaced; a queue that is full, or a frozen Lahar, stalls it. -/
def execSpawn (rs1 rs2 : BitVec 5) (s : State) : Out :=
  let ea := s.x rs1
  let count := s.x rs2
  .next (s.guard (xs [rs1, rs2])
    (if s.noTask || 0x100000000 ≤ count.toNat then s.operandTrap
     else
       match loadDwords 0 ownWindows (dwordsAt ea 16) s with
       | (s1, .inr (a, g)) => g.stop a false 0 s1
       | (s1, .inl rec) =>
         let s2 := s1.implicitCommit
         let q := 8 * fld (recWord rec 2) 40 3 + 7
         let ring := (s2.myTower.queues.getD q {}).ring
         if s2.releaseWaits 5 then s2.stall
         else if count = 0 then s2.retire
         else if s2.myTower.lfrz || 64 ≤ ring.length then s2.stall
         else
           let e : QEntry := { record := rec.set 2 (putFld (recWord rec 2) 0 32 count.toNat), asn := s2.asnOf s.cur s.curSlot
                               stamp := s2.steps, parent := some s.cur }
           (s2.enqueueRec (towerOf s.cur) q e).retire))

/-- R283: commits the slot's task, at level S too (R188). -/
def execTcommit (s : State) : Out :=
  .next (if s.noTask then s.operandTrap
    else (if s.me.occ == .task && !s.me.post then s.commitAt s.cur s.curSlot else s).retire)

/-- R283: the task retires; TASK_RETIRE does its steps when its waits are over. -/
def execDoneTask (s : State) : Out :=
  .next (if s.noTask then s.operandTrap else s.modMe fun t => { t with wait := .retiring .done none })

/-- The other threads of a core that are ready to issue. -/
def State.readyOthers (s : State) (n k : Nat) : List Nat :=
  (List.range 4).filter fun j => j != k && (s.thread n j).occ != .free && (s.thread n j).wait == .none

/-- R283: leaves issue selection until every other ready thread has issued once, or 64 cycles have passed. -/
def execYield (s : State) : Out :=
  .next (if s.noTask then s.operandTrap
    else s.retire.modMe fun t =>
      { t with wait := .yield (s.readyOthers s.cur s.curSlot) (Config.cyclesTo s.steps + 64) })

/-- YIELD_END: a yielding thread returns when no thread it waits for is still ready without having issued, or its limit has
passed. -/
def execYieldEnd (core slot : Nat) (s : State) : Out :=
  .next (match (s.thread core slot).wait with
    | .yield others limit =>
      if s.expired (some limit) || others.all fun j => !(s.readyOthers core slot).contains j then
        s.modThread core slot fun t => { t with wait := .none }
      else s
    | _ => s)

/-- Another thread of the core has issued: no yielding thread waits for it any more (R283). -/
def State.noteIssue (s : State) (n k : Nat) : State :=
  if (s.core n).threads.toList.any fun t => match t.wait with | .yield _ _ => true | _ => false then
    s.modCore n fun c => { c with threads := c.threads.map fun t =>
      match t.wait with
      | .yield others limit => { t with wait := .yield (others.filter (· ≠ k)) limit }
      | _ => t }
  else s

/-- The threads and join operations that a KILL waits for have not all ended (R284). -/
def State.killWaits (s : State) (threads : List (Nat × Nat × Nat)) (jobs : List Nat) : Bool :=
  (threads.any fun h => (s.thread h.1 h.2.1).occ != .free && (s.thread h.1 h.2.1).bindStamp == h.2.2)
    || jobs.any fun j => (look (s.tower (j % 2)).jobs (j / 2)).isSome

/-- R284: kills a task, or every task of a launch, of the issuer's address space. The launches of the other tower are absent to a tower
that runs alone (R396). -/
def execKill (rd rs1 : BitVec 5) (all : BitVec 1) (s : State) : Out :=
  let v := s.x rs1
  .next (s.guard (xs [rs1])
    (if s.noTask then s.operandTrap
     else
       let tw := fld v 48 1
       let slot := fld v 32 12
       let reached := tw == towerOf s.cur || !s.alone (towerOf s.cur)
       if reached && (s.tower tw).lfrz then s.stall
       else
         let s1 := s.implicitCommit
         let mine := reached && (look (s1.tower tw).launches slot).any fun l => l.asn == s1.asnOf s.cur s.curSlot
         if fld v 44 4 ≠ 0 ∨ fld v 49 15 ≠ 0 ∨ !mine then s1.result rd 0
         else
           let (s2, k) := s1.killTasks tw slot (all = 1) (fld v 0 32)
           let jobs := k.jobs.map fun j => 2 * j + tw
           if k.threads.any fun h => h.1 == s.cur && h.2.1 == s.curSlot.val then s2
           else if s2.killWaits k.threads jobs then
             s2.modMe fun t => { t with wait := .kill rd k.count k.threads jobs }
           else s2.result rd (BitVec.ofNat 64 k.count)))

/-- KILL_DONE: every target of a waiting KILL has retired (R284). -/
def execKillDone (core slot : Nat) (s : State) : Out :=
  .next (match (s.thread core slot).wait with
    | .kill rd count threads jobs =>
      if s.killWaits threads jobs then s
      else s.within core slot fun s => s.result rd (BitVec.ofNat 64 count)
    | _ => s)

/-- R285: asks Lahar for the launch's next work item. -/
def execWqry (rs1 : BitVec 5) (s : State) : Out :=
  .next (s.guard (xs [rs1])
    (if s.noTask then s.operandTrap
     else match s.check (s.x rs1) 8 .store 0 ownWindows with
       | (.val p, s1) =>
         (s1.implicitCommit.modTower (towerOf s.cur) fun t =>
           { t with wqry := t.wqry ++ [{ core := s.cur, slot := s.curSlot, stamp := s.me.bindStamp, addr := p.addr
                                         launch := (s.me.task.map TaskInfo.launch).getD 0 }] }).retire
       | (g, s1) => g.stop (s.x rs1) true 0 s1))

/-- A JOINW object is global. -/
def globWindow : Window → Bool
  | .glob => true
  | _ => false

/-- One evaluation of JOINW. -/
def State.evalJoinw (s : State) (rd : BitVec 5) (ea : Word) : State :=
  match s.check ea 32 .load 0 globWindow with
  | (.val p, s1) =>
    if s1.loaded p 8 = 0 then s1.result rd (BitVec.ofNat 64 (s1.loaded { p with addr := p.addr + 8 } 8))
    else s1.modMe fun t => { t with wait := .joinw rd ea }
  | (g, s1) => g.stop ea false 0 s1

/-- R285, R39: waits until a join counter reads zero. -/
def execJoinw (rd rs1 : BitVec 5) (s : State) : Out :=
  .next (s.guard (xs [rs1]) (if s.noTask then s.operandTrap else s.evalJoinw rd (s.x rs1)))

/-- JOINW_WAKE: a waiting JOINW evaluates its counter again. -/
def execJoinwWake (core slot : Nat) (s : State) : Out :=
  .next (match (s.thread core slot).wait with
    | .joinw rd a => s.within core slot fun s => s.evalJoinw rd a
    | _ => s)

end Sys2Proof.Machine
end

