-- ==== Sys2Proof/Machine/System.lean ====
section
/-!
DEFINITION. The system forms of major 0x25: TRAP, TRET, CSAVE, CRESTORE, TDISCARD, TFAIL (R311 to R318).
-/
namespace Sys2Proof.Machine

/-- R314: cause 0x14 with the code. -/
def execTrap (code : BitVec 16) (s : State) : Out := .next (s.trap { cause := 0x14, eval := zx code })

/-- A form that only level S may execute (check 4 of R102). -/
def State.privileged (s : State) (k : State) : State := if s.me.level = .T then s.wordTrap 3 4 else k

/-- R315: returns from a trap; in a slot that a message holds without a task it traps. -/
def execTret (s : State) : Out :=
  .next (s.privileged (if s.noTask then s.operandTrap else s.trapReturn))

/-- R318: a pre-commit task is discarded; a post-commit one retires as faulted. -/
def execTdiscard (s : State) : Out :=
  .next (s.privileged (if s.noTask then s.operandTrap
    else s.endThread s.cur s.curSlot (if s.me.post then .faulted else .discarded)))

/-- R318: the task retires as faulted; in a slot without a task the slot is freed, and the machine check of a double fault is logged
(R300), with no second cause (log 51). -/
def execTfail (s : State) : Out :=
  .next (s.privileged (if s.noTask then s.doubleFault s.cur s.curSlot 0 s.me.pc else s.endThread s.cur s.curSlot .faulted))

/-! ### The save block (R311, R312) -/

/-- The pieces of 4 KiB of a block at an address: each checked and translated, or the first that fails (R221). -/
def blockPlaces (base : Word) (use : Use) : List Nat → State → State × (List (Nat × Place) ⊕ (Word × AccRes))
  | [], s => (s, .inl [])
  | i :: r, s =>
    let a := base + BitVec.ofNat 64 (4096 * i)
    match s.place s.cur (s.asnOf s.cur s.curSlot) a.toNat use false globWindow with
    | (.ok p, s1) =>
      (match blockPlaces base use r (s1.touchLayer p.addr) with
        | (s2, .inl ps) => (s2, .inl ((i, p) :: ps))
        | (s2, .inr e) => (s2, .inr e))
    | (e, s1) => (s1, .inr (a, e))

/-- The access to a block: its effect on the places, or how it stops; a layer that is powering up makes it wait (R296), and a
poisoned piece stops a read (R402). -/
def State.block (s : State) (base : Word) (use : Use) (pieces : List Nat) (k : List (Nat × Place) → State → State) : State :=
  match blockPlaces base use pieces s with
  | (s1, .inl ps) =>
    if ps.any fun p => s1.powerWaits p.2.addr then s1.stall
    else match (if use = .load then ps.find? fun p => s1.unreadable p.2.addr 4096 else none) with
      | some p => s1.trap { cause := 5, eval := base + BitVec.ofNat 64 (4096 * p.1), eval2 := 0xE }
      | none => k ps s1
  | (s1, .inr (a, .trap c e)) => s1.trap { cause := c, eval := a, eval2 := e, wr := use.writes }
  | (s1, .inr (_, .fault f)) => s1.suspend f
  | (s1, _) => s1

/-- Bytes of a block written and read at an offset. -/
def State.blockWrite (s : State) (ps : List (Nat × Place)) (c : Nat × List Byte) : State :=
  match look ps (c.1 / 4096) with
  | some p => s.writeTo { p with addr := p.addr + c.1 % 4096 } c.2
  | none => s
def State.blockRead (s : State) (ps : List (Nat × Place)) (off n : Nat) : Nat :=
  match look ps (off / 4096) with
  | some p => leNat (s.bytesKey p.key (p.addr + off % 4096) n)
  | none => 0
def State.blockWord (s : State) (ps : List (Nat × Place)) (off : Nat) : Word := BitVec.ofNat 64 (s.blockRead ps off 8)

/-- Doublewords at consecutive offsets. -/
def dwordChunks (off : Nat) (ws : List Word) : List (Nat × List Byte) :=
  ws.mapIdx fun i w => (off + 8 * i, leBytes 8 w.toNat)

/-- Code of a checksum kind. -/
def ChkKind.code : ChkKind → Nat
  | .none => 0
  | .crc => 1
  | .add32 => 2
def chkOfCode (n : Nat) : ChkKind := if n = 1 then .crc else if n = 2 then .add32 else .none

/-- The image of a staging set with its open chain (R311). -/
def stagingWords (g : Staging) (c : Chain) : List Word :=
  [g.sigAddr, g.sigVal, g.sigBar,
   BitVec.ofNat 64 (g.chk.code + (if g.cont then 4 else 0) + (if g.verify then 8 else 0) + g.seed.toNat * 2 ^ 32),
   zx g.expected, g.xf, g.scaleAddr, g.fill, g.rowBytes, g.rowPitch,
   (match c.open_ with
    | none => 0
    | some k => BitVec.ofNat 64 (1 + 2 * k.code + 8 * c.pending.length + 256 * leNat c.pending + c.running.toNat * 2 ^ 32))]
/-- A staging set and its open chain from their image. -/
def stagingOf (w : Nat → Word) : Staging × Chain :=
  ({ sigAddr := w 0, sigVal := w 1, sigBar := w 2, chk := chkOfCode (fld (w 3) 0 2), cont := bit (w 3) 2
     verify := bit (w 3) 3, seed := BitVec.ofNat 32 (fld (w 3) 32 32), expected := BitVec.ofNat 32 (fld (w 4) 0 32)
     xf := w 5, scaleAddr := w 6, fill := w 7, rowBytes := w 8, rowPitch := w 9 },
   if bit (w 10) 0 then
     { open_ := some (chkOfCode (fld (w 10) 1 2)), kind := chkOfCode (fld (w 10) 1 2)
       running := BitVec.ofNat 32 (fld (w 10) 32 32), pending := leBytes (fld (w 10) 3 2) (fld (w 10) 8 24) }
   else {})

/-- The CSRs at +0x148 (R311). -/
def Thread.savedCsrs (t : Thread) : List Word :=
  [t.fcsr, t.vtype, t.vl, t.estart, t.sstart, t.spset, t.dctl, t.vfill, t.retired]

/-- The header of a block (R312). -/
def headerWords (t : Thread) (ctx lanes psize pbase res core : Nat) : List Word :=
  [BitVec.ofNat 64 (1 + ctx * 2 ^ 16 + lanes * 2 ^ 32 + t.prio * 2 ^ 40),
   BitVec.ofNat 64 (t.vlive.toNat + t.mlive.toNat / 2 * 2 ^ 32),
   BitVec.ofNat 64 (psize + pbase * 2 ^ 32),
   BitVec.ofNat 64 (res + core * 2 ^ 16), 0, 0, 0, 0]

/-- Everything a save writes before the private-area image: offsets with their bytes (R311); `pc` is the resumption address.
Of vector and mask registers only the live ones, and of those only the lane positions in use. -/
def Thread.saveChunks (t : Thread) (hdr : List Word) (pc : Word) (lanes : Nat) : List (Nat × List Byte) :=
  dwordChunks 0 hdr ++ dwordChunks 0x40 (t.x.toList.set 0 0) ++ dwordChunks 0x140 [pc] ++ dwordChunks 0x148 t.savedCsrs
    ++ dwordChunks 0x190 t.wm.toList ++ dwordChunks 0x1D0 [t.taskid, BitVec.ofNat 64 t.glease]
    ++ dwordChunks 0x200 t.vtag.toList
    ++ (t.h.toList.mapIdx fun i v => (0x300 + 16 * i, leBytes 16 v.toNat))
    ++ dwordChunks 0x340 ((List.range 8).map fun i => BitVec.ofNat 64 (t.regs.getD i 0))
    ++ (t.q.toList.mapIdx fun i v => (0x400 + 64 * i, leBytes 64 v.toNat))
    ++ ((List.range 8).flatMap fun i => dwordChunks (0x800 + 128 * i) (stagingWords (t.staging.getD i {}) (t.chains.getD i {})))
    ++ (((List.range 8).filter fun k => k != 0 && bit t.mlive k).map fun k =>
        (0xC00 + 128 * (k - 1), leBytes (4 * lanes) (t.getM k).toNat))
    ++ (((List.range 32).filter fun n => bit t.vlive n).map fun n => (0x1000 + 128 * n, leBytes (4 * lanes) (t.getV n).toNat))

/-- The pieces of 4 KiB that hold a private-area image, and whether live vector registers need the piece at +0x1000. -/
def blockPieces (live : Bool) (psize : Nat) : List Nat :=
  [0] ++ (if live then [1] else []) ++ (List.range ((psize + 4095) / 4096)).map (0xB + ·)

/-! ### CSAVE (R316) -/

/-- Units whose owner byte names a context, as a mask (R312). -/
def Core.ownedMask (c : Core) (ctx : Nat) : Nat :=
  (List.range 12).foldl (fun m u => if c.ownerByte u = 128 + ctx then m ||| 2 ^ u else m) 0
/-- Those owner bytes renamed. -/
def Core.renameOwned (c : Core) (ctx new : Nat) : Core :=
  (List.range 12).foldl (fun c u => if c.ownerByte u = 128 + ctx then c.setOwner u (128 + new) else c) c

/-- The waits of CSAVE (R316): commands, pending broadcasts, work-pool answers; a frozen Lahar stands still (R374, log 23). -/
def State.saveWaits (s : State) : Bool :=
  s.leaveWaits s.cur s.curSlot || s.myTower.lfrz
    || s.myTower.wqry.any fun q => q.core == s.cur && q.slot == s.curSlot.val && q.stamp == s.me.bindStamp

/-- Where the code of an object stands on a core: the stub numbers and addresses of its functions, or 0 with a native object's base. -/
def State.codeOn (s : State) (tw core obj : Nat) : List (Nat × Nat) :=
  match (s.tower tw).objects.find? fun o => o.id == obj with
  | none => []
  | some o =>
    if o.portable then
      (o.funcs.filter fun f => f.cores.contains core).filterMap fun f => f.place.map fun p => (f.stub, p)
    else if o.cores.contains core then [(0, o.base)] else []

/-- The code object that a launch names. -/
def State.objectOf (s : State) (tw launch : Nat) : Nat :=
  ((look (s.tower tw).launches launch).map fun l => fld (recWord l.record 0) 32 32).getD 0

/-- The context saved and its slot freed: the units renamed, Lahar's record of it, with where its code stands (R42, R312, R316). -/
def State.saveDone (s : State) (i : TaskInfo) (block : Word) (ctx : Nat) : State :=
  let t := s.me
  let old := fld t.ctxid 0 7
  let sv : Saved := { ctx := ctx, info := i, taskid := t.taskid, block := block, core := s.cur
                      res := BitVec.ofNat 12 (s.myCore.ownedMask old), savedUnits := 0, groups := s.lanes / 8, prio := t.prio
                      regs := t.regs, code := s.codeOn (towerOf s.cur) s.cur (s.objectOf (towerOf s.cur) i.launch) }
  ((s.modMyCore fun c => c.renameOwned old ctx).freeSlot s.cur s.curSlot).modTower (towerOf s.cur) fun w =>
    { w with saved := w.saved ++ [sv]
             launches := w.launches.map fun p => if p.1 = i.launch then (p.1, { p.2 with saved := p.2.saved + 1 }) else p }

/-- The registers and CSRs that CSAVE reads into the block (R311): those of level T, and what a save keeps of the trap. -/
def savedRefs : List RegRef :=
  ((List.range 32).map fun n => ⟨2, n⟩) ++ ((List.range 32).map fun n => ⟨0, n⟩) ++ ((List.range 8).map fun n => ⟨1, n⟩)
    ++ ((List.range 16).map fun n => ⟨6, n⟩) ++ ((List.range 4).map fun n => ⟨7, n⟩)
    ++ ([1, 2, 3, 5, 6, 7, 8, 9, 0x020, 0x031, 0x060, 0x104].map fun n => ⟨3, n⟩) ++ ((List.range 8).map fun n => ⟨3, 0x040 + n⟩)

/-- What CSAVE saves is read as any instruction reads its registers: an error beyond repair traps, others are repaired (R65). -/
def State.guardSaved (s : State) (effect : State → State) : State :=
  let banked := s.modMe fun t => { t with level := .T }
  match banked.regError savedRefs with
  | some r => s.regTrap r
  | none => effect (s.repair (banked.softMarks savedRefs))

/-- R316: saves the trapped context and frees the slot; a pre-commit task is discarded instead. -/
def execCsave (rs1 rs2 : BitVec 5) (s : State) : Out :=
  let a := s.x rs1
  let n := (s.x rs2).toNat
  .next (s.privileged (s.guard (xs [rs1, rs2])
    (match s.noTask, s.me.task with
     | false, some i =>
       if fld a 0 12 ≠ 0 then s.trap { cause := 4, eval := a, wr := true }
       else if a.toNat < 0x100000000 ∨ 0x10000000000000 ≤ a.toNat then s.trap { cause := 6, eval := a, wr := true }
       else if n < 4 ∨ 127 < n then s.operandTrap
       else if !s.me.post then s.endThread s.cur s.curSlot .discarded
       else if s.saveWaits then s.stall
       else s.guardSaved fun s0 => s0.block a .store (blockPieces (s.me.vlive ≠ 0) i.psize) fun ps s1 =>
         let t := s1.me
         let hdr := headerWords t n s1.lanes i.psize i.pbase (s1.myCore.ownedMask (fld t.ctxid 0 7)) (coreId s.cur)
         let s2 := (t.saveChunks hdr t.epc s1.lanes).foldl (fun st c => st.blockWrite ps c) s1
         let s3 := (List.range ((i.psize + 4095) / 4096)).foldl (fun st j =>
           st.blockWrite ps (0xB000 + 4096 * j, st.bytes (privBase s.cur + i.pbase + 4096 * j) 4096)) s2
         s3.saveDone i a n
     | _, _ => s.operandTrap)))

/-! ### CRESTORE (R317) -/

/-- A reserved bit of the header is set. -/
def headerReserved (w : Nat → Word) : Bool :=
  fld (w 0) 23 9 != 0 || fld (w 0) 38 2 != 0 || fld (w 0) 43 21 != 0 || fld (w 1) 39 25 != 0 || fld (w 3) 12 4 != 0
    || fld (w 3) 28 4 != 0 || fld (w 3) 44 20 != 0 || w 4 != 0 || w 5 != 0 || w 6 != 0 || w 7 != 0

/-- The block is refused (R317). -/
def State.refused (s : State) (w : Nat → Word) : Bool :=
  let ln := fld (w 0) 32 6
  let res := fld (w 3) 0 12
  fld (w 0) 0 16 != 1 || !(ln == 8 || ln == 16 || ln == 24 || ln == 32) || decide (fld (w 0) 16 7 < 4) || headerReserved w
    || (res != 0 && fld (w 3) 16 12 != coreId s.cur)
    || decide (pop4 (force s.myCore.lpart s.curSlot) < ln / 8)
    || ((res != 0 || fld (w 3) 32 12 != 0) && !s.hasArray s.cur)

/-- VTYPE from a block: VILL as saved, else an image as a CSR write takes it (R8, R55). -/
def vtypeFrom (w : Word) : Word := if vill w || !vtypeLegal w then villImage else w &&& 0xFFF
/-- A register's tag from a block: reserved bits read zero, a spatial tag is 0 (R8, R47); a LEV of 6 or 7, which no save writes,
is taken as 0. -/
def tagFrom (w : Word) : Word := mkTag (isHaar w) (if tagLev w ≤ 5 then tagLev w else 0) (tagMask w)

/-- The task bank, CSRs, tags, q, h, staging sets, chains, registrations and live registers of a block (R311, R317); reserved fields of a
CSR or of h do not take their bits (R8, R50). VL is installed as saved: above the VLMAX of the restored context it stays, where a
CSR write would clamp it, the model's choice (log 73). FCSR follows in `State.installBlock`. -/
def Thread.install (t : Thread) (w : Nat → Word) (rd : Nat → Nat → Nat) (lanes : Nat) : Thread :=
  let sets := (List.range 8).map fun i => stagingOf fun j => w (16 * i + 0x100 + j)
  { t with
    x := Vector.ofFn fun i => if i.val = 0 then 0 else w (8 + i.val)
    epc := w 40, vtype := vtypeFrom (w 42), vl := w 43, estart := w 44 &&& 0xFFFF
    sstart := w 45 &&& 3, spset := w 46 &&& 0x7F7F_7F7F, dctl := w 47 &&& 1, vfill := w 48 &&& 0xFFFF_FFFF, retired := w 49
    wm := Vector.ofFn fun i => w (50 + i.val)
    taskid := w 58
    vtag := Vector.ofFn fun i => if bit (w 1) i.val then tagFrom (w (64 + i.val)) else 0
    h := Vector.ofFn fun i => BitVec.ofNat 128 (rd (0x300 + 16 * i.val) 16 % 2 ^ 81)
    regs := ((List.range 8).map fun i => (w (104 + i)).toNat).filter (· ≠ 0)
    q := Vector.ofFn fun i => BitVec.ofNat 512 (rd (0x400 + 64 * i.val) 64)
    staging := Vector.ofFn fun i => ((sets.map Prod.fst).getD i.val {})
    chains := Vector.ofFn fun i => ((sets.map Prod.snd).getD i.val {})
    vlive := BitVec.ofNat 32 (fld (w 1) 0 32), mlive := BitVec.ofNat 8 (2 * fld (w 1) 32 7)
    v := Vector.ofFn fun i => if bit (w 1) i.val then BitVec.ofNat 1024 (rd (0x1000 + 128 * i.val) (4 * lanes)) else 0
    m := Vector.ofFn fun i =>
      if i.val ≠ 0 ∧ bit (w 1) (31 + i.val) then BitVec.ofNat 1024 (rd (0xC00 + 128 * (i.val - 1)) (4 * lanes)) else 0
    estat := 0, ctxid := BitVec.ofNat 64 (fld (w 0) 16 7), prio := fld (w 0) 40 3, post := true, occ := .task
    rewound := Vector.replicate 8 none, restart := none, regErr := [] }

/-- An accepted block installed into the current slot (R317); of the groups that its message bound it keeps LN / 8. Flags that the
restored FCSR sets join the summaries (R58). -/
def State.installBlock (s : State) (ps : List (Nat × Place)) (sv : Saved) : State :=
  let w (i : Nat) : Word := s.blockWord ps (8 * i)
  let lanes := fld (w 0) 32 6
  let psize := fld (w 2) 0 32
  let pbase := fld (w 2) 32 32
  let s1 := s.modMyCore fun c =>
    let f := lowGroups (force c.lpart s.curSlot) (lanes / 8)
    { c with lpart := setPendg (setForce c.lpart s.curSlot f) s.curSlot f }
  let s2 := s1.modMe fun t =>
    { t.install w (fun o n => s.blockRead ps o n) lanes with
      task := some { sv.info with pbase := pbase, psize := psize, chan := none }, resume := none, bindStamp := s.steps, glease := 0 }
  let s2 := s2.setFcsr (fcsrWrite s2.me.fcsr (w 41))
  let s3 := (List.range ((psize + 4095) / 4096)).foldl (fun st j =>
    if pbase + 4096 * (j + 1) ≤ privSize then
      st.write (.random 0) (privBase s.cur + pbase + 4096 * j) (leBytes 4096 (s.blockRead ps (0xB000 + 4096 * j) 4096))
    else st) s2
  let s4 := s3.modTower (towerOf s.cur) fun t =>
    { t with saved := t.saved.filter fun x => !(x.ctx == sv.ctx && x.core == sv.core)
             launches := t.launches.map fun p =>
               if p.1 = sv.info.launch then (p.1, { p.2 with saved := p.2.saved - 1 }) else p }
  (s4.grantSlots s.cur s.curSlot (fld (w 59) 0 7)).1.retire

/-- The saved context whose resume message holds the current slot. -/
def State.resuming (s : State) : Option Saved :=
  match s.me.occ, s.me.resume with
  | .message, some c => s.myTower.saved.find? fun sv => sv.ctx == c && sv.sent == some (s.cur, s.curSlot.val)
  | _, _ => none

/-- R317: installs a saved context into the slot that its resume message bound; a frozen Lahar stands still (R374, log 23). -/
def execCrestore (rs1 : BitVec 5) (s : State) : Out :=
  let a := s.x rs1
  .next (s.privileged (s.guard (xs [rs1])
    (match s.resuming with
     | none => s.operandTrap
     | some sv =>
       if fld a 0 12 ≠ 0 then s.trap { cause := 4, eval := a }
       else if a.toNat < 0x100000000 ∨ 0x10000000000000 ≤ a.toNat then s.trap { cause := 5, eval := a }
       else s.block a .load [0] fun ps s1 =>
         let w (i : Nat) : Word := s1.blockWord ps (8 * i)
         if s1.refused w then s1.trap { cause := 5, eval := a }
         else if s1.myTower.lfrz then s1.stall
         else s1.block a .load (blockPieces (fld (w 1) 0 32 ≠ 0) (fld (w 2) 0 32)) fun qs s2 => s2.installBlock qs sv)))

end Sys2Proof.Machine
end

