-- ==== Sys2Proof/Machine/Lahar.lean ====
section
/-!
DEFINITION. Lahar: enqueue, acceptance and refusal of launch records, forwarding, the choice and placement of tasks, task
records, binding, pre-emption and work pools (R12 to R22, R35, R40, R41, R366 to R371, R406 to R408).
-/
namespace Sys2Proof.Machine

/-! ### Launch records (R367) -/

/-- Fields of a launch record. -/
def recObj (r : List Word) : Nat := fld (recWord r 0) 32 32
def recEntry (r : List Word) : Nat := fld (recWord r 0) 0 32
def recCount (r : List Word) : Nat := fld (recWord r 2) 0 32
def recClass (r : List Word) : Nat := fld (recWord r 2) 32 8
def recPrio (r : List Word) : Nat := fld (recWord r 2) 40 3
def recCapt (r : List Word) : Bool := bit (recWord r 2) 48
def recLanes (r : List Word) : Nat := fld (recWord r 6) 0 6
def recTiles (r : List Word) : Nat := fld (recWord r 6) 6 4
def recLease (r : List Word) : Nat := fld (recWord r 6) 10 8
/-- Private-area bytes: whole 4 KiB units, at least one. -/
def recScratch (r : List Word) : Nat := (max (fld (recWord r 6) 32 32) 1 + 4095) / 4096 * 4096
/-- Lane groups that a task of the record takes (R15). -/
def recGroups (r : List Word) : Nat := if recLanes r = 0 then 1 else recLanes r / 8
/-- A reserved bit is set, or SAVE is misaligned (R368). -/
def recReserved (r : List Word) : Bool :=
  fld (recWord r 2) 43 5 != 0 || fld (recWord r 2) 49 15 != 0 || fld (recWord r 5) 30 34 != 0
    || fld (recWord r 6) 18 14 != 0 || fld (recWord r 7) 0 12 != 0
/-- The placement masks of a record select a core of tower tw (R367, R371). -/
def recSelects (r : List Word) (tw n : Nat) : Bool :=
  let m := recWord r 5
  towerOf n == tw && bit m tw && bit m (2 + layerOf n % 8) && bit m (10 + cluIdx n)

/-! ### Enqueue (R369, R374) -/

/-- A queue's status fields changed. -/
def State.modQueue (s : State) (tw q : Nat) (f : Queue → Queue) : State :=
  s.modTower tw fun t => { t with queues := t.queues.setIfInBounds q (f (t.queues.getD q {})) }

/-- A record reaches the ring of a queue, or is dropped with OVF when the ring holds 64; `stamp` is the step of its store. -/
def State.hostRecord (s : State) (tw q asn stamp : Nat) (record : List Word) : State :=
  if 64 ≤ ((s.tower tw).queues.getD q {}).ring.length then s.modQueue tw q fun v => { v with ovf := true }
  else s.enqueueRec tw q { record := record, asn := asn, stamp := stamp }

/-- The store to +0x78 of a staging area: an enqueue, unless the tower's queues are not open (R378, R396). While Lahar is frozen
it waits there, and a second one is dropped with OVF (R374). -/
def State.hostEnqueue (s : State) (tw q : Nat) (last : Word) : State :=
  let t := s.tower tw
  if t.bootStep ≠ 20 then s
  else if t.lfrz && t.held.any fun h => h.1 == q then s.modQueue tw q fun v => { v with ovf := true }
  else
    let r := (t.staged.getD q (Vector.replicate 16 0)).setIfInBounds 15 last
    let s1 := s.modTower tw fun t => { t with staged := t.staged.setIfInBounds q r }
    let asn := t.qas.getD q 0
    if t.lfrz then s1.modTower tw fun t => { t with held := t.held ++ [(q, asn, s.steps, r.toList)] }
    else s1.hostRecord tw q asn s.steps r.toList

/-- The host reaches the part: a stopped tower 0 leaves the device without its host link (R398). -/
def State.hostLink (s : State) : Bool := (s.tower 0).bootStep != 21

/-- HOST_ENQUEUE. -/
def execHostEnqueue (tower queue : Nat) (last : Word) (s : State) : Out :=
  .next (if 2 ≤ tower ∨ 64 ≤ queue ∨ !s.hostLink then s else s.hostEnqueue tower queue last)

/-- Enqueue stores that waited through a freeze are applied in arrival order (R374). -/
def State.applyHeld (s : State) (tw : Nat) : State :=
  (s.tower tw).held.foldl (fun st h => st.hostRecord tw h.1 h.2.1 h.2.2.1 h.2.2.2) (s.modTower tw fun t => { t with held := [] })

/-! ### Acceptance and refusal (R12, R366, R370, R371) -/

/-- The code object that a record names. -/
def State.objOf (s : State) (tw id : Nat) : Option CodeObj := (s.tower tw).objects.find? fun o => o.id == id

/-- A signed portable object is below the fuse counter (R332, R342). -/
def State.belowFuses (s : State) (o : CodeObj) : Bool := o.portable && o.signed && decide (o.sver < s.fuses)

/-- An entry offset names code of an object: an ENTRY function, or an offset within a native object's text (R113, R332). -/
def CodeObj.entryAt (o : CodeObj) (off : Nat) : Bool :=
  if o.portable then o.funcs.any fun f => f.entry && f.off == off else decide (off < o.text.length) && off % 4 == 0

/-- An idle core could hold the record's lanes, tiles and private-scratch bytes (R12). -/
def State.couldHold (s : State) (tw n : Nat) (r : List Word) : Bool :=
  s.present n && recSelects r tw n && (recClass r).testBit (s.clsOf n)
    && decide (recGroups r ≤ pop4 (s.groupMask n)) && (recTiles r == 0 || s.hasArray n)
    && decide ((s.core n).xb.toNat + recScratch r ≤ privSize)

/-- The cores of a tower. -/
def towerCores (tw : Nat) : List Nat := (List.range 1280).map (1280 * tw + ·)

/-- Doublewords side by side as one number: field i of width w at bit w × i. -/
def packed (w : Nat) (xs : List Nat) : Word := BitVec.ofNat 64 (((xs.mapIdx fun i v => v % 2 ^ w * 2 ^ (w * i))).foldl (· + ·) 0)

/-- A flag as a bit. -/
def bitAt (i : Nat) (b : Bool) : Nat := if b then 2 ^ i else 0

/-- Code of a season in the harvest map (R372); a layer in reset has none and reads as 0. -/
def Season.code : Season → Nat
  | .summer | .inReset => 0
  | .autumn => 1
  | .winter => 2
  | .spring => 3

/-- The harvest map (R372): classes, seasons, fenced layers, presence. -/
def State.harvestRead (s : State) (tw o : Nat) : Word :=
  if o < 0x140 then
    packed 2 ((List.range 32).map fun i =>
      let n := 1280 * tw + 4 * o + i
      if s.present n then s.clsOf n else 3)
  else if o = 0x200 then packed 2 ((List.range 8).map fun l => (s.layer (8 * tw + l)).season.code)
  else if o = 0x208 then packed 1 ((List.range 8).map fun l => bitAt 0 (s.layer (8 * tw + l)).fenced)
  else if 0x300 ≤ o ∧ o < 0x3A0 then
    packed 1 ((List.range 64).map fun i => bitAt 0 (s.present (1280 * tw + 8 * (o - 0x300) + i)))
  else 0

/-- The hash of the capture header (R407): of the words of the harvest map that R372 lists, in their order, and the microcode revision.
That these words without the gaps between them, and the revision as a doubleword after them, are what is hashed is the model's reading
(log 20). -/
def State.partHash (s : State) (tw : Nat) : BitVec 256 :=
  let words := ((List.range 40).map (8 * ·)) ++ [0x200, 0x208] ++ ((List.range 20).map (0x300 + 8 * ·))
  shake256 ((words.flatMap fun o => leBytes 8 (s.harvestRead tw o).toNat) ++ leBytes 8 Config.microcodeRevision.toNat)

/-- The fields by which a replay's record must agree with the captured one: all but REPLAY. -/
def captureFields (r : List Word) : List Word := r.set 14 (putBit (recWord r 14) 63 false)

/-- A replay cannot be enforced (R408, cause 13). -/
def State.replayRefused (s : State) (tw asn : Nat) (r : List Word) : Bool :=
  recCapt r && bit (recWord r 14) 63 &&
    (let base := (recWord r 15).toNat
     match s.bufRead tw asn (base + 8) 8, s.bufRead tw asn (base + 16) 32 with
     | some ovf, some h =>
       ovf % 2 == 1 || h != (s.partHash tw).toNat
         || ((s.tower tw).captured.find? fun c => c.buffer == recWord r 15).any fun c => c.fields != captureFields r
     | _, _ => true)

/-- The refusal cause of a record in a queue, the first that applies in the order of R370. -/
def State.refusal (s : State) (tw q : Nat) (e : QEntry) : Option Nat :=
  let r := e.record
  let t := s.tower tw
  let spawn := e.parent.isSome
  let local_ (w : Word) : Bool := w != 0 && decide (w.toNat < 0x100000000)
  let obj := s.objOf tw (recObj r)
  let pool := recWord r 4
  let checks : List (Nat × Bool) :=
    [(8, !spawn && q % 8 == 7), (12, recReserved r), (1, recPrio r != q / 8),
     (2, recClass r == 0 || decide (16 ≤ recClass r)),
     (3, !(recLanes r == 0 || recLanes r == 8 || recLanes r == 16 || recLanes r == 24 || recLanes r == 32)),
     (4, decide (8 < recTiles r) || decide (64 < recLease r)),
     (11, spawn && (local_ (recWord r 1) || local_ (recWord r 3))),
     (9, match obj with | none => true | some o => !o.purged && !s.belowFuses o && !o.entryAt (recEntry r)),
     (10, match obj with | none => false | some o => o.purged || s.belowFuses o),
     (13, s.replayRefused tw e.asn r),
     (5, !(towerCores tw).any fun n => s.couldHold tw n r),
     (6, pool != BitVec.allOnes 64 && (match look t.pools pool.toNat with | none => true | some p => p.launch.isSome)),
     (7, decide (4096 ≤ t.launches.length))]
  (checks.find? fun c => c.2).map Prod.fst

/-- A refused record: counted, reported, and its join object written (R12, R370). -/
def State.refuse (s : State) (tw q : Nat) (e : QEntry) (cause : Nat) : State :=
  let s1 := s.modQueue tw q fun v => { v with refs := min (v.refs + 1) 0xFFFF, cause := cause }
  (s1.laharJob tw
    { asn := e.asn, addr := recWord e.record 3, zero := true, dec := 0
      status := 4 ||| (if cause = 9 then 8 else if cause = 10 then 16 else 0) }).1

/-- The capture of an accepted record begins: its header is written, or the replay's buffer is taken up (R406, R407). -/
def State.beginCapture (s : State) (tw slot asn : Nat) (r : List Word) : State × Option Capture :=
  if !recCapt r then (s, none)
  else
    let base := (recWord r 15).toNat
    let c : Capture := { replay := bit (recWord r 14) 63, base := base, size := fld (recWord r 14) 0 40, used := 0 }
    if c.replay then (s, some c)
    else
      let s1 := s.bufWrite tw asn base
        (leBytes 8 0 ++ leBytes 8 0 ++ leBytes 32 (s.partHash tw).toNat ++ leBytes 8 slot ++ leBytes 8 0)
      (s1.modTower tw fun t =>
        { t with captured := ⟨recWord r 15, captureFields r, []⟩ :: t.captured.filter fun p => p.buffer != recWord r 15 }, some c)

/-- The lowest-numbered free launch slot of a tower (R12). -/
def State.freeLaunch (s : State) (tw : Nat) : Nat := nextFrom ((s.tower tw).launches.map Prod.fst) 4096 0

/-- An entry of a queue's ring changed or removed; entries are told apart by their enqueue step. -/
def State.modRing (s : State) (tw q : Nat) (f : List QEntry → List QEntry) : State :=
  s.modQueue tw q fun v => { v with ring := f v.ring, since := if f v.ring = v.ring then v.since else s.steps }
def sameEntry (e x : QEntry) : Bool := x.stamp == e.stamp && x.accepted.isNone

/-- An accepted record becomes a live launch; one with a task count of 0 ends at once (R12). -/
def State.accept (s : State) (tw q : Nat) (e : QEntry) : State :=
  let r := e.record
  if recCount r = 0 then s.modRing tw q fun es => es.filter fun x => !sameEntry e x
  else
    let slot := s.freeLaunch tw
    let (s1, cap) := s.beginCapture tw slot e.asn r
    let pool := (recWord r 4).toNat
    let l : Launch := { record := r, queue := q, asn := e.asn, count := recCount r, capture := cap
                        scan := match e.parent with | some n => if towerOf n = tw then n else 1280 * tw | none => 1280 * tw }
    (s1.modTower tw fun t =>
      { t with launches := put t.launches slot l
               pools := t.pools.map fun p => if p.1 = pool then (p.1, { p.2 with cursor := 0, launch := some slot }) else p }).modQueue
      tw q fun v => { v with ring := v.ring.map fun x => if sameEntry e x then { x with accepted := some slot } else x }

/-- Where the loader, which is firmware, writes an address of an object's data: through the page table, but whatever R, W and KEY of
the leaf say, and under key 0 (R18, R349, R389; log 75). -/
def State.loaderPlace (s : State) (tw asn va : Nat) : Option Place :=
  if va < 0x100000000 ∨ 0x10000000000000 ≤ va then none
  else match s.walk tw asn va with
    | .leaf e => (s.locate tw (ptePA e.leaf + (va - e.base))).map fun a =>
        { win := .glob, addr := a, key := .random s.key0, ro := s.readOnly a }
    | .fail _ _ _ => none

/-- An object's data at its linked addresses, in pieces within one page. -/
def CodeObj.pieces (o : CodeObj) : List (Nat × List Byte) :=
  o.data.flatMap fun x => (unitsOf x.1 x.2.length 4096).map fun u =>
    (max x.1 u, (x.2.drop (max x.1 u - x.1)).take (u + 4096 - max x.1 u))

/-- The data of an object written to global memory through the page table of a launch that names it, once for each address space (R349;
log 75). -/
def State.placeData (s : State) (tw asn : Nat) (o : CodeObj) : State :=
  if o.spaces.contains asn then s
  else
    (o.pieces.foldl (fun st x => match st.loaderPlace tw asn x.1 with
      | some p => st.writeTo p x.2
      | none => st) s).modTower tw fun t =>
      { t with objects := t.objects.map fun y => if y.id = o.id then { y with spaces := asn :: y.spaces } else y }

/-- A location of an object's data in a layer that has no power: the load waits for it (R296). -/
def State.dataWaits (s : State) (tw asn : Nat) (o : CodeObj) : Option Nat :=
  if o.spaces.contains asn then none
  else o.pieces.findSome? fun x => ((s.loaderPlace tw asn x.1).map Place.addr).filter s.powerWaits

/-- A record that stands in a ring is checked: refused, or accepted, with the data of its object loaded for its address space (R349). It
stays unchecked while a layer that the data reaches has no power. -/
def State.checkRecord (s : State) (tw q : Nat) (e : QEntry) : State :=
  match s.refusal tw q e, s.objOf tw (recObj e.record) with
  | some c, _ => (s.modRing tw q fun es => es.filter fun x => !sameEntry e x).refuse tw q e c
  | none, none => s.accept tw q e
  | none, some o =>
    if recCount e.record = 0 then s.accept tw q e
    else match s.dataWaits tw e.asn o with
      | some a => s.touchLayer a
      | none => (s.placeData tw e.asn o).accept tw q e

/-- The oldest record of a tower's rings that has not been checked. -/
def State.oldestUnchecked (s : State) (tw : Nat) : Option (Nat × QEntry) :=
  (List.range 64).foldl (fun best q =>
    match ((s.tower tw).queues.getD q {}).ring.find? fun e => e.accepted.isNone with
    | none => best
    | some e => match best with
      | some b => if b.2.stamp ≤ e.stamp then best else some (q, e)
      | none => some (q, e)) none

/-- LAUNCH_ACCEPT: Lahar checks the oldest record that it has not checked; one for the other tower only is forwarded, unless this tower
runs alone (R371, R396). -/
def execLaunchAccept (tower : Nat) (s : State) : Out :=
  .next (
    if 2 ≤ tower ∨ (s.tower tower).lfrz then s
    else match s.oldestUnchecked tower with
      | none => s
      | some (q, e) =>
        let m := fld (recWord e.record 5) 0 2
        if !m.testBit tower && m.testBit (1 - tower) && !s.alone tower then
          (s.modRing tower q fun es => es.filter fun x => !sameEntry e x).modTower (1 - tower) fun t =>
            { t with forwarded := t.forwarded ++ [(q, e)] }
        else s.checkRecord tower q e)

/-- FORWARDED_RECORD_ARRIVAL: a forwarded record enters the queue of the same number and is checked there; it waits while the ring is full,
Lahar is frozen, or boot has not opened the tower's queues (R371, R396). -/
def execForwardedRecordArrival (tower : Nat) (s : State) : Out :=
  let t := s.tower tower
  .next (match t.forwarded with
    | [] => s
    | (q, e) :: rest =>
      if 2 ≤ tower ∨ t.lfrz ∨ t.bootStep ≠ 20 ∨ 64 ≤ (t.queues.getD q {}).ring.length then s
      else
        let e1 := { e with stamp := s.steps }
        ((s.modTower tower fun t => { t with forwarded := rest }).enqueueRec tower q e1).checkRecord tower q e1)

/-! ### Placement (R13 to R15) -/

/-- The context that a slot holds for Lahar's accounting: a task, or the saved context that its resume message names (R17). -/
def State.accounted (s : State) (n k : Nat) : Option TaskInfo :=
  let t := s.thread n k
  match t.occ with
  | .free => none
  | .task => t.task
  | .message => ((t.resume.bind fun c => (s.tower (towerOf n)).saved.find? fun sv => sv.ctx == c && sv.sent == some (n, k)).map
      Saved.info)

/-- Private ranges that are held or reserved on a core. -/
def State.usedRanges (s : State) (n : Nat) : List (Nat × Nat) :=
  ((List.range 4).filterMap fun k => (s.accounted n k).map fun i => (i.pbase, i.psize))
    ++ (s.core n).resv.map fun r => (r.pbase, r.psize)
/-- Tiles that are held or reserved on a core. -/
def State.usedTiles (s : State) (n : Nat) : Nat :=
  (((List.range 4).filterMap fun k => (s.accounted n k).map TaskInfo.tiles) ++ (s.core n).resv.map Resv.tiles).foldl (· + ·) 0

/-- A private range is free: whole units at or above XB, apart from every used range. -/
def rangeFree (xb : Nat) (used : List (Nat × Nat)) (base size : Nat) : Bool :=
  decide (xb ≤ base) && decide (base + size ≤ privSize) && !used.any fun u => overlaps base size u.1 u.2

/-- The top of the highest free run that is long enough: its base (R15). -/
def freeRun (xb : Nat) (used : List (Nat × Nat)) (size : Nat) : Option Nat :=
  ((List.range 128).reverse.map (4096 * ·)).find? fun b => rangeFree xb used b size

/-- Free slots of a core, and those that no resume message has reserved. -/
def Core.freeSlots (c : Core) : List Nat := (List.range 4).filter fun k => !c.occupied k
def Core.openSlots (c : Core) : List Nat := c.freeSlots.filter fun k => !c.resv.any fun r => r.slot == some k
/-- Task records reserved on a core and not yet bound. -/
def Core.recordsDue (c : Core) : Nat := (c.resv.filter fun r => r.slot.isNone).length
/-- Lane groups that are neither held nor reserved. -/
def State.openGroups (s : State) (n : Nat) : Nat :=
  pop4 (unheld (s.groupMask n) (s.core n).lpart) - (s.core n).resvGroups

/-- The layer of a core takes dispatches: up, not being reset, not on hold (R377, R396, R400). -/
def State.takesWork (s : State) (n : Nat) : Bool :=
  let l := s.layer (layerOf n)
  l.season != .inReset && !l.lrst && !l.hold

/-- The conditions of R15 that do not depend on what the core's slots hold: masks, class, binding. A record that asks for tiles goes only
to a core with an array: R15's list does not say so, R12 does where it asks what an idle core could hold, and the model takes it for
placement too, its own choice (log 89). -/
def State.admits (s : State) (tw : Nat) (r : List Word) (level n : Nat) : Bool :=
  s.present n && recSelects r tw n && (recClass r).testBit (s.clsOf n) && s.takesWork n
    && decide (recGroups r ≤ pop4 (s.groupMask n)) && (recTiles r == 0 || s.hasArray n)
    && ((s.tower tw).binding.find? fun b => b.1 == (n, recObj r, recEntry r, level)).isSome

/-- The head of a queue: the oldest returned task, else the next task of the record at the head of the ring (R14). -/
def State.headOf (s : State) (tw q : Nat) : Option (Launch × TaskInfo × Bool) :=
  let t := s.tower tw
  let v := t.queues.getD q {}
  match v.returned with
  | i :: _ => (look t.launches i.launch).map fun l => (l, i, true)
  | [] =>
    match v.ring with
    | [] => none
    | e :: _ =>
      match e.accepted.bind fun slot => (look t.launches slot).map fun l => (slot, l) with
      | none => none
      | some (slot, l) => l.nextIndex.map fun i =>
        let r := l.record
        (l, { launch := slot, index := i, queue := q, level := q / 8, asn := l.asn, groups := recGroups r, tiles := recTiles r
              psize := recScratch r, lease := recLease r, stamp := e.stamp, join := l.join
              savep := if recWord r 7 = 0 then 0 else recWord r 7 + BitVec.ofNat 64 (i * (0xB000 + recScratch r))
              words := [BitVec.ofNat 64 (i + l.count * 2 ^ 32),
                        BitVec.ofNat 64 (fld (recWord r 1) 0 52 + slot * 2 ^ 52)]
                ++ (List.range 6).map fun j => recWord r (8 + j) }, false)

/-- The reservations that a pre-emption made for the head of a queue, its launch and index given, are the head's own. -/
def Core.forHead (c : Core) (q : Nat) (h : Nat × Nat) : Core := c.dropResv fun r => r.queue == some q && r.head == some h

/-- What a pre-emption has reserved on a core for the head of a queue counts as free for that head (R35). -/
def State.forHead (s : State) (tw q n : Nat) : State :=
  match s.headOf tw q with
  | some (_, i, _) =>
    if (s.core n).resv.any fun v => v.queue == some q then s.modCore n fun c => c.forHead q (i.launch, i.index) else s
  | none => s

/-- Eligibility of a core for a record at the head of a queue (R15): the base of its private range. What a pre-emption reserved for the
head is its own (R35). -/
def State.eligible (s : State) (tw q : Nat) (r : List Word) (level n : Nat) : Option Nat :=
  if !s.admits tw r level n then none
  else
    let s1 := s.forHead tw q n
    let c := s1.core n
    if c.recordsDue < c.openSlots.length ∧ recGroups r ≤ s1.openGroups n ∧ s1.usedTiles n + recTiles r ≤ 8 then
      freeRun c.xb.toNat (s1.usedRanges n) (recScratch r)
    else none

/-- The core on which a replay placed a task: the next recorded arrival of it (R408). -/
def State.recordedCore (s : State) (tw : Nat) (l : Launch) (i : TaskInfo) : Option Nat :=
  match l.capture with
  | none => none
  | some c =>
    if !c.replay then none
    else
      let count := (s.bufRead tw l.asn c.base 8).getD 0
      let recs := s.bufRecords tw l.asn c.base count count 0
      let fit (r : CapRec) : Bool := r.kind == 1 && fld r.v1 0 32 == i.index &&
        (((recs.filter fun x => x.kind == 1 && x.core == r.core).drop (c.seen 0 r.core)).any fun x => fld x.v1 0 32 == i.index)
      (recs.find? fit).map fun r => coreOfId r.core

/-- The cores of a tower in the order of the launch's scan (R15). -/
def scanOrder (tw start : Nat) : List Nat := (List.range 1280).map fun i => 1280 * tw + (start + i) % 1280

/-- The core and private range at which the head of a queue can be placed. -/
def State.placement (s : State) (tw q : Nat) : Option (Launch × TaskInfo × Bool × Nat × Nat) :=
  match s.headOf tw q with
  | none => none
  | some (l, i, back) =>
    let cores := match s.recordedCore tw l i with
      | some n => [n]
      | none => scanOrder tw l.scan
    cores.findSome? fun n => (s.eligible tw q l.record i.level n).map fun b => (l, i, back, n, b)

/-- The levels from 7 down. -/
def levels : List Nat := [7, 6, 5, 4, 3, 2, 1, 0]

/-- R13: the queue whose head is granted, with the ages and round-robin pointers after the grant. -/
def pickQueue (placeable : Nat → Bool) (stamp : Nat → Nat) (age rr : Vector Nat 8) : List Nat → Option (Nat × Vector Nat 8 × Vector Nat 8)
  | [] => none
  | k :: rest =>
    let qs := (List.range 8).map fun i => 8 * k + (rr.getD k 7 + 1 + i) % 8
    match qs.find? placeable with
    | none => pickQueue placeable stamp age rr rest
    | some q =>
      let below := (List.range (8 * k)).filter placeable
      if 32 ≤ age.getD k 0 ∧ !below.isEmpty then
        let b := below.foldl (fun best j => if stamp j < stamp best then j else best) (below.headD 0)
        some (b, age.setIfInBounds k 0, rr)
      else some (q, age.setIfInBounds k (min (age.getD k 0 + 1) 32), rr.setIfInBounds k (q % 8))

/-- The head of a queue dispatched to a core: its resources reserved, its record on its way, the ring and the launch moved
on; what was reserved for it elsewhere is returned (R14 to R17, R35). -/
def State.dispatch (s : State) (tw q : Nat) (l : Launch) (i : TaskInfo) (back : Bool) (n base : Nat) : State :=
  let info := { i with pbase := base }
  let chan := (((s.tower tw).binding.find? fun b => b.1 == (n, recObj l.record, recEntry l.record, i.level)).map Prod.snd).getD 0
  let l1 := if back then { l with scan := (n + 1) % 1280 }
    else { l with scan := (n + 1) % 1280, dispatched := l.dispatched + 1, next := i.index + 1, removed := l.removed.filter fun x => i.index < x }
  let s1 := s.modCore n fun c0 =>
    let c := c0.forHead q (i.launch, i.index)
    { c with resv := c.resv ++ [{ slot := none, groups := i.groups, tiles := i.tiles, pbase := base, psize := i.psize }]
             net := c.net ++ [{ chan := chan, words := i.words, task := some info }] }
  ((s1.modTower tw fun t => { t with launches := put t.launches i.launch l1 }).modQueue tw q fun v =>
    { v with since := s.steps
             returned := if back then v.returned.drop 1 else v.returned
             ring := if !back && l1.nextIndex.isNone then v.ring.drop 1 else v.ring }).dropStale tw

/-- TASK_DISPATCH: Lahar grants one task. -/
def execTaskDispatch (tower : Nat) (s : State) : Out :=
  let t := s.tower tower
  let stamp (q : Nat) : Nat := ((s.headOf tower q).map fun h => h.2.1.stamp).getD 0
  .next (
    if 2 ≤ tower ∨ t.lfrz then s
    else match pickQueue (fun q => (s.placement tower q).isSome) stamp t.age t.rr levels with
      | none => s
      | some (q, age, rr) =>
        match s.placement tower q with
        | none => s
        | some (l, i, back, n, base) =>
          (s.dispatch tower q l i back n base).modTower tower fun t => { t with age := age, rr := rr })

/-! ### Arrival and binding (R19, R20, R22) -/

/-- The events of an arrival for capture or replay (R407): the arrival, and the hash keys of a core used for the first time. -/
def State.arrivalEvents (s : State) (n : Nat) (m : Msg) : State × Bool :=
  match m.task with
  | none => (s, true)
  | some i =>
    let ev (kind : Nat) (v0 v1 : Word) : Event := { kind := kind, core := coreId n, cls := 0, place := coreId n, v0 := v0, v1 := v1 }
    let first := ((look (s.tower (towerOf n)).launches i.launch).bind Launch.capture).any fun c => c.seen 0 (coreId n) == 0
    match s.event (towerOf n) i.launch (ev 1 (BitVec.ofNat 64 m.chan) (taskIdOf i.launch i.index)) with
    | (s1, false) => (s1, false)
    | (s1, true) =>
      if first then s1.event (towerOf n) i.launch (ev 6 (s.core n).bkey (s.cluster (clusterOf n)).bankKey) else (s1, true)

/-- The oldest message of the network for a core that a test picks enters the inbox, and wakes the layer (R19, R296). -/
def State.arrive (s : State) (n : Nat) (pick : Msg → Bool) : State :=
  let c := s.core n
  match c.net.findIdx? pick with
  | none => s
  | some j =>
    match c.net[j]? with
    | none => s
    | some m =>
      if 64 ≤ c.inbox.length || (s.layer (layerOf n)).season == .inReset then s
      else match s.arrivalEvents n m with
        | (s1, false) => s1
        | (s1, true) =>
          ((s1.modCore n fun c => { c with inbox := c.inbox ++ [m], net := c.net.eraseIdx j }).engage (layerOf n)).wake (layerOf n)

/-- TASK_RECORD_ARRIVAL: the oldest task record on its way to a core enters its inbox. -/
def execTaskRecordArrival (core : Nat) (s : State) : Out :=
  .next (if coreCount ≤ core then s else s.arrive core fun m => m.chan != 31)

/-- Tasks may bind on a layer: not in Winter, and in Spring once power is up (R296). -/
def State.mayBind (s : State) (n : Nat) : Bool :=
  let l := s.layer (layerOf n)
  match l.season with
  | .summer | .autumn => true
  | .spring => l.powered
  | _ => false

/-- The channel that binds next: runnable, highest priority, round-robin among equals (R20). At a priority at which nothing has been
bound yet the search starts at channel 0, the model's choice (log 74). -/
def Core.nextChannel (c : Core) : Option Nat :=
  let runnable := (List.range 31).filter fun h =>
    let w := c.hent.getD h 0
    bit w 36 && !bit w 35 && c.inbox.any fun m => m.chan == h
  let prio (h : Nat) : Nat := fld (c.hent.getD h 0) 32 3
  let top := runnable.foldl (fun p h => max p (prio h)) 0
  let start := match c.lastChan.getD top none with | some h => h + 1 | none => 0
  ((List.range 31).map fun i => (start + i) % 31).find? fun h => runnable.contains h && prio h == top

/-- The state in which a task starts (R22). -/
def Thread.start (t : Thread) (i : TaskInfo) (entry : Word) (slot prio stamp : Nat) : Thread :=
  let w (j : Nat) : Word := i.words.getD j 0
  { pc := entry, cameFrom := entry - 4, occ := .task
    x := Vector.ofFn fun r =>
      if r.val = 1 then BitVec.ofNat 64 (fld (w 0) 0 32) else if r.val = 2 then BitVec.ofNat 64 (fld (w 0) 32 32)
      else if r.val = 3 then BitVec.ofNat 64 (fld (w 1) 0 52) else if 4 ≤ r.val ∧ r.val ≤ 9 then w (r.val - 2)
      else if r.val = 30 then BitVec.ofNat 64 (i.pbase + i.psize) else 0
    taskid := taskIdOf i.launch i.index, savep := i.savep, ctxid := BitVec.ofNat 64 slot, prio := prio, task := some i
    bindStamp := stamp, since := some stamp, oclaim := t.oclaim }

/-- A range becomes undefined: the private area at a task's entry (R22). -/
def State.undefine (s : State) (base size stamp : Nat) : State :=
  { s with fresh := (base, size, stamp) :: s.fresh.filter fun f => !(base ≤ f.1 && f.1 + f.2.1 ≤ base + size) }

/-- The slot that the capture of a replayed launch recorded for a task's next binding, where the part remembers it (R408; log 58). -/
def State.recordedSlot (s : State) (n : Nat) (i : TaskInfo) : Option Nat :=
  let t := s.tower (towerOf n)
  match (look t.launches i.launch).bind fun l => l.capture.map fun c => (l, c) with
  | none => none
  | some (l, c) =>
    if !c.replay then none
    else
      let slots := ((t.captured.find? fun x => x.buffer == recWord l.record 15).map Captured.slots).getD []
      let mine := slots.filter fun x => x.1 == i.index
      (mine[c.seen 5 i.index]?).bind fun x => if x.2.1 = n then some x.2.2 else none

/-- The slot of a binding is remembered by a capture and counted by a replay. -/
def State.noteSlot (s : State) (n k : Nat) (i : TaskInfo) : State :=
  let tw := towerOf n
  match (look (s.tower tw).launches i.launch).bind fun l => l.capture.map fun c => (l, c) with
  | none => s
  | some (l, c) =>
    if c.replay then s.setCapture tw i.launch (c.see 5 i.index)
    else
      let note (x : Captured) : Captured :=
        if x.buffer = recWord l.record 15 then { x with slots := x.slots ++ [(i.index, n, k)] } else x
      s.modTower tw fun t => { t with captured := t.captured.map note }

/-- A task record bound to a slot. -/
def State.bindTask (s : State) (n k h : Nat) (m : Msg) (i : TaskInfo) : State :=
  let e := (s.core n).hent.getD h 0
  let prio := fld e 32 3
  let s1 := s.modCore n fun c =>
    { c.dropResv (recordResv i) with
      lpart := lpBind (s.groupMask n) c.lpart k i.groups
      inbox := c.inbox.erase m, lastChan := c.lastChan.setIfInBounds prio (some h)
      chanUse := h :: c.chanUse.filter (· != h) }
  let s2 := s1.modThread n k fun t => t.start { i with chan := some h } (BitVec.ofNat 64 (fld e 0 32)) k prio s.steps
  ((((s2.noteSlot n k i).undefine (privBase n + i.pbase) i.psize s.steps).wake (layerOf n)).grantSlots n k i.lease).1

/-! ### Pre-emption (R35) -/

/-- A channel-31 message (R308). -/
def superMessage (slot kind : Nat) (w1 : Word) (ctx target : Option Nat) : Msg :=
  { chan := 31, words := [BitVec.ofNat 64 (slot + 16 * kind), w1] ++ List.replicate 6 0, ctx := ctx, target := target }

/-- Freeing a candidate's resources would make its core eligible for the head of a queue, beside what is reserved there for that head
(R35). -/
def State.wouldFit (s0 : State) (tw q : Nat) (r : List Word) (level n k : Nat) : Bool :=
  match (s0.thread n k).task with
  | none => false
  | some i =>
    let s := s0.forHead tw q n
    let c := s.core n
    let used := ((List.range 4).filterMap fun j => if j = k then none else (s.accounted n j).map fun i => (i.pbase, i.psize))
      ++ c.resv.map fun v => (v.pbase, v.psize)
    s.admits tw r level n
      && decide (c.recordsDue < c.openSlots.length + 1)
      && decide (recGroups r ≤ s.openGroups n + pop4 (force c.lpart k))
      && decide (s.usedTiles n + recTiles r ≤ 8 + i.tiles)
      && (freeRun c.xb.toNat used (recScratch r)).isSome

/-- The candidates of a pre-emption, best first: lowest level, pre-commit, youngest (R35). A post-commit task of a launch without save
blocks is none, whatever its slot's SAVEP holds (R368). -/
def State.victims (s : State) (tw q : Nat) (l : Launch) (i : TaskInfo) : List (Nat × Nat) :=
  let all := ((s.cores.filter fun p => towerOf p.1 == tw).map Prod.fst).flatMap fun n => (List.range 4).map fun k => (n, k)
  let ok := all.filter fun p =>
    let t := s.thread p.1 p.2
    t.occ == .task && t.killable && !t.wait.isRetiring
      && (t.task.any fun j => decide (j.level < i.level)) && (!t.post || t.task.any fun j => j.savep != 0)
      && s.wouldFit tw q l.record i.level p.1 p.2
  let key (p : Nat × Nat) : Nat × Nat × Nat :=
    let t := s.thread p.1 p.2
    ((t.task.map TaskInfo.level).getD 0, if t.post then 1 else 0, t.bindStamp)
  let before (a b : Nat × Nat) : Bool :=
    let x := key a
    let y := key b
    x.1 < y.1 || (x.1 == y.1 && (x.2.1 < y.2.1 || (x.2.1 == y.2.1 && y.2.2 < x.2.2)))
  match ok with
  | [] => []
  | p :: rest => [rest.foldl (fun b a => if before a b then a else b) p]

/-- PREEMPT_DELAY_EXPIRY: the head of a queue has waited longer than the delay without becoming placeable. -/
def execPreemptDelayExpiry (tower queue : Nat) (s : State) : Out :=
  let t := s.tower tower
  let waited := Config.cyclesTo s.steps - Config.cyclesTo (t.queues.getD queue {}).since
  .next (
    if 2 ≤ tower ∨ t.lfrz ∨ t.pdly = 0 ∨ waited ≤ t.pdly ∨ (s.placement tower queue).isSome
        ∨ t.preempts.any (fun p => p.1 == queue && s.waiting tower queue p.2.2.2) then s
    else match s.headOf tower queue with
      | none => s
      | some (l, i, _) =>
        match s.victims tower queue l i with
        | [] => s
        | (n, k) :: _ =>
          (s.modCore n fun c => { c with net := c.net ++ [superMessage k 1 0 none (some (s.thread n k).bindStamp)] }).modTower tower fun t =>
            { t with preempts := (queue, n, k, i.launch, i.index) :: t.preempts })

/-! ### Work pools (R40, R41, R324) -/

/-- Item n of a pool: its row and column (R40). -/
def Pool.item (p : Pool) : Nat × Nat :=
  let band := p.cursor / (p.w * p.cols)
  let within_ := p.cursor % (p.w * p.cols)
  let h := min p.w (p.rows - band * p.w)
  (band * p.w + within_ % h, within_ / h)

/-- The answer word of the next request of a launch: an item, or the end token (R41). -/
def State.poolAnswer (s : State) (tw launch : Nat) : Word × Option Nat :=
  match (s.tower tw).pools.find? fun p => p.2.launch == some launch with
  | none => (BitVec.allOnes 64, none)
  | some (id, p) =>
    if p.rows * p.cols ≤ p.cursor then (BitVec.allOnes 64, none)
    else
      let (row, col) := p.item
      (BitVec.ofNat 64 (col % 2 ^ 16 + row % 2 ^ 16 * 2 ^ 16 + p.cursor % 2 ^ 16 * 2 ^ 32), some id)

/-- The task of a slot has neither retired nor been killed: one that ends by DONE, an error or a discard keeps its slot until its waits
and steps are over (R43, R268, R324). -/
def Thread.answerable (t : Thread) : Bool :=
  match t.wait with
  | .retiring .killed _ => false
  | _ => true

/-- The event of a work-pool answer (R407, KIND 3). -/
def State.wqryEvent (s : State) (tower : Nat) (w : Wqry) : Event :=
  { kind := 3, core := coreId w.core, cls := 2, place := 0, v0 := (s.poolAnswer tower w.launch).1, v1 := (s.thread w.core w.slot).taskid }

/-- WQRY_ANSWER: the oldest request that no replay holds is answered with a single write; the answer to a task that has retired or been
killed is dropped, and its item counts as handed out (R41, R324, R408). -/
def execWqryAnswer (tower : Nat) (s : State) : Out :=
  .next (match (s.tower tower).wqry.find? fun w => !s.holdsEvent tower w.launch (s.wqryEvent tower w) with
    | none => s
    | some w =>
      if (s.tower tower).lfrz then s
      else
        let t := s.thread w.core w.slot
        let (a, id) := s.poolAnswer tower w.launch
        match s.event tower w.launch (s.wqryEvent tower w) with
        | (s1, false) => s1
        | (s1, true) =>
          let s2 := s1.modTower tower fun t =>
            { t with wqry := t.wqry.erase w
                     pools := t.pools.map fun p => if some p.1 = id then (p.1, { p.2 with cursor := p.2.cursor + 1 }) else p }
          if t.bindStamp = w.stamp && t.occ == .task && t.answerable then
            s2.write (.random 0) w.addr (leBytes 8 a.toNat)
          else s2)

end Sys2Proof.Machine
end

