-- ==== Sys2Proof/Machine/Code.lean ====
section
/-!
DEFINITION. Code: admission of objects (R332, R348 to R351, R395), the code heap and its stubs (R333, R334), translation (R337 to
R342), the loader's bindings (R18, R336) and the translator's requests (R335).
-/
namespace Sys2Proof.Machine

/-! ### Signatures (R392, R393, R395) -/

/-- The image slot from which a tower booted: B on the alternative path of step 1 (R396). -/
def State.bootImage (s : State) (tw : Nat) : List Byte :=
  Config.firmwareImage tw (if ((s.tower tw).boot.steps.getD 1 {}).path = 2 then 1 else 0)

/-- The hash of a code-signing key: the fused root hash for index 0, an entry of the booted image's CSK for 1 to 16. -/
def State.signingKey (s : State) (tw idx : Nat) : Option (BitVec 256) :=
  if idx = 0 then some s.rootHash
  else if 16 < idx then none
  else
    let h := BitVec.ofNat 256 (rdNat (s.bootImage tw) (0xC20 + 32 * (idx - 1)) 32)
    if h = 0 then none else some h

/-- The signature section of an object verifies over the object with the section taken as zero (R395). -/
def State.signatureOk (s : State) (tw : Nat) (img : List Byte) (sig : Sect) : Bool :=
  let b := sig.bytes img
  let key := (b.drop 8).take 1793
  sig.size == 0xC10 && rdNat b 4 4 == 0 && rdNat b 0x709 7 == 0
    && s.signingKey tw (rdNat b 0 4) == some (shake256 key)
    && falconVerifies key ((b.drop 0x710).take 1280)
        (shake256Long (img.take sig.off ++ List.replicate sig.size 0 ++ img.drop (sig.off + sig.size)))

/-! ### Admission (R332, R348 to R351) -/

/-- Stubs of a tower's table, the places of the table and of the functions (R333). -/
def Tower.nstub (t : Tower) : Nat := 1024 * t.stbn
def Tower.stubAddr (t : Tower) (g : Nat) : Nat := t.chb * 4096 + 4 * g
def Tower.heapStart (t : Tower) : Nat := t.stubAddr t.nstub
/-- Stub numbers in use: those of purged objects stay theirs, so that their stubs go on answering reply 2 (R334, R342). -/
def Tower.stubsUsed (t : Tower) : List Nat := t.objects.flatMap fun o => o.funcs.map Func.stub

/-- Stub numbers for the functions of an object: the lowest free ones; none when too few are free (R334). -/
def Tower.giveStubs (t : Tower) (fs : List Func) : Option (List Func) :=
  let free := (List.range t.nstub).filter fun g => !t.stubsUsed.contains g
  if free.length < fs.length then none else some ((fs.zip free).map fun p => { p.1 with stub := p.2 })

/-- Where the text of the next native object stands: above the runtime's DONE word and the native objects before it, on 16 bytes
(R347; log 27). -/
def Tower.nextBase (t : Tower) : Nat :=
  ((t.objects.filter fun o => !o.portable).foldl (fun e o => max e (o.base + o.text.length)) 16 + 15) / 16 * 16

/-- The places that a record of a portable function's code needs when the function stands at p: a function that code names is its stub
(R334). -/
def Tower.textPlaces (t : Tower) (o : CodeObj) (f : Func) (p : Nat) (r : Reloc) : Places :=
  let start := o.base + f.off
  let stub : Option Word := (r.func.bind fun i => o.funcs[i]?).map fun g => BitVec.ofNat 64 (t.stubAddr g.stub)
  { sym := if r.inText then stub.getD (r.sym - BitVec.ofNat 64 start + BitVec.ofNat 64 p) else r.sym
    linked := r.sym
    word := BitVec.ofNat 64 (p + r.off) - BitVec.ofNat 64 start
    stub := stub
    text := BitVec.ofNat 64 o.base, id := o.id }

/-- Heap places that stand for all: the range of places at which a field takes a value is at least 256 KiB long, so that it holds one of
these where it holds any. -/
def Tower.triedPlaces (t : Tower) : List Nat :=
  t.heapStart :: ((List.range 9).map (0x10000 * ·)).filter fun p => decide (t.heapStart < p)

/-- A relocation record of an object's portable code is refused wherever its function is placed (R350). -/
def Tower.unfit (t : Tower) (o : CodeObj) : Bool :=
  o.funcs.any fun f => f.relocs.any fun r => t.triedPlaces.all fun p => (r.patch (t.textPlaces o f p r)).isNone

/-- What admission answers: a refusal, one for the security version, or the object with the pools it declares. -/
inductive Admitted where
  | refused
  | version (o : CodeObj)
  | ok (o : CodeObj) (pools : List (Nat × Pool))

/-- Sections that are loaded as data: neither text nor the container's or the toolchain's own (R349). -/
def Sect.isData (x : Sect) : Bool :=
  (x.type == 1 || x.type == 8) && x.name != asciiBytes ".text" && !x.named ".clus." && x.name != asciiBytes ".gys.pool"
    && !x.named ".gysp." && !x.named ".rela." && x.name != asciiBytes ".symtab" && x.name != asciiBytes ".strtab"

/-- The loader's checks and work on an image (R332, R348, R350, R351). The limits of R114 bind the `.pool` directive: that the loader
creates a pool with whatever rows, columns and w its descriptor holds is the model's choice (log 88). -/
def State.admission (s : State) (tw : Nat) (img : List Byte) : Admitted :=
  let t := s.tower tw
  let ss := sectsOf img
  let syms := symsOf img ss
  let portable := rdNat img 48 4 % 2 == 1
  let id := nextFrom (t.objects.map CodeObj.id) (t.objects.length + 1) 1
  let text := findSect ss (if portable then ".gysp.text" else ".text")
  let pool := findSect ss ".gys.pool"
  let descs := (pool.map fun p => p.2.bytes img).getD []
  let free := (List.range 512).filter fun i => (look t.pools i).isNone
  let count := descs.length / 8
  let poolAt (sect value type : Nat) : Option Nat :=
    pool.bind fun p =>
      if p.1 = sect ∧ type = 1 ∧ p.2.addr ≤ value ∧ (value - p.2.addr) % 8 = 0 ∧ value - p.2.addr < descs.length then
        free[(value - p.2.addr) / 8]?
      else none
  let tab := ((findSect ss ".gysp.ftab").map fun f => f.2.bytes img).getD []
  let note := ((findSect ss ".gysp.note").map fun f => f.2.bytes img).getD []
  let textSize := (text.map fun x => x.2.size).getD 0
  let textAddr := (text.map fun x => x.2.addr).getD 0
  let funcAt (o : Nat) : Option Nat := (List.range (tab.length / 32)).find? fun i => rdNat tab (32 * i) 4 == o
  let relocs (i : Nat) : List Reloc := (ss.filter fun x => x.type == 4 && x.info == i).flatMap
    (relocsOf img syms text funcAt poolAt)
  let base := t.nextBase
  let fs := (List.range (tab.length / 32)).mapM
    (funcOf tab textSize ((text.map fun x => relocs x.1).getD []) ((text.map fun x => relaBytes img ss x.1).getD []))
  let place (shift : Word) (r : Reloc) : Places :=
    let stub : Option Word :=
      (r.func.bind fun i => (fs.bind t.giveStubs).bind fun l => l[i]?).map fun f => BitVec.ofNat 64 (t.stubAddr f.stub)
    { linked := if r.inText && !portable then r.sym - BitVec.ofNat 64 textAddr + BitVec.ofNat 64 base else r.sym
      sym := if r.inText && !portable then r.sym - BitVec.ofNat 64 textAddr + BitVec.ofNat 64 base else stub.getD r.sym
      word := shift + BitVec.ofNat 64 r.off
      stub := stub
      text := BitVec.ofNat 64 (if portable then textAddr else base), id := id }
  let load (x : Nat × Sect) : Option (Nat × List Byte) :=
    (applyRelocs (place 0) x.2.addr (relocs x.1)
      (if x.2.type = 8 then List.replicate x.2.size 0 else x.2.bytes img)).map fun b => (x.2.addr, b)
  let numbered := ss.mapIdx fun i x => (i, x)
  if !elfHeaderOk img || ss.any (fun x => x.type != 8 && decide (img.length < x.off + x.size))
      || (syms.drop 1).any (fun y => y.shndx == 0) || decide (free.length < count)
      || (numbered.any fun x => (relocs x.1).any fun r => r.never portable) then .refused
  else
    match (numbered.filter fun (x : Nat × Sect) => x.2.named ".clus.").mapM load,
        (numbered.filter fun (x : Nat × Sect) => x.2.isData).mapM load with
    | some clus, some data =>
      let pools := (List.range count).map fun i =>
        (free.getD i 0, ({ rows := rdNat descs (8 * i) 2, cols := rdNat descs (8 * i + 2) 2, w := rdNat descs (8 * i + 4) 1 } : Pool))
      let o : CodeObj := { id := id, portable := portable, clus := clus, data := data }
      if !portable then
        (match text with
         | none => .refused
         | some x =>
           match applyRelocs (place (BitVec.ofNat 64 base - BitVec.ofNat 64 textAddr)) textAddr (relocs x.1) (x.2.bytes img) with
           | some b => if t.chb * 4096 < base + b.length then .refused else .ok { o with text := b, base := base } pools
           | none => .refused)
      else
        let sver := rdNat note 16 1 % 128
        let signed := rdNat note 16 1 / 128 == 1
        let sigOk := match findSect ss ".gysp.sig" with | some g => s.signatureOk tw img g.2 | none => false
        if !noteOk note || (signed && !sigOk) then .refused
        else
          let o1 := { o with sver := sver, signed := signed, need := BitVec.ofNat 64 (rdNat note 8 8)
                             text := (text.map fun (x : Nat × Sect) => x.2.bytes img).getD [], base := textAddr }
          if sver < s.fuses then .version { o1 with purged := true, clus := [], data := [] }
          else match fs.bind t.giveStubs with
            | some l => if t.unfit { o1 with funcs := l } then .refused else .ok { o1 with funcs := l } pools
            | none => .refused
    | _, _ => .refused

/-! ### Stubs and the heap (R333, R334, R341) -/

/-- `JAL x0` from one address to another (R334). -/
def jalWord (src dest : Nat) : Nat := 0x84000000 + lowBits 21 (((dest : Int) - (src : Int)) / 4)

/-- The word of a function's stub on a core. -/
def Tower.stubWord (t : Tower) (core : Nat) (f : Func) : Nat :=
  let a := t.stubAddr f.stub
  match f.place with
  | some p => if f.cores.contains core then jalWord a p else jalWord a (0x80000 + 4 * f.stub)
  | none => jalWord a (0x80000 + 4 * f.stub)

/-- Firmware's write of stubs on a core: a layer without power wakes, and the write waits for it (R296). -/
def State.writeStubs (s : State) (tw core : Nat) (fs : List Func) : State :=
  if s.powerWaits (privBase core) then
    (s.wake (layerOf core)).modTower tw fun t => { t with coldStubs := core :: t.coldStubs.filter (· != core) }
  else
    fs.foldl (fun st f =>
      st.write (.random 0) (privBase core + (s.tower tw).stubAddr f.stub) (leBytes 4 ((s.tower tw).stubWord core f))) s

/-- The functions of a tower's objects. -/
def Tower.allFuncs (t : Tower) : List Func := t.objects.flatMap CodeObj.funcs

/-- The stubs that have waited for the power of a layer are written (R296). -/
def State.warmStubs (s : State) (gl : Nat) : State :=
  let tw := gl / 8
  let t := s.tower tw
  let cold := t.coldStubs.filter fun c => layerOf c == gl
  if cold.isEmpty then s
  else cold.foldl (fun st c => st.writeStubs tw c t.allFuncs)
    (s.modTower tw fun t => { t with coldStubs := t.coldStubs.filter fun c => layerOf c != gl })

/-- The cores of a tower whose code boundary lies above the stub table. -/
def State.heapCores (s : State) (tw : Nat) : List Nat :=
  (s.cores.filter fun p => towerOf p.1 == tw && decide ((s.tower tw).heapStart ≤ p.2.xb.toNat)).map Prod.fst

/-- OBJECT_ADMIT: the loader admits an object, or refuses it; one refused for its security version is remembered (R342). The stubs of its
functions are written on every core that has a heap (R334), when its layer has power (R296). A frozen Lahar's pools stand still (R374). -/
def execObjectAdmit (tower : Nat) (image : List (BitVec 64)) (s : State) : Out :=
  .next (
    if 2 ≤ tower ∨ (s.tower tower).lfrz then s
    else match s.admission tower (image.flatMap fun w => leBytes 8 w.toNat) with
      | .refused => s
      | .version o => s.modTower tower fun t => { t with objects := t.objects ++ [o] }
      | .ok o pools =>
        let s1 := s.modTower tower fun t =>
          { t with objects := t.objects ++ [o], pools := pools.foldl (fun m p => put m p.1 p.2) t.pools }
        if o.funcs.isEmpty then s1 else (s1.heapCores tower).foldl (fun st n => st.writeStubs tower n (s1.tower tower).allFuncs) s1)

/-- A function of a tower changed, found by its stub number. -/
def State.modFunc (s : State) (tw g : Nat) (f : Func → Func) : State :=
  s.modTower tw fun t => { t with objects := t.objects.map fun o =>
    if o.purged then o else { o with funcs := o.funcs.map fun x => if x.stub = g then f x else x } }

/-- Launches with a resident or saved task. -/
def State.presentLaunches (s : State) (tw : Nat) : List Nat :=
  ((s.cores.filter fun p => towerOf p.1 == tw).flatMap fun p => p.2.threads.toList.filterMap fun t => t.task.map TaskInfo.launch)
    ++ (s.tower tw).saved.map fun v => v.info.launch

/-- Heap ranges that may not be used: placed functions, and reclaimed ones until every core has passed a launch boundary. -/
def State.heapUsed (s : State) (tw : Nat) : List (Nat × Nat) :=
  let t := s.tower tw
  let here := s.presentLaunches tw
  (t.allFuncs.filterMap fun f => f.place.map fun p => (p, f.size))
    ++ (t.reclaim.filter fun r => r.2.2.any here.contains).map fun r => (r.1, r.2.1)

/-- A range of the heap is free. -/
def State.heapFree (s : State) (tw top a n : Nat) : Bool :=
  a % 4 == 0 && decide ((s.tower tw).heapStart ≤ a) && decide (a + n ≤ top)
    && !(s.heapUsed tw).any fun u => overlaps a n u.1 u.2

/-- The lowest free place of a size. -/
def State.heapPlace (s : State) (tw top n : Nat) : Option Nat :=
  (((s.tower tw).heapStart :: (s.heapUsed tw).map fun u => (u.1 + u.2 + 3) / 4 * 4).filter fun a => s.heapFree tw top a n).foldl
    (fun b a => match b with | none => some a | some x => some (min x a)) none

/-- A function leaves the heap: its stub reverts on every core, its bytes are reclaimed later, and no further record is sent to
its entry address (R341; log 28). The bytes may be used again when no task of a launch that is live now is resident or saved. -/
def State.evict (s : State) (tw : Nat) (f : Func) : State :=
  match f.place with
  | none => s
  | some p =>
    let entryOf (st : State) (b : (Nat × Nat × Nat × Nat) × Nat) : Nat := fld ((st.core b.1.1).hent.getD b.2 0) 0 32
    let s1 := (s.modFunc tw f.stub fun x => { x with place := none, cores := [] }).modTower tw fun t =>
      { t with reclaim := (p, f.size, t.launches.map Prod.fst) :: t.reclaim
               binding := t.binding.filter fun b => entryOf s b != p }
    f.cores.foldl (fun st c => st.writeStubs tw c [{ f with place := none }]) s1

/-- The least recently used placed function that no pending request names. -/
def State.evictable (s : State) (tw : Nat) : Option Func :=
  let t := s.tower tw
  (t.allFuncs.filter fun f => f.place.isSome && !t.requests.any fun r => r.stub == f.stub).foldl
    (fun b f => match b with
      | none => some f
      | some x => if f.lastUse < x.lastUse then some f else b) none

/-- Functions evicted in order of least recent use until a size would fit once the reclaimed bytes may be used (R341). -/
def State.makeRoom (s : State) (tw top n : Nat) : Nat → State
  | 0 => s
  | k + 1 =>
    if ((s.modTower tw fun t => { t with reclaim := [] }).heapPlace tw top n).isSome then s
    else match s.evictable tw with
      | none => s
      | some f => (s.evict tw f).makeRoom tw top n k

/-- An object below the fuse counter is purged with its translations, the cached ones too (R342). -/
def State.purge (s : State) (tw : Nat) (o : CodeObj) : State :=
  if o.purged then s
  else
    (o.funcs.foldl (fun st f => st.evict tw f) s).modTower tw fun t =>
      { t with objects := t.objects.map fun x => if x.id = o.id then { x with purged := true } else x
               translations := t.translations.filter fun x => x.obj != o.id }
/-- Every object of a tower that is below the counter. -/
def State.purgeAll (s : State) (tw : Nat) : State :=
  ((s.tower tw).objects.filter s.belowFuses).foldl (fun st o => st.purge tw o) s

/-! ### Translation (R337, R338) -/

/-- The forms that only level S may execute, TSAVE and TRESTORE among them (R186), and supervisor CSRs (R102, R337). -/
def supervisorWord (w : Half) : Bool :=
  (fld w 26 6 == 0x25 &&
    (decide (9 ≤ fld w 0 4 ∧ fld w 0 4 ≤ 0xD) || (decide (fld w 0 4 ≤ 5) && decide (0x100 ≤ fld w 4 12))))
    || (fld w 26 6 == 0x39 && (fld w 0 5 == 4 || fld w 0 5 == 5))

/-- The byte offset that a branch, a JAL or an ADDPC names, as an offset from its own word. -/
def relTarget (w : Half) : Option Int :=
  let m := fld w 26 6
  if (0x1B ≤ m ∧ m ≤ 0x20) ∨ m = 0x23 then some (4 * (BitVec.ofNat 16 (fld w 0 16)).toInt)
  else if m = 0x21 then some (4 * (BitVec.ofNat 21 (fld w 0 21)).toInt)
  else if m = 0x0A then some (BitVec.ofNat 21 (fld w 0 21)).toInt
  else none

/-- FEAT of a class (R327). -/
def featOf (cls : Nat) : Word := if cls ≤ 1 then 0x1F else 0x1D

/-- The features that a target has or its runtime emulates (R338). -/
def featureSet (cls : Nat) : Word := featOf cls ||| Config.emulatedSet

/-- The word at an offset of a function passes the translator's checks (R337). -/
def wordTranslates (cls size : Nat) (patched : Nat → Bool) (o : Nat) (w : Half) : Bool :=
  let m := fld w 26 6
  if 0x3B ≤ m ∧ m ≤ 0x3E then bit (featureSet cls) (16 + Config.extensionOf w)
  else
    wordLegal w && !supervisorWord w &&
      (match relTarget w with
       | none => true
       | some d => patched o || decide (0 ≤ (o : Int) + d ∧ (o : Int) + d < size))

/-- The key of a function's translation for a class (R339). -/
def cacheKey (cls : Nat) (f : Func) (code : List Byte) : BitVec 256 :=
  shake256 (leBytes 8 Config.translatorVersion.toNat ++ leBytes 8 (featOf cls).toNat ++ leBytes 8 Config.emulatedSet.toNat
    ++ leBytes 8 Config.microcodeRevision.toNat ++ leBytes 4 1 ++ leBytes 4 0 ++ leBytes 8 f.size ++ code ++ f.stored)

/-- The portable code of a function. -/
def CodeObj.codeOf (o : CodeObj) (f : Func) : List Byte := (o.text.drop f.off).take f.size

/-- The native words of a function before their patches: those of the translation cache, or translated anew, which the function may fail
(R337 to R339). -/
def State.nativeWords (s : State) (tw cls : Nat) (o : CodeObj) (f : Func) : Option (List Byte) :=
  let bytes := o.codeOf f
  let patched (x : Nat) : Bool := f.relocs.any fun r => r.off / 4 * 4 == o.base + f.off + x
  if f.bad ∨ (f.uses ||| o.need) &&& ~~~featureSet cls ≠ 0 then none
  else match (s.tower tw).translations.find? fun c => c.key == cacheKey cls f bytes with
    | some c => some c.code
    | none =>
      if (List.range (f.size / 4)).all fun i =>
          wordTranslates cls f.size patched (4 * i) (BitVec.ofNat 32 (rdNat bytes (4 * i) 4)) then some bytes
      else none

/-- A translation that has been used stands at the front of the cache; the least recent one is dropped when it is full (R339). -/
def State.cacheUse (s : State) (tw cls : Nat) (o : CodeObj) (f : Func) : State :=
  match s.nativeWords tw cls o f with
  | none => s
  | some code =>
    let key := cacheKey cls f (o.codeOf f)
    s.modTower tw fun t =>
      { t with translations := (⟨key, o.id, code⟩ :: t.translations.filter fun c => c.key != key).take Config.cacheRoom }

/-- The native code of a function at a place: its words with their records applied; none when it fails translation. -/
def State.translate (s : State) (tw cls : Nat) (o : CodeObj) (f : Func) (p : Nat) : Option (List Byte) :=
  (s.nativeWords tw cls o f).bind (applyRelocs ((s.tower tw).textPlaces o f p) (o.base + f.off) f.relocs)

/-- A function's code and stubs written on a core, at its place (R333, R335). -/
def State.placeOn (s : State) (tw core : Nat) (f : Func) (p : Nat) (code : List Byte) : State :=
  ((s.write (.random 0) (privBase core + p) code).modFunc tw f.stub fun x =>
    { x with place := some p, lastUse := s.steps, cores := if x.cores.contains core then x.cores else core :: x.cores })
    |> fun st => st.writeStubs tw core (st.tower tw).allFuncs

/-- The `.clus.` sections of an object copied into the cluster of a core (R349). -/
def State.placeClus (s : State) (tw core : Nat) (o : CodeObj) : State :=
  if o.clusters.contains (clusterOf core) then s
  else
    (o.clus.foldl (fun st x =>
      if 0x100000 ≤ x.1 ∧ x.1 + x.2.length ≤ 0x900000 then
        st.write (.random 0) (clusterBase (layerOf core) (cluIdx core) + (x.1 - 0x100000)) x.2
      else st) s).modTower tw fun t =>
      { t with objects := t.objects.map fun y =>
          if y.id = o.id then { y with clusters := clusterOf core :: y.clusters } else y }

/-- What an attempt to place a function on a core comes to. -/
inductive Placing where
  | placed (s : State) (at_ : Nat)
  | later (s : State)
  | failed

/-- A function placed on a core, with its object's cluster sections, where it already stands, at a chosen free place, or after evictions at
a later attempt (R341, R349). It stands below this core's XB, or fails: the heap is the same range on every core (R333; log 27). -/
def State.placeFunc (s : State) (tw core : Nat) (o : CodeObj) (f : Func) (choice : Option Nat) : Placing :=
  let top := (s.core core).xb.toNat
  match (match f.place with | some p => some p | none => choice.filter fun a => s.heapFree tw top a f.size) with
  | some p =>
    (match if p + f.size ≤ top then s.translate tw (s.clsOf core) o f p else none with
     | some code => .placed (((s.cacheUse tw (s.clsOf core) o f).placeOn tw core f p code).placeClus tw core o) p
     | none => .failed)
  | none =>
    if top < (s.tower tw).heapStart + f.size ∨ (s.translate tw (s.clsOf core) o f (s.tower tw).heapStart).isNone then .failed
    else if (s.heapPlace tw top f.size).isSome then .later s
    else .later (s.makeRoom tw top f.size ((s.tower tw).allFuncs.length + 1))

/-! ### Requests of the overlay handler (R335, R340) -/

/-- The function that a stub number belongs to. -/
def Tower.funcAt (t : Tower) (g : Nat) : Option (CodeObj × Func) :=
  t.objects.findSome? fun o => (o.funcs.find? fun f => f.stub == g).map fun f => (o, f)

/-- A doubleword of a request record, read by firmware under key 0 (R389). -/
def State.ringWord (s : State) (core slot off : Nat) : Word :=
  BitVec.ofNat 64 (leNat (s.bytesKey (.random s.key0) (Config.requestRing core slot + off) 8))

/-- TRANSLATION_REQUEST: the record that a handler has stored reaches the translator, while its reply word says that it waits. -/
def execTranslationRequest (core slot : Nat) (s : State) : Out :=
  let tw := towerOf core
  let t := s.tower tw
  let w := s.ringWord core slot 0
  let g := fld w 0 16
  .next (
    if coreCount ≤ core ∨ 4 ≤ slot ∨ s.ringWord core slot 8 ≠ 0xFFFFFFFFFFFFFFFE ∨ fld w 16 2 ≠ slot ∨ fld w 18 12 ≠ coreId core
        ∨ t.nstub ≤ g ∨ t.requests.any (fun r => r.core == core && r.slot == slot) then s
    else
      let th := s.thread core slot
      (s.modFunc tw g fun f => { f with lastUse := s.steps }).modTower tw fun t =>
        { t with requests := t.requests ++
          [{ core := core, slot := slot, stub := g, taskid := th.taskid, launch := th.task.map TaskInfo.launch }] })

/-- The reply word written, and the request closed. -/
def State.reply (s : State) (tw : Nat) (r : TransReq) (v : Nat) : State :=
  (s.write (.random s.key0) (Config.requestRing r.core r.slot + 8) (leBytes 8 v)).modTower tw fun t =>
    { t with requests := t.requests.erase r }

/-- A failed translation's reply, with which the requesting launch is killed (R340). -/
def State.failRequest (s : State) (tw : Nat) (r : TransReq) : State :=
  let s1 := s.reply tw r 1
  match r.launch with
  | some l => s1.killLaunch tw l 8 (some r.taskid)
  | none => s1

/-- A request answered with a reply, if its rules give that reply now; a function not yet placed takes the place named, which must be
free. -/
def State.serve (s : State) (tw reply place : Nat) (r : TransReq) : Option State :=
  let fail : Option State := if reply = 1 ∧ (s.tower tw).lfrz = false then some (s.failRequest tw r) else none
  match (s.tower tw).funcAt r.stub with
  | none => fail
  | some (o, f) =>
    if o.purged || s.belowFuses o then (if reply = 2 then some ((s.purge tw o).reply tw r 2) else none)
    else match s.placeFunc tw r.core o f (some place) with
      | .placed s1 _ => if reply = 0 then some (s1.reply tw r 0) else none
      | .later _ => none
      | .failed => fail

/-- Evictions make room for a request that finds none (R341). -/
def State.makeWay (s : State) (tw place : Nat) (r : TransReq) : State :=
  match (s.tower tw).funcAt r.stub with
  | some (o, f) =>
    if o.purged || s.belowFuses o then s
    else match s.placeFunc tw r.core o f (some place) with
      | .later s1 => s1
      | _ => s
  | none => s

/-- TRANSLATION_REPLY: the oldest request that can be given this reply is answered, so that a request which waits for room holds up none
behind it (R335). When none can, evictions make room for the oldest. -/
def execTranslationReply (tower reply place : Nat) (s : State) : Out :=
  let rs := (s.tower tower).requests
  .next (
    if 2 ≤ tower then s
    else match rs.findSome? (s.serve tower reply place) with
      | some s1 => s1
      | none => match rs with
        | [] => s
        | r :: _ => s.makeWay tower place r)

/-! ### Bindings (R18, R336) -/

/-- A record is with the loader: no core that its masks and class allow holds a binding for it, or it has been passed to the loader and
no task of it has been dispatched since (R18; log 74). -/
def State.withLoader (s : State) (tw : Nat) (l : Launch) : Bool :=
  (l.loading && l.next == 0) ||
    !((s.tower tw).binding.any fun b =>
      b.1.2 == (recObj l.record, recEntry l.record, l.queue / 8) && s.present b.1.1 && recSelects l.record tw b.1.1
        && (recClass l.record).testBit (s.clsOf b.1.1))

/-- A live launch that names an entry at a level, may use a core, and is with the loader. -/
def State.wantsBinding (s : State) (tw core obj entry level : Nat) : Option (Nat × Launch) :=
  (s.tower tw).launches.find? fun p =>
    recObj p.2.record == obj && recEntry p.2.record == entry && p.2.queue / 8 == level
      && recSelects p.2.record tw core && (recClass p.2.record).testBit (s.clsOf core) && s.withLoader tw p.2

/-- The channel that binds next: the lowest unbound one, else the one that may be unbound and has bound a message longest ago. That
channels which have never bound one count as furthest back, and that the lowest of these goes first, is the model's choice
(log 74). -/
def State.freeChannel (s : State) (tw core : Nat) : Option Nat :=
  let c := s.core core
  let bound (h : Nat) : Bool := bit (c.hent.getD h 0) 36
  match (List.range 31).find? fun h => !bound h with
  | some h => some h
  | none =>
    let resident := (List.range 4).filterMap fun k => (s.thread core k).task.bind TaskInfo.chan
    let idle := (List.range 31).filter fun h =>
      !(c.inbox ++ c.net).any (fun m => m.chan == h) && !resident.contains h
    idle.foldl (fun b h =>
      let age (x : Nat) : Nat := (c.chanUse.idxOf? x).getD c.chanUse.length
      match b with
      | none => some h
      | some x => if age x < age h then some h else b) none

/-- A channel bound to an entry address (R18); the word DONE stands at local address 0 (R347), and the launch's record is with the
loader. -/
def State.bindEntry (s : State) (tw core h entry level obj addr slot : Nat) : State :=
  ((s.write (.random 0) (privBase core) (leBytes 4 0xA0000004)).modCore core fun c =>
    { c with hent := c.hent.setIfInBounds h (BitVec.ofNat 64 (addr % 2 ^ 32 + level * 2 ^ 32 + 2 ^ 36)) }).modTower tw fun t =>
    { t with binding := ((core, obj, entry, level), h) :: t.binding.filter fun b => !(b.1.1 == core && b.2 == h)
             launches := t.launches.map fun p => if p.1 = slot then (p.1, { p.2 with loading := true }) else p }

/-- The text of a native object stands on a core, below XB. A boundary that is too low is raised, unless a private range lies in
the way (log 24). -/
def State.placeNative (s : State) (tw core : Nat) (o : CodeObj) : Option State :=
  let xb := (s.core core).xb.toNat
  let need := (o.base + o.text.length + 4095) / 4096 * 4096
  if xb < need ∧ ((s.usedRanges core).any fun u => overlaps xb (need - xb) u.1 u.2) then none
  else
    let s1 := if xb < need then s.modCore core fun c => { c with xb := BitVec.ofNat 64 need } else s
    if o.cores.contains core then some s1
    else
      some ((s1.write (.random 0) (privBase core + o.base) o.text).modTower tw fun t =>
        { t with objects := t.objects.map fun y => if y.id = o.id then { y with cores := core :: y.cores } else y })

/-- An accepted record whose entry cannot be bound is refused (R336). When tasks of it have been dispatched or removed already, the
refusal reaches those that still wait: they are removed as killed ones, with the refusal's bit of the join status (log 76). -/
def State.refuseLaunch (s : State) (tw slot : Nat) (l : Launch) (cause : Nat) : State :=
  if (s.tower tw).lfrz then s
  else if l.next ≠ 0 ∨ !l.removed.isEmpty then
    let s1 := s.modQueue tw l.queue fun v => { v with refs := min (v.refs + 1) 0xFFFF, cause := cause }
    let (s2, ids, n) := s1.dropQueued tw slot (fun _ => true) true 0
    ((s2.dropStale tw).retireUnbound tw slot (4 ||| (if cause = 9 then 8 else 16)) ids n).1
  else
    ((s.modRing tw l.queue fun es => es.filter fun e => e.accepted != some slot).modTower tw (fun t =>
      { t with launches := drop t.launches slot
               pools := t.pools.map fun p => if p.2.launch = some slot then (p.1, { p.2 with launch := none }) else p })
      |>.refuse tw l.queue { record := l.record, asn := l.asn, stamp := 0 } cause).dropStale tw

/-- LOADER_BIND: the loader, to which a record without a binding has been passed, places the code of its entry on a core and binds a channel
to the entry (R18, R336, R349). A core whose XB lies below the function's place takes no binding of it (log 27). -/
def execLoaderBind (core obj entry level : Nat) (s : State) : Out :=
  let tw := towerOf core
  let t := s.tower tw
  .next (
    if coreCount ≤ core ∨ !s.present core ∨ (t.binding.find? fun b => b.1 == (core, obj, entry, level)).isSome then s
    else if !s.mayBind core then s.wake (layerOf core)
    else match s.wantsBinding tw core obj entry level, s.objOf tw obj with
      | some (slot, l), some o =>
        (match s.freeChannel tw core with
         | none => s
         | some h =>
           if o.purged || s.belowFuses o then (s.purge tw o).refuseLaunch tw slot l 10
           else if !o.portable then
             match s.placeNative tw core o with
             | none => s
             | some s1 =>
               (s1.placeClus tw core o).bindEntry tw core h entry level obj (o.base + entry) slot
           else
             match o.funcs.find? fun f => f.entry && f.off == entry with
             | none => s.refuseLaunch tw slot l 9
             | some f =>
               if f.place.any fun p => decide ((s.core core).xb.toNat < p + f.size) then s
               else match s.placeFunc tw core o f (s.heapPlace tw (s.core core).xb.toNat f.size) with
               | .placed s1 a => s1.bindEntry tw core h entry level obj a slot
               | .later s1 => s1
               | .failed => s.refuseLaunch tw slot l 9)
      | _, _ => s)

end Sys2Proof.Machine
end

