-- ==== Sys2Proof/Machine/Faults.lean ====
section
/-!
DEFINITION. The fault queue and its answers (R303, R386 to R388), invalidation of translations (R385), and the key operations of
the HBM controllers (R390, R391).
-/
namespace Sys2Proof.Machine

/-! ### The fault queue (R386, R387) -/

/-- Records of a tower's fault queue. -/
def faultRing : Nat := 32768

/-- FAULT_RECORD_WRITE: the oldest held record enters the ring when it has room, with the next sequence number; one written into
an empty ring raises the tower's vector. -/
def execFaultRecordWrite (tower : Nat) (s : State) : Out :=
  let t := s.tower tower
  .next (
    if 2 ≤ tower ∨ (t.fqtail + 1) % faultRing = t.fqhead then s
    else match t.heldFaults with
      | [] => s
      | r :: rest =>
        let seq := t.fseq % 2 ^ 32
        let r1 := { r with w1 := putFld r.w1 32 32 seq, seq := seq }
        let s1 := (s.modTower tower fun t =>
          { t with faults := put t.faults t.fqtail r1, heldFaults := rest, fseq := t.fseq + 1
                   fqtail := (t.fqtail + 1) % faultRing }).count tower 7
        if t.fqtail = t.fqhead then s1.interrupt tower else s1)

/-- FQHEAD written: the vector is raised while records are left (R386). -/
def State.writeFqhead (s : State) (tw : Nat) (v : Word) : State :=
  let head := fld v 0 15
  let s1 := s.modTower tw fun t => { t with fqhead := head }
  if (s.tower tw).fqtail = head then s1 else s1.interrupt tw

/-- FQHEAD_WRITE. -/
def execFqheadWrite (tower : Nat) (value : BitVec 64) (s : State) : Out :=
  .next (if 2 ≤ tower then s else s.writeFqhead tower value)

/-! ### Answers (R303, R388) -/

/-- A suspended thread learns the answer: it replays its instruction, or the failed fault is delivered. An ordered VAMO traps
with the cause of its element (R165). -/
def State.threadAnswer (s : State) (n k : Nat) (failed : Bool) : State :=
  match (s.thread n k).wait with
  | .suspended f =>
    if !failed then s.modThread n k fun t => { t with wait := .none, since := some s.steps }
    else if f.vamo then
      s.trapAt n k { cause := 0xD, eval := BitVec.ofNat 64 f.va, eval2 := 7, wr := f.write, strm := f.strm, fail := true }
    else s.trapAt n k { cause := 7, eval := BitVec.ofNat 64 f.va, wr := f.write, strm := f.strm, fail := true }
  | _ => s

/-- A join update after its answer: it goes on at the same update, or past one that cannot be made (R38). -/
def State.joinAnswer (s : State) (tw : Nat) (j : JoinOp) (failed : Bool) : State × JoinOp :=
  if failed then
    (s.machineCheck tw 10 j.core j.slot j.addr j.taskid 0, { j with stage := j.stage + 1, waiting := false })
  else (s, { j with waiting := false })

/-- The requester of a record learns the answer. A frozen Lahar retires nothing: TASK_RETIRE then goes on (log 23). -/
def State.deliver (s : State) (tw : Nat) (r : FaultRec) (failed : Bool) : State :=
  match r.who with
  | .thread n k => s.threadAnswer n k failed
  | .engine cl q stamp => s.engineAnswer cl q stamp (BitVec.ofNat 64 (fld r.w0 0 52)) failed
  | .join n k =>
    (match (s.thread n k).wait with
     | .retiring how (some j) =>
       let (s1, j1) := s.joinAnswer tw j failed
       if (s.tower tw).lfrz then s1.modThread n k fun t => { t with wait := .retiring how (some j1) }
       else s1.runRetire n k how j1
     | _ => s)
  | .lahar id =>
    match look (s.tower tw).jobs id with
    | none => s
    | some j =>
      let (s1, j1) := s.joinAnswer tw j failed
      s1.runJob tw id j1

/-- FQANS written: the record that IDX and SEQ name is answered once; a withdrawn one has no requester (R388). -/
def State.writeFqans (s : State) (tw : Nat) (v : Word) : State :=
  let idx := fld v 0 15
  match look (s.tower tw).faults idx with
  | none => s
  | some r =>
    if r.answered ∨ r.seq ≠ fld v 32 32 then s
    else (s.modTower tw fun t => { t with faults := put t.faults idx { r with answered := true } }).deliver tw r (bit v 16)

/-- FQANS_WRITE. -/
def execFqansWrite (tower : Nat) (value : BitVec 64) (s : State) : Out :=
  .next (if 2 ≤ tower then s else s.writeFqans tower value)

/-! ### Invalidation (R385) -/

/-- TINV written: an invalidation begins, or TLOST is set. -/
def State.writeTinv (s : State) (tw : Nat) (v : Word) : State :=
  s.modTower tw fun t =>
    if fld v 60 2 = 3 ∨ t.tinv.isSome then { t with tlost := true }
    else { t with tinv := some (fld v 60 2, fld v 52 8, fld v 16 36) }

/-- TINV_WRITE. -/
def execTinvWrite (tower : Nat) (value : BitVec 64) (s : State) : Out :=
  .next (if 2 ≤ tower then s else s.writeTinv tower value)

/-- A cached entry is covered by an invalidation: scope, address space, page number. -/
def TlbEntry.covered (e : TlbEntry) (v : Nat × Nat × Nat) : Bool :=
  match v.1 with
  | 0 => e.asn == v.2.1 && decide (e.base ≤ v.2.2 * 65536) && decide (v.2.2 * 65536 < e.base + e.size)
  | 1 => e.asn == v.2.1
  | _ => true

/-- A table entry of the walkers' cache is covered by an invalidation of its span (R385). -/
def TableEntry.covered (e : TableEntry) (v : Nat × Nat × Nat) : Bool :=
  match v.1 with
  | 0 => e.asn == v.2.1 && decide (e.base ≤ v.2.2 * 65536) && decide (v.2.2 * 65536 < e.base + e.size)
  | 1 => e.asn == v.2.1
  | _ => true

/-- TINV_COMPLETE: no cache of the tower holds a covered entry any more, and TBUSY falls. Accesses are performed in the step in
which they use a translation, so none is left under way. -/
def execTinvComplete (tower : Nat) (s : State) : Out :=
  .next (match (s.tower tower).tinv with
    | none => s
    | some v =>
      let keep : List TlbEntry → List TlbEntry := List.filter fun e => !e.covered v
      let clean (p : Nat × Cluster) : Nat × Cluster :=
        if p.1 / 160 = tower then (p.1, { p.2 with tlb := keep p.2.tlb, coreTlb := p.2.coreTlb.map keep }) else p
      { s with clusters := s.clusters.map clean }.modTower tower fun t =>
        { t with tinv := none, tables := t.tables.filter fun e => !e.covered v })

/-! ### Keys (R390, R391) -/

/-- KSEL written: a key operation begins with the material of KEY, which is cleared; or the write is ignored and sets TLOST. Of the value
the register keeps KID, LOAD and ERASE; bits [15:10], which R379 does not list, are not stored, the model's choice (log 90). -/
def State.writeKsel (s : State) (tw : Nat) (v : Word) : State :=
  s.modTower tw fun t =>
    let kid := fld v 0 10
    if kid = 0 ∨ (bit v 16 && bit v 17) ∨ t.kop.isSome then { t with tlost := true }
    else
      { t with ksel := fld (v &&& 0x303FF) 0 18, key := 0, kstamp := s.steps
               kop := if bit v 16 then some (kid, some t.key) else if bit v 17 then some (kid, none) else none }

/-- KEY_LOAD: KSEL is written with LOAD. -/
def execKeyLoad (tower : Nat) (value : BitVec 64) (s : State) : Out :=
  .next (if 2 ≤ tower ∨ !bit value 16 then s else s.writeKsel tower value)

/-- KEY_ERASE: KSEL is written with ERASE. -/
def execKeyErase (tower : Nat) (value : BitVec 64) (s : State) : Out :=
  .next (if 2 ≤ tower ∨ !bit value 17 then s else s.writeKsel tower value)

/-- KEY_OPERATION_DONE: every HBM controller has applied the operation. Operations on one key are applied in arrival order, so
an older one of the other tower goes first. -/
def execKeyOperationDone (tower : Nat) (s : State) : Out :=
  .next (
    if 2 ≤ tower then s
    else match (s.tower tower).kop with
      | none => s
      | some (kid, material) =>
        let other := s.tower (1 - tower)
        if (other.kop.map Prod.fst) = some kid ∧ other.kstamp < (s.tower tower).kstamp then s
        else
          ({ s with keys := match material with | some m => put s.keys kid m | none => drop s.keys kid }).modTower tower
            fun t => { t with kop := none })

end Sys2Proof.Machine
end

