-- ==== Sys2Proof/Machine/Power.lean ====
section
/-!
DEFINITION. The power states of layers and the power manager (R241, R296, R400, R401).
-/
namespace Sys2Proof.Machine

/-! ### Seasons (R296) -/

/-- AUTUMN_ENTRY: no thread of a Summer layer has issued for 4,096 cycles. -/
def execAutumnEntry (layer : Nat) (s : State) : Out :=
  let l := s.layer layer
  .next (
    if l.season = .summer ∧ 4096 ≤ Config.cyclesTo s.steps - Config.cyclesTo l.lastIssue then
      s.modLayer layer fun l => { l with season := .autumn }
    else s)

/-- A layer holds no resident task, no inbox message and no engine command (R296, R400). -/
def State.layerEmpty (s : State) (gl : Nat) : Bool :=
  (s.cores.all fun p => layerOf p.1 != gl || (p.2.inbox.isEmpty && p.2.threads.toList.all fun t => t.occ == .free))
    && s.clusters.all fun p => p.1 / 20 != gl || p.2.queues.toList.all List.isEmpty

/-- WINTER_ENTRY: a Summer or Autumn layer has been empty for WIDLE whole microseconds; its leases end. -/
def execWinterEntry (layer : Nat) (s : State) : Out :=
  let l := s.layer layer
  let t := s.tower (layer / 8)
  .next (
    if (l.season = .summer ∨ l.season = .autumn) ∧ t.widle ≠ 0 ∧ t.widle ≤ l.idle ∧ s.layerEmpty layer then
      (s.modLayer layer fun l => { l with season := .winter, powered := false, idle := 0 }).modTower (layer / 8) fun t =>
        { t with leases := t.leases.filter fun x => layerOf x.2.1 != layer }
    else s)

/-- POWER_UP_DONE: the power of a Spring layer is up, and what waited for it goes on. -/
def execPowerUpDone (layer : Nat) (s : State) : Out :=
  .next (if (s.layer layer).season = .spring then ((s.modLayer layer fun l => { l with powered := true }).resumeJoins layer).warmStubs layer
    else s)

/-! ### The replica copy (R241) -/

/-- The cells of a range moved to another base, onto a memory that lists nothing there. -/
def moveCells (src dest size : Nat) (cells : List Host.Cell) (onto : List Host.Cell) : List Host.Cell :=
  cells.foldl (fun m c => if src ≤ c.1 ∧ c.1 < src + size then memPut m (c.1 - src + dest) c.2 else m) onto

/-- The replica of a layer takes the base mirror's contents, to which every write up to now has been applied. -/
def State.copyReplica (s : State) (gl : Nat) : State :=
  let rep := layerAperture gl + regionOff
  { s with
    mem := moveCells (mirrorBase (gl / 8)) rep regionSize s.mem
      (s.mem.filter fun c => !(rep ≤ c.1 && c.1 < rep + regionSize))
    poison := s.poison.filter fun a => !(rep ≤ a && a < rep + regionSize) }

/-- SPRING_END: the copy ends and the layer enters Summer; a reset of the layer has ended (R377). -/
def execSpringEnd (layer : Nat) (s : State) : Out :=
  let l := s.layer layer
  .next (
    if l.season = .spring ∧ l.powered then
      (((s.copyReplica layer).modLayer layer fun l =>
        { l with season := .summer, stale := false, idle := 0
                 lrst := (s.tower (layer / 8)).heldResets.contains layer }).releaseGamos layer).resumeJoins layer
    else s)

/-- REPLICA_RESYNC_END: the copy onto a replica that an error marked stale ends, and is counted (R402, R404). -/
def execReplicaResyncEnd (layer : Nat) (s : State) : Out :=
  let l := s.layer layer
  .next (
    if l.stale ∧ (l.season = .summer ∨ l.season = .autumn) then
      (((s.copyReplica layer).modLayer layer fun l => { l with stale := false }).count (layer / 8) 4).releaseGamos layer
    else s)

/-! ### The power manager (R400, R401) -/

/-- Limits of R400 in units of 0.1 W: of a tower and of a layer. -/
def towerLimit : Nat := 12000
def layerLimit : Nat := 1800

/-- An estimate of a tower's layers exceeds a limit; it is below nine tenths of both. -/
def overLimit (est : List Nat) : Bool :=
  decide (towerLimit < est.foldl (· + ·) 0) || est.any fun e => decide (layerLimit < e)
def wellBelow (est : List Nat) : Bool :=
  decide (10 * est.foldl (· + ·) 0 < 9 * towerLimit) && est.all fun e => decide (10 * e < 9 * layerLimit)

/-- The first of the layers of greatest estimate among those allowed. -/
def greatest (est : List Nat) (allowed : Nat → Bool) : Option Nat :=
  (List.range 8).foldl (fun best l =>
    if !allowed l then best
    else match best with
      | none => some l
      | some b => if est.getD b 0 < est.getD l 0 then some l else best) none

/-- Every thread of a layer waits, or its slot is free. -/
def State.allWaiting (s : State) (gl : Nat) : Bool :=
  s.cores.all fun p => layerOf p.1 != gl || p.2.threads.toList.all fun t => t.occ == .free || t.wait != .none

/-- The next step of R400 against an estimate over a limit: a duty halved (1), idle layers to Autumn (2), a layer held (3). -/
def State.reduce (s : State) (tw : Nat) (est : List Nat) : State :=
  let note (k : Nat) (ls : List Nat) (st : State) : State :=
    st.modTower tw fun t => { t with psteps := (ls.map fun l => (k, l)) ++ t.psteps }
  match greatest est fun l => decide ((s.layer (8 * tw + l)).duty < 3) with
  | some l => note 1 [l] (s.modLayer (8 * tw + l) fun x => { x with duty := x.duty + 1 })
  | none =>
    match (List.range 8).filter fun l => (s.layer (8 * tw + l)).season == .summer && s.allWaiting (8 * tw + l) with
    | [] =>
      (match greatest est fun l => !(s.layer (8 * tw + l)).hold with
       | some l => note 3 [l] (s.modLayer (8 * tw + l) fun x => { x with hold := true })
       | none => s)
    | ls => note 2 ls (ls.foldl (fun st l => st.modLayer (8 * tw + l) fun x => { x with season := .autumn }) s)

/-- The latest step undone. -/
def State.undoStep (s : State) (tw : Nat) : State :=
  match (s.tower tw).psteps with
  | [] => s
  | (k, l) :: rest =>
    (s.modLayer (8 * tw + l) fun x =>
      if k = 1 then { x with duty := x.duty - 1 }
      else if k = 2 then { x with season := if x.season = .autumn then .summer else x.season }
      else { x with hold := false }).modTower tw fun t => { t with psteps := rest }

/-- An estimate reported: LPWR and TPWR (R401). -/
def State.report (s : State) (tw : Nat) (est : List Nat) : State :=
  ((List.range 8).foldl (fun st l => st.modLayer (8 * tw + l) fun x => { x with lpwr := BitVec.ofNat 16 (est.getD l 0) }) s).modTower
    tw fun t => { t with tpwr := (est.foldl (· + ·) 0) % 2 ^ 16 }

/-- The estimates of one microsecond in turn, each after a step taken against the one before (R400). -/
def State.enforce (s : State) (tw : Nat) : List (List Nat) → State
  | [] => s
  | est :: rest =>
    let s1 := s.report tw est
    if overLimit est then ((s1.reduce tw est).modTower tw fun t => { t with plow := 0 }).enforce tw rest
    else if wellBelow est then
      let s2 := s1.modTower tw fun t => { t with plow := t.plow + 1 }
      if 10 ≤ (s2.tower tw).plow then s2.undoStep tw else s2
    else s1.modTower tw fun t => { t with plow := 0 }

/-- A microsecond passes for a layer: its season's time, and its idle time if it has held no work all along (R400, R401). -/
def State.passMicrosecond (s : State) (up : Bool) (gl : Nat) : State :=
  let empty := s.layerEmpty gl
  s.modLayer gl fun l =>
    let i : Nat := match l.season with | .autumn => 1 | .winter => 2 | .spring => 3 | _ => 0
    let awake := l.season == .summer || l.season == .autumn
    { l with
      sres := if l.season = .inReset then l.sres else l.sres.setIfInBounds i (l.sres.getD i 0 + 1)
      idle := if up && awake && empty && !l.busy then l.idle + 1 else 0
      busy := false }

/-- POWER_MANAGER_TICK: a microsecond passes. The estimates are the manager's own, eight for each round. -/
def execPowerManagerTick (tower : Nat) (estimates : List Nat) (s : State) : Out :=
  .next (
    if 2 ≤ tower then s
    else
      let up := (s.tower tower).bootStep == 20
      let s1 := (List.range 8).foldl (fun st l => st.passMicrosecond up (8 * tower + l)) s
      s1.enforce tower ((List.range (estimates.length / 8)).map fun i => (estimates.drop (8 * i)).take 8))

end Sys2Proof.Machine
end

