-- ==== Sys2Proof/Machine/Resets.lean ====
section
/-!
DEFINITION. Reset domains (R376 to R378), the boot steps and the security-version commit (R392 to R398).
-/
namespace Sys2Proof.Machine

/-! ### A layer's reset (R376, R377) -/

/-- The tasks and resume messages resident on a layer: core, slot, thread. -/
def State.residents (s : State) (gl : Nat) : List (Nat × Nat × Thread) :=
  (s.cores.filter fun p => layerOf p.1 == gl).flatMap fun p =>
    (List.range 4).filterMap fun k =>
      let t := p.2.threads.getD k {}
      if t.occ == .task then some (p.1, k, t) else none

/-- A task of a layer under reset ends as KILL ends it. Its join object is updated by Lahar; what its rewind log, registrations
and units hold lies in the layer and is lost with it. -/
def State.killResident (s : State) (tw : Nat) (v : Nat × Nat × Thread) : State :=
  match v.2.2.task, v.2.2.wait with
  | none, _ => s
  | some i, .retiring _ (some j) =>
    -- its retirement had begun: the updates still due are made by Lahar
    let s1 := s.modTower tw fun t => { t with nextJob := t.nextJob + 1 }
    (s1.runJob tw (s.tower tw).nextJob { j with waiting := false }).retireCount tw i.launch 1
  | some i, w =>
    let faulted := match w with | .retiring .faulted _ => true | _ => false
    (s.laharJob tw { asn := i.asn, addr := i.join, status := if faulted then 1 else 2, fail := some v.2.2.taskid
                     core := coreId v.1, slot := v.2.1, taskid := v.2.2.taskid }).1.retireCount tw i.launch 1

/-- Task records in or on their way to the inboxes of a layer. -/
def State.layerRecords (s : State) (gl : Nat) : List TaskInfo :=
  (s.cores.filter fun p => layerOf p.1 == gl).flatMap fun p => (p.2.inbox ++ p.2.net).filterMap Msg.task

/-- An address lies in a layer's SRAM. -/
def inLayer (gl a : Nat) : Bool := decide (layerAperture gl ≤ a ∧ a < layerAperture gl + 0x100000000)

/-- What a layer holds is cleared: its registers take their Reset values, its SRAM and replica read as zero (R376). -/
def State.clearLayer (s : State) (gl : Nat) : State :=
  { s with
    cores := s.cores.filter fun p => layerOf p.1 != gl
    clusters := s.clusters.filter fun p => p.1 / 20 != gl
    mem := s.mem.filter fun c => !inLayer gl c.1
    fresh := s.fresh.filter fun f => !inLayer gl f.1
    poison := s.poison.filter fun a => !inLayer gl a }

/-- What Lahar, the Geyser scheduler and the fault queue know of a layer's threads is dropped. -/
def Tower.forget (t : Tower) (gl : Nat) : Tower :=
  let gone : Requester → Bool
    | .thread n _ | .join n _ => layerOf n == gl
    | .engine cl _ _ => cl / 20 == gl
    | .lahar _ => false
  { t with
    leases := t.leases.filter fun x => layerOf x.2.1 != gl
    gpend := t.gpend.filter fun g => layerOf g.core != gl
    binding := t.binding.filter fun b => layerOf b.1.1 != gl
    preempts := t.preempts.filter fun p => layerOf p.2.1 != gl
    requests := t.requests.filter fun r => layerOf r.core != gl
    objects := t.objects.map fun o =>
      { o with cores := o.cores.filter fun c => layerOf c != gl, clusters := o.clusters.filter fun c => c / 20 != gl
               funcs := o.funcs.map fun f => { f with cores := f.cores.filter fun c => layerOf c != gl } }
    coldStubs := t.coldStubs.filter fun c => layerOf c != gl
    saved := t.saved.map fun v =>
      { v with wiped := v.wiped || layerOf v.core == gl, sent := v.sent.filter fun w => layerOf w.1 != gl }
    heldFaults := t.heldFaults.filter fun r => !gone r.who
    faults := t.faults.map fun p =>
      if gone p.2.who && !p.2.answered then (p.1, { p.2 with w0 := p.2.w0 ||| (1 <<< 58), answered := true }) else p }

/-- The reset of a layer (R377): its tasks and records are killed, saved contexts with units in it retire, its engines' commands
vanish, it is cleared and enters Spring. A layer that is in reset already is left alone. While Lahar is frozen the reset is requested
only, since it would move the frozen blocks (R374, log 23). -/
def State.resetLayer (s : State) (gl : Nat) : State :=
  let tw := gl / 8
  if (s.layer gl).season = .inReset ∨ (s.layer gl).lrst then s
  else if (s.tower tw).lfrz then
    (s.modTower tw fun t => { t with heldResets := t.heldResets ++ [gl] }).modLayer gl fun l => { l with lrst := true }
  else
    let s1 := (s.residents gl).foldl (fun st v => st.killResident tw v) s
    let s2 := (s.layerRecords gl).foldl (fun st i => (st.retireUnbound tw i.launch 2 [i.index] 1).1) s1
    let lost := (s.tower tw).saved.filter fun v => layerOf v.core == gl && (s.resOf tw v).1 != 0
    let s3 := lost.foldl (fun st v => (st.retireSaved tw v 2).1) s2
    ((s3.clearLayer gl).modTower tw fun t => t.forget gl).modLayer gl fun l =>
      { season := .spring, springF := (s.tower tw).frame, lrst := true, resetStep := s.steps, sres := l.sres, lpwr := l.lpwr
        duty := l.duty, hold := l.hold, fenced := l.fenced }

/-- The resets that a freeze has kept waiting, at its end. -/
def State.applyResets (s : State) (tw : Nat) : State :=
  (s.tower tw).heldResets.foldl (fun st gl => (st.modLayer gl fun l => { l with lrst := false }).resetLayer gl)
    (s.modTower tw fun t => { t with heldResets := [] })

/-- LRST written: each bit that is 1 requests the reset of its layer. -/
def State.writeLrst (s : State) (tw : Nat) (v : Word) : State :=
  ((List.range 8).filter fun l => bit v l).foldl (fun st l => st.resetLayer (8 * tw + l)) s

/-- LRST_WRITE. -/
def execLrstWrite (tower : Nat) (value : BitVec 64) (s : State) : Out :=
  .next (if 2 ≤ tower then s else s.writeLrst tower value)

/-! ### Tower and package resets (R376) -/

/-- The boot step record of a tower that is reset: while it boots, the step that the reset cuts short has its begin mark and no end mark
(R397, R398; log 77). -/
def Tower.cutShort (t : Tower) (step : Nat) : BootRecord :=
  let n := t.bootStep
  if 1 ≤ n ∧ n < 20 then
    let e := t.boot.steps.getD n {}
    { t.boot with last := n, steps := t.boot.steps.setIfInBounds n { e with beg := t.boot.boot, btime := Config.beginTime step } }
  else t.boot

/-- A tower's Caldera die at reset: its boot step record stands in always-on SRAM, and the counters and machine checks, which only
a package reset clears, stay (R397, R404; log 2). -/
def Tower.afterReset (t : Tower) (step : Nat) : Tower :=
  { boot := t.cutShort step, counters := t.counters, mchecks := t.mchecks, mseq := t.mseq }

/-- TOWER_RESET: the Caldera die and all layers of a tower; HBM keeps its contents. -/
def execTowerReset (tower : Nat) (s : State) : Out :=
  .next (
    if 2 ≤ tower then s
    else
      let s1 := (List.range 8).foldl (fun st l =>
        (st.clearLayer (8 * tower + l)).putLayer (8 * tower + l) { resetStep := s.steps }) s
      let mirror := mirrorBase tower
      { s1 with
        mem := s1.mem.filter fun c => !(mirror ≤ c.1 && c.1 < mirror + regionSize)
        poison := s1.poison.filter fun a => !(mirror ≤ a && a < mirror + regionSize)
        harvest := s1.harvest.filter fun p => towerOf p.1 != tower }.modTower tower fun t => t.afterReset s.steps)

/-- PACKAGE_RESET: everything but the fuses is cleared; the boot step records come back from flash. Firmware draws a new key 0
(R390). Host and peer memory is not the part's; what is defective in it stays so. -/
def execPackageReset (s : State) : Out :=
  .next
    { State.reset with
      layers := (List.range 16).map fun gl => (gl, { resetStep := s.steps })
      towers := (List.range 2).map fun tw => (tw, { boot := (s.tower tw).cutShort s.steps })
      mem := s.mem.filter fun c => hostBase ≤ c.1
      defects := s.defects, fuses := s.fuses, rootHash := s.rootHash, key0 := s.key0 + 1
      agenda := s.agenda, cur := s.cur, curSlot := s.curSlot, steps := s.steps }

/-! ### Boot (R393 to R398) -/

/-- Kinds of the steps of R396. -/
def optionalStep (n : Nat) : Bool := n == 14 || n == 16 || n == 18
def alternativeStep (n : Nat) : Bool := n == 1 || n == 3 || decide (6 ≤ n ∧ n ≤ 13) || n == 17

/-- What firmware does at a step: run it on a path (0 normal, 1 skipped, 2 alternative), or stop the tower (R398). -/
inductive BootPath where
  | run (path : Nat)
  | stop

/-- The path of a step in boot b, by the first condition of R398 that holds. -/
def bootPath (retry : Bool) (b : Half) (n : Nat) (e : BootEntry) : BootPath :=
  let failed := b != 0 && e.beg == b - 1 && (e.endb != b - 1 || e.fail)
  if retry then .run 0
  else if failed && e.path == 0 && optionalStep n then .run 1
  else if failed && e.path == 0 && alternativeStep n then .run 2
  else if failed && !(optionalStep n && e.path == 1) then .stop
  else if e.path == 1 || e.path == 2 then .run e.path
  else .run 0

/-- The boot ROM accepts an image (R393). -/
def State.imageAccepted (s : State) (img : List Byte) : Bool :=
  let len := rdNat img 0x10 8
  let key := (img.drop 0x18).take 1793
  rdNat img 0 4 == 0x57464241 && rdNat img 4 4 == 1 && rdNat img 0xA 6 == 0 && rdNat img 0x719 7 == 0 && rdNat img 0xE20 480 == 0
    && shake256 key == s.rootHash
    && falconVerifies key ((img.drop 0x720).take 1280)
        (shake256Long (img.take 0x720 ++ List.replicate 1280 0 ++ (img.drop 0xC20).take (0x3E0 + len)))
    && decide (rdNat img 9 1 ≤ rdNat img 8 1) && decide (s.fuses ≤ rdNat img 8 1)

/-- A step's work ends well: as the event says, and for step 1 with an accepted image. -/
def State.stepOk (s : State) (tw n path : Nat) (ok : Bool) : Bool :=
  ok && (n != 1 || s.imageAccepted (Config.firmwareImage tw (if path = 2 then 1 else 0)))

/-- DETAIL of a step: the mask of the fenced layer for steps 6 to 13 (R397). -/
def detailOf (n path : Nat) : Word :=
  if 6 ≤ n ∧ n ≤ 13 then (if path = 2 then BitVec.ofNat 64 (2 ^ (n - 6)) else 0) else Config.bootDetail n path

/-- The class that the tests of a core's array and of the halves of its lanes give it (R57, R399). -/
def Defect.cls (d : Defect) : Nat := (if d.array then 2 else 0) + (if d.lowLanes || d.highLanes then 1 else 0)
/-- A core without any lanes is treated as absent (R399). -/
def Defect.present (d : Defect) : Bool := !(d.lowLanes && d.highLanes)

/-- The tests of a layer's cores at its bring-up give them class and presence (R396, R399). -/
def State.bringUp (s : State) (gl : Nat) : State :=
  { s with
    harvest := (s.harvest.filter fun p => layerOf p.1 != gl)
      ++ (s.defects.filter fun p => layerOf p.1 == gl).map fun p => (p.1, ⟨p.2.cls, p.2.present⟩) }

/-- What a step that ended well leaves (R394, R396). -/
def State.bootWork (s : State) (tw n path : Nat) : State :=
  if 6 ≤ n ∧ n ≤ 13 then
    (if path = 2 then s else s.bringUp (8 * tw + (n - 6))).modLayer (8 * tw + (n - 6)) fun l =>
      if path = 2 then { l with fenced := true, season := .inReset } else { l with fenced := false, season := .summer }
  else if n = 14 then
    s.modTower tw fun t => { t with otherPresent := path == 0 && (s.tower (1 - tw)).bootStep != 21 }
  else if n = 16 then s.modTower tw fun t => { t with ports := if path = 0 then 15 else 0 }
  else if n = 18 ∧ path = 0 then
    let s1 := { s with fuses := max s.fuses (min 64 (rdNat (s.bootImage tw) 9 1)) }
    (s1.purgeAll 0).purgeAll 1
  else if n = 19 then s.modTower tw fun t => { t with boot := { t.boot with up := true } }
  else s

/-- The entry of a step changed in the boot step record. -/
def State.modEntry (s : State) (tw n : Nat) (f : BootEntry → BootEntry) : State :=
  s.modTower tw fun t => { t with boot := { t.boot with steps := t.boot.steps.setIfInBounds n (f (t.boot.steps.getD n {})) } }

/-- The tower stops: to the other one it reads as absent (R398). -/
def State.stopTower (s : State) (tw : Nat) : State :=
  (s.modTower tw fun t => { t with bootStep := 21 }).modTower (1 - tw) fun t => { t with otherPresent := false }

/-- BOOT_STEP: firmware runs the tower's next step: the begin mark, the path, the work, the end mark (R398). A mandatory step that
fails ends the boot. RETRY is cleared at step 19, however that ends. -/
def execBootStep (tower : Nat) (ok : Bool) (time : BitVec 32) (s : State) : Out :=
  let t := s.tower tower
  let n := t.bootStep
  .next (
    if 2 ≤ tower ∨ 20 ≤ n then s
    else
      let b : Half := if n = 0 then t.boot.boot + 1 else t.boot.boot
      let s1 := (s.modTower tower fun t =>
        { t with boot := { t.boot with boot := b, last := n, up := if n = 0 then false else t.boot.up
                                       retry := t.boot.retry && n != 19 } }).modEntry tower n fun e =>
        { e with beg := b, btime := time }
      match (if n = 15 ∧ tower = 1 then .run 1 else bootPath t.boot.retry b n (t.boot.steps.getD n {})) with
      | .stop => (s1.modEntry tower n fun e => { e with endb := b, fail := true }).stopTower tower
      | .run path =>
        let good := path == 1 || s1.stepOk tower n path ok
        let s2 := s1.modEntry tower n fun e => { e with endb := b, fail := !good, path := path, detail := detailOf n path }
        if good then (s2.bootWork tower n path).modTower tower fun t => { t with bootStep := n + 1 }
        else if optionalStep n then s2.modTower tower fun t => { t with bootStep := n + 1 }
        else s2.stopTower tower)

end Sys2Proof.Machine
end

