-- ==== Sys2Proof/Machine/HostLink.lean ====
section
/-!
DEFINITION. What the host, the driver, firmware and peer packages do to the part: the management window (R369 to R375, R379,
R398, R401), core registers that it shares with the CSRs, CXL.mem and aperture accesses (R362 to R365, R389, R405), peer accesses
and ports (R409).
-/
namespace Sys2Proof.Machine

/-! ### Freeze and snapshot (R374, R375) -/

/-- LFRZ written: clearing it applies the enqueue stores and the layer resets that waited. -/
def State.writeLfrz (s : State) (tw : Nat) (v : Word) : State :=
  let s1 := s.modTower tw fun t => { t with lfrz := bit v 0 }
  if bit v 0 then s1 else (s1.applyHeld tw).applyResets tw

/-- LFRZ_WRITE. -/
def execLfrzWrite (tower : Nat) (value : BitVec 64) (s : State) : Out :=
  .next (if 2 ≤ tower then s else s.writeLfrz tower value)

/-- SNAPC and GO written: a snapshot begins; one under way is not disturbed. -/
def State.writeSnap (s : State) (tw : Nat) (v : Word) : State :=
  s.modTower tw fun t => if t.snapGo then t else { t with snapc := fld v 0 12, snapGo := bit v 12 }

/-- SNAPSHOT_GO. -/
def execSnapshotGo (tower : Nat) (value : BitVec 64) (s : State) : Out :=
  .next (if 2 ≤ tower then s else s.writeSnap tower value)

/-- State code of a slot in a snapshot. -/
def Thread.snapCode (t : Thread) : Nat :=
  match t.occ, t.wait, t.level with
  | .free, _, _ => 0
  | _, .suspended _, _ => 4
  | _, _, .S => 3
  | _, _, .T => if t.post then 2 else 1

/-- What a snapshot writes for a slot: offsets from the slot's base, with bytes. Of a free slot, which holds no context, they are the
header and the task bank (log 39). -/
def State.slotChunks (s : State) (n k : Nat) : List (Nat × List Byte) :=
  let t := s.thread n k
  let ctx := fld t.ctxid 0 7
  let lanes := s.lanesOf n k
  let info := s.accounted n k
  let t1 := (if t.occ = .message then { t with x := Vector.replicate 32 0 } else t)
  let hdr := (headerWords t ctx lanes ((info.map TaskInfo.psize).getD 0) ((info.map TaskInfo.pbase).getD 0)
    ((s.core n).ownedMask ctx) (coreId n)).set 7 (BitVec.ofNat 64 t.snapCode)
  let held : Bool := match t.wait with | .suspended _ => true | _ => t.level == .S
  if t.occ = .free then dwordChunks 0 hdr ++ dwordChunks 0x40 (t.x.toList.set 0 0)
  else
    (if t.level = .T then t1.settle else t1).saveChunks hdr t.pc lanes
      ++ (if t.level = .S then dwordChunks 0x1E0 t.sx.toList else [])
      ++ (if held then dwordChunks 0x380 [t.epc, t.ecause, t.eval, t.eval2, t.estat] else [])

/-- The core block of a snapshot; BKEY reads as zero. -/
def State.coreChunks (s : State) (n : Nat) : List (Nat × List Byte) :=
  let c := s.core n
  dwordChunks 0x8000 ([c.lpart &&& lpartBits (s.groupMask n), c.town, c.lown, c.xb, c.ovh, c.evec]
    ++ ((List.range 32).map fun i => c.hentRead i) ++ [0])

/-- Bytes written into the snapshot buffer. -/
def putChunks (buf : List Host.Cell) (cs : List (Nat × List Byte)) : List Host.Cell :=
  cs.foldl (fun b c => (c.2.mapIdx fun i v => (c.1 + i, v)).foldl (fun b p => memPut b p.1 p.2) b) buf

/-- The image of a snapshot of a core: a core in Winter or reset is reported with every slot free. -/
def State.snapshot (s : State) (n : Nat) : List Host.Cell :=
  let asleep := match (s.layer (layerOf n)).season with | .winter | .inReset => true | _ => false
  let s1 := if asleep then (List.range 4).foldl (fun st k => st.modThread n k fun t => { t with occ := .free }) s else s
  putChunks [] (((List.range 4).flatMap fun k => (s1.slotChunks n k).map fun c => (0x2000 * k + c.1, c.2)) ++ s.coreChunks n)

/-- Every issued instruction of a core has completed, but for waits that a snapshot copies as they are. -/
def State.coreQuiet (s : State) (n : Nat) : Bool :=
  (s.core n).slices.isEmpty && (s.core n).threads.toList.all fun t =>
    match t.wait with
    | .slices | .kill _ _ _ _ | .gamo _ _ => false
    | _ => true

/-- SNAPSHOT_DONE: the slots' states are in the buffer, and the core goes on. -/
def execSnapshotDone (tower : Nat) (s : State) : Out :=
  let t := s.tower tower
  let n := coreOfId t.snapc
  .next (
    if !t.snapGo ∨ !s.coreQuiet n then s
    else s.modTower tower fun t => { t with snapGo := false, snap := s.snapshot n })

/-! ### Registers of the control block (R373, R379, R398) -/

/-- BRETRY written: 1 sets RETRY in the boot step record. -/
def State.writeBretry (s : State) (tw : Nat) (v : Word) : State :=
  s.modTower tw fun t =>
    { t with bretry := bit v 0, boot := { t.boot with retry := t.boot.retry || bit v 0 } }

/-- BRETRY_WRITE. -/
def execBretryWrite (tower : Nat) (value : BitVec 64) (s : State) : Out :=
  .next (if 2 ≤ tower then s else s.writeBretry tower value)

/-- CHB and STBN written, unless a translated function is placed in the tower; a STBN of 0 is taken as 1. -/
def State.writeCodeHeap (s : State) (tw : Nat) (v : Word) : State :=
  s.modTower tw fun t =>
    if (t.objects.flatMap CodeObj.funcs).any fun f => f.place.isSome then t
    else { t with chb := fld v 12 7, stbn := max (fld v 20 6) 1 }

/-- CODE_HEAP_WRITE. -/
def execCodeHeapWrite (tower : Nat) (value : BitVec 64) (s : State) : Out :=
  .next (if 2 ≤ tower then s else s.writeCodeHeap tower value)

/-- FCLR written by firmware: the flag summaries of the tower's clusters and layers are cleared (R58). -/
def State.clearFlags (s : State) (tw : Nat) : State :=
  { s with
    clusters := s.clusters.map fun p => if p.1 / 160 = tw then (p.1, { p.2 with cflags := 0 }) else p
    layers := s.layers.map fun p => if p.1 / 8 = tw then (p.1, { p.2 with lflags := 0 }) else p }

/-- FCLR_WRITE. -/
def execFclrWrite (tower : Nat) (s : State) : Out :=
  .next (if 2 ≤ tower then s else s.clearFlags tower)

/-- Offsets of the window (R372). -/
def controlBase : Nat := 0x1000
def stagingBase : Nat := 0x10000
def statusBase : Nat := 0x12000
/-- Where the model lets fleet software write peer descriptor w; the spec gives it no offset (log 29). -/
def peerDescBase : Nat := 0x100000000

/-- A doubleword of a staging area written: the last one is the enqueue (R369). -/
def State.writeStaging (s : State) (tw q i : Nat) (v : Word) : State :=
  if i = 15 then s.hostEnqueue tw q v
  else s.modTower tw fun t =>
    { t with staged := t.staged.setIfInBounds q ((t.staged.getD q (Vector.replicate 16 0)).setIfInBounds i v) }

/-- A register of the control block written by the host or, where only firmware may, by firmware. Fields marked RO keep their
value (R9). -/
def State.writeControl (s : State) (tw : Nat) (fw : Bool) (o : Nat) (v : Word) : State :=
  let put_ (f : Tower → Tower) : State := s.modTower tw f
  match o with
  | 0x00 => if fw then put_ fun t => { t with wdog := fld v 0 48 } else s
  | 0x08 => s.writeCodeHeap tw v
  | 0x10 => put_ fun t => { t with pdly := fld v 0 32 }
  | 0x18 => s.writeLfrz tw v
  | 0x20 => s.writeSnap tw v
  | 0x28 => s.writeLrst tw v
  | 0x30 => put_ fun t => { t with aperr := t.aperr && !bit v 0 }
  | 0x38 => if fw then put_ fun t => { t with injen := bit v 0 } else s
  | 0x40 => if fw && bit v 0 then s.clearFlags tw else s
  | 0x50 => s.writeFqhead tw v
  | 0x58 => s.writeFqans tw v
  | 0x60 => s.writeTinv tw v
  | 0x68 => put_ fun t => { t with tlost := t.tlost && !bit v 1 }
  | 0x70 => s.writeKsel tw v
  | 0x78 => s.writeBretry tw v
  | o =>
    if 0x100 ≤ o ∧ o < 0x140 then put_ fun t => { t with key := putFld t.key (8 * (o - 0x100)) 64 v.toNat }
    else if 0x300 ≤ o ∧ o < 0x340 then
      put_ fun t => { t with qas := (List.range 7).foldl (fun m i => m.setIfInBounds (o - 0x300 + i) (fld v (8 * i) 8)) t.qas }
    else if 0x400 ≤ o ∧ o < 0x800 then
      put_ fun t => { t with hkey := (List.range 4).foldl (fun m i => put m ((o - 0x400) / 2 + i) (fld v (16 * i) 10)) t.hkey }
    else if 0x800 ≤ o ∧ o < 0x1000 then
      put_ fun t => { t with asd := put t.asd ((o - 0x800) / 8) (v &&& 0x03FF_FFFF_FFFF_0001#64) }
    else s

/-- A peer descriptor written: bit 0 valid, [10:1] target package, [47:40] base (R363; log 29). -/
def State.writePeer (s : State) (tw w : Nat) (v : Word) : State :=
  s.modTower tw fun t =>
    { t with peers := if bit v 0 then put t.peers w (fld v 1 10, fld v 40 8 * 2 ^ 40) else drop t.peers w }

/-- FIRMWARE_MAILBOX_REQUEST: firmware sets WIDLE (kind 0) or the pod package number (kind 1), and the mailbox's vector 3 is raised
(R365, R401, R409). -/
def execFirmwareMailboxRequest (tower kind : Nat) (value : BitVec 64) (s : State) : Out :=
  .next (
    if 2 ≤ tower then s
    else match kind with
      | 0 => (s.modTower tower fun t => { t with widle := fld value 0 32 }).interrupt 3
      | 1 => { s with pkg := fld value 0 10 }.interrupt 3
      | _ => s)

/-! ### Core registers written as CSR writes write them -/

/-- A slot's write of OCLAIM, once the unit it names is not being zeroed (R325, R326). -/
def execOclaimWrite (core slot : Nat) (value : BitVec 64) (s : State) : Out :=
  .next (if coreCount ≤ core ∨ 4 ≤ slot ∨ (s.core core).zeroing.contains (fld value 0 4) then s
    else s.writeOclaim core slot value)

/-- A core's write of EINJ; without fault injection it is ignored (R321). -/
def execEinjWrite (core : Nat) (value : BitVec 64) (s : State) : Out :=
  .next (if coreCount ≤ core ∨ !(s.tower (towerOf core)).injen then s
    else s.modCore core fun c => { c with einj := value &&& 0xFFFF_FF7F })

/-- A core's write of BKEY (R59): every access that is older has been performed, so the new hash applies from here on. -/
def execBkeyWrite (core : Nat) (value : BitVec 64) (s : State) : Out :=
  .next (if coreCount ≤ core then s else s.modCore core fun c => { c with bkey := value })

/-- A slot's write of a watermark (R259). -/
def execWmWrite (core slot channel : Nat) (value : BitVec 64) (s : State) : Out :=
  .next (if coreCount ≤ core ∨ 4 ≤ slot ∨ 8 ≤ channel then s else s.writeWm core slot channel value)

/-- A core's write of LPART: PENDG, HOME and LENT (R25, R137). -/
def execLpartWrite (core : Nat) (value : BitVec 64) (s : State) : Out :=
  .next (if coreCount ≤ core then s else s.modCore core fun c => { c with lpart := lpartWrite (s.groupMask core) c.lpart value })

/-- A core's write of TOWN or LOWN, once no unit is being zeroed (R60, R326). -/
def execOwnerWrite (core : Nat) (latches : Bool) (value : BitVec 64) (s : State) : Out :=
  .next (if coreCount ≤ core ∨ !(s.core core).zeroing.isEmpty then s
    else s.modCore core fun c => if latches then { c with lown := value &&& 0xFFFF_FFFF } else { c with town := value })

/-! ### Accesses from outside (R362 to R365, R389, R402, R405, R409) -/

/-- HOST_MEM_ACCESS: a host read (no data), write or atomic of HDM over CXL.mem, under the key of its GiB region. An atomic
answers the old bytes. -/
def execHostMemAccess (address : BitVec 64) (data : List (BitVec 8)) (length : Nat) (atomic : Bool) (s : State) : Out :=
  let a := address.toNat
  let n := if data.isEmpty then length else data.length
  .next (
    if hbmEnd < a + n ∨ !s.hostLink then s
    else match s.keyOf ((look (s.tower (stackTower a)).hkey (a / 2 ^ 30)).getD 0) with
      | none => { s with hostReply := none }
      | some key =>
        let reads := data.isEmpty || atomic
        if reads && s.poisoned a n then { s with hostReply := none }
        else
          let reply := if reads then s.bytesKey key a n else []
          if data.isEmpty then { s with hostReply := some reply }
          else
            let ranges := ((unitsOf a n 65536).map (· / 65536)).filter fun r => !s.hostTouched.contains r
            { s.write key a data with hostReply := some reply, hostTouched := ranges ++ s.hostTouched })

/-- One byte of the part's memory may be read or written from outside (R361, R362, R364). -/
def State.outsideOk (s : State) (write : Bool) (a : Nat) : Bool :=
  match physKind a with
  | .hbm | .onsen _ | .cluster _ => true
  | .replica _ | .mirror _ => !write
  | .priv n => decide (privBase n + (s.core n).xb.toNat ≤ a)
  | .peer _ | .host | .unmapped => false

/-- An access from outside to a layer's memory waits for power, a replica copy or a reset (R296, R378). -/
def State.outsideWaits (s : State) (a : Nat) : Bool :=
  s.powerWaits a || ((sramLayer a).any fun l => (s.layer l.1).lrst)

/-- HOST_APERTURE_ACCESS: a host read (no data) or write of an SRAM aperture over BAR4. One that has to wait wakes its layer and
is made again. -/
def execHostApertureAccess (offset : BitVec 64) (data : List (BitVec 8)) (length : Nat) (s : State) : Out :=
  let a := apertures + offset.toNat
  let n := if data.isEmpty then length else data.length
  let s1 := s.touchLayer a
  .next (
    if 0x2000000000 < offset.toNat + n ∨ !s.hostLink then s
    else if s.outsideWaits a then s1
    else if !((List.range n).all fun i => s.outsideOk (!data.isEmpty) (a + i)) then
      if data.isEmpty then { s1 with hostReply := none } else s1.dropWrite a
    else if data.isEmpty then
      { s1 with hostReply := if s.unreadable a n then none else some (s1.bytes a n) }
    else { s1.write (.random s.key0) a data with hostReply := some [] })

/-- The 8-byte atomics between accelerators, by the model's kinds 2 to 12, in the order of R269 (log 30). -/
def peerAtomic (kind old operand expected : Nat) : Nat :=
  match kind with
  | 2 => (old + operand) % 2 ^ 64
  | 3 => old &&& operand
  | 4 => old ||| operand
  | 5 => old ^^^ operand
  | 6 => atomPick true false 64 old operand
  | 7 => atomPick true true 64 old operand
  | 8 => atomPick false false 64 old operand
  | 9 => atomPick false true 64 old operand
  | 10 => operand
  | 11 => if old = expected then operand else old
  | _ => (fAdd FP64 .rne old operand).1

/-- An address names memory of the package that an aperture shows (R362). -/
def inAperture (a : Nat) : Bool :=
  match physKind a with
  | .onsen _ | .replica _ | .cluster _ | .priv _ | .mirror _ => true
  | .hbm | .peer _ | .host | .unmapped => false

/-- UALINK_PEER_ACCESS: a read (kind 0), write (1) or atomic of an aligned doubleword by a peer package, while a port is up. A
peer's access carries no key: HBM is read and written under key 0 (log 30). A write or atomic that a range does not take sets
APERR (R362). -/
def execUalinkPeerAccess (address : BitVec 64) (kind : Nat) (operand expected : BitVec 64) (s : State) : Out :=
  let a := address.toNat
  let s1 := s.touchLayer a
  let key : KeyVal := .random s.key0
  .next (
    if ((s.tower 0).ports = 0 ∧ (s.tower 1).ports = 0) ∨ a % 8 ≠ 0 ∨ 12 < kind then s
    else if s.outsideWaits a then s1
    else if !s.outsideOk (kind ≠ 0) a then
      let s2 := if kind ≠ 0 ∧ inAperture a then s1.dropWrite a else s1
      if kind = 1 ∧ inAperture a then s2 else { s2 with hostReply := none }
    else if kind ≠ 1 ∧ s.unreadable a 8 then { s1 with hostReply := none }
    else
      let old := leNat (s1.bytesKey key a 8)
      if kind = 0 then { s1 with hostReply := some (leBytes 8 old) }
      else if kind = 1 then { s1.write key a (leBytes 8 operand.toNat) with hostReply := some [] }
      else
        { s1.write key a (leBytes 8 (peerAtomic kind old operand.toNat expected.toNat)) with
          hostReply := some (leBytes 8 old) })

/-- UALINK_PORT_DOWN: traffic moves to the other ports; the last port lost is a machine check (R409). -/
def execUalinkPortDown (tower port : Nat) (s : State) : Out :=
  let t := s.tower tower
  let left := putBit t.ports port false
  .next (
    if 2 ≤ tower ∨ 4 ≤ port ∨ !bit t.ports port then s
    else
      let s1 := s.modTower tower fun t => { t with ports := left }
      if left = 0 then s1.machineCheck tower 9 0 0 0 0 0 else s1)

/-- UALINK_PORT_UP: a port carries peer traffic again. -/
def execUalinkPortUp (tower port : Nat) (s : State) : Out :=
  .next (if 2 ≤ tower ∨ 4 ≤ port then s else s.modTower tower fun t => { t with ports := putBit t.ports port true })

end Sys2Proof.Machine
end

