-- ==== Sys2Proof/Decode.lean ====
section
/-!
DEFINITION. (Lean's code generator numbers at most 245 constructors that carry fields, so the definitions here that build
later ones are marked noncomputable; the kernel evaluates them.) The decoder and, after it, the encoder, both from the formats of R92, the opcode map of R101 and the
encodings of the instruction chapters. Decoding is total: a word that is no instruction is rejected by name, and the
name gives the check of R102 that fails.
-/
namespace Sys2Proof

/-- Why a word is no instruction: the failing check of R102, or too few bytes for a word. -/
inductive Reject where
  /-- Major 0x00 or 0x3F (check 1). -/
  | illegalMajor
  /-- Major 0x3B to 0x3E (check 2). -/
  | reservedMajor
  /-- A function code, sub-op or sub-select the major does not define (check 3). -/
  | undefinedFunction
  /-- A reserved field that is not 0, or a field outside its limits (check 3). -/
  | illegalField
  /-- Fewer than four bytes were given. -/
  | truncated
  deriving DecidableEq, Repr

/-- What a word decodes to. -/
inductive Decoded where
  /-- An instruction. -/
  | instr (i : Instr)
  /-- No instruction, with the reason. -/
  | reject (r : Reject)
  deriving DecidableEq, Repr

/-- The check of R102 that a rejected word fails. -/
def Reject.check : Reject → Nat
  | .illegalMajor => 1
  | .reservedMajor => 2
  | .undefinedFunction => 3
  | .illegalField => 3
  | .truncated => 3

/-- An instruction whose reserved fields are zero, else an illegal field value (R93). -/
def fieldsZero (zero : Bool) (i : Instr) : Decoded := if zero then .instr i else .reject .illegalField

/-- Major 0x01: selected by bits [10:0] (R101). -/
def decode01 (w : Half) : Decoded :=
  match (w.extractLsb' 0 11).toNat with
  | 0x00 => .instr (.add (w.extractLsb' 21 5) (w.extractLsb' 16 5) (w.extractLsb' 11 5))
  | 0x01 => .instr (.sub (w.extractLsb' 21 5) (w.extractLsb' 16 5) (w.extractLsb' 11 5))
  | 0x02 => .instr (.and (w.extractLsb' 21 5) (w.extractLsb' 16 5) (w.extractLsb' 11 5))
  | 0x03 => .instr (.or (w.extractLsb' 21 5) (w.extractLsb' 16 5) (w.extractLsb' 11 5))
  | 0x04 => .instr (.xor (w.extractLsb' 21 5) (w.extractLsb' 16 5) (w.extractLsb' 11 5))
  | 0x05 => .instr (.andn (w.extractLsb' 21 5) (w.extractLsb' 16 5) (w.extractLsb' 11 5))
  | 0x06 => .instr (.sll (w.extractLsb' 21 5) (w.extractLsb' 16 5) (w.extractLsb' 11 5))
  | 0x07 => .instr (.srl (w.extractLsb' 21 5) (w.extractLsb' 16 5) (w.extractLsb' 11 5))
  | 0x08 => .instr (.sra (w.extractLsb' 21 5) (w.extractLsb' 16 5) (w.extractLsb' 11 5))
  | 0x09 => .instr (.ror (w.extractLsb' 21 5) (w.extractLsb' 16 5) (w.extractLsb' 11 5))
  | 0x0A => .instr (.slt (w.extractLsb' 21 5) (w.extractLsb' 16 5) (w.extractLsb' 11 5))
  | 0x0B => .instr (.sltu (w.extractLsb' 21 5) (w.extractLsb' 16 5) (w.extractLsb' 11 5))
  | 0x0C => .instr (.min (w.extractLsb' 21 5) (w.extractLsb' 16 5) (w.extractLsb' 11 5))
  | 0x0D => .instr (.max (w.extractLsb' 21 5) (w.extractLsb' 16 5) (w.extractLsb' 11 5))
  | 0x0E => .instr (.minu (w.extractLsb' 21 5) (w.extractLsb' 16 5) (w.extractLsb' 11 5))
  | 0x0F => .instr (.maxu (w.extractLsb' 21 5) (w.extractLsb' 16 5) (w.extractLsb' 11 5))
  | 0x10 => .instr (.mul (w.extractLsb' 21 5) (w.extractLsb' 16 5) (w.extractLsb' 11 5))
  | 0x11 => .instr (.mulh (w.extractLsb' 21 5) (w.extractLsb' 16 5) (w.extractLsb' 11 5))
  | 0x12 => .instr (.mulhu (w.extractLsb' 21 5) (w.extractLsb' 16 5) (w.extractLsb' 11 5))
  | 0x13 => .instr (.mulhsu (w.extractLsb' 21 5) (w.extractLsb' 16 5) (w.extractLsb' 11 5))
  | 0x14 => .instr (.div (w.extractLsb' 21 5) (w.extractLsb' 16 5) (w.extractLsb' 11 5))
  | 0x15 => .instr (.divu (w.extractLsb' 21 5) (w.extractLsb' 16 5) (w.extractLsb' 11 5))
  | 0x16 => .instr (.rem (w.extractLsb' 21 5) (w.extractLsb' 16 5) (w.extractLsb' 11 5))
  | 0x17 => .instr (.remu (w.extractLsb' 21 5) (w.extractLsb' 16 5) (w.extractLsb' 11 5))
  | 0x18 => .instr (.sh1add (w.extractLsb' 21 5) (w.extractLsb' 16 5) (w.extractLsb' 11 5))
  | 0x19 => .instr (.sh2add (w.extractLsb' 21 5) (w.extractLsb' 16 5) (w.extractLsb' 11 5))
  | 0x1A => .instr (.sh3add (w.extractLsb' 21 5) (w.extractLsb' 16 5) (w.extractLsb' 11 5))
  | 0x1B => fieldsZero (w.extractLsb' 11 5 == 0) (.clz (w.extractLsb' 21 5) (w.extractLsb' 16 5))
  | 0x1C => fieldsZero (w.extractLsb' 11 5 == 0) (.ctz (w.extractLsb' 21 5) (w.extractLsb' 16 5))
  | 0x1D => fieldsZero (w.extractLsb' 11 5 == 0) (.cpop (w.extractLsb' 21 5) (w.extractLsb' 16 5))
  | _ => .reject .undefinedFunction

/-- Major 0x08: selected by bits [7:6] (R101). -/
def decode08 (w : Half) : Decoded :=
  match (w.extractLsb' 6 2).toNat with
  | 0x00 => fieldsZero (w.extractLsb' 8 8 == 0) (.slli (w.extractLsb' 21 5) (w.extractLsb' 16 5) (w.extractLsb' 0 6))
  | 0x01 => fieldsZero (w.extractLsb' 8 8 == 0) (.srli (w.extractLsb' 21 5) (w.extractLsb' 16 5) (w.extractLsb' 0 6))
  | 0x02 => fieldsZero (w.extractLsb' 8 8 == 0) (.srai (w.extractLsb' 21 5) (w.extractLsb' 16 5) (w.extractLsb' 0 6))
  | 0x03 => fieldsZero (w.extractLsb' 8 8 == 0) (.rori (w.extractLsb' 21 5) (w.extractLsb' 16 5) (w.extractLsb' 0 6))
  | _ => .reject .undefinedFunction

/-- Major 0x0B: selected by bits [7:0] (R101). -/
def decode0B (w : Half) : Decoded :=
  match (w.extractLsb' 0 8).toNat with
  | 0x00 => fieldsZero (w.extractLsb' 9 2 == 0) (.fadd (w.extractLsb' 21 5) (w.extractLsb' 16 5) (w.extractLsb' 11 5) (w.extractLsb' 8 1))
  | 0x01 => fieldsZero (w.extractLsb' 9 2 == 0) (.fsub (w.extractLsb' 21 5) (w.extractLsb' 16 5) (w.extractLsb' 11 5) (w.extractLsb' 8 1))
  | 0x02 => fieldsZero (w.extractLsb' 9 2 == 0) (.fmul (w.extractLsb' 21 5) (w.extractLsb' 16 5) (w.extractLsb' 11 5) (w.extractLsb' 8 1))
  | 0x03 => fieldsZero (w.extractLsb' 9 2 == 0) (.fdiv (w.extractLsb' 21 5) (w.extractLsb' 16 5) (w.extractLsb' 11 5) (w.extractLsb' 8 1))
  | 0x04 => fieldsZero (w.extractLsb' 9 7 == 0) (.fsqrt (w.extractLsb' 21 5) (w.extractLsb' 16 5) (w.extractLsb' 8 1))
  | 0x05 => fieldsZero (w.extractLsb' 9 2 == 0) (.fmac (w.extractLsb' 21 5) (w.extractLsb' 16 5) (w.extractLsb' 11 5) (w.extractLsb' 8 1))
  | 0x06 => fieldsZero (w.extractLsb' 9 2 == 0) (.fmin (w.extractLsb' 21 5) (w.extractLsb' 16 5) (w.extractLsb' 11 5) (w.extractLsb' 8 1))
  | 0x07 => fieldsZero (w.extractLsb' 9 2 == 0) (.fmax (w.extractLsb' 21 5) (w.extractLsb' 16 5) (w.extractLsb' 11 5) (w.extractLsb' 8 1))
  | 0x08 => fieldsZero (w.extractLsb' 9 2 == 0) (.feq (w.extractLsb' 21 5) (w.extractLsb' 16 5) (w.extractLsb' 11 5) (w.extractLsb' 8 1))
  | 0x09 => fieldsZero (w.extractLsb' 9 7 == 0) (.fclass (w.extractLsb' 21 5) (w.extractLsb' 16 5) (w.extractLsb' 8 1))
  | 0x0A => fieldsZero (w.extractLsb' 9 7 == 0) (.fcvtI32 (w.extractLsb' 21 5) (w.extractLsb' 16 5) (w.extractLsb' 8 1))
  | 0x0B => fieldsZero (w.extractLsb' 9 2 == 0) (.fsgnj (w.extractLsb' 21 5) (w.extractLsb' 16 5) (w.extractLsb' 11 5) (w.extractLsb' 8 1))
  | 0x28 => fieldsZero (w.extractLsb' 9 2 == 0) (.flt (w.extractLsb' 21 5) (w.extractLsb' 16 5) (w.extractLsb' 11 5) (w.extractLsb' 8 1))
  | 0x2A => fieldsZero (w.extractLsb' 9 7 == 0) (.fcvtUi32 (w.extractLsb' 21 5) (w.extractLsb' 16 5) (w.extractLsb' 8 1))
  | 0x2B => fieldsZero (w.extractLsb' 9 2 == 0) (.fsgnjn (w.extractLsb' 21 5) (w.extractLsb' 16 5) (w.extractLsb' 11 5) (w.extractLsb' 8 1))
  | 0x48 => fieldsZero (w.extractLsb' 9 2 == 0) (.fle (w.extractLsb' 21 5) (w.extractLsb' 16 5) (w.extractLsb' 11 5) (w.extractLsb' 8 1))
  | 0x4A => fieldsZero (w.extractLsb' 9 7 == 0) (.fcvtI64 (w.extractLsb' 21 5) (w.extractLsb' 16 5) (w.extractLsb' 8 1))
  | 0x4B => fieldsZero (w.extractLsb' 9 2 == 0) (.fsgnjx (w.extractLsb' 21 5) (w.extractLsb' 16 5) (w.extractLsb' 11 5) (w.extractLsb' 8 1))
  | 0x68 => fieldsZero (w.extractLsb' 9 2 == 0) (.funord (w.extractLsb' 21 5) (w.extractLsb' 16 5) (w.extractLsb' 11 5) (w.extractLsb' 8 1))
  | 0x6A => fieldsZero (w.extractLsb' 9 7 == 0) (.fcvtUi64 (w.extractLsb' 21 5) (w.extractLsb' 16 5) (w.extractLsb' 8 1))
  | 0x8A => fieldsZero (w.extractLsb' 9 7 == 0) (.fcvtFI64 (w.extractLsb' 21 5) (w.extractLsb' 16 5) (w.extractLsb' 8 1))
  | 0xAA => fieldsZero (w.extractLsb' 9 7 == 0) (.fcvtFUi64 (w.extractLsb' 21 5) (w.extractLsb' 16 5) (w.extractLsb' 8 1))
  | 0xCA => fieldsZero (w.extractLsb' 9 7 == 0) (.fcvtFF (w.extractLsb' 21 5) (w.extractLsb' 16 5) (w.extractLsb' 8 1))
  | _ => .reject .undefinedFunction

/-- Major 0x25: selected by bits [3:0] (R101). -/
def decode25 (w : Half) : Decoded :=
  match (w.extractLsb' 0 4).toNat with
  | 0x00 => .instr (.csrrw (w.extractLsb' 21 5) (w.extractLsb' 16 5) (w.extractLsb' 4 12))
  | 0x01 => .instr (.csrrs (w.extractLsb' 21 5) (w.extractLsb' 16 5) (w.extractLsb' 4 12))
  | 0x02 => .instr (.csrrc (w.extractLsb' 21 5) (w.extractLsb' 16 5) (w.extractLsb' 4 12))
  | 0x03 => .instr (.csrrwi (w.extractLsb' 21 5) (w.extractLsb' 16 5) (w.extractLsb' 4 12))
  | 0x04 => .instr (.csrrsi (w.extractLsb' 21 5) (w.extractLsb' 16 5) (w.extractLsb' 4 12))
  | 0x05 => .instr (.csrrci (w.extractLsb' 21 5) (w.extractLsb' 16 5) (w.extractLsb' 4 12))
  | 0x08 => fieldsZero (w.extractLsb' 20 6 == 0) (.trap (w.extractLsb' 4 16))
  | 0x09 => fieldsZero (w.extractLsb' 4 22 == 0) (.tret)
  | 0x0A => fieldsZero (w.extractLsb' 4 7 == 0 && w.extractLsb' 21 5 == 0) (.csave (w.extractLsb' 16 5) (w.extractLsb' 11 5))
  | 0x0B => fieldsZero (w.extractLsb' 4 12 == 0 && w.extractLsb' 21 5 == 0) (.crestore (w.extractLsb' 16 5))
  | 0x0C => fieldsZero (w.extractLsb' 4 22 == 0) (.tdiscard)
  | 0x0D => fieldsZero (w.extractLsb' 4 22 == 0) (.tfail)
  | _ => .reject .undefinedFunction

/-- Major 0x26: selected by bits [3:0] (R101). -/
def decode26 (w : Half) : Decoded :=
  match (w.extractLsb' 0 4).toNat with
  | 0x00 => fieldsZero (w.extractLsb' 10 1 == 0) (.aadd (w.extractLsb' 21 5) (w.extractLsb' 16 5) (w.extractLsb' 11 5) (w.extractLsb' 7 3) (w.extractLsb' 5 2) (w.extractLsb' 4 1))
  | 0x01 => fieldsZero (w.extractLsb' 10 1 == 0) (.aand (w.extractLsb' 21 5) (w.extractLsb' 16 5) (w.extractLsb' 11 5) (w.extractLsb' 7 3) (w.extractLsb' 5 2) (w.extractLsb' 4 1))
  | 0x02 => fieldsZero (w.extractLsb' 10 1 == 0) (.aor (w.extractLsb' 21 5) (w.extractLsb' 16 5) (w.extractLsb' 11 5) (w.extractLsb' 7 3) (w.extractLsb' 5 2) (w.extractLsb' 4 1))
  | 0x03 => fieldsZero (w.extractLsb' 10 1 == 0) (.axor (w.extractLsb' 21 5) (w.extractLsb' 16 5) (w.extractLsb' 11 5) (w.extractLsb' 7 3) (w.extractLsb' 5 2) (w.extractLsb' 4 1))
  | 0x04 => fieldsZero (w.extractLsb' 10 1 == 0) (.amin (w.extractLsb' 21 5) (w.extractLsb' 16 5) (w.extractLsb' 11 5) (w.extractLsb' 7 3) (w.extractLsb' 5 2) (w.extractLsb' 4 1))
  | 0x05 => fieldsZero (w.extractLsb' 10 1 == 0) (.amax (w.extractLsb' 21 5) (w.extractLsb' 16 5) (w.extractLsb' 11 5) (w.extractLsb' 7 3) (w.extractLsb' 5 2) (w.extractLsb' 4 1))
  | 0x06 => fieldsZero (w.extractLsb' 10 1 == 0) (.aminu (w.extractLsb' 21 5) (w.extractLsb' 16 5) (w.extractLsb' 11 5) (w.extractLsb' 7 3) (w.extractLsb' 5 2) (w.extractLsb' 4 1))
  | 0x07 => fieldsZero (w.extractLsb' 10 1 == 0) (.amaxu (w.extractLsb' 21 5) (w.extractLsb' 16 5) (w.extractLsb' 11 5) (w.extractLsb' 7 3) (w.extractLsb' 5 2) (w.extractLsb' 4 1))
  | 0x08 => fieldsZero (w.extractLsb' 10 1 == 0) (.aswap (w.extractLsb' 21 5) (w.extractLsb' 16 5) (w.extractLsb' 11 5) (w.extractLsb' 7 3) (w.extractLsb' 5 2) (w.extractLsb' 4 1))
  | 0x09 => fieldsZero (w.extractLsb' 10 1 == 0) (.acas (w.extractLsb' 21 5) (w.extractLsb' 16 5) (w.extractLsb' 11 5) (w.extractLsb' 7 3) (w.extractLsb' 5 2) (w.extractLsb' 4 1))
  | 0x0A => fieldsZero (w.extractLsb' 10 1 == 0) (.afadd (w.extractLsb' 21 5) (w.extractLsb' 16 5) (w.extractLsb' 11 5) (w.extractLsb' 7 3) (w.extractLsb' 5 2) (w.extractLsb' 4 1))
  | _ => .reject .undefinedFunction

/-- Major 0x27: selected by bits [10:8] (R101). -/
def decode27 (w : Half) : Decoded :=
  match (w.extractLsb' 8 3).toNat with
  | 0x00 => fieldsZero (w.extractLsb' 5 3 == 0 && w.extractLsb' 11 15 == 0) (.fence (w.extractLsb' 3 2) (w.extractLsb' 0 3))
  | 0x01 => fieldsZero (w.extractLsb' 11 15 == 0) (.sbar (w.extractLsb' 0 8))
  | 0x02 => fieldsZero (w.extractLsb' 5 3 == 0) (.waita (w.extractLsb' 21 5) (w.extractLsb' 16 5) (w.extractLsb' 11 5) (w.extractLsb' 0 5))
  | 0x03 => fieldsZero (w.extractLsb' 0 8 == 0 && w.extractLsb' 11 5 == 0) (.barr (w.extractLsb' 21 5) (w.extractLsb' 16 5))
  | 0x04 => fieldsZero (w.extractLsb' 5 3 == 0) (.bwait (w.extractLsb' 21 5) (w.extractLsb' 16 5) (w.extractLsb' 11 5) (w.extractLsb' 0 5))
  | 0x05 =>
    match (w.extractLsb' 0 1).toNat with
    | 0x00 => fieldsZero (w.extractLsb' 1 7 == 0 && w.extractLsb' 11 5 == 0 && w.extractLsb' 21 5 == 0) (.bjoin (w.extractLsb' 16 5))
    | 0x01 => fieldsZero (w.extractLsb' 1 7 == 0 && w.extractLsb' 11 5 == 0 && w.extractLsb' 21 5 == 0) (.bleave (w.extractLsb' 16 5))
    | _ => .reject .undefinedFunction
  | 0x06 =>
    match (w.extractLsb' 0 1).toNat with
    | 0x00 => fieldsZero (w.extractLsb' 1 7 == 0) (.pqpush (w.extractLsb' 21 5) (w.extractLsb' 16 5) (w.extractLsb' 11 5))
    | 0x01 => fieldsZero (w.extractLsb' 1 7 == 0) (.pqpop (w.extractLsb' 21 5) (w.extractLsb' 16 5) (w.extractLsb' 11 5))
    | _ => .reject .undefinedFunction
  | _ => .reject .undefinedFunction

/-- Major 0x28: selected by bits [4:0] (R101). -/
def decode28 (w : Half) : Decoded :=
  match (w.extractLsb' 0 5).toNat with
  | 0x00 => fieldsZero (w.extractLsb' 5 6 == 0 && w.extractLsb' 21 5 == 0) (.spawn (w.extractLsb' 16 5) (w.extractLsb' 11 5))
  | 0x01 => fieldsZero (w.extractLsb' 5 21 == 0) (.tcommit)
  | 0x02 => fieldsZero (w.extractLsb' 6 10 == 0) (.kill (w.extractLsb' 21 5) (w.extractLsb' 16 5) (w.extractLsb' 5 1))
  | 0x03 => fieldsZero (w.extractLsb' 5 11 == 0 && w.extractLsb' 21 5 == 0) (.wqry (w.extractLsb' 16 5))
  | 0x04 => fieldsZero (w.extractLsb' 5 21 == 0) (.doneTask)
  | 0x05 => fieldsZero (w.extractLsb' 5 21 == 0) (.yield)
  | 0x06 => fieldsZero (w.extractLsb' 5 11 == 0) (.joinw (w.extractLsb' 21 5) (w.extractLsb' 16 5))
  | 0x08 => fieldsZero (w.extractLsb' 9 2 == 0) (.ckmark (w.extractLsb' 21 5) (w.extractLsb' 16 5) (w.extractLsb' 11 5) (w.extractLsb' 5 4))
  | 0x09 => fieldsZero (w.extractLsb' 10 16 == 0) (.ckroll (w.extractLsb' 9 1) (w.extractLsb' 5 4))
  | 0x0A => fieldsZero (w.extractLsb' 10 16 == 0) (.ckcommit (w.extractLsb' 9 1) (w.extractLsb' 5 4))
  | 0x0B => fieldsZero (w.extractLsb' 9 12 == 0) (.ckstat (w.extractLsb' 21 5) (w.extractLsb' 5 4))
  | _ => .reject .undefinedFunction

/-- Major 0x29: selected by bits [3:0] (R101). -/
def decode29 (w : Half) : Decoded :=
  match (w.extractLsb' 0 4).toNat with
  | 0x00 => fieldsZero (w.extractLsb' 4 12 == 0) (.gslot (w.extractLsb' 21 5) (w.extractLsb' 16 5))
  | 0x01 => fieldsZero (w.extractLsb' 4 12 == 0) (.grel (w.extractLsb' 21 5) (w.extractLsb' 16 5))
  | 0x02 => fieldsZero (w.extractLsb' 7 4 == 0 && w.extractLsb' 21 5 == 0) (.gst (w.extractLsb' 16 5) (w.extractLsb' 11 5) (w.extractLsb' 4 3))
  | 0x03 => fieldsZero (w.extractLsb' 6 5 == 0) (.gamo (w.extractLsb' 21 5) (w.extractLsb' 16 5) (w.extractLsb' 11 5) (w.extractLsb' 4 2))
  | 0x04 => fieldsZero (w.extractLsb' 4 17 == 0) (.gframe (w.extractLsb' 21 5))
  | _ => .reject .undefinedFunction

/-- Major 0x2A: selected by bits [10:0] (R101). -/
def decode2A (w : Half) : Decoded :=
  match (w.extractLsb' 0 11).toNat with
  | 0x00 => .instr (.vsetvl (w.extractLsb' 21 5) (w.extractLsb' 16 5) (w.extractLsb' 11 5))
  | 0x01 => fieldsZero (w.extractLsb' 16 5 == 0) (.vlmaxq (w.extractLsb' 21 5) (w.extractLsb' 11 5))
  | _ => .reject .undefinedFunction

/-- Major 0x2B: selected by bits [4:0] (R101). -/
def decode2B (w : Half) : Decoded :=
  match (w.extractLsb' 0 5).toNat with
  | 0x00 => fieldsZero (w.extractLsb' 7 1 == 0) (.vaddVv (w.extractLsb' 21 5) (w.extractLsb' 16 5) (w.extractLsb' 11 5) (w.extractLsb' 8 3) (w.extractLsb' 6 1) (w.extractLsb' 5 1))
  | 0x01 => fieldsZero (w.extractLsb' 7 1 == 0) (.vaddVx (w.extractLsb' 21 5) (w.extractLsb' 16 5) (w.extractLsb' 11 5) (w.extractLsb' 8 3) (w.extractLsb' 6 1) (w.extractLsb' 5 1))
  | 0x02 => fieldsZero (w.extractLsb' 7 1 == 0) (.vaddVi (w.extractLsb' 21 5) (w.extractLsb' 16 5) (w.extractLsb' 11 5) (w.extractLsb' 8 3) (w.extractLsb' 6 1) (w.extractLsb' 5 1))
  | 0x03 => fieldsZero (w.extractLsb' 7 1 == 0) (.vsubVv (w.extractLsb' 21 5) (w.extractLsb' 16 5) (w.extractLsb' 11 5) (w.extractLsb' 8 3) (w.extractLsb' 6 1) (w.extractLsb' 5 1))
  | 0x04 => fieldsZero (w.extractLsb' 7 1 == 0) (.vsubVx (w.extractLsb' 21 5) (w.extractLsb' 16 5) (w.extractLsb' 11 5) (w.extractLsb' 8 3) (w.extractLsb' 6 1) (w.extractLsb' 5 1))
  | 0x05 => fieldsZero (w.extractLsb' 7 1 == 0) (.vrsubVi (w.extractLsb' 21 5) (w.extractLsb' 16 5) (w.extractLsb' 11 5) (w.extractLsb' 8 3) (w.extractLsb' 6 1) (w.extractLsb' 5 1))
  | 0x06 => fieldsZero (w.extractLsb' 7 1 == 0) (.vandVv (w.extractLsb' 21 5) (w.extractLsb' 16 5) (w.extractLsb' 11 5) (w.extractLsb' 8 3) (w.extractLsb' 6 1) (w.extractLsb' 5 1))
  | 0x07 => fieldsZero (w.extractLsb' 7 1 == 0) (.vandVx (w.extractLsb' 21 5) (w.extractLsb' 16 5) (w.extractLsb' 11 5) (w.extractLsb' 8 3) (w.extractLsb' 6 1) (w.extractLsb' 5 1))
  | 0x08 => fieldsZero (w.extractLsb' 7 1 == 0) (.vorVv (w.extractLsb' 21 5) (w.extractLsb' 16 5) (w.extractLsb' 11 5) (w.extractLsb' 8 3) (w.extractLsb' 6 1) (w.extractLsb' 5 1))
  | 0x09 => fieldsZero (w.extractLsb' 7 1 == 0) (.vorVx (w.extractLsb' 21 5) (w.extractLsb' 16 5) (w.extractLsb' 11 5) (w.extractLsb' 8 3) (w.extractLsb' 6 1) (w.extractLsb' 5 1))
  | 0x0A => fieldsZero (w.extractLsb' 7 1 == 0) (.vxorVv (w.extractLsb' 21 5) (w.extractLsb' 16 5) (w.extractLsb' 11 5) (w.extractLsb' 8 3) (w.extractLsb' 6 1) (w.extractLsb' 5 1))
  | 0x0B => fieldsZero (w.extractLsb' 7 1 == 0) (.vxorVx (w.extractLsb' 21 5) (w.extractLsb' 16 5) (w.extractLsb' 11 5) (w.extractLsb' 8 3) (w.extractLsb' 6 1) (w.extractLsb' 5 1))
  | 0x0C => fieldsZero (w.extractLsb' 7 1 == 0) (.vxorVi (w.extractLsb' 21 5) (w.extractLsb' 16 5) (w.extractLsb' 11 5) (w.extractLsb' 8 3) (w.extractLsb' 6 1) (w.extractLsb' 5 1))
  | 0x0D => fieldsZero (w.extractLsb' 7 1 == 0) (.vsllVv (w.extractLsb' 21 5) (w.extractLsb' 16 5) (w.extractLsb' 11 5) (w.extractLsb' 8 3) (w.extractLsb' 6 1) (w.extractLsb' 5 1))
  | 0x0E => fieldsZero (w.extractLsb' 7 1 == 0) (.vsllVi (w.extractLsb' 21 5) (w.extractLsb' 16 5) (w.extractLsb' 11 5) (w.extractLsb' 8 3) (w.extractLsb' 6 1) (w.extractLsb' 5 1))
  | 0x0F => fieldsZero (w.extractLsb' 7 1 == 0) (.vsrVv (w.extractLsb' 21 5) (w.extractLsb' 16 5) (w.extractLsb' 11 5) (w.extractLsb' 8 3) (w.extractLsb' 6 1) (w.extractLsb' 5 1))
  | 0x10 => fieldsZero (w.extractLsb' 7 1 == 0) (.vsrVi (w.extractLsb' 21 5) (w.extractLsb' 16 5) (w.extractLsb' 11 5) (w.extractLsb' 8 3) (w.extractLsb' 6 1) (w.extractLsb' 5 1))
  | 0x11 => fieldsZero (w.extractLsb' 7 1 == 0) (.vminVv (w.extractLsb' 21 5) (w.extractLsb' 16 5) (w.extractLsb' 11 5) (w.extractLsb' 8 3) (w.extractLsb' 6 1) (w.extractLsb' 5 1))
  | 0x12 => fieldsZero (w.extractLsb' 7 1 == 0) (.vminVx (w.extractLsb' 21 5) (w.extractLsb' 16 5) (w.extractLsb' 11 5) (w.extractLsb' 8 3) (w.extractLsb' 6 1) (w.extractLsb' 5 1))
  | 0x13 => fieldsZero (w.extractLsb' 7 1 == 0) (.vmaxVv (w.extractLsb' 21 5) (w.extractLsb' 16 5) (w.extractLsb' 11 5) (w.extractLsb' 8 3) (w.extractLsb' 6 1) (w.extractLsb' 5 1))
  | 0x14 => fieldsZero (w.extractLsb' 7 1 == 0) (.vmaxVx (w.extractLsb' 21 5) (w.extractLsb' 16 5) (w.extractLsb' 11 5) (w.extractLsb' 8 3) (w.extractLsb' 6 1) (w.extractLsb' 5 1))
  | 0x15 => fieldsZero (w.extractLsb' 7 1 == 0) (.vmulVv (w.extractLsb' 21 5) (w.extractLsb' 16 5) (w.extractLsb' 11 5) (w.extractLsb' 8 3) (w.extractLsb' 6 1) (w.extractLsb' 5 1))
  | 0x16 => fieldsZero (w.extractLsb' 7 1 == 0) (.vmulVx (w.extractLsb' 21 5) (w.extractLsb' 16 5) (w.extractLsb' 11 5) (w.extractLsb' 8 3) (w.extractLsb' 6 1) (w.extractLsb' 5 1))
  | 0x17 => fieldsZero (w.extractLsb' 7 1 == 0) (.vmulhVv (w.extractLsb' 21 5) (w.extractLsb' 16 5) (w.extractLsb' 11 5) (w.extractLsb' 8 3) (w.extractLsb' 6 1) (w.extractLsb' 5 1))
  | 0x18 => fieldsZero (w.extractLsb' 7 1 == 0) (.vmaccVv (w.extractLsb' 21 5) (w.extractLsb' 16 5) (w.extractLsb' 11 5) (w.extractLsb' 8 3) (w.extractLsb' 6 1) (w.extractLsb' 5 1))
  | 0x19 => fieldsZero (w.extractLsb' 7 1 == 0) (.vmaccVx (w.extractLsb' 21 5) (w.extractLsb' 16 5) (w.extractLsb' 11 5) (w.extractLsb' 8 3) (w.extractLsb' 6 1) (w.extractLsb' 5 1))
  | 0x1A => fieldsZero (w.extractLsb' 7 1 == 0) (.vsaddVv (w.extractLsb' 21 5) (w.extractLsb' 16 5) (w.extractLsb' 11 5) (w.extractLsb' 8 3) (w.extractLsb' 6 1) (w.extractLsb' 5 1))
  | 0x1B => fieldsZero (w.extractLsb' 7 1 == 0) (.vssubVv (w.extractLsb' 21 5) (w.extractLsb' 16 5) (w.extractLsb' 11 5) (w.extractLsb' 8 3) (w.extractLsb' 6 1) (w.extractLsb' 5 1))
  | 0x1C => fieldsZero (w.extractLsb' 7 1 == 0) (.vmergeVv (w.extractLsb' 21 5) (w.extractLsb' 16 5) (w.extractLsb' 11 5) (w.extractLsb' 8 3) (w.extractLsb' 6 1) (w.extractLsb' 5 1))
  | 0x1D => fieldsZero (w.extractLsb' 7 1 == 0 && w.extractLsb' 16 5 == 0) (.vmvVx (w.extractLsb' 21 5) (w.extractLsb' 11 5) (w.extractLsb' 8 3) (w.extractLsb' 6 1) (w.extractLsb' 5 1))
  | 0x1E => fieldsZero (w.extractLsb' 7 1 == 0 && w.extractLsb' 16 5 == 0) (.vmvVi (w.extractLsb' 21 5) (w.extractLsb' 11 5) (w.extractLsb' 8 3) (w.extractLsb' 6 1) (w.extractLsb' 5 1))
  | _ => .reject .undefinedFunction

/-- Major 0x2C: selected by bits [4:0] (R101). -/
def decode2C (w : Half) : Decoded :=
  match (w.extractLsb' 0 5).toNat with
  | 0x00 => .instr (.vfaddVv (w.extractLsb' 21 5) (w.extractLsb' 16 5) (w.extractLsb' 11 5) (w.extractLsb' 8 3) (w.extractLsb' 7 1) (w.extractLsb' 6 1) (w.extractLsb' 5 1))
  | 0x01 => .instr (.vfaddVx (w.extractLsb' 21 5) (w.extractLsb' 16 5) (w.extractLsb' 11 5) (w.extractLsb' 8 3) (w.extractLsb' 7 1) (w.extractLsb' 6 1) (w.extractLsb' 5 1))
  | 0x02 => .instr (.vfsubVv (w.extractLsb' 21 5) (w.extractLsb' 16 5) (w.extractLsb' 11 5) (w.extractLsb' 8 3) (w.extractLsb' 7 1) (w.extractLsb' 6 1) (w.extractLsb' 5 1))
  | 0x03 => .instr (.vfsubVx (w.extractLsb' 21 5) (w.extractLsb' 16 5) (w.extractLsb' 11 5) (w.extractLsb' 8 3) (w.extractLsb' 7 1) (w.extractLsb' 6 1) (w.extractLsb' 5 1))
  | 0x04 => .instr (.vfrsubVx (w.extractLsb' 21 5) (w.extractLsb' 16 5) (w.extractLsb' 11 5) (w.extractLsb' 8 3) (w.extractLsb' 7 1) (w.extractLsb' 6 1) (w.extractLsb' 5 1))
  | 0x05 => .instr (.vfmulVv (w.extractLsb' 21 5) (w.extractLsb' 16 5) (w.extractLsb' 11 5) (w.extractLsb' 8 3) (w.extractLsb' 7 1) (w.extractLsb' 6 1) (w.extractLsb' 5 1))
  | 0x06 => .instr (.vfmulVx (w.extractLsb' 21 5) (w.extractLsb' 16 5) (w.extractLsb' 11 5) (w.extractLsb' 8 3) (w.extractLsb' 7 1) (w.extractLsb' 6 1) (w.extractLsb' 5 1))
  | 0x07 => .instr (.vfdivVv (w.extractLsb' 21 5) (w.extractLsb' 16 5) (w.extractLsb' 11 5) (w.extractLsb' 8 3) (w.extractLsb' 7 1) (w.extractLsb' 6 1) (w.extractLsb' 5 1))
  | 0x08 => .instr (.vfdivVx (w.extractLsb' 21 5) (w.extractLsb' 16 5) (w.extractLsb' 11 5) (w.extractLsb' 8 3) (w.extractLsb' 7 1) (w.extractLsb' 6 1) (w.extractLsb' 5 1))
  | 0x09 => fieldsZero (w.extractLsb' 5 1 == 0 && w.extractLsb' 11 5 == 0) (.vfsqrt (w.extractLsb' 21 5) (w.extractLsb' 16 5) (w.extractLsb' 8 3) (w.extractLsb' 7 1) (w.extractLsb' 6 1))
  | 0x0A => .instr (.vfmaccVv (w.extractLsb' 21 5) (w.extractLsb' 16 5) (w.extractLsb' 11 5) (w.extractLsb' 8 3) (w.extractLsb' 7 1) (w.extractLsb' 6 1) (w.extractLsb' 5 1))
  | 0x0B => .instr (.vfmaccVx (w.extractLsb' 21 5) (w.extractLsb' 16 5) (w.extractLsb' 11 5) (w.extractLsb' 8 3) (w.extractLsb' 7 1) (w.extractLsb' 6 1) (w.extractLsb' 5 1))
  | 0x0C => .instr (.vfnmsacVv (w.extractLsb' 21 5) (w.extractLsb' 16 5) (w.extractLsb' 11 5) (w.extractLsb' 8 3) (w.extractLsb' 7 1) (w.extractLsb' 6 1) (w.extractLsb' 5 1))
  | 0x0D => .instr (.vfnmsacVx (w.extractLsb' 21 5) (w.extractLsb' 16 5) (w.extractLsb' 11 5) (w.extractLsb' 8 3) (w.extractLsb' 7 1) (w.extractLsb' 6 1) (w.extractLsb' 5 1))
  | 0x0E => .instr (.vfminVv (w.extractLsb' 21 5) (w.extractLsb' 16 5) (w.extractLsb' 11 5) (w.extractLsb' 8 3) (w.extractLsb' 7 1) (w.extractLsb' 6 1) (w.extractLsb' 5 1))
  | 0x0F => .instr (.vfminVx (w.extractLsb' 21 5) (w.extractLsb' 16 5) (w.extractLsb' 11 5) (w.extractLsb' 8 3) (w.extractLsb' 7 1) (w.extractLsb' 6 1) (w.extractLsb' 5 1))
  | 0x10 => .instr (.vfmaxVv (w.extractLsb' 21 5) (w.extractLsb' 16 5) (w.extractLsb' 11 5) (w.extractLsb' 8 3) (w.extractLsb' 7 1) (w.extractLsb' 6 1) (w.extractLsb' 5 1))
  | 0x11 => .instr (.vfmaxVx (w.extractLsb' 21 5) (w.extractLsb' 16 5) (w.extractLsb' 11 5) (w.extractLsb' 8 3) (w.extractLsb' 7 1) (w.extractLsb' 6 1) (w.extractLsb' 5 1))
  | 0x12 => fieldsZero (w.extractLsb' 7 1 == 0) (.vfsgnjVv (w.extractLsb' 21 5) (w.extractLsb' 16 5) (w.extractLsb' 11 5) (w.extractLsb' 8 3) (w.extractLsb' 6 1) (w.extractLsb' 5 1))
  | 0x13 => fieldsZero (w.extractLsb' 7 1 == 0) (.vfsgnjnVv (w.extractLsb' 21 5) (w.extractLsb' 16 5) (w.extractLsb' 11 5) (w.extractLsb' 8 3) (w.extractLsb' 6 1) (w.extractLsb' 5 1))
  | 0x14 => fieldsZero (w.extractLsb' 7 1 == 0) (.vfsgnjxVv (w.extractLsb' 21 5) (w.extractLsb' 16 5) (w.extractLsb' 11 5) (w.extractLsb' 8 3) (w.extractLsb' 6 1) (w.extractLsb' 5 1))
  | 0x15 => fieldsZero (w.extractLsb' 5 1 == 0 && w.extractLsb' 11 5 == 0) (.vfrec (w.extractLsb' 21 5) (w.extractLsb' 16 5) (w.extractLsb' 8 3) (w.extractLsb' 7 1) (w.extractLsb' 6 1))
  | 0x16 => fieldsZero (w.extractLsb' 5 1 == 0 && w.extractLsb' 11 5 == 0) (.vfrsqrt (w.extractLsb' 21 5) (w.extractLsb' 16 5) (w.extractLsb' 8 3) (w.extractLsb' 7 1) (w.extractLsb' 6 1))
  | 0x17 => fieldsZero (w.extractLsb' 5 1 == 0 && w.extractLsb' 11 5 == 0) (.vfexp2 (w.extractLsb' 21 5) (w.extractLsb' 16 5) (w.extractLsb' 8 3) (w.extractLsb' 7 1) (w.extractLsb' 6 1))
  | 0x18 =>
    match (w.extractLsb' 11 5).toNat with
    | 0x00 => fieldsZero (w.extractLsb' 5 1 == 0) (.vfcvtI (w.extractLsb' 21 5) (w.extractLsb' 16 5) (w.extractLsb' 8 3) (w.extractLsb' 7 1) (w.extractLsb' 6 1))
    | 0x01 => fieldsZero (w.extractLsb' 5 1 == 0) (.vfcvtUi (w.extractLsb' 21 5) (w.extractLsb' 16 5) (w.extractLsb' 8 3) (w.extractLsb' 7 1) (w.extractLsb' 6 1))
    | 0x02 => fieldsZero (w.extractLsb' 5 1 == 0) (.vfcvtFi (w.extractLsb' 21 5) (w.extractLsb' 16 5) (w.extractLsb' 8 3) (w.extractLsb' 7 1) (w.extractLsb' 6 1))
    | 0x03 => fieldsZero (w.extractLsb' 5 1 == 0) (.vfcvtFui (w.extractLsb' 21 5) (w.extractLsb' 16 5) (w.extractLsb' 8 3) (w.extractLsb' 7 1) (w.extractLsb' 6 1))
    | 0x04 => fieldsZero (w.extractLsb' 5 1 == 0) (.vfcvtRint (w.extractLsb' 21 5) (w.extractLsb' 16 5) (w.extractLsb' 8 3) (w.extractLsb' 7 1) (w.extractLsb' 6 1))
    | _ => .reject .undefinedFunction
  | 0x19 => fieldsZero (w.extractLsb' 5 1 == 0 && w.extractLsb' 7 1 == 0 && w.extractLsb' 11 5 == 0) (.vfclass (w.extractLsb' 21 5) (w.extractLsb' 16 5) (w.extractLsb' 8 3) (w.extractLsb' 6 1))
  | _ => .reject .undefinedFunction

/-- Major 0x2D: selected by bits [4:0] (R101). -/
def decode2D (w : Half) : Decoded :=
  match (w.extractLsb' 0 5).toNat with
  | 0x00 => fieldsZero (w.extractLsb' 7 1 == 0) (.vslupVi (w.extractLsb' 21 5) (w.extractLsb' 16 5) (w.extractLsb' 11 5) (w.extractLsb' 8 3) (w.extractLsb' 6 1) (w.extractLsb' 5 1))
  | 0x01 => fieldsZero (w.extractLsb' 7 1 == 0) (.vsldnVi (w.extractLsb' 21 5) (w.extractLsb' 16 5) (w.extractLsb' 11 5) (w.extractLsb' 8 3) (w.extractLsb' 6 1) (w.extractLsb' 5 1))
  | 0x02 => fieldsZero (w.extractLsb' 7 1 == 0) (.vrgathVv (w.extractLsb' 21 5) (w.extractLsb' 16 5) (w.extractLsb' 11 5) (w.extractLsb' 8 3) (w.extractLsb' 6 1) (w.extractLsb' 5 1))
  | 0x03 => fieldsZero (w.extractLsb' 5 1 == 0 && w.extractLsb' 7 1 == 0 && w.extractLsb' 11 5 == 0) (.vcompress (w.extractLsb' 21 5) (w.extractLsb' 16 5) (w.extractLsb' 8 3) (w.extractLsb' 6 1))
  | 0x04 => fieldsZero (w.extractLsb' 5 1 == 0 && w.extractLsb' 7 1 == 0 && w.extractLsb' 11 5 == 0) (.vexpand (w.extractLsb' 21 5) (w.extractLsb' 16 5) (w.extractLsb' 8 3) (w.extractLsb' 6 1))
  | 0x05 => fieldsZero (w.extractLsb' 5 3 == 0 && w.extractLsb' 11 5 == 0) (.viota (w.extractLsb' 21 5) (w.extractLsb' 16 5) (w.extractLsb' 8 3))
  | 0x06 => fieldsZero (w.extractLsb' 5 3 == 0 && w.extractLsb' 11 10 == 0) (.vid (w.extractLsb' 21 5) (w.extractLsb' 8 3))
  | 0x07 => fieldsZero (w.extractLsb' 5 1 == 0 && w.extractLsb' 7 1 == 0 && w.extractLsb' 11 5 == 0) (.vmvVv (w.extractLsb' 21 5) (w.extractLsb' 16 5) (w.extractLsb' 8 3) (w.extractLsb' 6 1))
  | 0x08 => fieldsZero (w.extractLsb' 7 4 == 0) (.vextx (w.extractLsb' 21 5) (w.extractLsb' 16 5) (w.extractLsb' 11 5) (w.extractLsb' 6 1) (w.extractLsb' 5 1))
  | 0x09 => fieldsZero (w.extractLsb' 7 4 == 0) (.vinsx (w.extractLsb' 21 5) (w.extractLsb' 16 5) (w.extractLsb' 11 5) (w.extractLsb' 6 1) (w.extractLsb' 5 1))
  | _ => .reject .undefinedFunction

/-- Major 0x2E: selected by bits [4:0] (R101). -/
def decode2E (w : Half) : Decoded :=
  match (w.extractLsb' 0 5).toNat with
  | 0x00 => fieldsZero (w.extractLsb' 7 1 == 0) (.vredsum (w.extractLsb' 21 5) (w.extractLsb' 16 5) (w.extractLsb' 11 5) (w.extractLsb' 8 3) (w.extractLsb' 6 1) (w.extractLsb' 5 1))
  | 0x01 => fieldsZero (w.extractLsb' 7 1 == 0) (.vredosum (w.extractLsb' 21 5) (w.extractLsb' 16 5) (w.extractLsb' 11 5) (w.extractLsb' 8 3) (w.extractLsb' 6 1) (w.extractLsb' 5 1))
  | 0x02 => fieldsZero (w.extractLsb' 7 1 == 0) (.vredmin (w.extractLsb' 21 5) (w.extractLsb' 16 5) (w.extractLsb' 11 5) (w.extractLsb' 8 3) (w.extractLsb' 6 1) (w.extractLsb' 5 1))
  | 0x03 => fieldsZero (w.extractLsb' 7 1 == 0) (.vredmax (w.extractLsb' 21 5) (w.extractLsb' 16 5) (w.extractLsb' 11 5) (w.extractLsb' 8 3) (w.extractLsb' 6 1) (w.extractLsb' 5 1))
  | 0x04 => fieldsZero (w.extractLsb' 7 1 == 0) (.vredand (w.extractLsb' 21 5) (w.extractLsb' 16 5) (w.extractLsb' 11 5) (w.extractLsb' 8 3) (w.extractLsb' 6 1) (w.extractLsb' 5 1))
  | 0x05 => fieldsZero (w.extractLsb' 7 1 == 0) (.vredor (w.extractLsb' 21 5) (w.extractLsb' 16 5) (w.extractLsb' 11 5) (w.extractLsb' 8 3) (w.extractLsb' 6 1) (w.extractLsb' 5 1))
  | 0x06 => fieldsZero (w.extractLsb' 7 1 == 0) (.vredxor (w.extractLsb' 21 5) (w.extractLsb' 16 5) (w.extractLsb' 11 5) (w.extractLsb' 8 3) (w.extractLsb' 6 1) (w.extractLsb' 5 1))
  | 0x07 => fieldsZero (w.extractLsb' 7 1 == 0) (.vamax (w.extractLsb' 21 5) (w.extractLsb' 16 5) (w.extractLsb' 11 5) (w.extractLsb' 8 3) (w.extractLsb' 6 1) (w.extractLsb' 5 1))
  | 0x08 => fieldsZero (w.extractLsb' 7 1 == 0) (.vmseqVv (w.extractLsb' 21 5) (w.extractLsb' 16 5) (w.extractLsb' 11 5) (w.extractLsb' 8 3) (w.extractLsb' 6 1) (w.extractLsb' 5 1))
  | 0x09 => fieldsZero (w.extractLsb' 7 1 == 0) (.vmsneVv (w.extractLsb' 21 5) (w.extractLsb' 16 5) (w.extractLsb' 11 5) (w.extractLsb' 8 3) (w.extractLsb' 6 1) (w.extractLsb' 5 1))
  | 0x0A => fieldsZero (w.extractLsb' 7 1 == 0) (.vmsltVv (w.extractLsb' 21 5) (w.extractLsb' 16 5) (w.extractLsb' 11 5) (w.extractLsb' 8 3) (w.extractLsb' 6 1) (w.extractLsb' 5 1))
  | 0x0B => fieldsZero (w.extractLsb' 7 1 == 0) (.vmsleVv (w.extractLsb' 21 5) (w.extractLsb' 16 5) (w.extractLsb' 11 5) (w.extractLsb' 8 3) (w.extractLsb' 6 1) (w.extractLsb' 5 1))
  | 0x0C => fieldsZero (w.extractLsb' 7 1 == 0) (.vmseqVx (w.extractLsb' 21 5) (w.extractLsb' 16 5) (w.extractLsb' 11 5) (w.extractLsb' 8 3) (w.extractLsb' 6 1) (w.extractLsb' 5 1))
  | 0x0D => fieldsZero (w.extractLsb' 7 1 == 0) (.vmsneVx (w.extractLsb' 21 5) (w.extractLsb' 16 5) (w.extractLsb' 11 5) (w.extractLsb' 8 3) (w.extractLsb' 6 1) (w.extractLsb' 5 1))
  | 0x0E => fieldsZero (w.extractLsb' 7 1 == 0) (.vmsltVx (w.extractLsb' 21 5) (w.extractLsb' 16 5) (w.extractLsb' 11 5) (w.extractLsb' 8 3) (w.extractLsb' 6 1) (w.extractLsb' 5 1))
  | 0x0F => fieldsZero (w.extractLsb' 7 1 == 0) (.vmsleVx (w.extractLsb' 21 5) (w.extractLsb' 16 5) (w.extractLsb' 11 5) (w.extractLsb' 8 3) (w.extractLsb' 6 1) (w.extractLsb' 5 1))
  | 0x10 => fieldsZero (w.extractLsb' 7 1 == 0) (.vmsgtVx (w.extractLsb' 21 5) (w.extractLsb' 16 5) (w.extractLsb' 11 5) (w.extractLsb' 8 3) (w.extractLsb' 6 1) (w.extractLsb' 5 1))
  | 0x11 => fieldsZero (w.extractLsb' 7 1 == 0) (.vmsgeVx (w.extractLsb' 21 5) (w.extractLsb' 16 5) (w.extractLsb' 11 5) (w.extractLsb' 8 3) (w.extractLsb' 6 1) (w.extractLsb' 5 1))
  | 0x12 => fieldsZero (w.extractLsb' 5 6 == 0) (.vmand (w.extractLsb' 21 5) (w.extractLsb' 16 5) (w.extractLsb' 11 5))
  | 0x13 => fieldsZero (w.extractLsb' 5 6 == 0) (.vmor (w.extractLsb' 21 5) (w.extractLsb' 16 5) (w.extractLsb' 11 5))
  | 0x14 => fieldsZero (w.extractLsb' 5 6 == 0) (.vmxor (w.extractLsb' 21 5) (w.extractLsb' 16 5) (w.extractLsb' 11 5))
  | 0x15 => fieldsZero (w.extractLsb' 5 6 == 0) (.vmandn (w.extractLsb' 21 5) (w.extractLsb' 16 5) (w.extractLsb' 11 5))
  | 0x16 => fieldsZero (w.extractLsb' 5 3 == 0 && w.extractLsb' 11 5 == 0) (.vmpop (w.extractLsb' 21 5) (w.extractLsb' 16 5) (w.extractLsb' 8 3))
  | 0x17 => fieldsZero (w.extractLsb' 5 3 == 0 && w.extractLsb' 11 5 == 0) (.vmfirst (w.extractLsb' 21 5) (w.extractLsb' 16 5) (w.extractLsb' 8 3))
  | _ => .reject .undefinedFunction

/-- Major 0x2F: selected by bits [4:0] (R101). -/
def decode2F (w : Half) : Decoded :=
  match (w.extractLsb' 0 5).toNat with
  | 0x00 => fieldsZero (w.extractLsb' 7 4 == 0) (.vhaar (w.extractLsb' 21 5) (w.extractLsb' 16 5) (w.extractLsb' 11 5) (w.extractLsb' 6 1) (w.extractLsb' 5 1))
  | 0x01 => fieldsZero (w.extractLsb' 5 1 == 0 && w.extractLsb' 7 9 == 0) (.vihaar (w.extractLsb' 21 5) (w.extractLsb' 16 5) (w.extractLsb' 6 1))
  | 0x02 => fieldsZero (w.extractLsb' 7 4 == 0) (.thset (w.extractLsb' 21 5) (w.extractLsb' 16 5) (w.extractLsb' 11 5) (w.extractLsb' 6 1) (w.extractLsb' 5 1))
  | 0x03 => fieldsZero (w.extractLsb' 6 5 == 0) (.thget (w.extractLsb' 21 5) (w.extractLsb' 16 5) (w.extractLsb' 11 5) (w.extractLsb' 5 1))
  | 0x04 => fieldsZero (w.extractLsb' 5 1 == 0 && w.extractLsb' 7 9 == 0) (.dtagr (w.extractLsb' 21 5) (w.extractLsb' 16 5) (w.extractLsb' 6 1))
  | 0x05 => fieldsZero (w.extractLsb' 5 1 == 0 && w.extractLsb' 7 9 == 0) (.dtagw (w.extractLsb' 21 5) (w.extractLsb' 16 5) (w.extractLsb' 6 1))
  | 0x06 => fieldsZero (w.extractLsb' 5 1 == 0 && w.extractLsb' 7 9 == 0) (.dtagmk (w.extractLsb' 21 5) (w.extractLsb' 16 5) (w.extractLsb' 6 1))
  | 0x07 => fieldsZero (w.extractLsb' 5 1 == 0 && w.extractLsb' 7 9 == 0) (.dtagma (w.extractLsb' 21 5) (w.extractLsb' 16 5) (w.extractLsb' 6 1))
  | _ => .reject .undefinedFunction

/-- Major 0x36: selected by bits [3:0] (R101). -/
noncomputable def decode36 (w : Half) : Decoded :=
  match (w.extractLsb' 0 4).toNat with
  | 0x00 => .instr (.vamoadd (w.extractLsb' 21 5) (w.extractLsb' 16 5) (w.extractLsb' 11 5) (w.extractLsb' 8 3) (w.extractLsb' 5 3) (w.extractLsb' 4 1))
  | 0x01 => .instr (.vamoand (w.extractLsb' 21 5) (w.extractLsb' 16 5) (w.extractLsb' 11 5) (w.extractLsb' 8 3) (w.extractLsb' 5 3) (w.extractLsb' 4 1))
  | 0x02 => .instr (.vamoor (w.extractLsb' 21 5) (w.extractLsb' 16 5) (w.extractLsb' 11 5) (w.extractLsb' 8 3) (w.extractLsb' 5 3) (w.extractLsb' 4 1))
  | 0x03 => .instr (.vamoxor (w.extractLsb' 21 5) (w.extractLsb' 16 5) (w.extractLsb' 11 5) (w.extractLsb' 8 3) (w.extractLsb' 5 3) (w.extractLsb' 4 1))
  | 0x04 => .instr (.vamomin (w.extractLsb' 21 5) (w.extractLsb' 16 5) (w.extractLsb' 11 5) (w.extractLsb' 8 3) (w.extractLsb' 5 3) (w.extractLsb' 4 1))
  | 0x05 => .instr (.vamomax (w.extractLsb' 21 5) (w.extractLsb' 16 5) (w.extractLsb' 11 5) (w.extractLsb' 8 3) (w.extractLsb' 5 3) (w.extractLsb' 4 1))
  | 0x06 => .instr (.vamoswp (w.extractLsb' 21 5) (w.extractLsb' 16 5) (w.extractLsb' 11 5) (w.extractLsb' 8 3) (w.extractLsb' 5 3) (w.extractLsb' 4 1))
  | _ => .reject .undefinedFunction

/-- Major 0x37: selected by bits [15:11] (R101). -/
noncomputable def decode37 (w : Half) : Decoded :=
  match (w.extractLsb' 11 5).toNat with
  | 0x00 => fieldsZero (w.extractLsb' 0 5 == 0 && w.extractLsb' 8 3 == 0) (.vldq (w.extractLsb' 21 5) (w.extractLsb' 16 5) (w.extractLsb' 5 3))
  | 0x01 => fieldsZero (w.extractLsb' 4 1 == 0) (.vldff (w.extractLsb' 21 5) (w.extractLsb' 16 5) (w.extractLsb' 8 3) (w.extractLsb' 5 3) (w.extractLsb' 0 4))
  | 0x02 => fieldsZero (w.extractLsb' 4 1 == 0) (.vstw (w.extractLsb' 21 5) (w.extractLsb' 16 5) (w.extractLsb' 8 3) (w.extractLsb' 5 3) (w.extractLsb' 0 4))
  | 0x03 => fieldsZero (w.extractLsb' 4 1 == 0) (.vldw (w.extractLsb' 21 5) (w.extractLsb' 16 5) (w.extractLsb' 8 3) (w.extractLsb' 5 3) (w.extractLsb' 0 4))
  | _ => .reject .undefinedFunction

/-- Major 0x38: selected by bits [4:0] (R101). -/
noncomputable def decode38 (w : Half) : Decoded :=
  match (w.extractLsb' 0 5).toNat with
  | 0x00 => fieldsZero (w.extractLsb' 21 2 == 0) (.opr (w.extractLsb' 23 3) (w.extractLsb' 16 5) (w.extractLsb' 11 5) (w.extractLsb' 8 3) (w.extractLsb' 6 2) (w.extractLsb' 5 1))
  | 0x01 => fieldsZero (w.extractLsb' 11 10 == 0) (.opl (w.extractLsb' 23 3) (w.extractLsb' 21 2) (w.extractLsb' 8 3) (w.extractLsb' 6 2) (w.extractLsb' 5 1))
  | 0x02 => fieldsZero (w.extractLsb' 5 3 == 0 && w.extractLsb' 11 12 == 0) (.tzero (w.extractLsb' 23 3) (w.extractLsb' 8 3))
  | 0x03 => fieldsZero (w.extractLsb' 5 1 == 0 && w.extractLsb' 8 3 == 0) (.tmovv (w.extractLsb' 23 3) (w.extractLsb' 21 2) (w.extractLsb' 16 5) (w.extractLsb' 11 5) (w.extractLsb' 6 2))
  | 0x04 => fieldsZero (w.extractLsb' 5 3 == 0 && w.extractLsb' 16 5 == 0) (.tamax (w.extractLsb' 23 3) (w.extractLsb' 21 2) (w.extractLsb' 11 5) (w.extractLsb' 8 3))
  | 0x05 => fieldsZero (w.extractLsb' 5 1 == 0) (.scalex (w.extractLsb' 21 5) (w.extractLsb' 16 5) (w.extractLsb' 11 5) (w.extractLsb' 8 3) (w.extractLsb' 6 2))
  | 0x06 => fieldsZero (w.extractLsb' 5 16 == 0) (.trel (w.extractLsb' 23 3) (w.extractLsb' 21 2))
  | 0x08 => fieldsZero (w.extractLsb' 5 11 == 0 && w.extractLsb' 21 2 == 0) (.thaar (w.extractLsb' 23 3) (w.extractLsb' 16 5))
  | 0x09 => fieldsZero (w.extractLsb' 5 18 == 0) (.tihaar (w.extractLsb' 23 3))
  | _ => .reject .undefinedFunction

/-- Major 0x39: selected by bits [4:0] (R101). -/
noncomputable def decode39 (w : Half) : Decoded :=
  match (w.extractLsb' 0 5).toNat with
  | 0x00 => .instr (.opld (w.extractLsb' 23 3) (w.extractLsb' 21 2) (w.extractLsb' 16 5) (w.extractLsb' 11 5) (w.extractLsb' 8 3) (w.extractLsb' 6 2) (w.extractLsb' 5 1))
  | 0x01 => .instr (.opldx (w.extractLsb' 21 5) (w.extractLsb' 16 5) (w.extractLsb' 11 5) (w.extractLsb' 8 3) (w.extractLsb' 6 2) (w.extractLsb' 5 1))
  | 0x02 => .instr (.tld (w.extractLsb' 23 3) (w.extractLsb' 21 2) (w.extractLsb' 16 5) (w.extractLsb' 11 5) (w.extractLsb' 8 3) (w.extractLsb' 6 2) (w.extractLsb' 5 1))
  | 0x03 => .instr (.tst (w.extractLsb' 23 3) (w.extractLsb' 21 2) (w.extractLsb' 16 5) (w.extractLsb' 11 5) (w.extractLsb' 8 3) (w.extractLsb' 6 2) (w.extractLsb' 5 1))
  | 0x04 => fieldsZero (w.extractLsb' 5 11 == 0) (.tsave (w.extractLsb' 23 3) (w.extractLsb' 21 2) (w.extractLsb' 16 5))
  | 0x05 => fieldsZero (w.extractLsb' 5 11 == 0) (.trestore (w.extractLsb' 23 3) (w.extractLsb' 21 2) (w.extractLsb' 16 5))
  | 0x08 => fieldsZero (w.extractLsb' 8 3 == 0) (.tstw (w.extractLsb' 23 3) (w.extractLsb' 21 2) (w.extractLsb' 16 5) (w.extractLsb' 11 5) (w.extractLsb' 6 2) (w.extractLsb' 5 1))
  | 0x09 => fieldsZero (w.extractLsb' 5 11 == 0 && w.extractLsb' 21 2 == 0) (.tldw (w.extractLsb' 23 3) (w.extractLsb' 16 5))
  | _ => .reject .undefinedFunction

/-- Major 0x3A: selected by bits [4:0] (R101). -/
noncomputable def decode3A (w : Half) : Decoded :=
  match (w.extractLsb' 0 5).toNat with
  | 0x00 => fieldsZero (w.extractLsb' 6 2 == 0) (.cpy (w.extractLsb' 21 5) (w.extractLsb' 16 5) (w.extractLsb' 11 5) (w.extractLsb' 8 3) (w.extractLsb' 5 1))
  | 0x01 => fieldsZero (w.extractLsb' 7 1 == 0) (.cpyt (w.extractLsb' 21 5) (w.extractLsb' 16 5) (w.extractLsb' 11 5) (w.extractLsb' 8 3) (w.extractLsb' 6 1) (w.extractLsb' 5 1))
  | 0x02 => fieldsZero (w.extractLsb' 6 2 == 0) (.gath (w.extractLsb' 21 5) (w.extractLsb' 16 5) (w.extractLsb' 11 5) (w.extractLsb' 8 3) (w.extractLsb' 5 1))
  | 0x03 => fieldsZero (w.extractLsb' 6 2 == 0) (.scat (w.extractLsb' 21 5) (w.extractLsb' 16 5) (w.extractLsb' 11 5) (w.extractLsb' 8 3) (w.extractLsb' 5 1))
  | 0x04 => fieldsZero (w.extractLsb' 5 3 == 0 && w.extractLsb' 11 5 == 0 && w.extractLsb' 21 5 == 0) (.qfence (w.extractLsb' 16 5) (w.extractLsb' 8 3))
  | 0x08 => fieldsZero (w.extractLsb' 5 3 == 0) (.csig (w.extractLsb' 21 5) (w.extractLsb' 16 5) (w.extractLsb' 11 5) (w.extractLsb' 8 3))
  | 0x09 => fieldsZero (w.extractLsb' 22 4 == 0) (.cchk (w.extractLsb' 21 1) (w.extractLsb' 16 5) (w.extractLsb' 11 5) (w.extractLsb' 8 3) (w.extractLsb' 7 1) (w.extractLsb' 5 2))
  | 0x0A => fieldsZero (w.extractLsb' 5 3 == 0 && w.extractLsb' 11 5 == 0) (.cxf (w.extractLsb' 21 5) (w.extractLsb' 16 5) (w.extractLsb' 8 3))
  | 0x0B => fieldsZero (w.extractLsb' 5 3 == 0 && w.extractLsb' 11 5 == 0 && w.extractLsb' 21 5 == 0) (.cfill (w.extractLsb' 16 5) (w.extractLsb' 8 3))
  | 0x0C => fieldsZero (w.extractLsb' 5 3 == 0 && w.extractLsb' 21 5 == 0) (.crow (w.extractLsb' 16 5) (w.extractLsb' 11 5) (w.extractLsb' 8 3))
  | 0x0D => fieldsZero (w.extractLsb' 6 2 == 0 && w.extractLsb' 11 10 == 0) (.cqst (w.extractLsb' 21 5) (w.extractLsb' 8 3) (w.extractLsb' 5 1))
  | _ => .reject .undefinedFunction

/-- The instruction a word stands for, before the limits of its fields are checked: the major opcode map of R101. -/
noncomputable def decodeRaw (w : Half) : Decoded :=
  match (w.extractLsb' 26 6).toNat with
  | 0x00 => .reject .illegalMajor
  | 0x01 => decode01 w
  | 0x02 => .instr (.addi (w.extractLsb' 21 5) (w.extractLsb' 16 5) (w.extractLsb' 0 16))
  | 0x03 => .instr (.andi (w.extractLsb' 21 5) (w.extractLsb' 16 5) (w.extractLsb' 0 16))
  | 0x04 => .instr (.ori (w.extractLsb' 21 5) (w.extractLsb' 16 5) (w.extractLsb' 0 16))
  | 0x05 => .instr (.xori (w.extractLsb' 21 5) (w.extractLsb' 16 5) (w.extractLsb' 0 16))
  | 0x06 => .instr (.slti (w.extractLsb' 21 5) (w.extractLsb' 16 5) (w.extractLsb' 0 16))
  | 0x07 => .instr (.sltiu (w.extractLsb' 21 5) (w.extractLsb' 16 5) (w.extractLsb' 0 16))
  | 0x08 => decode08 w
  | 0x09 => .instr (.lih (w.extractLsb' 21 5) (w.extractLsb' 0 21))
  | 0x0A => .instr (.addpc (w.extractLsb' 21 5) (w.extractLsb' 0 21))
  | 0x0B => decode0B w
  | 0x0C => .instr (.faddi (w.extractLsb' 21 5) (w.extractLsb' 16 5) (w.extractLsb' 0 16))
  | 0x0D => .instr (.fmuli (w.extractLsb' 21 5) (w.extractLsb' 16 5) (w.extractLsb' 0 16))
  | 0x0E => .instr (.muli (w.extractLsb' 21 5) (w.extractLsb' 16 5) (w.extractLsb' 0 16))
  | 0x0F => fieldsZero (w.extractLsb' 12 4 == 0) (.vsetvli (w.extractLsb' 21 5) (w.extractLsb' 16 5) (w.extractLsb' 0 12))
  | 0x10 => .instr (.ldb (w.extractLsb' 21 5) (w.extractLsb' 16 5) (w.extractLsb' 0 16))
  | 0x11 => .instr (.ldbu (w.extractLsb' 21 5) (w.extractLsb' 16 5) (w.extractLsb' 0 16))
  | 0x12 => .instr (.ldh (w.extractLsb' 21 5) (w.extractLsb' 16 5) (w.extractLsb' 0 16))
  | 0x13 => .instr (.ldhu (w.extractLsb' 21 5) (w.extractLsb' 16 5) (w.extractLsb' 0 16))
  | 0x14 => .instr (.ldw (w.extractLsb' 21 5) (w.extractLsb' 16 5) (w.extractLsb' 0 16))
  | 0x15 => .instr (.ldwu (w.extractLsb' 21 5) (w.extractLsb' 16 5) (w.extractLsb' 0 16))
  | 0x16 => .instr (.ldd (w.extractLsb' 21 5) (w.extractLsb' 16 5) (w.extractLsb' 0 16))
  | 0x17 => .instr (.stb (w.extractLsb' 21 5) (w.extractLsb' 16 5) (w.extractLsb' 0 16))
  | 0x18 => .instr (.sth (w.extractLsb' 21 5) (w.extractLsb' 16 5) (w.extractLsb' 0 16))
  | 0x19 => .instr (.stw (w.extractLsb' 21 5) (w.extractLsb' 16 5) (w.extractLsb' 0 16))
  | 0x1A => .instr (.std (w.extractLsb' 21 5) (w.extractLsb' 16 5) (w.extractLsb' 0 16))
  | 0x1B => .instr (.beq (w.extractLsb' 21 5) (w.extractLsb' 16 5) (w.extractLsb' 0 16))
  | 0x1C => .instr (.bne (w.extractLsb' 21 5) (w.extractLsb' 16 5) (w.extractLsb' 0 16))
  | 0x1D => .instr (.blt (w.extractLsb' 21 5) (w.extractLsb' 16 5) (w.extractLsb' 0 16))
  | 0x1E => .instr (.bge (w.extractLsb' 21 5) (w.extractLsb' 16 5) (w.extractLsb' 0 16))
  | 0x1F => .instr (.bltu (w.extractLsb' 21 5) (w.extractLsb' 16 5) (w.extractLsb' 0 16))
  | 0x20 => .instr (.bgeu (w.extractLsb' 21 5) (w.extractLsb' 16 5) (w.extractLsb' 0 16))
  | 0x21 => .instr (.jal (w.extractLsb' 21 5) (w.extractLsb' 0 21))
  | 0x22 => .instr (.jalr (w.extractLsb' 21 5) (w.extractLsb' 16 5) (w.extractLsb' 0 16))
  | 0x23 => .instr (.subbnz (w.extractLsb' 21 5) (w.extractLsb' 16 5) (w.extractLsb' 0 16))
  | 0x24 => fieldsZero (w.extractLsb' 4 12 == 0) (.strip (w.extractLsb' 21 5) (w.extractLsb' 16 5) (w.extractLsb' 0 4))
  | 0x25 => decode25 w
  | 0x26 => decode26 w
  | 0x27 => decode27 w
  | 0x28 => decode28 w
  | 0x29 => decode29 w
  | 0x2A => decode2A w
  | 0x2B => decode2B w
  | 0x2C => decode2C w
  | 0x2D => decode2D w
  | 0x2E => decode2E w
  | 0x2F => decode2F w
  | 0x30 => .instr (.vld (w.extractLsb' 21 5) (w.extractLsb' 16 5) (w.extractLsb' 11 5) (w.extractLsb' 8 3) (w.extractLsb' 5 3) (w.extractLsb' 0 5))
  | 0x31 => .instr (.vst (w.extractLsb' 21 5) (w.extractLsb' 16 5) (w.extractLsb' 11 5) (w.extractLsb' 8 3) (w.extractLsb' 5 3) (w.extractLsb' 0 5))
  | 0x32 => .instr (.vlds (w.extractLsb' 21 5) (w.extractLsb' 16 5) (w.extractLsb' 11 5) (w.extractLsb' 8 3) (w.extractLsb' 5 3) (w.extractLsb' 0 5))
  | 0x33 => .instr (.vsts (w.extractLsb' 21 5) (w.extractLsb' 16 5) (w.extractLsb' 11 5) (w.extractLsb' 8 3) (w.extractLsb' 5 3) (w.extractLsb' 0 5))
  | 0x34 => .instr (.vldx (w.extractLsb' 21 5) (w.extractLsb' 16 5) (w.extractLsb' 11 5) (w.extractLsb' 8 3) (w.extractLsb' 5 3) (w.extractLsb' 0 5))
  | 0x35 => .instr (.vstx (w.extractLsb' 21 5) (w.extractLsb' 16 5) (w.extractLsb' 11 5) (w.extractLsb' 8 3) (w.extractLsb' 5 3) (w.extractLsb' 0 5))
  | 0x36 => decode36 w
  | 0x37 => decode37 w
  | 0x38 => decode38 w
  | 0x39 => decode39 w
  | 0x3A => decode3A w
  | 0x3F => .reject .illegalMajor
  | _ => .reject .reservedMajor

/-- An instruction whose fields are within the limits its form states, else an illegal field value (R93). -/
def checkFields (i : Instr) : Decoded := if i.wf then .instr i else .reject .illegalField

/-- The instruction a 32-bit word stands for, or the reason it is none (R102, checks 1 to 3). -/
noncomputable def decodeWord (w : Half) : Decoded :=
  match decodeRaw w with
  | .instr i => checkFields i
  | .reject r => .reject r

/-- The little-endian 32-bit word of four bytes, the first at the lowest address (R6, R91). -/
def wordOfBytes (b0 b1 b2 b3 : Byte) : Half :=
  BitVec.ofNat 32 (b0.toNat + b1.toNat * 0x100 + b2.toNat * 0x10000 + b3.toNat * 0x1000000)

/-- The instruction at the head of a byte sequence; every instruction has four bytes (R91). -/
noncomputable def decodeBytes : List Byte → Decoded
  | b0 :: b1 :: b2 :: b3 :: _ => decodeWord (wordOfBytes b0 b1 b2 b3)
  | _ => .reject .truncated

/-- The bytes of a word as the part stores it (R91). -/
def bytesOfWord (w : Half) : List Byte :=
  [w.extractLsb' 0 8, w.extractLsb' 8 8, w.extractLsb' 16 8, w.extractLsb' 24 8]

/-- What the decoder reads from an instruction whose bits are `w`; every row of the table has 32 bits. -/
noncomputable def decodeTableWord (nbits w : Nat) : Option Instr :=
  match decodeBytes (bytesOfWord (BitVec.ofNat 32 (w % 2 ^ nbits))) with
  | .instr i => some i
  | .reject _ => none

/-- The row of the opcode table has an encoding: it is an instruction word, not a device step. -/
def Instr.encoded : Instr → Bool
  | .hostEnqueue _ _ _ => false
  | .launchAccept _ => false
  | .forwardedRecordArrival _ => false
  | .taskDispatch _ => false
  | .loaderBind _ _ _ _ => false
  | .taskRecordArrival _ => false
  | .channelBind _ => false
  | .preemptDelayExpiry _ _ => false
  | .supervisorMessageArrival _ _ => false
  | .supervisorMessageTake _ => false
  | .resumeSend _ _ _ _ => false
  | .taskRetire _ _ => false
  | .killDone _ _ => false
  | .tileZeroDone _ _ => false
  | .sliceStart _ => false
  | .sliceRetire _ => false
  | .engineAccept _ _ => false
  | .engineTransfer _ _ _ _ => false
  | .engineComplete _ _ => false
  | .qfenceComplete _ _ => false
  | .geyserSlot _ => false
  | .waitaWake _ _ => false
  | .waitaTimeout _ _ => false
  | .bwaitWake _ _ => false
  | .bwaitTimeout _ _ => false
  | .joinwWake _ _ => false
  | .yieldEnd _ _ => false
  | .wqryAnswer _ => false
  | .watchdogExpire _ _ _ => false
  | .faultRecordWrite _ => false
  | .fqansWrite _ _ => false
  | .fqheadWrite _ _ => false
  | .tinvWrite _ _ => false
  | .tinvComplete _ => false
  | .keyLoad _ _ => false
  | .keyErase _ _ => false
  | .keyOperationDone _ => false
  | .lfrzWrite _ _ => false
  | .snapshotGo _ _ => false
  | .snapshotDone _ => false
  | .lrstWrite _ _ => false
  | .bretryWrite _ _ => false
  | .codeHeapWrite _ _ => false
  | .oclaimWrite _ _ _ => false
  | .einjWrite _ _ => false
  | .bkeyWrite _ _ => false
  | .wmWrite _ _ _ _ => false
  | .lpartWrite _ _ => false
  | .ownerWrite _ _ _ => false
  | .registerWrite _ _ _ _ => false
  | .autumnEntry _ => false
  | .winterEntry _ => false
  | .powerUpDone _ => false
  | .springEnd _ => false
  | .replicaResyncEnd _ => false
  | .powerManagerTick _ _ => false
  | .hostMemAccess _ _ _ _ => false
  | .hostApertureAccess _ _ _ => false
  | .translationRequest _ _ => false
  | .translationReply _ _ _ => false
  | .objectAdmit _ _ => false
  | .packageReset => false
  | .towerReset _ => false
  | .bootStep _ _ _ => false
  | .ualinkPortDown _ _ => false
  | .nonInstructionWord _ => false
  | .ualinkPeerAccess _ _ _ _ => false
  | .ualinkPortUp _ _ => false
  | .firmwareMailboxRequest _ _ _ => false
  | .fclrWrite _ => false
  | _ => true

/-- A device step that the schedule may name: a row without an encoding, other than the trap of a word that is no
instruction, which belongs to a fetch. -/
def Instr.schedulable : Instr → Bool
  | .nonInstructionWord _ => false
  | i => !i.encoded

/-- The word of an instruction: its row's fixed bits with each operand at its place (R92 and the encoding tables). A
device step has no word and reads as the all-zero word, which is no instruction. -/
def encode : Instr → Half
  | .add rd rs1 rs2 =>
    BitVec.ofNat 32 (0x04000000 + rd.toNat * 0x200000 + rs1.toNat * 0x10000 + rs2.toNat * 0x800)
  | .sub rd rs1 rs2 =>
    BitVec.ofNat 32 (0x04000001 + rd.toNat * 0x200000 + rs1.toNat * 0x10000 + rs2.toNat * 0x800)
  | .and rd rs1 rs2 =>
    BitVec.ofNat 32 (0x04000002 + rd.toNat * 0x200000 + rs1.toNat * 0x10000 + rs2.toNat * 0x800)
  | .or rd rs1 rs2 =>
    BitVec.ofNat 32 (0x04000003 + rd.toNat * 0x200000 + rs1.toNat * 0x10000 + rs2.toNat * 0x800)
  | .xor rd rs1 rs2 =>
    BitVec.ofNat 32 (0x04000004 + rd.toNat * 0x200000 + rs1.toNat * 0x10000 + rs2.toNat * 0x800)
  | .andn rd rs1 rs2 =>
    BitVec.ofNat 32 (0x04000005 + rd.toNat * 0x200000 + rs1.toNat * 0x10000 + rs2.toNat * 0x800)
  | .sll rd rs1 rs2 =>
    BitVec.ofNat 32 (0x04000006 + rd.toNat * 0x200000 + rs1.toNat * 0x10000 + rs2.toNat * 0x800)
  | .srl rd rs1 rs2 =>
    BitVec.ofNat 32 (0x04000007 + rd.toNat * 0x200000 + rs1.toNat * 0x10000 + rs2.toNat * 0x800)
  | .sra rd rs1 rs2 =>
    BitVec.ofNat 32 (0x04000008 + rd.toNat * 0x200000 + rs1.toNat * 0x10000 + rs2.toNat * 0x800)
  | .ror rd rs1 rs2 =>
    BitVec.ofNat 32 (0x04000009 + rd.toNat * 0x200000 + rs1.toNat * 0x10000 + rs2.toNat * 0x800)
  | .slt rd rs1 rs2 =>
    BitVec.ofNat 32 (0x0400000A + rd.toNat * 0x200000 + rs1.toNat * 0x10000 + rs2.toNat * 0x800)
  | .sltu rd rs1 rs2 =>
    BitVec.ofNat 32 (0x0400000B + rd.toNat * 0x200000 + rs1.toNat * 0x10000 + rs2.toNat * 0x800)
  | .min rd rs1 rs2 =>
    BitVec.ofNat 32 (0x0400000C + rd.toNat * 0x200000 + rs1.toNat * 0x10000 + rs2.toNat * 0x800)
  | .max rd rs1 rs2 =>
    BitVec.ofNat 32 (0x0400000D + rd.toNat * 0x200000 + rs1.toNat * 0x10000 + rs2.toNat * 0x800)
  | .minu rd rs1 rs2 =>
    BitVec.ofNat 32 (0x0400000E + rd.toNat * 0x200000 + rs1.toNat * 0x10000 + rs2.toNat * 0x800)
  | .maxu rd rs1 rs2 =>
    BitVec.ofNat 32 (0x0400000F + rd.toNat * 0x200000 + rs1.toNat * 0x10000 + rs2.toNat * 0x800)
  | .mul rd rs1 rs2 =>
    BitVec.ofNat 32 (0x04000010 + rd.toNat * 0x200000 + rs1.toNat * 0x10000 + rs2.toNat * 0x800)
  | .mulh rd rs1 rs2 =>
    BitVec.ofNat 32 (0x04000011 + rd.toNat * 0x200000 + rs1.toNat * 0x10000 + rs2.toNat * 0x800)
  | .mulhu rd rs1 rs2 =>
    BitVec.ofNat 32 (0x04000012 + rd.toNat * 0x200000 + rs1.toNat * 0x10000 + rs2.toNat * 0x800)
  | .mulhsu rd rs1 rs2 =>
    BitVec.ofNat 32 (0x04000013 + rd.toNat * 0x200000 + rs1.toNat * 0x10000 + rs2.toNat * 0x800)
  | .div rd rs1 rs2 =>
    BitVec.ofNat 32 (0x04000014 + rd.toNat * 0x200000 + rs1.toNat * 0x10000 + rs2.toNat * 0x800)
  | .divu rd rs1 rs2 =>
    BitVec.ofNat 32 (0x04000015 + rd.toNat * 0x200000 + rs1.toNat * 0x10000 + rs2.toNat * 0x800)
  | .rem rd rs1 rs2 =>
    BitVec.ofNat 32 (0x04000016 + rd.toNat * 0x200000 + rs1.toNat * 0x10000 + rs2.toNat * 0x800)
  | .remu rd rs1 rs2 =>
    BitVec.ofNat 32 (0x04000017 + rd.toNat * 0x200000 + rs1.toNat * 0x10000 + rs2.toNat * 0x800)
  | .sh1add rd rs1 rs2 =>
    BitVec.ofNat 32 (0x04000018 + rd.toNat * 0x200000 + rs1.toNat * 0x10000 + rs2.toNat * 0x800)
  | .sh2add rd rs1 rs2 =>
    BitVec.ofNat 32 (0x04000019 + rd.toNat * 0x200000 + rs1.toNat * 0x10000 + rs2.toNat * 0x800)
  | .sh3add rd rs1 rs2 =>
    BitVec.ofNat 32 (0x0400001A + rd.toNat * 0x200000 + rs1.toNat * 0x10000 + rs2.toNat * 0x800)
  | .clz rd rs1 =>
    BitVec.ofNat 32 (0x0400001B + rd.toNat * 0x200000 + rs1.toNat * 0x10000)
  | .ctz rd rs1 =>
    BitVec.ofNat 32 (0x0400001C + rd.toNat * 0x200000 + rs1.toNat * 0x10000)
  | .cpop rd rs1 =>
    BitVec.ofNat 32 (0x0400001D + rd.toNat * 0x200000 + rs1.toNat * 0x10000)
  | .addi rd rs1 imm =>
    BitVec.ofNat 32 (0x08000000 + rd.toNat * 0x200000 + rs1.toNat * 0x10000 + imm.toNat)
  | .andi rd rs1 imm =>
    BitVec.ofNat 32 (0x0C000000 + rd.toNat * 0x200000 + rs1.toNat * 0x10000 + imm.toNat)
  | .ori rd rs1 imm =>
    BitVec.ofNat 32 (0x10000000 + rd.toNat * 0x200000 + rs1.toNat * 0x10000 + imm.toNat)
  | .xori rd rs1 imm =>
    BitVec.ofNat 32 (0x14000000 + rd.toNat * 0x200000 + rs1.toNat * 0x10000 + imm.toNat)
  | .slti rd rs1 imm =>
    BitVec.ofNat 32 (0x18000000 + rd.toNat * 0x200000 + rs1.toNat * 0x10000 + imm.toNat)
  | .sltiu rd rs1 imm =>
    BitVec.ofNat 32 (0x1C000000 + rd.toNat * 0x200000 + rs1.toNat * 0x10000 + imm.toNat)
  | .slli rd rs1 sh =>
    BitVec.ofNat 32 (0x20000000 + rd.toNat * 0x200000 + rs1.toNat * 0x10000 + sh.toNat)
  | .srli rd rs1 sh =>
    BitVec.ofNat 32 (0x20000040 + rd.toNat * 0x200000 + rs1.toNat * 0x10000 + sh.toNat)
  | .srai rd rs1 sh =>
    BitVec.ofNat 32 (0x20000080 + rd.toNat * 0x200000 + rs1.toNat * 0x10000 + sh.toNat)
  | .rori rd rs1 sh =>
    BitVec.ofNat 32 (0x200000C0 + rd.toNat * 0x200000 + rs1.toNat * 0x10000 + sh.toNat)
  | .lih rd imm =>
    BitVec.ofNat 32 (0x24000000 + rd.toNat * 0x200000 + imm.toNat)
  | .addpc rd imm =>
    BitVec.ofNat 32 (0x28000000 + rd.toNat * 0x200000 + imm.toNat)
  | .fadd rd rs1 rs2 p =>
    BitVec.ofNat 32 (0x2C000000 + rd.toNat * 0x200000 + rs1.toNat * 0x10000 + rs2.toNat * 0x800 + p.toNat * 0x100)
  | .fsub rd rs1 rs2 p =>
    BitVec.ofNat 32 (0x2C000001 + rd.toNat * 0x200000 + rs1.toNat * 0x10000 + rs2.toNat * 0x800 + p.toNat * 0x100)
  | .fmul rd rs1 rs2 p =>
    BitVec.ofNat 32 (0x2C000002 + rd.toNat * 0x200000 + rs1.toNat * 0x10000 + rs2.toNat * 0x800 + p.toNat * 0x100)
  | .fdiv rd rs1 rs2 p =>
    BitVec.ofNat 32 (0x2C000003 + rd.toNat * 0x200000 + rs1.toNat * 0x10000 + rs2.toNat * 0x800 + p.toNat * 0x100)
  | .fsqrt rd rs1 p =>
    BitVec.ofNat 32 (0x2C000004 + rd.toNat * 0x200000 + rs1.toNat * 0x10000 + p.toNat * 0x100)
  | .fmac rd rs1 rs2 p =>
    BitVec.ofNat 32 (0x2C000005 + rd.toNat * 0x200000 + rs1.toNat * 0x10000 + rs2.toNat * 0x800 + p.toNat * 0x100)
  | .fmin rd rs1 rs2 p =>
    BitVec.ofNat 32 (0x2C000006 + rd.toNat * 0x200000 + rs1.toNat * 0x10000 + rs2.toNat * 0x800 + p.toNat * 0x100)
  | .fmax rd rs1 rs2 p =>
    BitVec.ofNat 32 (0x2C000007 + rd.toNat * 0x200000 + rs1.toNat * 0x10000 + rs2.toNat * 0x800 + p.toNat * 0x100)
  | .feq rd rs1 rs2 p =>
    BitVec.ofNat 32 (0x2C000008 + rd.toNat * 0x200000 + rs1.toNat * 0x10000 + rs2.toNat * 0x800 + p.toNat * 0x100)
  | .flt rd rs1 rs2 p =>
    BitVec.ofNat 32 (0x2C000028 + rd.toNat * 0x200000 + rs1.toNat * 0x10000 + rs2.toNat * 0x800 + p.toNat * 0x100)
  | .fle rd rs1 rs2 p =>
    BitVec.ofNat 32 (0x2C000048 + rd.toNat * 0x200000 + rs1.toNat * 0x10000 + rs2.toNat * 0x800 + p.toNat * 0x100)
  | .funord rd rs1 rs2 p =>
    BitVec.ofNat 32 (0x2C000068 + rd.toNat * 0x200000 + rs1.toNat * 0x10000 + rs2.toNat * 0x800 + p.toNat * 0x100)
  | .fclass rd rs1 p =>
    BitVec.ofNat 32 (0x2C000009 + rd.toNat * 0x200000 + rs1.toNat * 0x10000 + p.toNat * 0x100)
  | .fcvtI32 rd rs1 p =>
    BitVec.ofNat 32 (0x2C00000A + rd.toNat * 0x200000 + rs1.toNat * 0x10000 + p.toNat * 0x100)
  | .fcvtUi32 rd rs1 p =>
    BitVec.ofNat 32 (0x2C00002A + rd.toNat * 0x200000 + rs1.toNat * 0x10000 + p.toNat * 0x100)
  | .fcvtI64 rd rs1 p =>
    BitVec.ofNat 32 (0x2C00004A + rd.toNat * 0x200000 + rs1.toNat * 0x10000 + p.toNat * 0x100)
  | .fcvtUi64 rd rs1 p =>
    BitVec.ofNat 32 (0x2C00006A + rd.toNat * 0x200000 + rs1.toNat * 0x10000 + p.toNat * 0x100)
  | .fcvtFI64 rd rs1 p =>
    BitVec.ofNat 32 (0x2C00008A + rd.toNat * 0x200000 + rs1.toNat * 0x10000 + p.toNat * 0x100)
  | .fcvtFUi64 rd rs1 p =>
    BitVec.ofNat 32 (0x2C0000AA + rd.toNat * 0x200000 + rs1.toNat * 0x10000 + p.toNat * 0x100)
  | .fcvtFF rd rs1 p =>
    BitVec.ofNat 32 (0x2C0000CA + rd.toNat * 0x200000 + rs1.toNat * 0x10000 + p.toNat * 0x100)
  | .fsgnj rd rs1 rs2 p =>
    BitVec.ofNat 32 (0x2C00000B + rd.toNat * 0x200000 + rs1.toNat * 0x10000 + rs2.toNat * 0x800 + p.toNat * 0x100)
  | .fsgnjn rd rs1 rs2 p =>
    BitVec.ofNat 32 (0x2C00002B + rd.toNat * 0x200000 + rs1.toNat * 0x10000 + rs2.toNat * 0x800 + p.toNat * 0x100)
  | .fsgnjx rd rs1 rs2 p =>
    BitVec.ofNat 32 (0x2C00004B + rd.toNat * 0x200000 + rs1.toNat * 0x10000 + rs2.toNat * 0x800 + p.toNat * 0x100)
  | .faddi rd rs1 imm =>
    BitVec.ofNat 32 (0x30000000 + rd.toNat * 0x200000 + rs1.toNat * 0x10000 + imm.toNat)
  | .fmuli rd rs1 imm =>
    BitVec.ofNat 32 (0x34000000 + rd.toNat * 0x200000 + rs1.toNat * 0x10000 + imm.toNat)
  | .muli rd rs1 imm =>
    BitVec.ofNat 32 (0x38000000 + rd.toNat * 0x200000 + rs1.toNat * 0x10000 + imm.toNat)
  | .vsetvli rd rs1 imm =>
    BitVec.ofNat 32 (0x3C000000 + rd.toNat * 0x200000 + rs1.toNat * 0x10000 + imm.toNat)
  | .ldb rd rs1 imm =>
    BitVec.ofNat 32 (0x40000000 + rd.toNat * 0x200000 + rs1.toNat * 0x10000 + imm.toNat)
  | .ldbu rd rs1 imm =>
    BitVec.ofNat 32 (0x44000000 + rd.toNat * 0x200000 + rs1.toNat * 0x10000 + imm.toNat)
  | .ldh rd rs1 imm =>
    BitVec.ofNat 32 (0x48000000 + rd.toNat * 0x200000 + rs1.toNat * 0x10000 + imm.toNat)
  | .ldhu rd rs1 imm =>
    BitVec.ofNat 32 (0x4C000000 + rd.toNat * 0x200000 + rs1.toNat * 0x10000 + imm.toNat)
  | .ldw rd rs1 imm =>
    BitVec.ofNat 32 (0x50000000 + rd.toNat * 0x200000 + rs1.toNat * 0x10000 + imm.toNat)
  | .ldwu rd rs1 imm =>
    BitVec.ofNat 32 (0x54000000 + rd.toNat * 0x200000 + rs1.toNat * 0x10000 + imm.toNat)
  | .ldd rd rs1 imm =>
    BitVec.ofNat 32 (0x58000000 + rd.toNat * 0x200000 + rs1.toNat * 0x10000 + imm.toNat)
  | .stb rd rs1 imm =>
    BitVec.ofNat 32 (0x5C000000 + rd.toNat * 0x200000 + rs1.toNat * 0x10000 + imm.toNat)
  | .sth rd rs1 imm =>
    BitVec.ofNat 32 (0x60000000 + rd.toNat * 0x200000 + rs1.toNat * 0x10000 + imm.toNat)
  | .stw rd rs1 imm =>
    BitVec.ofNat 32 (0x64000000 + rd.toNat * 0x200000 + rs1.toNat * 0x10000 + imm.toNat)
  | .std rd rs1 imm =>
    BitVec.ofNat 32 (0x68000000 + rd.toNat * 0x200000 + rs1.toNat * 0x10000 + imm.toNat)
  | .beq rs1 rs2 off =>
    BitVec.ofNat 32 (0x6C000000 + rs1.toNat * 0x200000 + rs2.toNat * 0x10000 + off.toNat)
  | .bne rs1 rs2 off =>
    BitVec.ofNat 32 (0x70000000 + rs1.toNat * 0x200000 + rs2.toNat * 0x10000 + off.toNat)
  | .blt rs1 rs2 off =>
    BitVec.ofNat 32 (0x74000000 + rs1.toNat * 0x200000 + rs2.toNat * 0x10000 + off.toNat)
  | .bge rs1 rs2 off =>
    BitVec.ofNat 32 (0x78000000 + rs1.toNat * 0x200000 + rs2.toNat * 0x10000 + off.toNat)
  | .bltu rs1 rs2 off =>
    BitVec.ofNat 32 (0x7C000000 + rs1.toNat * 0x200000 + rs2.toNat * 0x10000 + off.toNat)
  | .bgeu rs1 rs2 off =>
    BitVec.ofNat 32 (0x80000000 + rs1.toNat * 0x200000 + rs2.toNat * 0x10000 + off.toNat)
  | .jal rd off =>
    BitVec.ofNat 32 (0x84000000 + rd.toNat * 0x200000 + off.toNat)
  | .jalr rd rs1 imm =>
    BitVec.ofNat 32 (0x88000000 + rd.toNat * 0x200000 + rs1.toNat * 0x10000 + imm.toNat)
  | .subbnz rd rs off =>
    BitVec.ofNat 32 (0x8C000000 + rd.toNat * 0x200000 + rs.toNat * 0x10000 + off.toNat)
  | .strip rd rs1 mask4 =>
    BitVec.ofNat 32 (0x90000000 + rd.toNat * 0x200000 + rs1.toNat * 0x10000 + mask4.toNat)
  | .csrrw rd rs1 csr =>
    BitVec.ofNat 32 (0x94000000 + rd.toNat * 0x200000 + rs1.toNat * 0x10000 + csr.toNat * 0x10)
  | .csrrs rd rs1 csr =>
    BitVec.ofNat 32 (0x94000001 + rd.toNat * 0x200000 + rs1.toNat * 0x10000 + csr.toNat * 0x10)
  | .csrrc rd rs1 csr =>
    BitVec.ofNat 32 (0x94000002 + rd.toNat * 0x200000 + rs1.toNat * 0x10000 + csr.toNat * 0x10)
  | .csrrwi rd zimm csr =>
    BitVec.ofNat 32 (0x94000003 + rd.toNat * 0x200000 + zimm.toNat * 0x10000 + csr.toNat * 0x10)
  | .csrrsi rd zimm csr =>
    BitVec.ofNat 32 (0x94000004 + rd.toNat * 0x200000 + zimm.toNat * 0x10000 + csr.toNat * 0x10)
  | .csrrci rd zimm csr =>
    BitVec.ofNat 32 (0x94000005 + rd.toNat * 0x200000 + zimm.toNat * 0x10000 + csr.toNat * 0x10)
  | .trap code =>
    BitVec.ofNat 32 (0x94000008 + code.toNat * 0x10)
  | .tret =>
    BitVec.ofNat 32 (0x94000009)
  | .csave rs1 rs2 =>
    BitVec.ofNat 32 (0x9400000A + rs1.toNat * 0x10000 + rs2.toNat * 0x800)
  | .crestore rs1 =>
    BitVec.ofNat 32 (0x9400000B + rs1.toNat * 0x10000)
  | .tdiscard =>
    BitVec.ofNat 32 (0x9400000C)
  | .tfail =>
    BitVec.ofNat 32 (0x9400000D)
  | .aadd rd rs1 rs2 scope ord w =>
    BitVec.ofNat 32 (0x98000000 + rd.toNat * 0x200000 + rs1.toNat * 0x10000 + rs2.toNat * 0x800 + scope.toNat * 0x80 + ord.toNat * 0x20 + w.toNat * 0x10)
  | .aand rd rs1 rs2 scope ord w =>
    BitVec.ofNat 32 (0x98000001 + rd.toNat * 0x200000 + rs1.toNat * 0x10000 + rs2.toNat * 0x800 + scope.toNat * 0x80 + ord.toNat * 0x20 + w.toNat * 0x10)
  | .aor rd rs1 rs2 scope ord w =>
    BitVec.ofNat 32 (0x98000002 + rd.toNat * 0x200000 + rs1.toNat * 0x10000 + rs2.toNat * 0x800 + scope.toNat * 0x80 + ord.toNat * 0x20 + w.toNat * 0x10)
  | .axor rd rs1 rs2 scope ord w =>
    BitVec.ofNat 32 (0x98000003 + rd.toNat * 0x200000 + rs1.toNat * 0x10000 + rs2.toNat * 0x800 + scope.toNat * 0x80 + ord.toNat * 0x20 + w.toNat * 0x10)
  | .amin rd rs1 rs2 scope ord w =>
    BitVec.ofNat 32 (0x98000004 + rd.toNat * 0x200000 + rs1.toNat * 0x10000 + rs2.toNat * 0x800 + scope.toNat * 0x80 + ord.toNat * 0x20 + w.toNat * 0x10)
  | .amax rd rs1 rs2 scope ord w =>
    BitVec.ofNat 32 (0x98000005 + rd.toNat * 0x200000 + rs1.toNat * 0x10000 + rs2.toNat * 0x800 + scope.toNat * 0x80 + ord.toNat * 0x20 + w.toNat * 0x10)
  | .aminu rd rs1 rs2 scope ord w =>
    BitVec.ofNat 32 (0x98000006 + rd.toNat * 0x200000 + rs1.toNat * 0x10000 + rs2.toNat * 0x800 + scope.toNat * 0x80 + ord.toNat * 0x20 + w.toNat * 0x10)
  | .amaxu rd rs1 rs2 scope ord w =>
    BitVec.ofNat 32 (0x98000007 + rd.toNat * 0x200000 + rs1.toNat * 0x10000 + rs2.toNat * 0x800 + scope.toNat * 0x80 + ord.toNat * 0x20 + w.toNat * 0x10)
  | .aswap rd rs1 rs2 scope ord w =>
    BitVec.ofNat 32 (0x98000008 + rd.toNat * 0x200000 + rs1.toNat * 0x10000 + rs2.toNat * 0x800 + scope.toNat * 0x80 + ord.toNat * 0x20 + w.toNat * 0x10)
  | .acas rd rs1 rs2 scope ord w =>
    BitVec.ofNat 32 (0x98000009 + rd.toNat * 0x200000 + rs1.toNat * 0x10000 + rs2.toNat * 0x800 + scope.toNat * 0x80 + ord.toNat * 0x20 + w.toNat * 0x10)
  | .afadd rd rs1 rs2 scope ord w =>
    BitVec.ofNat 32 (0x9800000A + rd.toNat * 0x200000 + rs1.toNat * 0x10000 + rs2.toNat * 0x800 + scope.toNat * 0x80 + ord.toNat * 0x20 + w.toNat * 0x10)
  | .fence ord scope =>
    BitVec.ofNat 32 (0x9C000000 + ord.toNat * 0x8 + scope.toNat)
  | .sbar mask =>
    BitVec.ofNat 32 (0x9C000100 + mask.toNat)
  | .waita rd rs1 rs2 t =>
    BitVec.ofNat 32 (0x9C000200 + rd.toNat * 0x200000 + rs1.toNat * 0x10000 + rs2.toNat * 0x800 + t.toNat)
  | .barr rd rs1 =>
    BitVec.ofNat 32 (0x9C000300 + rd.toNat * 0x200000 + rs1.toNat * 0x10000)
  | .bwait rd rs1 rs2 t =>
    BitVec.ofNat 32 (0x9C000400 + rd.toNat * 0x200000 + rs1.toNat * 0x10000 + rs2.toNat * 0x800 + t.toNat)
  | .bjoin rs1 =>
    BitVec.ofNat 32 (0x9C000500 + rs1.toNat * 0x10000)
  | .bleave rs1 =>
    BitVec.ofNat 32 (0x9C000501 + rs1.toNat * 0x10000)
  | .pqpush rd rs1 rs2 =>
    BitVec.ofNat 32 (0x9C000600 + rd.toNat * 0x200000 + rs1.toNat * 0x10000 + rs2.toNat * 0x800)
  | .pqpop rd rs1 rs2 =>
    BitVec.ofNat 32 (0x9C000601 + rd.toNat * 0x200000 + rs1.toNat * 0x10000 + rs2.toNat * 0x800)
  | .spawn rs1 rs2 =>
    BitVec.ofNat 32 (0xA0000000 + rs1.toNat * 0x10000 + rs2.toNat * 0x800)
  | .tcommit =>
    BitVec.ofNat 32 (0xA0000001)
  | .kill rd rs1 all =>
    BitVec.ofNat 32 (0xA0000002 + rd.toNat * 0x200000 + rs1.toNat * 0x10000 + all.toNat * 0x20)
  | .wqry rs1 =>
    BitVec.ofNat 32 (0xA0000003 + rs1.toNat * 0x10000)
  | .doneTask =>
    BitVec.ofNat 32 (0xA0000004)
  | .yield =>
    BitVec.ofNat 32 (0xA0000005)
  | .joinw rd rs1 =>
    BitVec.ofNat 32 (0xA0000006 + rd.toNat * 0x200000 + rs1.toNat * 0x10000)
  | .ckmark rl rs1 rs2 id =>
    BitVec.ofNat 32 (0xA0000008 + rl.toNat * 0x200000 + rs1.toNat * 0x10000 + rs2.toNat * 0x800 + id.toNat * 0x20)
  | .ckroll u id =>
    BitVec.ofNat 32 (0xA0000009 + u.toNat * 0x200 + id.toNat * 0x20)
  | .ckcommit u id =>
    BitVec.ofNat 32 (0xA000000A + u.toNat * 0x200 + id.toNat * 0x20)
  | .ckstat rd id =>
    BitVec.ofNat 32 (0xA000000B + rd.toNat * 0x200000 + id.toNat * 0x20)
  | .gslot rd rs1 =>
    BitVec.ofNat 32 (0xA4000000 + rd.toNat * 0x200000 + rs1.toNat * 0x10000)
  | .grel rd rs1 =>
    BitVec.ofNat 32 (0xA4000001 + rd.toNat * 0x200000 + rs1.toNat * 0x10000)
  | .gst rs1 rs2 sz =>
    BitVec.ofNat 32 (0xA4000002 + rs1.toNat * 0x10000 + rs2.toNat * 0x800 + sz.toNat * 0x10)
  | .gamo rd rs1 rs2 op =>
    BitVec.ofNat 32 (0xA4000003 + rd.toNat * 0x200000 + rs1.toNat * 0x10000 + rs2.toNat * 0x800 + op.toNat * 0x10)
  | .gframe rd =>
    BitVec.ofNat 32 (0xA4000004 + rd.toNat * 0x200000)
  | .vsetvl rd rs1 rs2 =>
    BitVec.ofNat 32 (0xA8000000 + rd.toNat * 0x200000 + rs1.toNat * 0x10000 + rs2.toNat * 0x800)
  | .vlmaxq rd rs2 =>
    BitVec.ofNat 32 (0xA8000001 + rd.toNat * 0x200000 + rs2.toNat * 0x800)
  | .vaddVv vd vs1 vs2 vm k1 k2 =>
    BitVec.ofNat 32 (0xAC000000 + vd.toNat * 0x200000 + vs1.toNat * 0x10000 + vs2.toNat * 0x800 + vm.toNat * 0x100 + k1.toNat * 0x40 + k2.toNat * 0x20)
  | .vaddVx vd vs1 rs2 vm k1 k2 =>
    BitVec.ofNat 32 (0xAC000001 + vd.toNat * 0x200000 + vs1.toNat * 0x10000 + rs2.toNat * 0x800 + vm.toNat * 0x100 + k1.toNat * 0x40 + k2.toNat * 0x20)
  | .vaddVi vd vs1 imm5 vm k1 k2 =>
    BitVec.ofNat 32 (0xAC000002 + vd.toNat * 0x200000 + vs1.toNat * 0x10000 + imm5.toNat * 0x800 + vm.toNat * 0x100 + k1.toNat * 0x40 + k2.toNat * 0x20)
  | .vsubVv vd vs1 vs2 vm k1 k2 =>
    BitVec.ofNat 32 (0xAC000003 + vd.toNat * 0x200000 + vs1.toNat * 0x10000 + vs2.toNat * 0x800 + vm.toNat * 0x100 + k1.toNat * 0x40 + k2.toNat * 0x20)
  | .vsubVx vd vs1 rs2 vm k1 k2 =>
    BitVec.ofNat 32 (0xAC000004 + vd.toNat * 0x200000 + vs1.toNat * 0x10000 + rs2.toNat * 0x800 + vm.toNat * 0x100 + k1.toNat * 0x40 + k2.toNat * 0x20)
  | .vrsubVi vd vs1 imm5 vm k1 k2 =>
    BitVec.ofNat 32 (0xAC000005 + vd.toNat * 0x200000 + vs1.toNat * 0x10000 + imm5.toNat * 0x800 + vm.toNat * 0x100 + k1.toNat * 0x40 + k2.toNat * 0x20)
  | .vandVv vd vs1 vs2 vm k1 k2 =>
    BitVec.ofNat 32 (0xAC000006 + vd.toNat * 0x200000 + vs1.toNat * 0x10000 + vs2.toNat * 0x800 + vm.toNat * 0x100 + k1.toNat * 0x40 + k2.toNat * 0x20)
  | .vandVx vd vs1 rs2 vm k1 k2 =>
    BitVec.ofNat 32 (0xAC000007 + vd.toNat * 0x200000 + vs1.toNat * 0x10000 + rs2.toNat * 0x800 + vm.toNat * 0x100 + k1.toNat * 0x40 + k2.toNat * 0x20)
  | .vorVv vd vs1 vs2 vm k1 k2 =>
    BitVec.ofNat 32 (0xAC000008 + vd.toNat * 0x200000 + vs1.toNat * 0x10000 + vs2.toNat * 0x800 + vm.toNat * 0x100 + k1.toNat * 0x40 + k2.toNat * 0x20)
  | .vorVx vd vs1 rs2 vm k1 k2 =>
    BitVec.ofNat 32 (0xAC000009 + vd.toNat * 0x200000 + vs1.toNat * 0x10000 + rs2.toNat * 0x800 + vm.toNat * 0x100 + k1.toNat * 0x40 + k2.toNat * 0x20)
  | .vxorVv vd vs1 vs2 vm k1 k2 =>
    BitVec.ofNat 32 (0xAC00000A + vd.toNat * 0x200000 + vs1.toNat * 0x10000 + vs2.toNat * 0x800 + vm.toNat * 0x100 + k1.toNat * 0x40 + k2.toNat * 0x20)
  | .vxorVx vd vs1 rs2 vm k1 k2 =>
    BitVec.ofNat 32 (0xAC00000B + vd.toNat * 0x200000 + vs1.toNat * 0x10000 + rs2.toNat * 0x800 + vm.toNat * 0x100 + k1.toNat * 0x40 + k2.toNat * 0x20)
  | .vxorVi vd vs1 imm5 vm k1 k2 =>
    BitVec.ofNat 32 (0xAC00000C + vd.toNat * 0x200000 + vs1.toNat * 0x10000 + imm5.toNat * 0x800 + vm.toNat * 0x100 + k1.toNat * 0x40 + k2.toNat * 0x20)
  | .vsllVv vd vs1 vs2 vm k1 k2 =>
    BitVec.ofNat 32 (0xAC00000D + vd.toNat * 0x200000 + vs1.toNat * 0x10000 + vs2.toNat * 0x800 + vm.toNat * 0x100 + k1.toNat * 0x40 + k2.toNat * 0x20)
  | .vsllVi vd vs1 imm5 vm k1 k2 =>
    BitVec.ofNat 32 (0xAC00000E + vd.toNat * 0x200000 + vs1.toNat * 0x10000 + imm5.toNat * 0x800 + vm.toNat * 0x100 + k1.toNat * 0x40 + k2.toNat * 0x20)
  | .vsrVv vd vs1 vs2 vm k1 k2 =>
    BitVec.ofNat 32 (0xAC00000F + vd.toNat * 0x200000 + vs1.toNat * 0x10000 + vs2.toNat * 0x800 + vm.toNat * 0x100 + k1.toNat * 0x40 + k2.toNat * 0x20)
  | .vsrVi vd vs1 imm5 vm k1 k2 =>
    BitVec.ofNat 32 (0xAC000010 + vd.toNat * 0x200000 + vs1.toNat * 0x10000 + imm5.toNat * 0x800 + vm.toNat * 0x100 + k1.toNat * 0x40 + k2.toNat * 0x20)
  | .vminVv vd vs1 vs2 vm k1 k2 =>
    BitVec.ofNat 32 (0xAC000011 + vd.toNat * 0x200000 + vs1.toNat * 0x10000 + vs2.toNat * 0x800 + vm.toNat * 0x100 + k1.toNat * 0x40 + k2.toNat * 0x20)
  | .vminVx vd vs1 rs2 vm k1 k2 =>
    BitVec.ofNat 32 (0xAC000012 + vd.toNat * 0x200000 + vs1.toNat * 0x10000 + rs2.toNat * 0x800 + vm.toNat * 0x100 + k1.toNat * 0x40 + k2.toNat * 0x20)
  | .vmaxVv vd vs1 vs2 vm k1 k2 =>
    BitVec.ofNat 32 (0xAC000013 + vd.toNat * 0x200000 + vs1.toNat * 0x10000 + vs2.toNat * 0x800 + vm.toNat * 0x100 + k1.toNat * 0x40 + k2.toNat * 0x20)
  | .vmaxVx vd vs1 rs2 vm k1 k2 =>
    BitVec.ofNat 32 (0xAC000014 + vd.toNat * 0x200000 + vs1.toNat * 0x10000 + rs2.toNat * 0x800 + vm.toNat * 0x100 + k1.toNat * 0x40 + k2.toNat * 0x20)
  | .vmulVv vd vs1 vs2 vm k1 k2 =>
    BitVec.ofNat 32 (0xAC000015 + vd.toNat * 0x200000 + vs1.toNat * 0x10000 + vs2.toNat * 0x800 + vm.toNat * 0x100 + k1.toNat * 0x40 + k2.toNat * 0x20)
  | .vmulVx vd vs1 rs2 vm k1 k2 =>
    BitVec.ofNat 32 (0xAC000016 + vd.toNat * 0x200000 + vs1.toNat * 0x10000 + rs2.toNat * 0x800 + vm.toNat * 0x100 + k1.toNat * 0x40 + k2.toNat * 0x20)
  | .vmulhVv vd vs1 vs2 vm k1 k2 =>
    BitVec.ofNat 32 (0xAC000017 + vd.toNat * 0x200000 + vs1.toNat * 0x10000 + vs2.toNat * 0x800 + vm.toNat * 0x100 + k1.toNat * 0x40 + k2.toNat * 0x20)
  | .vmaccVv vd vs1 vs2 vm k1 k2 =>
    BitVec.ofNat 32 (0xAC000018 + vd.toNat * 0x200000 + vs1.toNat * 0x10000 + vs2.toNat * 0x800 + vm.toNat * 0x100 + k1.toNat * 0x40 + k2.toNat * 0x20)
  | .vmaccVx vd vs1 rs2 vm k1 k2 =>
    BitVec.ofNat 32 (0xAC000019 + vd.toNat * 0x200000 + vs1.toNat * 0x10000 + rs2.toNat * 0x800 + vm.toNat * 0x100 + k1.toNat * 0x40 + k2.toNat * 0x20)
  | .vsaddVv vd vs1 vs2 vm k1 k2 =>
    BitVec.ofNat 32 (0xAC00001A + vd.toNat * 0x200000 + vs1.toNat * 0x10000 + vs2.toNat * 0x800 + vm.toNat * 0x100 + k1.toNat * 0x40 + k2.toNat * 0x20)
  | .vssubVv vd vs1 vs2 vm k1 k2 =>
    BitVec.ofNat 32 (0xAC00001B + vd.toNat * 0x200000 + vs1.toNat * 0x10000 + vs2.toNat * 0x800 + vm.toNat * 0x100 + k1.toNat * 0x40 + k2.toNat * 0x20)
  | .vmergeVv vd vs1 vs2 vm k1 k2 =>
    BitVec.ofNat 32 (0xAC00001C + vd.toNat * 0x200000 + vs1.toNat * 0x10000 + vs2.toNat * 0x800 + vm.toNat * 0x100 + k1.toNat * 0x40 + k2.toNat * 0x20)
  | .vmvVx vd rs2 vm k1 k2 =>
    BitVec.ofNat 32 (0xAC00001D + vd.toNat * 0x200000 + rs2.toNat * 0x800 + vm.toNat * 0x100 + k1.toNat * 0x40 + k2.toNat * 0x20)
  | .vmvVi vd imm5 vm k1 k2 =>
    BitVec.ofNat 32 (0xAC00001E + vd.toNat * 0x200000 + imm5.toNat * 0x800 + vm.toNat * 0x100 + k1.toNat * 0x40 + k2.toNat * 0x20)
  | .vfaddVv vd vs1 vs2 vm x k1 k2 =>
    BitVec.ofNat 32 (0xB0000000 + vd.toNat * 0x200000 + vs1.toNat * 0x10000 + vs2.toNat * 0x800 + vm.toNat * 0x100 + x.toNat * 0x80 + k1.toNat * 0x40 + k2.toNat * 0x20)
  | .vfaddVx vd vs1 rs2 vm x k1 k2 =>
    BitVec.ofNat 32 (0xB0000001 + vd.toNat * 0x200000 + vs1.toNat * 0x10000 + rs2.toNat * 0x800 + vm.toNat * 0x100 + x.toNat * 0x80 + k1.toNat * 0x40 + k2.toNat * 0x20)
  | .vfsubVv vd vs1 vs2 vm x k1 k2 =>
    BitVec.ofNat 32 (0xB0000002 + vd.toNat * 0x200000 + vs1.toNat * 0x10000 + vs2.toNat * 0x800 + vm.toNat * 0x100 + x.toNat * 0x80 + k1.toNat * 0x40 + k2.toNat * 0x20)
  | .vfsubVx vd vs1 rs2 vm x k1 k2 =>
    BitVec.ofNat 32 (0xB0000003 + vd.toNat * 0x200000 + vs1.toNat * 0x10000 + rs2.toNat * 0x800 + vm.toNat * 0x100 + x.toNat * 0x80 + k1.toNat * 0x40 + k2.toNat * 0x20)
  | .vfrsubVx vd vs1 rs2 vm x k1 k2 =>
    BitVec.ofNat 32 (0xB0000004 + vd.toNat * 0x200000 + vs1.toNat * 0x10000 + rs2.toNat * 0x800 + vm.toNat * 0x100 + x.toNat * 0x80 + k1.toNat * 0x40 + k2.toNat * 0x20)
  | .vfmulVv vd vs1 vs2 vm x k1 k2 =>
    BitVec.ofNat 32 (0xB0000005 + vd.toNat * 0x200000 + vs1.toNat * 0x10000 + vs2.toNat * 0x800 + vm.toNat * 0x100 + x.toNat * 0x80 + k1.toNat * 0x40 + k2.toNat * 0x20)
  | .vfmulVx vd vs1 rs2 vm x k1 k2 =>
    BitVec.ofNat 32 (0xB0000006 + vd.toNat * 0x200000 + vs1.toNat * 0x10000 + rs2.toNat * 0x800 + vm.toNat * 0x100 + x.toNat * 0x80 + k1.toNat * 0x40 + k2.toNat * 0x20)
  | .vfdivVv vd vs1 vs2 vm x k1 k2 =>
    BitVec.ofNat 32 (0xB0000007 + vd.toNat * 0x200000 + vs1.toNat * 0x10000 + vs2.toNat * 0x800 + vm.toNat * 0x100 + x.toNat * 0x80 + k1.toNat * 0x40 + k2.toNat * 0x20)
  | .vfdivVx vd vs1 rs2 vm x k1 k2 =>
    BitVec.ofNat 32 (0xB0000008 + vd.toNat * 0x200000 + vs1.toNat * 0x10000 + rs2.toNat * 0x800 + vm.toNat * 0x100 + x.toNat * 0x80 + k1.toNat * 0x40 + k2.toNat * 0x20)
  | .vfsqrt vd vs1 vm x k1 =>
    BitVec.ofNat 32 (0xB0000009 + vd.toNat * 0x200000 + vs1.toNat * 0x10000 + vm.toNat * 0x100 + x.toNat * 0x80 + k1.toNat * 0x40)
  | .vfmaccVv vd vs1 vs2 vm x k1 k2 =>
    BitVec.ofNat 32 (0xB000000A + vd.toNat * 0x200000 + vs1.toNat * 0x10000 + vs2.toNat * 0x800 + vm.toNat * 0x100 + x.toNat * 0x80 + k1.toNat * 0x40 + k2.toNat * 0x20)
  | .vfmaccVx vd vs1 rs2 vm x k1 k2 =>
    BitVec.ofNat 32 (0xB000000B + vd.toNat * 0x200000 + vs1.toNat * 0x10000 + rs2.toNat * 0x800 + vm.toNat * 0x100 + x.toNat * 0x80 + k1.toNat * 0x40 + k2.toNat * 0x20)
  | .vfnmsacVv vd vs1 vs2 vm x k1 k2 =>
    BitVec.ofNat 32 (0xB000000C + vd.toNat * 0x200000 + vs1.toNat * 0x10000 + vs2.toNat * 0x800 + vm.toNat * 0x100 + x.toNat * 0x80 + k1.toNat * 0x40 + k2.toNat * 0x20)
  | .vfnmsacVx vd vs1 rs2 vm x k1 k2 =>
    BitVec.ofNat 32 (0xB000000D + vd.toNat * 0x200000 + vs1.toNat * 0x10000 + rs2.toNat * 0x800 + vm.toNat * 0x100 + x.toNat * 0x80 + k1.toNat * 0x40 + k2.toNat * 0x20)
  | .vfminVv vd vs1 vs2 vm x k1 k2 =>
    BitVec.ofNat 32 (0xB000000E + vd.toNat * 0x200000 + vs1.toNat * 0x10000 + vs2.toNat * 0x800 + vm.toNat * 0x100 + x.toNat * 0x80 + k1.toNat * 0x40 + k2.toNat * 0x20)
  | .vfminVx vd vs1 rs2 vm x k1 k2 =>
    BitVec.ofNat 32 (0xB000000F + vd.toNat * 0x200000 + vs1.toNat * 0x10000 + rs2.toNat * 0x800 + vm.toNat * 0x100 + x.toNat * 0x80 + k1.toNat * 0x40 + k2.toNat * 0x20)
  | .vfmaxVv vd vs1 vs2 vm x k1 k2 =>
    BitVec.ofNat 32 (0xB0000010 + vd.toNat * 0x200000 + vs1.toNat * 0x10000 + vs2.toNat * 0x800 + vm.toNat * 0x100 + x.toNat * 0x80 + k1.toNat * 0x40 + k2.toNat * 0x20)
  | .vfmaxVx vd vs1 rs2 vm x k1 k2 =>
    BitVec.ofNat 32 (0xB0000011 + vd.toNat * 0x200000 + vs1.toNat * 0x10000 + rs2.toNat * 0x800 + vm.toNat * 0x100 + x.toNat * 0x80 + k1.toNat * 0x40 + k2.toNat * 0x20)
  | .vfsgnjVv vd vs1 vs2 vm k1 k2 =>
    BitVec.ofNat 32 (0xB0000012 + vd.toNat * 0x200000 + vs1.toNat * 0x10000 + vs2.toNat * 0x800 + vm.toNat * 0x100 + k1.toNat * 0x40 + k2.toNat * 0x20)
  | .vfsgnjnVv vd vs1 vs2 vm k1 k2 =>
    BitVec.ofNat 32 (0xB0000013 + vd.toNat * 0x200000 + vs1.toNat * 0x10000 + vs2.toNat * 0x800 + vm.toNat * 0x100 + k1.toNat * 0x40 + k2.toNat * 0x20)
  | .vfsgnjxVv vd vs1 vs2 vm k1 k2 =>
    BitVec.ofNat 32 (0xB0000014 + vd.toNat * 0x200000 + vs1.toNat * 0x10000 + vs2.toNat * 0x800 + vm.toNat * 0x100 + k1.toNat * 0x40 + k2.toNat * 0x20)
  | .vfrec vd vs1 vm x k1 =>
    BitVec.ofNat 32 (0xB0000015 + vd.toNat * 0x200000 + vs1.toNat * 0x10000 + vm.toNat * 0x100 + x.toNat * 0x80 + k1.toNat * 0x40)
  | .vfrsqrt vd vs1 vm x k1 =>
    BitVec.ofNat 32 (0xB0000016 + vd.toNat * 0x200000 + vs1.toNat * 0x10000 + vm.toNat * 0x100 + x.toNat * 0x80 + k1.toNat * 0x40)
  | .vfexp2 vd vs1 vm x k1 =>
    BitVec.ofNat 32 (0xB0000017 + vd.toNat * 0x200000 + vs1.toNat * 0x10000 + vm.toNat * 0x100 + x.toNat * 0x80 + k1.toNat * 0x40)
  | .vfcvtI vd vs1 vm x k1 =>
    BitVec.ofNat 32 (0xB0000018 + vd.toNat * 0x200000 + vs1.toNat * 0x10000 + vm.toNat * 0x100 + x.toNat * 0x80 + k1.toNat * 0x40)
  | .vfcvtUi vd vs1 vm x k1 =>
    BitVec.ofNat 32 (0xB0000818 + vd.toNat * 0x200000 + vs1.toNat * 0x10000 + vm.toNat * 0x100 + x.toNat * 0x80 + k1.toNat * 0x40)
  | .vfcvtFi vd vs1 vm x k1 =>
    BitVec.ofNat 32 (0xB0001018 + vd.toNat * 0x200000 + vs1.toNat * 0x10000 + vm.toNat * 0x100 + x.toNat * 0x80 + k1.toNat * 0x40)
  | .vfcvtFui vd vs1 vm x k1 =>
    BitVec.ofNat 32 (0xB0001818 + vd.toNat * 0x200000 + vs1.toNat * 0x10000 + vm.toNat * 0x100 + x.toNat * 0x80 + k1.toNat * 0x40)
  | .vfcvtRint vd vs1 vm x k1 =>
    BitVec.ofNat 32 (0xB0002018 + vd.toNat * 0x200000 + vs1.toNat * 0x10000 + vm.toNat * 0x100 + x.toNat * 0x80 + k1.toNat * 0x40)
  | .vfclass vd vs1 vm k1 =>
    BitVec.ofNat 32 (0xB0000019 + vd.toNat * 0x200000 + vs1.toNat * 0x10000 + vm.toNat * 0x100 + k1.toNat * 0x40)
  | .vslupVi vd vs1 n vm k1 k2 =>
    BitVec.ofNat 32 (0xB4000000 + vd.toNat * 0x200000 + vs1.toNat * 0x10000 + n.toNat * 0x800 + vm.toNat * 0x100 + k1.toNat * 0x40 + k2.toNat * 0x20)
  | .vsldnVi vd vs1 n vm k1 k2 =>
    BitVec.ofNat 32 (0xB4000001 + vd.toNat * 0x200000 + vs1.toNat * 0x10000 + n.toNat * 0x800 + vm.toNat * 0x100 + k1.toNat * 0x40 + k2.toNat * 0x20)
  | .vrgathVv vd vs1 vs2 vm k1 k2 =>
    BitVec.ofNat 32 (0xB4000002 + vd.toNat * 0x200000 + vs1.toNat * 0x10000 + vs2.toNat * 0x800 + vm.toNat * 0x100 + k1.toNat * 0x40 + k2.toNat * 0x20)
  | .vcompress vd vs1 vm k1 =>
    BitVec.ofNat 32 (0xB4000003 + vd.toNat * 0x200000 + vs1.toNat * 0x10000 + vm.toNat * 0x100 + k1.toNat * 0x40)
  | .vexpand vd vs1 vm k1 =>
    BitVec.ofNat 32 (0xB4000004 + vd.toNat * 0x200000 + vs1.toNat * 0x10000 + vm.toNat * 0x100 + k1.toNat * 0x40)
  | .viota vd ms vm =>
    BitVec.ofNat 32 (0xB4000005 + vd.toNat * 0x200000 + ms.toNat * 0x10000 + vm.toNat * 0x100)
  | .vid vd vm =>
    BitVec.ofNat 32 (0xB4000006 + vd.toNat * 0x200000 + vm.toNat * 0x100)
  | .vmvVv vd vs1 vm k1 =>
    BitVec.ofNat 32 (0xB4000007 + vd.toNat * 0x200000 + vs1.toNat * 0x10000 + vm.toNat * 0x100 + k1.toNat * 0x40)
  | .vextx rd vs1 rs2 k1 k2 =>
    BitVec.ofNat 32 (0xB4000008 + rd.toNat * 0x200000 + vs1.toNat * 0x10000 + rs2.toNat * 0x800 + k1.toNat * 0x40 + k2.toNat * 0x20)
  | .vinsx vd rs1 rs2 k1 k2 =>
    BitVec.ofNat 32 (0xB4000009 + vd.toNat * 0x200000 + rs1.toNat * 0x10000 + rs2.toNat * 0x800 + k1.toNat * 0x40 + k2.toNat * 0x20)
  | .vredsum vd vs1 vs2 vm k1 k2 =>
    BitVec.ofNat 32 (0xB8000000 + vd.toNat * 0x200000 + vs1.toNat * 0x10000 + vs2.toNat * 0x800 + vm.toNat * 0x100 + k1.toNat * 0x40 + k2.toNat * 0x20)
  | .vredosum vd vs1 vs2 vm k1 k2 =>
    BitVec.ofNat 32 (0xB8000001 + vd.toNat * 0x200000 + vs1.toNat * 0x10000 + vs2.toNat * 0x800 + vm.toNat * 0x100 + k1.toNat * 0x40 + k2.toNat * 0x20)
  | .vredmin vd vs1 vs2 vm k1 k2 =>
    BitVec.ofNat 32 (0xB8000002 + vd.toNat * 0x200000 + vs1.toNat * 0x10000 + vs2.toNat * 0x800 + vm.toNat * 0x100 + k1.toNat * 0x40 + k2.toNat * 0x20)
  | .vredmax vd vs1 vs2 vm k1 k2 =>
    BitVec.ofNat 32 (0xB8000003 + vd.toNat * 0x200000 + vs1.toNat * 0x10000 + vs2.toNat * 0x800 + vm.toNat * 0x100 + k1.toNat * 0x40 + k2.toNat * 0x20)
  | .vredand vd vs1 vs2 vm k1 k2 =>
    BitVec.ofNat 32 (0xB8000004 + vd.toNat * 0x200000 + vs1.toNat * 0x10000 + vs2.toNat * 0x800 + vm.toNat * 0x100 + k1.toNat * 0x40 + k2.toNat * 0x20)
  | .vredor vd vs1 vs2 vm k1 k2 =>
    BitVec.ofNat 32 (0xB8000005 + vd.toNat * 0x200000 + vs1.toNat * 0x10000 + vs2.toNat * 0x800 + vm.toNat * 0x100 + k1.toNat * 0x40 + k2.toNat * 0x20)
  | .vredxor vd vs1 vs2 vm k1 k2 =>
    BitVec.ofNat 32 (0xB8000006 + vd.toNat * 0x200000 + vs1.toNat * 0x10000 + vs2.toNat * 0x800 + vm.toNat * 0x100 + k1.toNat * 0x40 + k2.toNat * 0x20)
  | .vamax vd vs1 vs2 vm k1 k2 =>
    BitVec.ofNat 32 (0xB8000007 + vd.toNat * 0x200000 + vs1.toNat * 0x10000 + vs2.toNat * 0x800 + vm.toNat * 0x100 + k1.toNat * 0x40 + k2.toNat * 0x20)
  | .vmseqVv md vs1 vs2 vm k1 k2 =>
    BitVec.ofNat 32 (0xB8000008 + md.toNat * 0x200000 + vs1.toNat * 0x10000 + vs2.toNat * 0x800 + vm.toNat * 0x100 + k1.toNat * 0x40 + k2.toNat * 0x20)
  | .vmsneVv md vs1 vs2 vm k1 k2 =>
    BitVec.ofNat 32 (0xB8000009 + md.toNat * 0x200000 + vs1.toNat * 0x10000 + vs2.toNat * 0x800 + vm.toNat * 0x100 + k1.toNat * 0x40 + k2.toNat * 0x20)
  | .vmsltVv md vs1 vs2 vm k1 k2 =>
    BitVec.ofNat 32 (0xB800000A + md.toNat * 0x200000 + vs1.toNat * 0x10000 + vs2.toNat * 0x800 + vm.toNat * 0x100 + k1.toNat * 0x40 + k2.toNat * 0x20)
  | .vmsleVv md vs1 vs2 vm k1 k2 =>
    BitVec.ofNat 32 (0xB800000B + md.toNat * 0x200000 + vs1.toNat * 0x10000 + vs2.toNat * 0x800 + vm.toNat * 0x100 + k1.toNat * 0x40 + k2.toNat * 0x20)
  | .vmseqVx md vs1 rs2 vm k1 k2 =>
    BitVec.ofNat 32 (0xB800000C + md.toNat * 0x200000 + vs1.toNat * 0x10000 + rs2.toNat * 0x800 + vm.toNat * 0x100 + k1.toNat * 0x40 + k2.toNat * 0x20)
  | .vmsneVx md vs1 rs2 vm k1 k2 =>
    BitVec.ofNat 32 (0xB800000D + md.toNat * 0x200000 + vs1.toNat * 0x10000 + rs2.toNat * 0x800 + vm.toNat * 0x100 + k1.toNat * 0x40 + k2.toNat * 0x20)
  | .vmsltVx md vs1 rs2 vm k1 k2 =>
    BitVec.ofNat 32 (0xB800000E + md.toNat * 0x200000 + vs1.toNat * 0x10000 + rs2.toNat * 0x800 + vm.toNat * 0x100 + k1.toNat * 0x40 + k2.toNat * 0x20)
  | .vmsleVx md vs1 rs2 vm k1 k2 =>
    BitVec.ofNat 32 (0xB800000F + md.toNat * 0x200000 + vs1.toNat * 0x10000 + rs2.toNat * 0x800 + vm.toNat * 0x100 + k1.toNat * 0x40 + k2.toNat * 0x20)
  | .vmsgtVx md vs1 rs2 vm k1 k2 =>
    BitVec.ofNat 32 (0xB8000010 + md.toNat * 0x200000 + vs1.toNat * 0x10000 + rs2.toNat * 0x800 + vm.toNat * 0x100 + k1.toNat * 0x40 + k2.toNat * 0x20)
  | .vmsgeVx md vs1 rs2 vm k1 k2 =>
    BitVec.ofNat 32 (0xB8000011 + md.toNat * 0x200000 + vs1.toNat * 0x10000 + rs2.toNat * 0x800 + vm.toNat * 0x100 + k1.toNat * 0x40 + k2.toNat * 0x20)
  | .vmand md ms1 ms2 =>
    BitVec.ofNat 32 (0xB8000012 + md.toNat * 0x200000 + ms1.toNat * 0x10000 + ms2.toNat * 0x800)
  | .vmor md ms1 ms2 =>
    BitVec.ofNat 32 (0xB8000013 + md.toNat * 0x200000 + ms1.toNat * 0x10000 + ms2.toNat * 0x800)
  | .vmxor md ms1 ms2 =>
    BitVec.ofNat 32 (0xB8000014 + md.toNat * 0x200000 + ms1.toNat * 0x10000 + ms2.toNat * 0x800)
  | .vmandn md ms1 ms2 =>
    BitVec.ofNat 32 (0xB8000015 + md.toNat * 0x200000 + ms1.toNat * 0x10000 + ms2.toNat * 0x800)
  | .vmpop rd ms vm =>
    BitVec.ofNat 32 (0xB8000016 + rd.toNat * 0x200000 + ms.toNat * 0x10000 + vm.toNat * 0x100)
  | .vmfirst rd ms vm =>
    BitVec.ofNat 32 (0xB8000017 + rd.toNat * 0x200000 + ms.toNat * 0x10000 + vm.toNat * 0x100)
  | .vhaar vd vs1 lev k1 k2 =>
    BitVec.ofNat 32 (0xBC000000 + vd.toNat * 0x200000 + vs1.toNat * 0x10000 + lev.toNat * 0x800 + k1.toNat * 0x40 + k2.toNat * 0x20)
  | .vihaar vd vs1 k1 =>
    BitVec.ofNat 32 (0xBC000001 + vd.toNat * 0x200000 + vs1.toNat * 0x10000 + k1.toNat * 0x40)
  | .thset hd rs1 rs2 k1 k2 =>
    BitVec.ofNat 32 (0xBC000002 + hd.toNat * 0x200000 + rs1.toNat * 0x10000 + rs2.toNat * 0x800 + k1.toNat * 0x40 + k2.toNat * 0x20)
  | .thget rd hs n k2 =>
    BitVec.ofNat 32 (0xBC000003 + rd.toNat * 0x200000 + hs.toNat * 0x10000 + n.toNat * 0x800 + k2.toNat * 0x20)
  | .dtagr rd vs1 k1 =>
    BitVec.ofNat 32 (0xBC000004 + rd.toNat * 0x200000 + vs1.toNat * 0x10000 + k1.toNat * 0x40)
  | .dtagw vd rs1 k1 =>
    BitVec.ofNat 32 (0xBC000005 + vd.toNat * 0x200000 + rs1.toNat * 0x10000 + k1.toNat * 0x40)
  | .dtagmk md rs1 k1 =>
    BitVec.ofNat 32 (0xBC000006 + md.toNat * 0x200000 + rs1.toNat * 0x10000 + k1.toNat * 0x40)
  | .dtagma md vs1 k1 =>
    BitVec.ofNat 32 (0xBC000007 + md.toNat * 0x200000 + vs1.toNat * 0x10000 + k1.toNat * 0x40)
  | .vld vd rs1 qn vm stream fmt =>
    BitVec.ofNat 32 (0xC0000000 + vd.toNat * 0x200000 + rs1.toNat * 0x10000 + qn.toNat * 0x800 + vm.toNat * 0x100 + stream.toNat * 0x20 + fmt.toNat)
  | .vst vd rs1 qn vm stream fmt =>
    BitVec.ofNat 32 (0xC4000000 + vd.toNat * 0x200000 + rs1.toNat * 0x10000 + qn.toNat * 0x800 + vm.toNat * 0x100 + stream.toNat * 0x20 + fmt.toNat)
  | .vlds vd rs1 rs2 vm stream fmt =>
    BitVec.ofNat 32 (0xC8000000 + vd.toNat * 0x200000 + rs1.toNat * 0x10000 + rs2.toNat * 0x800 + vm.toNat * 0x100 + stream.toNat * 0x20 + fmt.toNat)
  | .vsts vd rs1 rs2 vm stream fmt =>
    BitVec.ofNat 32 (0xCC000000 + vd.toNat * 0x200000 + rs1.toNat * 0x10000 + rs2.toNat * 0x800 + vm.toNat * 0x100 + stream.toNat * 0x20 + fmt.toNat)
  | .vldx vd rs1 vs2 vm stream fmt =>
    BitVec.ofNat 32 (0xD0000000 + vd.toNat * 0x200000 + rs1.toNat * 0x10000 + vs2.toNat * 0x800 + vm.toNat * 0x100 + stream.toNat * 0x20 + fmt.toNat)
  | .vstx vd rs1 vs2 vm stream fmt =>
    BitVec.ofNat 32 (0xD4000000 + vd.toNat * 0x200000 + rs1.toNat * 0x10000 + vs2.toNat * 0x800 + vm.toNat * 0x100 + stream.toNat * 0x20 + fmt.toNat)
  | .vamoadd vd rs1 vs2 vm stream ord =>
    BitVec.ofNat 32 (0xD8000000 + vd.toNat * 0x200000 + rs1.toNat * 0x10000 + vs2.toNat * 0x800 + vm.toNat * 0x100 + stream.toNat * 0x20 + ord.toNat * 0x10)
  | .vamoand vd rs1 vs2 vm stream ord =>
    BitVec.ofNat 32 (0xD8000001 + vd.toNat * 0x200000 + rs1.toNat * 0x10000 + vs2.toNat * 0x800 + vm.toNat * 0x100 + stream.toNat * 0x20 + ord.toNat * 0x10)
  | .vamoor vd rs1 vs2 vm stream ord =>
    BitVec.ofNat 32 (0xD8000002 + vd.toNat * 0x200000 + rs1.toNat * 0x10000 + vs2.toNat * 0x800 + vm.toNat * 0x100 + stream.toNat * 0x20 + ord.toNat * 0x10)
  | .vamoxor vd rs1 vs2 vm stream ord =>
    BitVec.ofNat 32 (0xD8000003 + vd.toNat * 0x200000 + rs1.toNat * 0x10000 + vs2.toNat * 0x800 + vm.toNat * 0x100 + stream.toNat * 0x20 + ord.toNat * 0x10)
  | .vamomin vd rs1 vs2 vm stream ord =>
    BitVec.ofNat 32 (0xD8000004 + vd.toNat * 0x200000 + rs1.toNat * 0x10000 + vs2.toNat * 0x800 + vm.toNat * 0x100 + stream.toNat * 0x20 + ord.toNat * 0x10)
  | .vamomax vd rs1 vs2 vm stream ord =>
    BitVec.ofNat 32 (0xD8000005 + vd.toNat * 0x200000 + rs1.toNat * 0x10000 + vs2.toNat * 0x800 + vm.toNat * 0x100 + stream.toNat * 0x20 + ord.toNat * 0x10)
  | .vamoswp vd rs1 vs2 vm stream ord =>
    BitVec.ofNat 32 (0xD8000006 + vd.toNat * 0x200000 + rs1.toNat * 0x10000 + vs2.toNat * 0x800 + vm.toNat * 0x100 + stream.toNat * 0x20 + ord.toNat * 0x10)
  | .vldq vd rs1 stream =>
    BitVec.ofNat 32 (0xDC000000 + vd.toNat * 0x200000 + rs1.toNat * 0x10000 + stream.toNat * 0x20)
  | .vldff vd rs1 vm stream fmt =>
    BitVec.ofNat 32 (0xDC000800 + vd.toNat * 0x200000 + rs1.toNat * 0x10000 + vm.toNat * 0x100 + stream.toNat * 0x20 + fmt.toNat)
  | .vstw vd rs1 lev stream fmt =>
    BitVec.ofNat 32 (0xDC001000 + vd.toNat * 0x200000 + rs1.toNat * 0x10000 + lev.toNat * 0x100 + stream.toNat * 0x20 + fmt.toNat)
  | .vldw vd rs1 lev stream fmt =>
    BitVec.ofNat 32 (0xDC001800 + vd.toNat * 0x200000 + rs1.toNat * 0x10000 + lev.toNat * 0x100 + stream.toNat * 0x20 + fmt.toNat)
  | .opr acc vs1 vs2 rm ty z =>
    BitVec.ofNat 32 (0xE0000000 + acc.toNat * 0x800000 + vs1.toNat * 0x10000 + vs2.toNat * 0x800 + rm.toNat * 0x100 + ty.toNat * 0x40 + z.toNat * 0x20)
  | .opl acc pair rm g z =>
    BitVec.ofNat 32 (0xE0000001 + acc.toNat * 0x800000 + pair.toNat * 0x200000 + rm.toNat * 0x100 + g.toNat * 0x40 + z.toNat * 0x20)
  | .tzero acc rm =>
    BitVec.ofNat 32 (0xE0000002 + acc.toNat * 0x800000 + rm.toNat * 0x100)
  | .tmovv acc col rs1 vd ty =>
    BitVec.ofNat 32 (0xE0000003 + acc.toNat * 0x800000 + col.toNat * 0x200000 + rs1.toNat * 0x10000 + vd.toNat * 0x800 + ty.toNat * 0x40)
  | .tamax acc col vd rm =>
    BitVec.ofNat 32 (0xE0000004 + acc.toNat * 0x800000 + col.toNat * 0x200000 + vd.toNat * 0x800 + rm.toNat * 0x100)
  | .scalex qd vs1 fmt rm half =>
    BitVec.ofNat 32 (0xE0000005 + qd.toNat * 0x200000 + vs1.toNat * 0x10000 + fmt.toNat * 0x800 + rm.toNat * 0x100 + half.toNat * 0x40)
  | .trel unit kind =>
    BitVec.ofNat 32 (0xE0000006 + unit.toNat * 0x800000 + kind.toNat * 0x200000)
  | .thaar acc lev =>
    BitVec.ofNat 32 (0xE0000008 + acc.toNat * 0x800000 + lev.toNat * 0x10000)
  | .tihaar acc =>
    BitVec.ofNat 32 (0xE0000009 + acc.toNat * 0x800000)
  | .opld qs latch rs1 rs2 lf depth sc =>
    BitVec.ofNat 32 (0xE4000000 + qs.toNat * 0x800000 + latch.toNat * 0x200000 + rs1.toNat * 0x10000 + rs2.toNat * 0x800 + lf.toNat * 0x100 + depth.toNat * 0x40 + sc.toNat * 0x20)
  | .opldx pitch rs1 vs2 lf latch sc =>
    BitVec.ofNat 32 (0xE4000001 + pitch.toNat * 0x200000 + rs1.toNat * 0x10000 + vs2.toNat * 0x800 + lf.toNat * 0x100 + latch.toNat * 0x40 + sc.toNat * 0x20)
  | .tld acc qs rs1 rs2 rm ty sc =>
    BitVec.ofNat 32 (0xE4000002 + acc.toNat * 0x800000 + qs.toNat * 0x200000 + rs1.toNat * 0x10000 + rs2.toNat * 0x800 + rm.toNat * 0x100 + ty.toNat * 0x40 + sc.toNat * 0x20)
  | .tst acc qs rs1 rs2 rm ty sc =>
    BitVec.ofNat 32 (0xE4000003 + acc.toNat * 0x800000 + qs.toNat * 0x200000 + rs1.toNat * 0x10000 + rs2.toNat * 0x800 + rm.toNat * 0x100 + ty.toNat * 0x40 + sc.toNat * 0x20)
  | .tsave unit kind rs1 =>
    BitVec.ofNat 32 (0xE4000004 + unit.toNat * 0x800000 + kind.toNat * 0x200000 + rs1.toNat * 0x10000)
  | .trestore unit kind rs1 =>
    BitVec.ofNat 32 (0xE4000005 + unit.toNat * 0x800000 + kind.toNat * 0x200000 + rs1.toNat * 0x10000)
  | .tstw acc hn rs1 lev ty sc =>
    BitVec.ofNat 32 (0xE4000008 + acc.toNat * 0x800000 + hn.toNat * 0x200000 + rs1.toNat * 0x10000 + lev.toNat * 0x800 + ty.toNat * 0x40 + sc.toNat * 0x20)
  | .tldw acc rs1 =>
    BitVec.ofNat 32 (0xE4000009 + acc.toNat * 0x800000 + rs1.toNat * 0x10000)
  | .cpy rdst rsrc rlen queue wm =>
    BitVec.ofNat 32 (0xE8000000 + rdst.toNat * 0x200000 + rsrc.toNat * 0x10000 + rlen.toNat * 0x800 + queue.toNat * 0x100 + wm.toNat * 0x20)
  | .cpyt rdst rsrc vlay queue nofill wm =>
    BitVec.ofNat 32 (0xE8000001 + rdst.toNat * 0x200000 + rsrc.toNat * 0x10000 + vlay.toNat * 0x800 + queue.toNat * 0x100 + nofill.toNat * 0x40 + wm.toNat * 0x20)
  | .gath rdst rsrc vidx queue wm =>
    BitVec.ofNat 32 (0xE8000002 + rdst.toNat * 0x200000 + rsrc.toNat * 0x10000 + vidx.toNat * 0x800 + queue.toNat * 0x100 + wm.toNat * 0x20)
  | .scat rdst rsrc vidx queue wm =>
    BitVec.ofNat 32 (0xE8000003 + rdst.toNat * 0x200000 + rsrc.toNat * 0x10000 + vidx.toNat * 0x800 + queue.toNat * 0x100 + wm.toNat * 0x20)
  | .qfence rs queue =>
    BitVec.ofNat 32 (0xE8000004 + rs.toNat * 0x10000 + queue.toNat * 0x100)
  | .csig raddr rval rbar queue =>
    BitVec.ofNat 32 (0xE8000008 + raddr.toNat * 0x200000 + rval.toNat * 0x10000 + rbar.toNat * 0x800 + queue.toNat * 0x100)
  | .cchk cont rseed rexp queue verify kind =>
    BitVec.ofNat 32 (0xE8000009 + cont.toNat * 0x200000 + rseed.toNat * 0x10000 + rexp.toNat * 0x800 + queue.toNat * 0x100 + verify.toNat * 0x80 + kind.toNat * 0x20)
  | .cxf rscale rdesc queue =>
    BitVec.ofNat 32 (0xE800000A + rscale.toNat * 0x200000 + rdesc.toNat * 0x10000 + queue.toNat * 0x100)
  | .cfill rsrc queue =>
    BitVec.ofNat 32 (0xE800000B + rsrc.toNat * 0x10000 + queue.toNat * 0x100)
  | .crow rsrc rpitch queue =>
    BitVec.ofNat 32 (0xE800000C + rsrc.toNat * 0x10000 + rpitch.toNat * 0x800 + queue.toNat * 0x100)
  | .cqst rd queue clr =>
    BitVec.ofNat 32 (0xE800000D + rd.toNat * 0x200000 + queue.toNat * 0x100 + clr.toNat * 0x20)
  | .nonInstructionWord word => word
  | _ => 0

end Sys2Proof
end

