-- ==== Sys2Proof/Machine/Messages.lean ====
section
/-!
DEFINITION. Supervisor messages on channel 31, the resumption of saved contexts, and the watchdog (R306, R308 to R312).
-/
namespace Sys2Proof.Machine

/-! ### Arrival (R19, R308) -/

/-- SUPERVISOR_MESSAGE_ARRIVAL: a message on its way to the core enters its inbox, or one with the given words does; a reserved
KIND is dropped. -/
def execSupervisorMessageArrival (core : Nat) (msg : List (BitVec 64)) (s : State) : Out :=
  let kind := fld (msg.getD 0 0) 4 4
  .next (
    if coreCount ≤ core then s
    else if msg.isEmpty then s.arrive core fun m => m.chan == 31
    else if kind = 0 ∨ 3 < kind then s.wake (layerOf core)
    else
      let m : Msg := { chan := 31, words := (List.range 8).map fun i => msg.getD i 0 }
      (s.modCore core fun c => { c with net := m :: c.net }).arrive core fun x => x == m)

/-! ### Taking a message (R309, R310) -/

/-- The slots of a message and its KIND. -/
def Msg.slot (m : Msg) : Nat := fld (m.words.getD 0 0) 0 2
def Msg.kind (m : Msg) : Nat := fld (m.words.getD 0 0) 4 4

/-- What the core does now with a message: nothing yet, drop it, bind it at level S, discard the task, drop the slices that have
not started, or trap the thread. -/
inductive Taken where
  | wait | dropped | bind | discard | dropSlices | trap
  deriving DecidableEq, Repr

/-- A free slot is available to a message (R309). -/
def Core.available (c : Core) (m : Msg) : Bool :=
  if c.resv.any fun r => r.slot == some m.slot then m.ctx.isSome
  else decide (c.recordsDue ≤ (c.freeSlots.filter (· != m.slot)).length)

/-- The case of R309 that a message meets. The message binds only while HENT31 is bound and not masked (R20; log 25). A watchdog trap
pending at the boundary goes first (R310), and an instruction whose slices have all started retires first (R192). -/
def State.takenAs (s : State) (n : Nat) (m : Msg) : Taken :=
  let c := s.core n
  let t := s.thread n m.slot
  let gone := m.target.any fun b => t.bindStamp != b || t.occ != .task
  if m.kind = 1 ∧ gone then .dropped
  else match t.occ with
    | .free =>
      if s.mayBind n && c.available m && bit (c.hent.getD 31 0) 36 && !bit (c.hent.getD 31 0) 35 then .bind else .wait
    | _ =>
      if t.level = .S ∨ t.watchdog.isSome then .wait
      else match t.wait with
        | .retiring .done none => if m.kind = 1 ∧ !t.post then .discard else .trap
        | .retiring _ _ | .kill _ _ _ _ | .gamo _ _ => .wait
        | .slices =>
          if m.kind = 1 ∧ !t.post then .discard
          else if c.slices.any fun x => x.slot == m.slot && !x.started && !x.released then .dropSlices else .wait
        | _ =>
          if m.kind = 1 ∧ !t.post then .discard
          else if c.slices.any fun x => x.slot == m.slot then .wait else .trap

/-- The slices of a thread that have not started are dropped, and SSTART names the first of them (R192). -/
def State.dropUnstarted (s : State) (n k : Nat) : State :=
  let c := s.core n
  match c.slices.find? fun x => x.slot == k && !x.started with
  | none => s
  | some x =>
    let c1 := c.dropSlices k fun y => !y.started
    (s.putCore n c1).modThread n k fun t =>
      { t with sstart := BitVec.ofNat 64 x.num
               wait := if c1.slices.any fun y => y.slot == k && !y.released then .slices else .none }

/-- The thread stops at its issue boundary: a wait is abandoned, a fault record withdrawn (R304, R306, R309). -/
def State.stopWaiting (s : State) (n k : Nat) : State :=
  (s.withdraw (towerOf n) (.thread n k)).modThread n k fun t => { t.settle with wait := .none }

/-- A message bound at level S in a free slot (R309): words 0 to 3 in the S bank, the task bank zero, priority 7. -/
def State.bindMessage (s : State) (n : Nat) (m : Msg) : State :=
  let k := m.slot
  let groups := (((s.core n).resv.filter fun r => r.slot == some k).map Resv.groups).foldl (· + ·) 0
  let entry := BitVec.ofNat 64 (fld ((s.core n).hent.getD 31 0) 0 32)
  let s1 := s.modCore n fun c =>
    { c.dropResv (fun r => r.slot == some k) with
      lpart := lpBind (s.groupMask n) c.lpart k groups
      chanUse := 31 :: c.chanUse.filter (· != 31) }
  (s1.modThread n k fun t =>
    { occ := .message, level := .S, pc := entry, cameFrom := entry - 4
      sx := Vector.ofFn fun i => m.words.getD i.val 0
      prio := 7, ctxid := BitVec.ofNat 64 k, resume := m.ctx, bindStamp := s.steps, since := some s.steps
      oclaim := t.oclaim }).wake (layerOf n)

/-- SUPERVISOR_MESSAGE_TAKE: the oldest channel-31 message of the inbox that need not wait is acted on. -/
def execSupervisorMessageTake (core : Nat) (s : State) : Out :=
  let c := s.core core
  .next (
    if coreCount ≤ core then s
    else match c.inbox.find? fun m => m.chan == 31 && s.takenAs core m != .wait with
      | none => s
      | some m =>
        let k := m.slot
        let s1 := (s.modCore core fun c => { c with inbox := c.inbox.erase m }).engage (layerOf core)
        match s.takenAs core m with
        | .wait => s
        | .dropped => s1
        | .bind => s1.bindMessage core m
        | .discard => s1.endThread core k .discarded
        | .dropSlices => s.dropUnstarted core k
        | .trap =>
          (s1.stopWaiting core k).trapAt core k
            { cause := 0x16, eval := m.words.getD 0 0, eval2 := m.words.getD 1 0, async := true })

/-! ### Binding of task records (R20, R21) -/

/-- The slot that a task record binds to: the lowest free slot that no resume message has reserved, or in a replay the recorded one, for
which the record waits (R17, R408). -/
def State.slotFor (s : State) (n : Nat) (i : TaskInfo) : Option Nat :=
  match s.recordedSlot n i with
  | some k => if (s.core n).openSlots.contains k then some k else none
  | none => (s.core n).openSlots.head?

/-- CHANNEL_BIND: the core binds the oldest message of the next channel to a slot. A channel-31 message that could be taken goes first
(R21). -/
def execChannelBind (core : Nat) (s : State) : Out :=
  let c := s.core core
  .next (
    if coreCount ≤ core ∨ !s.mayBind core ∨ c.inbox.any (fun m => m.chan == 31 && s.takenAs core m != .wait) then s
    else match c.nextChannel with
      | none => s
      | some h =>
        match c.inbox.find? fun m => m.chan == h with
        | none => s
        | some m =>
          match m.task with
          | none => s
          | some i => (match s.slotFor core i with | some k => s.bindTask core k h m i | none => s))

/-! ### Resumption (R312) -/

/-- The code object of a saved context stands on a core at the addresses it had at the save (R312). On the core of the save it still does,
evicted functions too (R341), unless a reset of the layer has cleared it. -/
def State.sameCode (s : State) (sv : Saved) (l : Launch) (n : Nat) : Bool :=
  (n == sv.core && !sv.wiped) ||
    (!sv.code.isEmpty && sv.code.all fun p => (s.codeOn (towerOf n) n (recObj l.record)).contains p)

/-- A core can take a saved context back (R312). -/
def State.canResume (s : State) (tw : Nat) (sv : Saved) (n k : Nat) : Bool :=
  let c := s.core n
  let (res, saved) := s.resOf tw sv
  match look (s.tower tw).launches sv.info.launch with
  | none => false
  | some l =>
    sv.sent.isNone && s.present n && towerOf n == tw && s.takesWork n
      && (if res = 0 then
            recSelects l.record tw n && (recClass l.record).testBit (s.clsOf n) && s.sameCode sv l n
          else n == sv.core)
      && decide (sv.groups ≤ pop4 (s.groupMask n)) && ((res = 0 && saved = 0) || s.hasArray n)
      && c.openSlots.contains k && decide (c.recordsDue < c.openSlots.length) && decide (sv.groups ≤ s.openGroups n)
      && rangeFree c.xb.toNat (s.usedRanges n) sv.info.pbase sv.info.psize

/-- RESUME_SEND: Lahar reserves a slot, lane groups and the private range of a saved context on a core and sends the resume
message. -/
def execResumeSend (tower index core slot : Nat) (s : State) : Out :=
  .next (match (s.tower tower).saved[index]? with
    | none => s
    | some sv =>
      if 2 ≤ tower ∨ coreCount ≤ core ∨ 4 ≤ slot ∨ (s.tower tower).lfrz then s
      else if s.canResume tower sv core slot then
        (s.modCore core fun c =>
          { c with resv := c.resv ++ [{ slot := some slot, groups := sv.groups, tiles := sv.info.tiles, pbase := sv.info.pbase
                                        psize := sv.info.psize }]
                   net := c.net ++ [superMessage slot 2 sv.block (some sv.ctx) none] }).modTower tower fun t =>
          { t with saved := t.saved.mapIdx fun i x => if i = index then { x with sent := some (core, slot) } else x }
      else s)

/-! ### The watchdog (R306) -/

/-- The watchdog trap at the issue boundary (R306). -/
def State.watchdogTrap (s : State) (cycles : Word) : State :=
  ((s.modMe fun t => { t.settle with watchdog := none }).count (towerOf s.cur) 8).trap { cause := 0x13, eval2 := cycles }


/-- WATCHDOG_EXPIRE: the counter of a slot, which stands at the given cycles, has reached the interval. During the wait of KILL or GAMO
the trap is taken when the instruction has retired; slices that have started retire first. -/
def execWatchdogExpire (core slot : Nat) (cycles : BitVec 64) (s : State) : Out :=
  let t := s.thread core slot
  let wdog := (s.tower (towerOf core)).wdog
  .next (
    if coreCount ≤ core ∨ wdog = 0 ∨ cycles.toNat < wdog ∨ t.occ = .free ∨ t.level = .S
        ∨ cycles.toNat ≠ min (t.count s.steps) (2 ^ 64 - 1) then s
    else match t.wait with
      | .suspended _ => s
      | .kill _ _ _ _ | .gamo _ _ => s.modThread core slot fun t => { t with watchdog := some cycles }
      | .slices => (s.dropUnstarted core slot).modThread core slot fun t => { t with watchdog := some cycles }
      | .retiring .done none =>
        if s.leaveWaits core slot then (s.stopWaiting core slot).within core slot fun s => s.watchdogTrap cycles else s
      | .retiring _ _ => s
      | _ =>
        if (s.core core).slices.any fun x => x.slot == slot then s.modThread core slot fun t => { t with watchdog := some cycles }
        else (s.stopWaiting core slot).within core slot fun s => s.watchdogTrap cycles)

end Sys2Proof.Machine
end

