-- ==== Sys2Proof/Machine/Issue.lean ====
section
/-!
DEFINITION. Issue: the state of a thread before its next instruction, its fetch (R91, R305), the class of an instruction and the
thread that a core picks for a class (R23), and the trap of a word that is no instruction (R102, R103).
-/
namespace Sys2Proof.Machine

/-- What a thread does with its turn. -/
inductive Turnover where
  /-- Nothing: the slot is free, the thread waits, or its layer is not running. -/
  | idle
  /-- The pending watchdog trap (R306). -/
  | watchdog (cycles : Word)
  /-- The fetch reaches XB (R305). -/
  | overlay
  /-- The word at PC issues. -/
  | word (w : Half)

/-- A core that a snapshot has stopped issues nothing (R375). -/
def State.snapshotHolds (s : State) (n : Nat) : Bool :=
  ((List.range 2).any fun tw => (s.tower tw).snapGo && (s.tower tw).snapc == coreId n)

/-- A lane boundary of the thread would change its lanes (R26). -/
def State.boundaryMoves (s : State) (n k : Nat) : Bool :=
  let c := s.core n
  force (lpBoundary (s.groupMask n) c.resvGroups c.lpart k) k != force c.lpart k

/-- The word accesses memory, synchronises, or acts on its task: scalar and vector accesses, atomics, task and broadcast forms, matrix
memory forms and engine forms. All of these follow the stores of an older TST, whichever stream they name (R129; log 8). -/
def afterStores (w : Half) : Bool :=
  let m := fld w 26 6
  decide ((0x10 ≤ m ∧ m ≤ 0x1A) ∨ (0x26 ≤ m ∧ m ≤ 0x29) ∨ (0x30 ≤ m ∧ m ≤ 0x37) ∨ m = 0x39 ∨ m = 0x3A)

/-- The word waits for older slices of its thread to retire: any word while a trap enable is set (R169); a CSR or system form but TRAP
(R136, R315, R316, R318); a boundary that changes the thread's lanes (R144); behind a TST, what follows its stores (R129). The
word 0 stands for the trap of a fetch at XB. -/
def State.heldBySlices (s : State) (n k : Nat) (w : Half) : Bool :=
  let mine := (s.core n).slices.filter fun x => x.slot == k
  let m := fld w 26 6
  !mine.isEmpty &&
    (fld (s.thread n k).fcsr 10 5 != 0
      || (m == 0x25 && fld w 0 4 != 8)
      || ((m == 0x0F || m == 0x24 || (m == 0x2A && fld w 0 11 == 0)) && s.boundaryMoves n k)
      || (afterStores w && mine.any fun x => match x.op with | .tst _ _ _ _ _ => true | _ => false))

/-- What thread k of core n does with its turn. A word is fetched in the step that issues it, so that none is "already fetched" when
XB is written (R137): how far the part fetches ahead is open, and the model fetches not at all (log 64). -/
def State.turnover (s : State) (n k : Nat) : Turnover :=
  let t := s.thread n k
  match (s.layer (layerOf n)).season with
  | .inReset | .winter => .idle
  | _ =>
    if t.occ = .free ∨ (t.wait ≠ .none ∧ t.wait ≠ .stalled) ∨ s.snapshotHolds n then .idle
    else match (if (s.core n).slices.any fun x => x.slot == k then none else t.watchdog) with
      | some c => .watchdog c
      | none =>
        if (s.core n).xb ≤ t.pc then (if s.heldBySlices n k 0 then .idle else .overlay)
        else if s.heldBySlices n k (s.wordAt n t.pc) then .idle
        else .word (s.wordAt n t.pc)

/-! ### Issue selection (R23) -/

/-- The class of a word (R23): A for scalar arithmetic, branches and jumps, CSR and system forms but those that name a tile tag; B
otherwise. -/
def classOf (w : Half) : IssueClass :=
  let major := fld w 26 6
  let namesTag := fld w 0 4 ≤ 5 ∧ 0x010 ≤ fld w 4 12 ∧ fld w 4 12 ≤ 0x017
  if (1 ≤ major ∧ major ≤ 0xE) ∨ (0x1B ≤ major ∧ major ≤ 0x23) ∨ (major = 0x25 ∧ ¬namesTag) then .A else .B

/-- The entry of `Core.lastIssued` for a class and a thread priority. -/
def issueIndex (c : IssueClass) (prio : Nat) : Nat := prio % 8 + match c with | .A => 0 | .B => 8

/-- The turn belongs to a class: an instruction to its own; a trap that waits at the boundary is taken in either. -/
def Turnover.inClass (c : IssueClass) : Turnover → Bool
  | .idle => false
  | .word w => classOf w == c
  | _ => true

/-- The step since which a slot has been ready for a class. -/
def State.readySince (s : State) (n : Nat) (c : IssueClass) (k : Nat) : Option Nat :=
  match (s.core n).ready.getD k none with
  | some (d, f) => if d = c then some f else none
  | none => none

/-- The slot has been ready for the class for 64 or more cycles. -/
def State.overdue (s : State) (n : Nat) (c : IssueClass) (k : Nat) : Bool :=
  match s.readySince n c k with
  | some f => decide (64 ≤ Config.cyclesTo s.steps - Config.cyclesTo f)
  | none => false

/-- The first slot after another, in turn, that a list holds. -/
def nextAfter (last : Option Nat) (ks : List Nat) : Option Nat :=
  ((List.range 4).map fun i => ((last.getD 3) + 1 + i) % 4).find? ks.contains

/-- The slots ready for a class are noted with the step since which they are; a slot that no longer is ready is noted no more. -/
def State.noteReady (s : State) (n : Nat) (c : IssueClass) (ks : List Nat) : State :=
  s.modCore n fun o =>
    { o with ready := o.ready.mapIdx fun k r =>
        if ks.contains k then (match r with | some (d, f) => if d = c then r else some (c, s.steps) | none => some (c, s.steps))
        else match r with | some (d, _) => if d = c then none else r | none => none }

/-- The overlay-fetch trap (R301, R305): EVAL is the fetch address, EVAL2 the address that led there. -/
def State.overlayTrap (s : State) : State :=
  s.trap { cause := 9, eval := s.me.pc, eval2 := s.me.cameFrom }

/-- A turn that issues: a layer in Autumn wakes (R296), the other threads of the core see the issue (R283), and the slot has issued
last in its class at its priority (R23). -/
def State.beginIssue (s : State) : State :=
  let c := classOf (s.wordAt s.cur s.me.pc)
  (((s.wake (layerOf s.cur)).modLayer (layerOf s.cur) fun l => { l with lastIssue := s.steps }).noteIssue s.cur s.curSlot).modMyCore
    fun o => { o with ready := o.ready.setIfInBounds s.curSlot none
                      lastIssued := o.lastIssued.setIfInBounds (issueIndex c s.me.prio) (some s.curSlot) }

/-- R102, R103: the trap of a word that is no instruction, by its major: check 1, check 2 with cause reserved major, check 3. -/
def execNonInstructionWord (word : Half) (s : State) : Out :=
  let major := fld word 26 6
  let (cause, check) := if major = 0 ∨ major = 0x3F then (1, 1)
    else if 0x3B ≤ major ∧ major ≤ 0x3E then (2, 2) else (1, 3)
  .next (s.trap { cause := cause, eval := zx word, eval2 := BitVec.ofNat 64 check })

end Sys2Proof.Machine
end

