-- ==== Sys2Proof/Machine/ScalarFp.lean ====
section
/-!
DEFINITION. Scalar floating point (R120 to R126): register forms in FP32 and FP64, immediates, and the trap of an enabled
flag.
-/
namespace Sys2Proof.Machine

/-- The format that P names (R120). -/
def fpFmt (p : BitVec 1) : Fmt := if p = 1 then FP64 else FP32
/-- An FP source: bits [31:0] for FP32, all bits for FP64 (R45). -/
def fpIn (p : BitVec 1) (w : Word) : Nat := fld w 0 (fpFmt p).width
def State.rm (s : State) : RM := rmOf s.me.fcsr

/-- The end of a scalar FP instruction: its flags are set; an enabled one traps with rd unwritten (R126). -/
def State.fpResult (s : State) (rd : BitVec 5) (v : Nat) (fl : Flags) : State :=
  let en := enabled s.me.fcsr fl
  if en ≠ 0 then (s.raise fl).trap { cause := 0xC, eval2 := BitVec.ofNat 64 en }
  else (s.raise fl).result rd (BitVec.ofNat 64 v)

/-- A form over two FP registers. -/
def fpForm (f : Fmt → RM → Nat → Nat → Nat × Flags) (rd rs1 rs2 : BitVec 5) (p : BitVec 1) (s : State) : Out :=
  let r := f (fpFmt p) s.rm (fpIn p (s.x rs1)) (fpIn p (s.x rs2))
  .next (s.guard (xs [rs1, rs2]) (s.fpResult rd r.1 r.2))

/-- A form over one FP register. -/
def fpUnary (f : Fmt → RM → Nat → Nat × Flags) (rd rs1 : BitVec 5) (p : BitVec 1) (s : State) : Out :=
  let r := f (fpFmt p) s.rm (fpIn p (s.x rs1))
  .next (s.guard (xs [rs1]) (s.fpResult rd r.1 r.2))

/-- Equality and order of patterns with the NV rules of R123: `quiet` forms raise NV on signalling NaNs only. -/
def fCompare (quiet : Bool) (f : Fmt) (r : FVal → FVal → Bool) (onNan : Bool) (a b : Nat) : Nat × Flags :=
  let x := f.decode a
  let y := f.decode b
  if x.isNan || y.isNan then
    (if onNan then 1 else 0, if quiet then sigFlag x y else fNV)
  else (if r x y then 1 else 0, 0)

/-- FP to an integer of w bits, sign- or zero-extended to 64 bits (R79, R124). -/
def fToInt (signed : Bool) (w : Nat) (f : Fmt) (rm : RM) (a : Nat) : Nat × Flags :=
  let (lo, hi) : Int × Int := if signed then (-(2 ^ (w - 1) : Nat), (2 ^ (w - 1) : Nat) - 1) else (0, (2 ^ w : Nat) - 1)
  let (i, fl) := (f.decode a).narrowInt rm lo hi
  (intBits 64 i, fl)

/-- R120: rd := round(rs1 + rs2). -/
def execFadd (rd rs1 rs2 : BitVec 5) (p : BitVec 1) (s : State) : Out := fpForm fAdd rd rs1 rs2 p s

/-- R120: rd := round(rs1 − rs2). -/
def execFsub (rd rs1 rs2 : BitVec 5) (p : BitVec 1) (s : State) : Out := fpForm fSub rd rs1 rs2 p s

/-- R120: rd := round(rs1 × rs2). -/
def execFmul (rd rs1 rs2 : BitVec 5) (p : BitVec 1) (s : State) : Out := fpForm fMul rd rs1 rs2 p s

/-- R120: rd := round(rs1 / rs2). -/
def execFdiv (rd rs1 rs2 : BitVec 5) (p : BitVec 1) (s : State) : Out := fpForm fDiv rd rs1 rs2 p s

/-- R122: minimum. -/
def execFmin (rd rs1 rs2 : BitVec 5) (p : BitVec 1) (s : State) : Out := fpForm (fun f _ a b => fMinMax false f a b) rd rs1 rs2 p s

/-- R122: maximum. -/
def execFmax (rd rs1 rs2 : BitVec 5) (p : BitVec 1) (s : State) : Out := fpForm (fun f _ a b => fMinMax true f a b) rd rs1 rs2 p s

/-- R123: 1 if equal. -/
def execFeq (rd rs1 rs2 : BitVec 5) (p : BitVec 1) (s : State) : Out := fpForm (fun f _ a b => fCompare true f FVal.eqv false a b) rd rs1 rs2 p s

/-- R123: 1 if less. -/
def execFlt (rd rs1 rs2 : BitVec 5) (p : BitVec 1) (s : State) : Out := fpForm (fun f _ a b => fCompare false f FVal.lt false a b) rd rs1 rs2 p s

/-- R123: 1 if less or equal. -/
def execFle (rd rs1 rs2 : BitVec 5) (p : BitVec 1) (s : State) : Out := fpForm (fun f _ a b => fCompare false f (fun x y => !y.lt x) false a b) rd rs1 rs2 p s

/-- R123: 1 if either is NaN. -/
def execFunord (rd rs1 rs2 : BitVec 5) (p : BitVec 1) (s : State) : Out := fpForm (fun f _ a b => fCompare true f (fun _ _ => false) true a b) rd rs1 rs2 p s

/-- R123: rs1 with the sign of rs2. -/
def execFsgnj (rd rs1 rs2 : BitVec 5) (p : BitVec 1) (s : State) : Out := fpForm (fun f _ a b => (withSign f a (f.signOf b), 0)) rd rs1 rs2 p s

/-- R123: rs1 with the inverted sign of rs2. -/
def execFsgnjn (rd rs1 rs2 : BitVec 5) (p : BitVec 1) (s : State) : Out := fpForm (fun f _ a b => (withSign f a (!f.signOf b), 0)) rd rs1 rs2 p s

/-- R123: rs1 with the XOR of both signs. -/
def execFsgnjx (rd rs1 rs2 : BitVec 5) (p : BitVec 1) (s : State) : Out := fpForm (fun f _ a b => (withSign f a (f.signOf a != f.signOf b), 0)) rd rs1 rs2 p s

/-- R120: rd := round(√rs1). -/
def execFsqrt (rd rs1 : BitVec 5) (p : BitVec 1) (s : State) : Out := fpUnary fSqrt rd rs1 p s

/-- R123: the class of rs1. -/
def execFclass (rd rs1 : BitVec 5) (p : BitVec 1) (s : State) : Out := fpUnary (fun f _ a => (fClass f a, 0)) rd rs1 p s

/-- R124: to INT32, sign-extended. -/
def execFcvtI32 (rd rs1 : BitVec 5) (p : BitVec 1) (s : State) : Out := fpUnary (fToInt true 32) rd rs1 p s

/-- R124: to UINT32, zero-extended. -/
def execFcvtUi32 (rd rs1 : BitVec 5) (p : BitVec 1) (s : State) : Out := fpUnary (fToInt false 32) rd rs1 p s

/-- R124: to INT64. -/
def execFcvtI64 (rd rs1 : BitVec 5) (p : BitVec 1) (s : State) : Out := fpUnary (fToInt true 64) rd rs1 p s

/-- R124: to UINT64. -/
def execFcvtUi64 (rd rs1 : BitVec 5) (p : BitVec 1) (s : State) : Out := fpUnary (fToInt false 64) rd rs1 p s

/-- R120: rd := round(rd + rs1 × rs2), one rounding; rd is also read. -/
def execFmac (rd rs1 rs2 : BitVec 5) (p : BitVec 1) (s : State) : Out :=
  let r := fMac (fpFmt p) s.rm (fpIn p (s.x rd)) (fpIn p (s.x rs1)) (fpIn p (s.x rs2))
  .next (s.guard (xs [rs1, rs2, rd]) (s.fpResult rd r.1 r.2))

/-- R124: INT64 to FP. -/
def execFcvtFI64 (rd rs1 : BitVec 5) (p : BitVec 1) (s : State) : Out :=
  let r := (ofScaled (s.x rs1).toInt 0 false).narrow (fpFmt p) s.rm
  .next (s.guard (xs [rs1]) (s.fpResult rd r.1 r.2))

/-- R124: UINT64 to FP. -/
def execFcvtFUi64 (rd rs1 : BitVec 5) (p : BitVec 1) (s : State) : Out :=
  let r := (ofScaled (s.x rs1).toNat 0 false).narrow (fpFmt p) s.rm
  .next (s.guard (xs [rs1]) (s.fpResult rd r.1 r.2))

/-- R124: the other FP type to the one P names: FP32 to FP64 widens, FP64 to FP32 narrows (R79). -/
def execFcvtFF (rd rs1 : BitVec 5) (p : BitVec 1) (s : State) : Out :=
  let r := if p = 1 then ((FP32.decode (fld (s.x rs1) 0 32)).widen FP64, 0)
    else (FP64.decode (s.x rs1).toNat).narrow FP32 s.rm
  .next (s.guard (xs [rs1]) (s.fpResult rd r.1 r.2))

/-- A BF16 immediate widened to FP32; a NaN is the canonical quiet one (R82). -/
def bf16Imm (imm : BitVec 16) : Nat := if (BF16.decode imm.toNat).isNan then FP32.cnan else imm.toNat * 65536

/-- R125: rd := round(rs1 + imm) in FP32. -/
def execFaddi (rd rs1 : BitVec 5) (imm : BitVec 16) (s : State) : Out :=
  let r := fAdd FP32 s.rm (fpIn 0 (s.x rs1)) (bf16Imm imm)
  .next (s.guard (xs [rs1]) (s.fpResult rd r.1 r.2))

/-- R125: rd := round(rs1 × imm) in FP32. -/
def execFmuli (rd rs1 : BitVec 5) (imm : BitVec 16) (s : State) : Out :=
  let r := fMul FP32 s.rm (fpIn 0 (s.x rs1)) (bf16Imm imm)
  .next (s.guard (xs [rs1]) (s.fpResult rd r.1 r.2))

end Sys2Proof.Machine
end

