-- ==== Sys2Proof/Machine/Window.lean ====
section
/-!
DEFINITION. What the host and firmware read and write in a tower's management window (R370, R372 to R375, R379, R386, R387, R397, R401,
R403, R404): one aligned doubleword at a time. Reading changes nothing (R9, R374), so a read is no step.
-/
namespace Sys2Proof.Machine

/-- Identity block (R372, R392). -/
def State.identityRead (s : State) (tw o : Nat) : Word :=
  match o with
  | 0x00 => 0xA00
  | 0x08 => Config.microcodeRevision
  | 0x10 => Config.translatorVersion
  | 0x18 => BitVec.ofNat 64 (tw + bitAt 1 (s.tower tw).otherPresent)
  | 0x20 => BitVec.ofNat 64 s.fuses
  | _ => 0

/-- A tower's cores are between tasks: no task record is on its way. LIDLE says so while LFRZ is 1 (R373). -/
def State.dispatchIdle (s : State) (tw : Nat) : Bool :=
  (s.cores.filter fun p => towerOf p.1 == tw).all fun p => p.2.net.all fun m => m.task.isNone

/-- The control block (R373, R379, R398). KEY, FQANS and TINV read as zero. -/
def State.controlRead (s : State) (tw o : Nat) : Word :=
  let t := s.tower tw
  match o with
  | 0x00 => BitVec.ofNat 64 t.wdog
  | 0x08 => BitVec.ofNat 64 (t.chb * 2 ^ 12 + t.stbn * 2 ^ 20)
  | 0x10 => BitVec.ofNat 64 t.pdly
  | 0x18 => BitVec.ofNat 64 (bitAt 0 t.lfrz + bitAt 1 (t.lfrz && s.dispatchIdle tw))
  | 0x20 => BitVec.ofNat 64 (t.snapc + bitAt 12 t.snapGo)
  | 0x28 => BitVec.ofNat 64 (((List.range 8).map fun l => bitAt l (s.layer (8 * tw + l)).lrst).foldl (· + ·) 0)
  | 0x30 => BitVec.ofNat 64 (bitAt 0 t.aperr)
  | 0x38 => BitVec.ofNat 64 (bitAt 0 t.injen)
  | 0x48 => BitVec.ofNat 64 t.fqtail
  | 0x50 => BitVec.ofNat 64 t.fqhead
  | 0x68 => BitVec.ofNat 64 (bitAt 0 t.tinv.isSome + bitAt 1 t.tlost)
  | 0x70 => BitVec.ofNat 64 (t.ksel + bitAt 18 t.kop.isSome)
  | 0x78 => BitVec.ofNat 64 (bitAt 0 t.bretry)
  | o =>
    if 0x300 ≤ o ∧ o < 0x340 then packed 8 ((List.range 8).map fun i => t.qas.getD (o - 0x300 + i) 0)
    else if 0x400 ≤ o ∧ o < 0x800 then packed 16 ((List.range 4).map fun i => (look t.hkey ((o - 0x400) / 2 + i)).getD 0)
    else if 0x800 ≤ o ∧ o < 0x1000 then (look t.asd ((o - 0x800) / 8)).getD 0
    else 0

/-- Queue status (R370). -/
def State.statusRead (s : State) (tw q : Nat) : Word :=
  let v := (s.tower tw).queues.getD q {}
  BitVec.ofNat 64 (v.ring.length + v.refs * 2 ^ 8 + v.cause * 2 ^ 24 + bitAt 32 v.ovf)

/-- A Geyser slot (R372). -/
def Tower.slotRead (t : Tower) (i : Nat) : Word :=
  match t.leases.find? fun l => l.1 == i with
  | some (_, n, k) => BitVec.ofNat 64 (1 + coreId n * 2 + k * 2 ^ 13)
  | none => 0

/-- The steps of R43 have begun: the waits of DONE are over. -/
def Wait.begun : Wait → Bool
  | .retiring _ (some _) => true
  | _ => false

/-- A task of a launch is queued in an inbox, resident, suspended or saved without having begun its retirement (R43, R372). -/
def State.runs (s : State) (tw slot : Nat) : Bool :=
  (s.tower tw).saved.any (fun v => v.info.launch == slot) ||
    (s.cores.filter fun p => towerOf p.1 == tw).any fun p =>
      (p.2.inbox ++ p.2.net).any (fun m => m.task.any fun i => i.launch == slot)
        || p.2.threads.toList.any fun t => t.occ == .task && !t.wait.begun && t.task.any fun i => i.launch == slot

/-- State of a live launch (R372): 1 dispatching, 2 running, 3 ending. -/
def State.launchState (s : State) (tw slot : Nat) (l : Launch) : Nat :=
  if l.nextIndex.isSome || ((s.tower tw).queues.getD l.queue {}).returned.any fun i => i.launch == slot then 1
  else if s.runs tw slot then 2 else 3

/-- A doubleword of a live-launch entry (R372). -/
def State.launchRead (s : State) (tw slot i : Nat) : Word :=
  match look (s.tower tw).launches slot with
  | none => 0
  | some l =>
    match i with
    | 0 => BitVec.ofNat 64 (s.launchState tw slot l + l.queue * 2 ^ 8 + recPrio l.record * 2 ^ 16)
    | 1 => recWord l.record 0
    | 2 => BitVec.ofNat 64 l.dispatched
    | 3 => BitVec.ofNat 64 l.retired
    | 4 => recWord l.record 3
    | 5 => recWord l.record 4
    | 6 => BitVec.ofNat 64 l.saved
    | _ => 0

/-- A doubleword of a work-pool entry (R372). -/
def Tower.poolRead (t : Tower) (id i : Nat) : Word :=
  match look t.pools id with
  | none => 0
  | some p =>
    match i with
    | 0 => BitVec.ofNat 64 p.rows
    | 1 => BitVec.ofNat 64 p.cols
    | 2 => BitVec.ofNat 64 (p.w + bitAt 8 p.launch.isSome)
    | _ => BitVec.ofNat 64 p.cursor

/-- A doubleword of the snapshot buffer (R375). -/
def Tower.snapRead (t : Tower) (o : Nat) : Word := BitVec.ofNat 64 (leNat ((List.range 8).map fun i => memGet t.snap (o + i)))

/-- The four doublewords of a fault record (R387); withdrawal has set its bit (R388). -/
def FaultRec.words (r : FaultRec) : List Word := [r.w0, r.w1, r.w2, r.w3]

/-- A doubleword of the fault queue (R386, R387). -/
def Tower.faultRead (t : Tower) (o : Nat) : Word :=
  ((look t.faults (o / 32)).map fun r => r.words.getD (o % 32 / 8) 0).getD 0

/-- A doubleword of the boot step record (R397). -/
def BootRecord.read (b : BootRecord) (o : Nat) : Word :=
  if o = 0 then BitVec.ofNat 64 (b.boot.toNat + b.last * 2 ^ 32 + bitAt 40 b.up + bitAt 41 b.retry)
  else if o < 0x40 ∨ 0x40 + 32 * 20 ≤ o then 0
  else
    let e := b.steps.getD ((o - 0x40) / 32) {}
    match (o - 0x40) % 32 / 8 with
    | 0 => BitVec.ofNat 64 (e.beg.toNat + e.btime.toNat * 2 ^ 32)
    | 1 => BitVec.ofNat 64 (e.endb.toNat + bitAt 32 e.fail)
    | 2 => BitVec.ofNat 64 e.path
    | _ => e.detail

/-- A doubleword of a machine-check record (R403): the newest record whose place it is. -/
def Tower.mcheckRead (t : Tower) (i w : Nat) : Word :=
  match (t.mchecks.filter fun m => (m.seq - 1) % 4096 == i).foldl (fun b m => match b with
      | none => some m
      | some x => if x.seq ≤ m.seq then some m else b) none with
  | none => 0
  | some m =>
    match w with
    | 0 => BitVec.ofNat 64 m.seq
    | 1 => BitVec.ofNat 64 (m.src + m.coreid * 2 ^ 8 + m.slot * 2 ^ 20)
    | 2 => m.addr
    | 3 => m.taskid
    | 4 => m.aux
    | _ => 0

/-- The telemetry block (R401, R403, R404). -/
def State.telemetryRead (s : State) (tw o : Nat) : Word :=
  let t := s.tower tw
  if o < 0x40 then
    let l := s.layer (8 * tw + o / 8)
    BitVec.ofNat 64 (l.lpwr.toNat + l.duty * 2 ^ 16 + bitAt 20 l.hold)
  else if o = 0x40 then BitVec.ofNat 64 t.tpwr
  else if o = 0x48 then BitVec.ofNat 64 t.widle
  else if 0x80 ≤ o ∧ o < 0x180 then (s.layer (8 * tw + (o - 0x80) / 32)).sres.getD (o % 32 / 8) 0
  else if 0x400 ≤ o ∧ o < 0x448 then t.counters.getD ((o - 0x400) / 8) 0
  else if 0x10000 ≤ o ∧ o < 0x50000 then t.mcheckRead ((o - 0x10000) / 64) (o % 64 / 8)
  else 0

/-- The doubleword that the host reads at an aligned offset of a tower's management window. What the translator's address maps hold is
free, since the spec gives them no layout, but for what firmware has written there (R338, R372; log 26). A rewind-log entry shows the
word's local address, as R287 has a log name it. Offsets that are not listed read as zero, and so do the staging areas. -/
def State.windowRead (s : State) (tw o : Nat) : Word :=
  let t := s.tower tw
  if o < 0x1000 then s.identityRead tw o
  else if o < 0x2000 then s.controlRead tw (o - 0x1000)
  else if o < 0x3000 then s.harvestRead tw (o - 0x2000)
  else if 0x12000 ≤ o ∧ o < 0x12200 then s.statusRead tw ((o - 0x12000) / 8)
  else if 0x14000 ≤ o ∧ o < 0x14800 then t.slotRead ((o - 0x14000) / 8)
  else if 0x15000 ≤ o ∧ o < 0x15500 then
    BitVec.ofNat 64 (s.cluster (160 * tw + (o - 0x15000) / 8)).log.length
  else if 0x20000 ≤ o ∧ o < 0x60000 then s.launchRead tw ((o - 0x20000) / 64) (o % 64 / 8)
  else if 0x60000 ≤ o ∧ o < 0x64000 then t.poolRead ((o - 0x60000) / 32) (o % 32 / 8)
  else if 0x80000 ≤ o ∧ o < 0x90000 then t.snapRead (o - 0x80000)
  else if 0x100000 ≤ o ∧ o < 0x200000 then t.faultRead (o - 0x100000)
  else if 0x200000 ≤ o ∧ o < 0x300000 then t.boot.read (o - 0x200000)
  else if 0x300000 ≤ o ∧ o < 0x400000 then s.telemetryRead tw (o - 0x300000)
  else if 0x400000 ≤ o ∧ o < 0x800000 then (look t.maps (o - 0x400000)).getD (Config.addressMap tw (o - 0x400000) s.steps)
  else if 0x1000000 ≤ o ∧ o < 0x1A00000 then
    (match (s.cluster (160 * tw + (o - 0x1000000) / 65536)).log[o % 65536 / 16]? with
      | none => 0
      | some e => if o % 16 = 0 then BitVec.ofNat 64 (ckptLocal (160 * tw + (o - 0x1000000) / 65536) e.addr) else e.old)
  else 0

/-- What firmware reads: every block, the staging areas too (R372). -/
def State.firmwareRead (s : State) (tw o : Nat) : Word :=
  if stagingBase ≤ o ∧ o < stagingBase + 0x2000 then
    ((s.tower tw).staged.getD ((o - stagingBase) / 128) (Vector.replicate 16 0)).getD ((o - stagingBase) % 128 / 8) 0
  else s.windowRead tw o

/-! ### Writes (R9, R372) -/

/-- The value of a key in a list of pairs replaced, in its place; absent keys stay absent. -/
def amend {α : Type} (m : List (Nat × α)) (n : Nat) (f : α → α) : List (Nat × α) :=
  m.map fun p => if p.1 = n then (p.1, f p.2) else p

/-- Class and presence of a core as firmware sets them. -/
def State.setHarvest (s : State) (n : Nat) (f : Harvest → Harvest) : State :=
  { s with harvest := (s.harvest.filter fun p => p.1 != n) ++ [(n, f ⟨s.clsOf n, ((look s.harvest n).map Harvest.present).getD true⟩)] }

/-- The season that a code of the harvest map names. -/
def Season.ofCode (c : Nat) : Season := if c = 0 then .summer else if c = 1 then .autumn else if c = 2 then .winter else .spring

/-- The harvest map written by firmware. -/
def State.harvestWrite (s : State) (tw o : Nat) (v : Word) : State :=
  if o < 0x140 then
    (List.range 32).foldl (fun st i => st.setHarvest (1280 * tw + 4 * o + i) fun h => { h with cls := fld v (2 * i) 2 }) s
  else if o = 0x200 then
    (List.range 8).foldl (fun st l => st.modLayer (8 * tw + l) fun x => { x with season := .ofCode (fld v (2 * l) 2) }) s
  else if o = 0x208 then (List.range 8).foldl (fun st l => st.modLayer (8 * tw + l) fun x => { x with fenced := bit v l }) s
  else if 0x300 ≤ o ∧ o < 0x3A0 then
    (List.range 64).foldl (fun st i => st.setHarvest (1280 * tw + 8 * (o - 0x300) + i) fun h => { h with present := bit v i }) s
  else s

/-- A Geyser slot's entry written by firmware. -/
def Tower.slotWrite (t : Tower) (i : Nat) (v : Word) : Tower :=
  { t with leases := (t.leases.filter fun l => l.1 != i) ++ (if bit v 0 then [(i, coreOfId (fld v 1 12), fld v 13 2)] else []) }

/-- A doubleword of a live-launch entry written by firmware; its state is no field of its own. -/
def Launch.entryWrite (l : Launch) (i : Nat) (v : Word) : Launch :=
  match i with
  | 0 => { l with queue := fld v 8 8 % 64, record := l.record.set 2 (putFld (recWord l.record 2) 40 3 (fld v 16 3)) }
  | 1 => { l with record := l.record.set 0 v }
  | 2 => { l with dispatched := v.toNat, next := v.toNat }
  | 3 => { l with retired := v.toNat }
  | 4 => { l with record := l.record.set 3 v }
  | 5 => { l with record := l.record.set 4 v }
  | 6 => { l with saved := v.toNat }
  | _ => l

/-- A doubleword of a work-pool entry written by firmware. -/
def Pool.entryWrite (p : Pool) (i : Nat) (v : Word) : Pool :=
  match i with
  | 0 => { p with rows := v.toNat }
  | 1 => { p with cols := v.toNat }
  | 2 => { p with w := fld v 0 5, launch := if bit v 8 then p.launch else none }
  | _ => { p with cursor := v.toNat }

/-- A doubleword of a fault record written by firmware. -/
def FaultRec.wordWrite (r : FaultRec) (i : Nat) (v : Word) : FaultRec :=
  match i with
  | 0 => { r with w0 := v }
  | 1 => { r with w1 := v, seq := fld v 32 32 }
  | 2 => { r with w2 := v }
  | _ => { r with w3 := v }

/-- A doubleword of the boot step record written by firmware. -/
def BootRecord.write (b : BootRecord) (o : Nat) (v : Word) : BootRecord :=
  if o = 0 then { b with boot := BitVec.ofNat 32 (fld v 0 32), last := fld v 32 8, up := bit v 40, retry := bit v 41 }
  else if o < 0x40 ∨ 0x40 + 32 * 20 ≤ o then b
  else
    let n := (o - 0x40) / 32
    let e := b.steps.getD n {}
    let e1 : BootEntry := match (o - 0x40) % 32 / 8 with
      | 0 => { e with beg := BitVec.ofNat 32 (fld v 0 32), btime := BitVec.ofNat 32 (fld v 32 32) }
      | 1 => { e with endb := BitVec.ofNat 32 (fld v 0 32), fail := bit v 32 }
      | 2 => { e with path := fld v 0 2 }
      | _ => { e with detail := v }
    { b with steps := b.steps.setIfInBounds n e1 }

/-- A doubleword of a machine-check record written by firmware. -/
def MCheck.wordWrite (m : MCheck) (w : Nat) (v : Word) : MCheck :=
  match w with
  | 0 => { m with seq := v.toNat }
  | 1 => { m with src := fld v 0 8, coreid := fld v 8 12, slot := fld v 20 2 }
  | 2 => { m with addr := v }
  | 3 => { m with taskid := v }
  | 4 => { m with aux := v }
  | _ => m

/-- The telemetry block written by firmware. -/
def State.telemetryWrite (s : State) (tw o : Nat) (v : Word) : State :=
  if o < 0x40 then
    s.modLayer (8 * tw + o / 8) fun l => { l with lpwr := BitVec.ofNat 16 (fld v 0 16), duty := fld v 16 4, hold := bit v 20 }
  else if o = 0x40 then s.modTower tw fun t => { t with tpwr := fld v 0 16 }
  else if o = 0x48 then s.modTower tw fun t => { t with widle := fld v 0 32 }
  else if 0x80 ≤ o ∧ o < 0x180 then
    s.modLayer (8 * tw + (o - 0x80) / 32) fun l => { l with sres := l.sres.setIfInBounds (o % 32 / 8) v }
  else if 0x400 ≤ o ∧ o < 0x448 then s.modTower tw fun t => { t with counters := t.counters.setIfInBounds ((o - 0x400) / 8) v }
  else if 0x10000 ≤ o ∧ o < 0x50000 then
    let here (m : MCheck) : Bool := (m.seq - 1) % 4096 == (o - 0x10000) / 64
    s.modTower tw fun t => { t with mchecks := t.mchecks.map fun m => if here m then m.wordWrite (o % 64 / 8) v else m }
  else s

/-- The location that a local address of a cluster's log names. -/
def wordOfLocal (cl a : Nat) : Nat :=
  if 0x100000 ≤ a ∧ a < 0x900000 then clusterBase (cl / 20) (cl % 20) + (a - 0x100000) else layerAperture (cl / 20) + a

/-- A doubleword of the blocks that only firmware may write: a field takes the value, entries that are not there stay so (R372, log 56). -/
def State.firmwareWrite (s : State) (tw o : Nat) (v : Word) : State :=
  let onTower (f : Tower → Tower) : State := s.modTower tw f
  if o = 0x18 then onTower fun t => { t with otherPresent := bit v 1 }
  else if o = 0x1048 then onTower fun t => { t with fqtail := fld v 0 15 }
  else if 0x2000 ≤ o ∧ o < 0x3000 then s.harvestWrite tw (o - 0x2000) v
  else if 0x12000 ≤ o ∧ o < 0x12200 then
    s.modQueue tw ((o - 0x12000) / 8) fun q => { q with refs := fld v 8 16, cause := fld v 24 8, ovf := bit v 32 }
  else if 0x14000 ≤ o ∧ o < 0x14800 then onTower fun t => t.slotWrite ((o - 0x14000) / 8) v
  else if 0x15000 ≤ o ∧ o < 0x15500 then
    s.modCluster (160 * tw + (o - 0x15000) / 8) fun c => { c with log := c.log.take v.toNat }
  else if 0x20000 ≤ o ∧ o < 0x60000 then
    onTower fun t => { t with launches := amend t.launches ((o - 0x20000) / 64) fun l => l.entryWrite (o % 64 / 8) v }
  else if 0x60000 ≤ o ∧ o < 0x64000 then
    onTower fun t => { t with pools := amend t.pools ((o - 0x60000) / 32) fun p => p.entryWrite (o % 32 / 8) v }
  else if 0x80000 ≤ o ∧ o < 0x90000 then onTower fun t => { t with snap := putChunks t.snap [(o - 0x80000, leBytes 8 v.toNat)] }
  else if 0x100000 ≤ o ∧ o < 0x200000 then
    onTower fun t => { t with faults := amend t.faults ((o - 0x100000) / 32) fun r => r.wordWrite (o % 32 / 8) v }
  else if 0x200000 ≤ o ∧ o < 0x300000 then onTower fun t => { t with boot := t.boot.write (o - 0x200000) v }
  else if 0x300000 ≤ o ∧ o < 0x400000 then s.telemetryWrite tw (o - 0x300000) v
  else if 0x1000000 ≤ o ∧ o < 0x1A00000 then
    s.modCluster (160 * tw + (o - 0x1000000) / 65536) fun c =>
      { c with log := c.log.mapIdx fun i e =>
          if i ≠ o % 65536 / 16 then e
          else if o % 16 = 0 then { e with addr := wordOfLocal (160 * tw + (o - 0x1000000) / 65536) v.toNat }
          else { e with old := v } }
  else if 0x400000 ≤ o ∧ o < 0x800000 then onTower fun t => { t with maps := put t.maps (o - 0x400000) v }
  else s

/-- REGISTER_WRITE: an aligned 8-byte write to a tower's management window. Offsets that the window does not list ignore it, and so do
those that are RO for the host when the host writes (R9, R372). A stopped tower 0 leaves the host no link (R398). -/
def execRegisterWrite (tower : Nat) (firmware : Bool) (offset value : BitVec 64) (s : State) : Out :=
  let o := offset.toNat
  .next (
    if 2 ≤ tower ∨ o % 8 ≠ 0 ∨ (!firmware && !s.hostLink) then s
    else if stagingBase ≤ o ∧ o < stagingBase + 0x2000 then
      s.writeStaging tower ((o - stagingBase) / 128) ((o - stagingBase) % 128 / 8) value
    else if peerDescBase ≤ o ∧ o < peerDescBase + 512 then s.writePeer tower ((o - peerDescBase) / 8) value
    else if controlBase ≤ o ∧ o < controlBase + 0x1000 ∧ o ≠ 0x1048 then s.writeControl tower firmware (o - controlBase) value
    else if firmware then s.firmwareWrite tower o value
    else if statusBase ≤ o ∧ o < statusBase + 512 then
      s.modQueue tower ((o - statusBase) / 8) fun q => { q with ovf := q.ovf && !bit value 32 }
    else s)

end Sys2Proof.Machine
end

