-- ==== Sys2Proof/Machine/Dispatch.lean ====
section
/-!
DEFINITION. The dispatch from each instruction and each device step to its meaning: one arm per constructor.
-/
namespace Sys2Proof.Machine

/-- The meaning of an instruction or a device step in a state. -/
def exec (i : Instr) (s : State) : Host.Outcome State Fault Refusal :=
  match i with
  | .add rd rs1 rs2 => Sys2Proof.Machine.execAdd rd rs1 rs2 s
  | .sub rd rs1 rs2 => Sys2Proof.Machine.execSub rd rs1 rs2 s
  | .and rd rs1 rs2 => Sys2Proof.Machine.execAnd rd rs1 rs2 s
  | .or rd rs1 rs2 => Sys2Proof.Machine.execOr rd rs1 rs2 s
  | .xor rd rs1 rs2 => Sys2Proof.Machine.execXor rd rs1 rs2 s
  | .andn rd rs1 rs2 => Sys2Proof.Machine.execAndn rd rs1 rs2 s
  | .sll rd rs1 rs2 => Sys2Proof.Machine.execSll rd rs1 rs2 s
  | .srl rd rs1 rs2 => Sys2Proof.Machine.execSrl rd rs1 rs2 s
  | .sra rd rs1 rs2 => Sys2Proof.Machine.execSra rd rs1 rs2 s
  | .ror rd rs1 rs2 => Sys2Proof.Machine.execRor rd rs1 rs2 s
  | .slt rd rs1 rs2 => Sys2Proof.Machine.execSlt rd rs1 rs2 s
  | .sltu rd rs1 rs2 => Sys2Proof.Machine.execSltu rd rs1 rs2 s
  | .min rd rs1 rs2 => Sys2Proof.Machine.execMin rd rs1 rs2 s
  | .max rd rs1 rs2 => Sys2Proof.Machine.execMax rd rs1 rs2 s
  | .minu rd rs1 rs2 => Sys2Proof.Machine.execMinu rd rs1 rs2 s
  | .maxu rd rs1 rs2 => Sys2Proof.Machine.execMaxu rd rs1 rs2 s
  | .mul rd rs1 rs2 => Sys2Proof.Machine.execMul rd rs1 rs2 s
  | .mulh rd rs1 rs2 => Sys2Proof.Machine.execMulh rd rs1 rs2 s
  | .mulhu rd rs1 rs2 => Sys2Proof.Machine.execMulhu rd rs1 rs2 s
  | .mulhsu rd rs1 rs2 => Sys2Proof.Machine.execMulhsu rd rs1 rs2 s
  | .div rd rs1 rs2 => Sys2Proof.Machine.execDiv rd rs1 rs2 s
  | .divu rd rs1 rs2 => Sys2Proof.Machine.execDivu rd rs1 rs2 s
  | .rem rd rs1 rs2 => Sys2Proof.Machine.execRem rd rs1 rs2 s
  | .remu rd rs1 rs2 => Sys2Proof.Machine.execRemu rd rs1 rs2 s
  | .sh1add rd rs1 rs2 => Sys2Proof.Machine.execSh1add rd rs1 rs2 s
  | .sh2add rd rs1 rs2 => Sys2Proof.Machine.execSh2add rd rs1 rs2 s
  | .sh3add rd rs1 rs2 => Sys2Proof.Machine.execSh3add rd rs1 rs2 s
  | .clz rd rs1 => Sys2Proof.Machine.execClz rd rs1 s
  | .ctz rd rs1 => Sys2Proof.Machine.execCtz rd rs1 s
  | .cpop rd rs1 => Sys2Proof.Machine.execCpop rd rs1 s
  | .addi rd rs1 imm => Sys2Proof.Machine.execAddi rd rs1 imm s
  | .andi rd rs1 imm => Sys2Proof.Machine.execAndi rd rs1 imm s
  | .ori rd rs1 imm => Sys2Proof.Machine.execOri rd rs1 imm s
  | .xori rd rs1 imm => Sys2Proof.Machine.execXori rd rs1 imm s
  | .slti rd rs1 imm => Sys2Proof.Machine.execSlti rd rs1 imm s
  | .sltiu rd rs1 imm => Sys2Proof.Machine.execSltiu rd rs1 imm s
  | .slli rd rs1 sh => Sys2Proof.Machine.execSlli rd rs1 sh s
  | .srli rd rs1 sh => Sys2Proof.Machine.execSrli rd rs1 sh s
  | .srai rd rs1 sh => Sys2Proof.Machine.execSrai rd rs1 sh s
  | .rori rd rs1 sh => Sys2Proof.Machine.execRori rd rs1 sh s
  | .lih rd imm => Sys2Proof.Machine.execLih rd imm s
  | .addpc rd imm => Sys2Proof.Machine.execAddpc rd imm s
  | .fadd rd rs1 rs2 p => Sys2Proof.Machine.execFadd rd rs1 rs2 p s
  | .fsub rd rs1 rs2 p => Sys2Proof.Machine.execFsub rd rs1 rs2 p s
  | .fmul rd rs1 rs2 p => Sys2Proof.Machine.execFmul rd rs1 rs2 p s
  | .fdiv rd rs1 rs2 p => Sys2Proof.Machine.execFdiv rd rs1 rs2 p s
  | .fsqrt rd rs1 p => Sys2Proof.Machine.execFsqrt rd rs1 p s
  | .fmac rd rs1 rs2 p => Sys2Proof.Machine.execFmac rd rs1 rs2 p s
  | .fmin rd rs1 rs2 p => Sys2Proof.Machine.execFmin rd rs1 rs2 p s
  | .fmax rd rs1 rs2 p => Sys2Proof.Machine.execFmax rd rs1 rs2 p s
  | .feq rd rs1 rs2 p => Sys2Proof.Machine.execFeq rd rs1 rs2 p s
  | .flt rd rs1 rs2 p => Sys2Proof.Machine.execFlt rd rs1 rs2 p s
  | .fle rd rs1 rs2 p => Sys2Proof.Machine.execFle rd rs1 rs2 p s
  | .funord rd rs1 rs2 p => Sys2Proof.Machine.execFunord rd rs1 rs2 p s
  | .fclass rd rs1 p => Sys2Proof.Machine.execFclass rd rs1 p s
  | .fcvtI32 rd rs1 p => Sys2Proof.Machine.execFcvtI32 rd rs1 p s
  | .fcvtUi32 rd rs1 p => Sys2Proof.Machine.execFcvtUi32 rd rs1 p s
  | .fcvtI64 rd rs1 p => Sys2Proof.Machine.execFcvtI64 rd rs1 p s
  | .fcvtUi64 rd rs1 p => Sys2Proof.Machine.execFcvtUi64 rd rs1 p s
  | .fcvtFI64 rd rs1 p => Sys2Proof.Machine.execFcvtFI64 rd rs1 p s
  | .fcvtFUi64 rd rs1 p => Sys2Proof.Machine.execFcvtFUi64 rd rs1 p s
  | .fcvtFF rd rs1 p => Sys2Proof.Machine.execFcvtFF rd rs1 p s
  | .fsgnj rd rs1 rs2 p => Sys2Proof.Machine.execFsgnj rd rs1 rs2 p s
  | .fsgnjn rd rs1 rs2 p => Sys2Proof.Machine.execFsgnjn rd rs1 rs2 p s
  | .fsgnjx rd rs1 rs2 p => Sys2Proof.Machine.execFsgnjx rd rs1 rs2 p s
  | .faddi rd rs1 imm => Sys2Proof.Machine.execFaddi rd rs1 imm s
  | .fmuli rd rs1 imm => Sys2Proof.Machine.execFmuli rd rs1 imm s
  | .muli rd rs1 imm => Sys2Proof.Machine.execMuli rd rs1 imm s
  | .vsetvli rd rs1 imm => Sys2Proof.Machine.execVsetvli rd rs1 imm s
  | .ldb rd rs1 imm => Sys2Proof.Machine.execLdb rd rs1 imm s
  | .ldbu rd rs1 imm => Sys2Proof.Machine.execLdbu rd rs1 imm s
  | .ldh rd rs1 imm => Sys2Proof.Machine.execLdh rd rs1 imm s
  | .ldhu rd rs1 imm => Sys2Proof.Machine.execLdhu rd rs1 imm s
  | .ldw rd rs1 imm => Sys2Proof.Machine.execLdw rd rs1 imm s
  | .ldwu rd rs1 imm => Sys2Proof.Machine.execLdwu rd rs1 imm s
  | .ldd rd rs1 imm => Sys2Proof.Machine.execLdd rd rs1 imm s
  | .stb rd rs1 imm => Sys2Proof.Machine.execStb rd rs1 imm s
  | .sth rd rs1 imm => Sys2Proof.Machine.execSth rd rs1 imm s
  | .stw rd rs1 imm => Sys2Proof.Machine.execStw rd rs1 imm s
  | .std rd rs1 imm => Sys2Proof.Machine.execStd rd rs1 imm s
  | .beq rs1 rs2 off => Sys2Proof.Machine.execBeq rs1 rs2 off s
  | .bne rs1 rs2 off => Sys2Proof.Machine.execBne rs1 rs2 off s
  | .blt rs1 rs2 off => Sys2Proof.Machine.execBlt rs1 rs2 off s
  | .bge rs1 rs2 off => Sys2Proof.Machine.execBge rs1 rs2 off s
  | .bltu rs1 rs2 off => Sys2Proof.Machine.execBltu rs1 rs2 off s
  | .bgeu rs1 rs2 off => Sys2Proof.Machine.execBgeu rs1 rs2 off s
  | .jal rd off => Sys2Proof.Machine.execJal rd off s
  | .jalr rd rs1 imm => Sys2Proof.Machine.execJalr rd rs1 imm s
  | .subbnz rd rs off => Sys2Proof.Machine.execSubbnz rd rs off s
  | .strip rd rs1 mask4 => Sys2Proof.Machine.execStrip rd rs1 mask4 s
  | .csrrw rd rs1 csr => Sys2Proof.Machine.execCsrrw rd rs1 csr s
  | .csrrs rd rs1 csr => Sys2Proof.Machine.execCsrrs rd rs1 csr s
  | .csrrc rd rs1 csr => Sys2Proof.Machine.execCsrrc rd rs1 csr s
  | .csrrwi rd zimm csr => Sys2Proof.Machine.execCsrrwi rd zimm csr s
  | .csrrsi rd zimm csr => Sys2Proof.Machine.execCsrrsi rd zimm csr s
  | .csrrci rd zimm csr => Sys2Proof.Machine.execCsrrci rd zimm csr s
  | .trap code => Sys2Proof.Machine.execTrap code s
  | .tret => Sys2Proof.Machine.execTret s
  | .csave rs1 rs2 => Sys2Proof.Machine.execCsave rs1 rs2 s
  | .crestore rs1 => Sys2Proof.Machine.execCrestore rs1 s
  | .tdiscard => Sys2Proof.Machine.execTdiscard s
  | .tfail => Sys2Proof.Machine.execTfail s
  | .aadd rd rs1 rs2 scope ord w => Sys2Proof.Machine.execAadd rd rs1 rs2 scope ord w s
  | .aand rd rs1 rs2 scope ord w => Sys2Proof.Machine.execAand rd rs1 rs2 scope ord w s
  | .aor rd rs1 rs2 scope ord w => Sys2Proof.Machine.execAor rd rs1 rs2 scope ord w s
  | .axor rd rs1 rs2 scope ord w => Sys2Proof.Machine.execAxor rd rs1 rs2 scope ord w s
  | .amin rd rs1 rs2 scope ord w => Sys2Proof.Machine.execAmin rd rs1 rs2 scope ord w s
  | .amax rd rs1 rs2 scope ord w => Sys2Proof.Machine.execAmax rd rs1 rs2 scope ord w s
  | .aminu rd rs1 rs2 scope ord w => Sys2Proof.Machine.execAminu rd rs1 rs2 scope ord w s
  | .amaxu rd rs1 rs2 scope ord w => Sys2Proof.Machine.execAmaxu rd rs1 rs2 scope ord w s
  | .aswap rd rs1 rs2 scope ord w => Sys2Proof.Machine.execAswap rd rs1 rs2 scope ord w s
  | .acas rd rs1 rs2 scope ord w => Sys2Proof.Machine.execAcas rd rs1 rs2 scope ord w s
  | .afadd rd rs1 rs2 scope ord w => Sys2Proof.Machine.execAfadd rd rs1 rs2 scope ord w s
  | .fence ord scope => Sys2Proof.Machine.execFence ord scope s
  | .sbar mask => Sys2Proof.Machine.execSbar mask s
  | .waita rd rs1 rs2 t => Sys2Proof.Machine.execWaita rd rs1 rs2 t s
  | .barr rd rs1 => Sys2Proof.Machine.execBarr rd rs1 s
  | .bwait rd rs1 rs2 t => Sys2Proof.Machine.execBwait rd rs1 rs2 t s
  | .bjoin rs1 => Sys2Proof.Machine.execBjoin rs1 s
  | .bleave rs1 => Sys2Proof.Machine.execBleave rs1 s
  | .pqpush rd rs1 rs2 => Sys2Proof.Machine.execPqpush rd rs1 rs2 s
  | .pqpop rd rs1 rs2 => Sys2Proof.Machine.execPqpop rd rs1 rs2 s
  | .spawn rs1 rs2 => Sys2Proof.Machine.execSpawn rs1 rs2 s
  | .tcommit => Sys2Proof.Machine.execTcommit s
  | .kill rd rs1 all => Sys2Proof.Machine.execKill rd rs1 all s
  | .wqry rs1 => Sys2Proof.Machine.execWqry rs1 s
  | .doneTask => Sys2Proof.Machine.execDoneTask s
  | .yield => Sys2Proof.Machine.execYield s
  | .joinw rd rs1 => Sys2Proof.Machine.execJoinw rd rs1 s
  | .ckmark rl rs1 rs2 id => Sys2Proof.Machine.execCkmark rl rs1 rs2 id s
  | .ckroll u id => Sys2Proof.Machine.execCkroll u id s
  | .ckcommit u id => Sys2Proof.Machine.execCkcommit u id s
  | .ckstat rd id => Sys2Proof.Machine.execCkstat rd id s
  | .gslot rd rs1 => Sys2Proof.Machine.execGslot rd rs1 s
  | .grel rd rs1 => Sys2Proof.Machine.execGrel rd rs1 s
  | .gst rs1 rs2 sz => Sys2Proof.Machine.execGst rs1 rs2 sz s
  | .gamo rd rs1 rs2 op => Sys2Proof.Machine.execGamo rd rs1 rs2 op s
  | .gframe rd => Sys2Proof.Machine.execGframe rd s
  | .vsetvl rd rs1 rs2 => Sys2Proof.Machine.execVsetvl rd rs1 rs2 s
  | .vlmaxq rd rs2 => Sys2Proof.Machine.execVlmaxq rd rs2 s
  | .vaddVv vd vs1 vs2 vm k1 k2 => Sys2Proof.Machine.execVaddVv vd vs1 vs2 vm k1 k2 s
  | .vaddVx vd vs1 rs2 vm k1 k2 => Sys2Proof.Machine.execVaddVx vd vs1 rs2 vm k1 k2 s
  | .vaddVi vd vs1 imm5 vm k1 k2 => Sys2Proof.Machine.execVaddVi vd vs1 imm5 vm k1 k2 s
  | .vsubVv vd vs1 vs2 vm k1 k2 => Sys2Proof.Machine.execVsubVv vd vs1 vs2 vm k1 k2 s
  | .vsubVx vd vs1 rs2 vm k1 k2 => Sys2Proof.Machine.execVsubVx vd vs1 rs2 vm k1 k2 s
  | .vrsubVi vd vs1 imm5 vm k1 k2 => Sys2Proof.Machine.execVrsubVi vd vs1 imm5 vm k1 k2 s
  | .vandVv vd vs1 vs2 vm k1 k2 => Sys2Proof.Machine.execVandVv vd vs1 vs2 vm k1 k2 s
  | .vandVx vd vs1 rs2 vm k1 k2 => Sys2Proof.Machine.execVandVx vd vs1 rs2 vm k1 k2 s
  | .vorVv vd vs1 vs2 vm k1 k2 => Sys2Proof.Machine.execVorVv vd vs1 vs2 vm k1 k2 s
  | .vorVx vd vs1 rs2 vm k1 k2 => Sys2Proof.Machine.execVorVx vd vs1 rs2 vm k1 k2 s
  | .vxorVv vd vs1 vs2 vm k1 k2 => Sys2Proof.Machine.execVxorVv vd vs1 vs2 vm k1 k2 s
  | .vxorVx vd vs1 rs2 vm k1 k2 => Sys2Proof.Machine.execVxorVx vd vs1 rs2 vm k1 k2 s
  | .vxorVi vd vs1 imm5 vm k1 k2 => Sys2Proof.Machine.execVxorVi vd vs1 imm5 vm k1 k2 s
  | .vsllVv vd vs1 vs2 vm k1 k2 => Sys2Proof.Machine.execVsllVv vd vs1 vs2 vm k1 k2 s
  | .vsllVi vd vs1 imm5 vm k1 k2 => Sys2Proof.Machine.execVsllVi vd vs1 imm5 vm k1 k2 s
  | .vsrVv vd vs1 vs2 vm k1 k2 => Sys2Proof.Machine.execVsrVv vd vs1 vs2 vm k1 k2 s
  | .vsrVi vd vs1 imm5 vm k1 k2 => Sys2Proof.Machine.execVsrVi vd vs1 imm5 vm k1 k2 s
  | .vminVv vd vs1 vs2 vm k1 k2 => Sys2Proof.Machine.execVminVv vd vs1 vs2 vm k1 k2 s
  | .vminVx vd vs1 rs2 vm k1 k2 => Sys2Proof.Machine.execVminVx vd vs1 rs2 vm k1 k2 s
  | .vmaxVv vd vs1 vs2 vm k1 k2 => Sys2Proof.Machine.execVmaxVv vd vs1 vs2 vm k1 k2 s
  | .vmaxVx vd vs1 rs2 vm k1 k2 => Sys2Proof.Machine.execVmaxVx vd vs1 rs2 vm k1 k2 s
  | .vmulVv vd vs1 vs2 vm k1 k2 => Sys2Proof.Machine.execVmulVv vd vs1 vs2 vm k1 k2 s
  | .vmulVx vd vs1 rs2 vm k1 k2 => Sys2Proof.Machine.execVmulVx vd vs1 rs2 vm k1 k2 s
  | .vmulhVv vd vs1 vs2 vm k1 k2 => Sys2Proof.Machine.execVmulhVv vd vs1 vs2 vm k1 k2 s
  | .vmaccVv vd vs1 vs2 vm k1 k2 => Sys2Proof.Machine.execVmaccVv vd vs1 vs2 vm k1 k2 s
  | .vmaccVx vd vs1 rs2 vm k1 k2 => Sys2Proof.Machine.execVmaccVx vd vs1 rs2 vm k1 k2 s
  | .vsaddVv vd vs1 vs2 vm k1 k2 => Sys2Proof.Machine.execVsaddVv vd vs1 vs2 vm k1 k2 s
  | .vssubVv vd vs1 vs2 vm k1 k2 => Sys2Proof.Machine.execVssubVv vd vs1 vs2 vm k1 k2 s
  | .vmergeVv vd vs1 vs2 vm k1 k2 => Sys2Proof.Machine.execVmergeVv vd vs1 vs2 vm k1 k2 s
  | .vmvVx vd rs2 vm k1 k2 => Sys2Proof.Machine.execVmvVx vd rs2 vm k1 k2 s
  | .vmvVi vd imm5 vm k1 k2 => Sys2Proof.Machine.execVmvVi vd imm5 vm k1 k2 s
  | .vfaddVv vd vs1 vs2 vm x k1 k2 => Sys2Proof.Machine.execVfaddVv vd vs1 vs2 vm x k1 k2 s
  | .vfaddVx vd vs1 rs2 vm x k1 k2 => Sys2Proof.Machine.execVfaddVx vd vs1 rs2 vm x k1 k2 s
  | .vfsubVv vd vs1 vs2 vm x k1 k2 => Sys2Proof.Machine.execVfsubVv vd vs1 vs2 vm x k1 k2 s
  | .vfsubVx vd vs1 rs2 vm x k1 k2 => Sys2Proof.Machine.execVfsubVx vd vs1 rs2 vm x k1 k2 s
  | .vfrsubVx vd vs1 rs2 vm x k1 k2 => Sys2Proof.Machine.execVfrsubVx vd vs1 rs2 vm x k1 k2 s
  | .vfmulVv vd vs1 vs2 vm x k1 k2 => Sys2Proof.Machine.execVfmulVv vd vs1 vs2 vm x k1 k2 s
  | .vfmulVx vd vs1 rs2 vm x k1 k2 => Sys2Proof.Machine.execVfmulVx vd vs1 rs2 vm x k1 k2 s
  | .vfdivVv vd vs1 vs2 vm x k1 k2 => Sys2Proof.Machine.execVfdivVv vd vs1 vs2 vm x k1 k2 s
  | .vfdivVx vd vs1 rs2 vm x k1 k2 => Sys2Proof.Machine.execVfdivVx vd vs1 rs2 vm x k1 k2 s
  | .vfsqrt vd vs1 vm x k1 => Sys2Proof.Machine.execVfsqrt vd vs1 vm x k1 s
  | .vfmaccVv vd vs1 vs2 vm x k1 k2 => Sys2Proof.Machine.execVfmaccVv vd vs1 vs2 vm x k1 k2 s
  | .vfmaccVx vd vs1 rs2 vm x k1 k2 => Sys2Proof.Machine.execVfmaccVx vd vs1 rs2 vm x k1 k2 s
  | .vfnmsacVv vd vs1 vs2 vm x k1 k2 => Sys2Proof.Machine.execVfnmsacVv vd vs1 vs2 vm x k1 k2 s
  | .vfnmsacVx vd vs1 rs2 vm x k1 k2 => Sys2Proof.Machine.execVfnmsacVx vd vs1 rs2 vm x k1 k2 s
  | .vfminVv vd vs1 vs2 vm x k1 k2 => Sys2Proof.Machine.execVfminVv vd vs1 vs2 vm x k1 k2 s
  | .vfminVx vd vs1 rs2 vm x k1 k2 => Sys2Proof.Machine.execVfminVx vd vs1 rs2 vm x k1 k2 s
  | .vfmaxVv vd vs1 vs2 vm x k1 k2 => Sys2Proof.Machine.execVfmaxVv vd vs1 vs2 vm x k1 k2 s
  | .vfmaxVx vd vs1 rs2 vm x k1 k2 => Sys2Proof.Machine.execVfmaxVx vd vs1 rs2 vm x k1 k2 s
  | .vfsgnjVv vd vs1 vs2 vm k1 k2 => Sys2Proof.Machine.execVfsgnjVv vd vs1 vs2 vm k1 k2 s
  | .vfsgnjnVv vd vs1 vs2 vm k1 k2 => Sys2Proof.Machine.execVfsgnjnVv vd vs1 vs2 vm k1 k2 s
  | .vfsgnjxVv vd vs1 vs2 vm k1 k2 => Sys2Proof.Machine.execVfsgnjxVv vd vs1 vs2 vm k1 k2 s
  | .vfrec vd vs1 vm x k1 => Sys2Proof.Machine.execVfrec vd vs1 vm x k1 s
  | .vfrsqrt vd vs1 vm x k1 => Sys2Proof.Machine.execVfrsqrt vd vs1 vm x k1 s
  | .vfexp2 vd vs1 vm x k1 => Sys2Proof.Machine.execVfexp2 vd vs1 vm x k1 s
  | .vfcvtI vd vs1 vm x k1 => Sys2Proof.Machine.execVfcvtI vd vs1 vm x k1 s
  | .vfcvtUi vd vs1 vm x k1 => Sys2Proof.Machine.execVfcvtUi vd vs1 vm x k1 s
  | .vfcvtFi vd vs1 vm x k1 => Sys2Proof.Machine.execVfcvtFi vd vs1 vm x k1 s
  | .vfcvtFui vd vs1 vm x k1 => Sys2Proof.Machine.execVfcvtFui vd vs1 vm x k1 s
  | .vfcvtRint vd vs1 vm x k1 => Sys2Proof.Machine.execVfcvtRint vd vs1 vm x k1 s
  | .vfclass vd vs1 vm k1 => Sys2Proof.Machine.execVfclass vd vs1 vm k1 s
  | .vslupVi vd vs1 n vm k1 k2 => Sys2Proof.Machine.execVslupVi vd vs1 n vm k1 k2 s
  | .vsldnVi vd vs1 n vm k1 k2 => Sys2Proof.Machine.execVsldnVi vd vs1 n vm k1 k2 s
  | .vrgathVv vd vs1 vs2 vm k1 k2 => Sys2Proof.Machine.execVrgathVv vd vs1 vs2 vm k1 k2 s
  | .vcompress vd vs1 vm k1 => Sys2Proof.Machine.execVcompress vd vs1 vm k1 s
  | .vexpand vd vs1 vm k1 => Sys2Proof.Machine.execVexpand vd vs1 vm k1 s
  | .viota vd ms vm => Sys2Proof.Machine.execViota vd ms vm s
  | .vid vd vm => Sys2Proof.Machine.execVid vd vm s
  | .vmvVv vd vs1 vm k1 => Sys2Proof.Machine.execVmvVv vd vs1 vm k1 s
  | .vextx rd vs1 rs2 k1 k2 => Sys2Proof.Machine.execVextx rd vs1 rs2 k1 k2 s
  | .vinsx vd rs1 rs2 k1 k2 => Sys2Proof.Machine.execVinsx vd rs1 rs2 k1 k2 s
  | .vredsum vd vs1 vs2 vm k1 k2 => Sys2Proof.Machine.execVredsum vd vs1 vs2 vm k1 k2 s
  | .vredosum vd vs1 vs2 vm k1 k2 => Sys2Proof.Machine.execVredosum vd vs1 vs2 vm k1 k2 s
  | .vredmin vd vs1 vs2 vm k1 k2 => Sys2Proof.Machine.execVredmin vd vs1 vs2 vm k1 k2 s
  | .vredmax vd vs1 vs2 vm k1 k2 => Sys2Proof.Machine.execVredmax vd vs1 vs2 vm k1 k2 s
  | .vredand vd vs1 vs2 vm k1 k2 => Sys2Proof.Machine.execVredand vd vs1 vs2 vm k1 k2 s
  | .vredor vd vs1 vs2 vm k1 k2 => Sys2Proof.Machine.execVredor vd vs1 vs2 vm k1 k2 s
  | .vredxor vd vs1 vs2 vm k1 k2 => Sys2Proof.Machine.execVredxor vd vs1 vs2 vm k1 k2 s
  | .vamax vd vs1 vs2 vm k1 k2 => Sys2Proof.Machine.execVamax vd vs1 vs2 vm k1 k2 s
  | .vmseqVv md vs1 vs2 vm k1 k2 => Sys2Proof.Machine.execVmseqVv md vs1 vs2 vm k1 k2 s
  | .vmsneVv md vs1 vs2 vm k1 k2 => Sys2Proof.Machine.execVmsneVv md vs1 vs2 vm k1 k2 s
  | .vmsltVv md vs1 vs2 vm k1 k2 => Sys2Proof.Machine.execVmsltVv md vs1 vs2 vm k1 k2 s
  | .vmsleVv md vs1 vs2 vm k1 k2 => Sys2Proof.Machine.execVmsleVv md vs1 vs2 vm k1 k2 s
  | .vmseqVx md vs1 rs2 vm k1 k2 => Sys2Proof.Machine.execVmseqVx md vs1 rs2 vm k1 k2 s
  | .vmsneVx md vs1 rs2 vm k1 k2 => Sys2Proof.Machine.execVmsneVx md vs1 rs2 vm k1 k2 s
  | .vmsltVx md vs1 rs2 vm k1 k2 => Sys2Proof.Machine.execVmsltVx md vs1 rs2 vm k1 k2 s
  | .vmsleVx md vs1 rs2 vm k1 k2 => Sys2Proof.Machine.execVmsleVx md vs1 rs2 vm k1 k2 s
  | .vmsgtVx md vs1 rs2 vm k1 k2 => Sys2Proof.Machine.execVmsgtVx md vs1 rs2 vm k1 k2 s
  | .vmsgeVx md vs1 rs2 vm k1 k2 => Sys2Proof.Machine.execVmsgeVx md vs1 rs2 vm k1 k2 s
  | .vmand md ms1 ms2 => Sys2Proof.Machine.execVmand md ms1 ms2 s
  | .vmor md ms1 ms2 => Sys2Proof.Machine.execVmor md ms1 ms2 s
  | .vmxor md ms1 ms2 => Sys2Proof.Machine.execVmxor md ms1 ms2 s
  | .vmandn md ms1 ms2 => Sys2Proof.Machine.execVmandn md ms1 ms2 s
  | .vmpop rd ms vm => Sys2Proof.Machine.execVmpop rd ms vm s
  | .vmfirst rd ms vm => Sys2Proof.Machine.execVmfirst rd ms vm s
  | .vhaar vd vs1 lev k1 k2 => Sys2Proof.Machine.execVhaar vd vs1 lev k1 k2 s
  | .vihaar vd vs1 k1 => Sys2Proof.Machine.execVihaar vd vs1 k1 s
  | .thset hd rs1 rs2 k1 k2 => Sys2Proof.Machine.execThset hd rs1 rs2 k1 k2 s
  | .thget rd hs n k2 => Sys2Proof.Machine.execThget rd hs n k2 s
  | .dtagr rd vs1 k1 => Sys2Proof.Machine.execDtagr rd vs1 k1 s
  | .dtagw vd rs1 k1 => Sys2Proof.Machine.execDtagw vd rs1 k1 s
  | .dtagmk md rs1 k1 => Sys2Proof.Machine.execDtagmk md rs1 k1 s
  | .dtagma md vs1 k1 => Sys2Proof.Machine.execDtagma md vs1 k1 s
  | .vld vd rs1 qn vm stream fmt => Sys2Proof.Machine.execVld vd rs1 qn vm stream fmt s
  | .vst vd rs1 qn vm stream fmt => Sys2Proof.Machine.execVst vd rs1 qn vm stream fmt s
  | .vlds vd rs1 rs2 vm stream fmt => Sys2Proof.Machine.execVlds vd rs1 rs2 vm stream fmt s
  | .vsts vd rs1 rs2 vm stream fmt => Sys2Proof.Machine.execVsts vd rs1 rs2 vm stream fmt s
  | .vldx vd rs1 vs2 vm stream fmt => Sys2Proof.Machine.execVldx vd rs1 vs2 vm stream fmt s
  | .vstx vd rs1 vs2 vm stream fmt => Sys2Proof.Machine.execVstx vd rs1 vs2 vm stream fmt s
  | .vamoadd vd rs1 vs2 vm stream ord => Sys2Proof.Machine.execVamoadd vd rs1 vs2 vm stream ord s
  | .vamoand vd rs1 vs2 vm stream ord => Sys2Proof.Machine.execVamoand vd rs1 vs2 vm stream ord s
  | .vamoor vd rs1 vs2 vm stream ord => Sys2Proof.Machine.execVamoor vd rs1 vs2 vm stream ord s
  | .vamoxor vd rs1 vs2 vm stream ord => Sys2Proof.Machine.execVamoxor vd rs1 vs2 vm stream ord s
  | .vamomin vd rs1 vs2 vm stream ord => Sys2Proof.Machine.execVamomin vd rs1 vs2 vm stream ord s
  | .vamomax vd rs1 vs2 vm stream ord => Sys2Proof.Machine.execVamomax vd rs1 vs2 vm stream ord s
  | .vamoswp vd rs1 vs2 vm stream ord => Sys2Proof.Machine.execVamoswp vd rs1 vs2 vm stream ord s
  | .vldq vd rs1 stream => Sys2Proof.Machine.execVldq vd rs1 stream s
  | .vldff vd rs1 vm stream fmt => Sys2Proof.Machine.execVldff vd rs1 vm stream fmt s
  | .vstw vd rs1 lev stream fmt => Sys2Proof.Machine.execVstw vd rs1 lev stream fmt s
  | .vldw vd rs1 lev stream fmt => Sys2Proof.Machine.execVldw vd rs1 lev stream fmt s
  | .opr acc vs1 vs2 rm ty z => Sys2Proof.Machine.execOpr acc vs1 vs2 rm ty z s
  | .opl acc pair rm g z => Sys2Proof.Machine.execOpl acc pair rm g z s
  | .tzero acc rm => Sys2Proof.Machine.execTzero acc rm s
  | .tmovv acc col rs1 vd ty => Sys2Proof.Machine.execTmovv acc col rs1 vd ty s
  | .tamax acc col vd rm => Sys2Proof.Machine.execTamax acc col vd rm s
  | .scalex qd vs1 fmt rm half => Sys2Proof.Machine.execScalex qd vs1 fmt rm half s
  | .trel unit kind => Sys2Proof.Machine.execTrel unit kind s
  | .thaar acc lev => Sys2Proof.Machine.execThaar acc lev s
  | .tihaar acc => Sys2Proof.Machine.execTihaar acc s
  | .opld qs latch rs1 rs2 lf depth sc => Sys2Proof.Machine.execOpld qs latch rs1 rs2 lf depth sc s
  | .opldx pitch rs1 vs2 lf latch sc => Sys2Proof.Machine.execOpldx pitch rs1 vs2 lf latch sc s
  | .tld acc qs rs1 rs2 rm ty sc => Sys2Proof.Machine.execTld acc qs rs1 rs2 rm ty sc s
  | .tst acc qs rs1 rs2 rm ty sc => Sys2Proof.Machine.execTst acc qs rs1 rs2 rm ty sc s
  | .tsave unit kind rs1 => Sys2Proof.Machine.execTsave unit kind rs1 s
  | .trestore unit kind rs1 => Sys2Proof.Machine.execTrestore unit kind rs1 s
  | .tstw acc hn rs1 lev ty sc => Sys2Proof.Machine.execTstw acc hn rs1 lev ty sc s
  | .tldw acc rs1 => Sys2Proof.Machine.execTldw acc rs1 s
  | .cpy rdst rsrc rlen queue wm => Sys2Proof.Machine.execCpy rdst rsrc rlen queue wm s
  | .cpyt rdst rsrc vlay queue nofill wm => Sys2Proof.Machine.execCpyt rdst rsrc vlay queue nofill wm s
  | .gath rdst rsrc vidx queue wm => Sys2Proof.Machine.execGath rdst rsrc vidx queue wm s
  | .scat rdst rsrc vidx queue wm => Sys2Proof.Machine.execScat rdst rsrc vidx queue wm s
  | .qfence rs queue => Sys2Proof.Machine.execQfence rs queue s
  | .csig raddr rval rbar queue => Sys2Proof.Machine.execCsig raddr rval rbar queue s
  | .cchk cont rseed rexp queue verify kind => Sys2Proof.Machine.execCchk cont rseed rexp queue verify kind s
  | .cxf rscale rdesc queue => Sys2Proof.Machine.execCxf rscale rdesc queue s
  | .cfill rsrc queue => Sys2Proof.Machine.execCfill rsrc queue s
  | .crow rsrc rpitch queue => Sys2Proof.Machine.execCrow rsrc rpitch queue s
  | .cqst rd queue clr => Sys2Proof.Machine.execCqst rd queue clr s
  | .hostEnqueue tower queue last => Sys2Proof.Machine.execHostEnqueue tower queue last s
  | .launchAccept tower => Sys2Proof.Machine.execLaunchAccept tower s
  | .forwardedRecordArrival tower => Sys2Proof.Machine.execForwardedRecordArrival tower s
  | .taskDispatch tower => Sys2Proof.Machine.execTaskDispatch tower s
  | .loaderBind core obj entry level => Sys2Proof.Machine.execLoaderBind core obj entry level s
  | .taskRecordArrival core => Sys2Proof.Machine.execTaskRecordArrival core s
  | .channelBind core => Sys2Proof.Machine.execChannelBind core s
  | .preemptDelayExpiry tower queue => Sys2Proof.Machine.execPreemptDelayExpiry tower queue s
  | .supervisorMessageArrival core msg => Sys2Proof.Machine.execSupervisorMessageArrival core msg s
  | .supervisorMessageTake core => Sys2Proof.Machine.execSupervisorMessageTake core s
  | .resumeSend tower index core slot => Sys2Proof.Machine.execResumeSend tower index core slot s
  | .taskRetire core slot => Sys2Proof.Machine.execTaskRetire core slot s
  | .killDone core slot => Sys2Proof.Machine.execKillDone core slot s
  | .tileZeroDone core unit => Sys2Proof.Machine.execTileZeroDone core unit s
  | .sliceStart core => Sys2Proof.Machine.execSliceStart core s
  | .sliceRetire core => Sys2Proof.Machine.execSliceRetire core s
  | .engineAccept core slot => Sys2Proof.Machine.execEngineAccept core slot s
  | .engineTransfer cluster queue index count => Sys2Proof.Machine.execEngineTransfer cluster queue index count s
  | .engineComplete cluster queue => Sys2Proof.Machine.execEngineComplete cluster queue s
  | .qfenceComplete cluster queue => Sys2Proof.Machine.execQfenceComplete cluster queue s
  | .geyserSlot tower => Sys2Proof.Machine.execGeyserSlot tower s
  | .waitaWake core slot => Sys2Proof.Machine.execWaitaWake core slot s
  | .waitaTimeout core slot => Sys2Proof.Machine.execWaitaTimeout core slot s
  | .bwaitWake core slot => Sys2Proof.Machine.execBwaitWake core slot s
  | .bwaitTimeout core slot => Sys2Proof.Machine.execBwaitTimeout core slot s
  | .joinwWake core slot => Sys2Proof.Machine.execJoinwWake core slot s
  | .yieldEnd core slot => Sys2Proof.Machine.execYieldEnd core slot s
  | .wqryAnswer tower => Sys2Proof.Machine.execWqryAnswer tower s
  | .watchdogExpire core slot cycles => Sys2Proof.Machine.execWatchdogExpire core slot cycles s
  | .faultRecordWrite tower => Sys2Proof.Machine.execFaultRecordWrite tower s
  | .fqansWrite tower value => Sys2Proof.Machine.execFqansWrite tower value s
  | .fqheadWrite tower value => Sys2Proof.Machine.execFqheadWrite tower value s
  | .tinvWrite tower value => Sys2Proof.Machine.execTinvWrite tower value s
  | .tinvComplete tower => Sys2Proof.Machine.execTinvComplete tower s
  | .keyLoad tower value => Sys2Proof.Machine.execKeyLoad tower value s
  | .keyErase tower value => Sys2Proof.Machine.execKeyErase tower value s
  | .keyOperationDone tower => Sys2Proof.Machine.execKeyOperationDone tower s
  | .lfrzWrite tower value => Sys2Proof.Machine.execLfrzWrite tower value s
  | .snapshotGo tower value => Sys2Proof.Machine.execSnapshotGo tower value s
  | .snapshotDone tower => Sys2Proof.Machine.execSnapshotDone tower s
  | .lrstWrite tower value => Sys2Proof.Machine.execLrstWrite tower value s
  | .bretryWrite tower value => Sys2Proof.Machine.execBretryWrite tower value s
  | .codeHeapWrite tower value => Sys2Proof.Machine.execCodeHeapWrite tower value s
  | .oclaimWrite core slot value => Sys2Proof.Machine.execOclaimWrite core slot value s
  | .einjWrite core value => Sys2Proof.Machine.execEinjWrite core value s
  | .bkeyWrite core value => Sys2Proof.Machine.execBkeyWrite core value s
  | .wmWrite core slot channel value => Sys2Proof.Machine.execWmWrite core slot channel value s
  | .lpartWrite core value => Sys2Proof.Machine.execLpartWrite core value s
  | .ownerWrite core latches value => Sys2Proof.Machine.execOwnerWrite core latches value s
  | .registerWrite tower firmware offset value => Sys2Proof.Machine.execRegisterWrite tower firmware offset value s
  | .autumnEntry layer => Sys2Proof.Machine.execAutumnEntry layer s
  | .winterEntry layer => Sys2Proof.Machine.execWinterEntry layer s
  | .powerUpDone layer => Sys2Proof.Machine.execPowerUpDone layer s
  | .springEnd layer => Sys2Proof.Machine.execSpringEnd layer s
  | .replicaResyncEnd layer => Sys2Proof.Machine.execReplicaResyncEnd layer s
  | .powerManagerTick tower estimates => Sys2Proof.Machine.execPowerManagerTick tower estimates s
  | .hostMemAccess address data length atomic => Sys2Proof.Machine.execHostMemAccess address data length atomic s
  | .hostApertureAccess offset data length => Sys2Proof.Machine.execHostApertureAccess offset data length s
  | .translationRequest core slot => Sys2Proof.Machine.execTranslationRequest core slot s
  | .translationReply tower reply place => Sys2Proof.Machine.execTranslationReply tower reply place s
  | .objectAdmit tower image => Sys2Proof.Machine.execObjectAdmit tower image s
  | .packageReset => Sys2Proof.Machine.execPackageReset s
  | .towerReset tower => Sys2Proof.Machine.execTowerReset tower s
  | .bootStep tower ok time => Sys2Proof.Machine.execBootStep tower ok time s
  | .ualinkPortDown tower port => Sys2Proof.Machine.execUalinkPortDown tower port s
  | .nonInstructionWord word => Sys2Proof.Machine.execNonInstructionWord word s
  | .ualinkPeerAccess address kind operand expected => Sys2Proof.Machine.execUalinkPeerAccess address kind operand expected s
  | .ualinkPortUp tower port => Sys2Proof.Machine.execUalinkPortUp tower port s
  | .firmwareMailboxRequest tower kind value => Sys2Proof.Machine.execFirmwareMailboxRequest tower kind value s
  | .fclrWrite tower => Sys2Proof.Machine.execFclrWrite tower s

end Sys2Proof.Machine
end

