-- ==== Sys2Proof/Machine/Upsets.lean ====
section
/-!
DEFINITION. Errors that storage suffers by itself, and what the part makes of each (R65, R402 to R404). A memory error is found, and
corrected or recorded, in the step in which it appears (log 61); an error of a register stays until an instruction reads
the register.
-/
namespace Sys2Proof.Machine

/-- The number of registers of a kind of R301, their words that are checked one by one, and the bits of such a word (R45 to R52,
R65). -/
def storageOf : Nat → Nat × Nat × Nat
  | 0 => (32, 32, 32)
  | 1 => (8, 32, 32)
  | 2 => (36, 1, 64)
  | 3 => (0x140, 1, 64)
  | 4 => (8, 1024, 32)
  | 5 => (4, 32, 64)
  | 6 => (16, 8, 64)
  | 7 => (4, 2, 64)
  | _ => (0, 0, 0)

/-- The mark names a bit of a register's storage: x0 and m0 have none; x28 to x31 of the S bank are 32 to 35 (log 47). -/
def RegMark.stored (e : RegMark) : Bool :=
  let (n, words, bits) := storageOf e.ref.kind
  decide (e.ref.num < n ∧ e.word < words ∧ e.bit < bits) &&
    !((e.ref.kind == 1 || e.ref.kind == 2) && e.ref.num == 0)

/-- The memory under SECDED or ECC that holds bytes by itself: HBM, Onsen, scratchpads (R402). -/
def correctable (a : Nat) : Bool :=
  match physKind a with
  | .hbm | .onsen _ | .cluster _ | .priv _ => true
  | _ => false

/-- The part has the storage that an error names. -/
def Upset.present : Upset → Bool
  | .register n k e => decide (n < coreCount ∧ k < 4) && e.stored && e.ref.kind != 4 && e.ref.kind != 5
  | .unit n e => decide (n < coreCount) && e.stored && (e.ref.kind == 4 || e.ref.kind == 5)
  | .memory a _ => correctable a
  | .replica gl off _ => decide (gl < 16 ∧ off < regionSize)
  | .mirror t off _ => decide (t < 2 ∧ off < regionSize)
  | .caldera t off _ => decide (t < 2 ∧ off < 0x100000000) && physKind (mirrorBase t - regionOff + off) == .unmapped

/-- A flipped bit joins the marks, or undoes an earlier flip of the same bit. -/
def flipMark (es : List RegMark) (e : RegMark) : List RegMark := if es.contains e then es.filter (· ≠ e) else e :: es

/-- SRC of a machine check of a memory location (R403). -/
def memorySrc (a : Nat) : Nat :=
  match physKind a with
  | .hbm => 4
  | .onsen _ => 3
  | _ => 2

/-- An uncorrectable memory error poisons its unit (R402). -/
def State.poisonAt (s : State) (a : Nat) : State :=
  let u := a / poisonUnit a * poisonUnit a
  if s.poison.contains u then s else { s with poison := u :: s.poison }

/-- What the part makes of an error (R65, R402 to R404): corrected ones are counted; an uncorrectable one is recorded by a machine
check with its physical address, and poisons its unit, marks the replica stale, or poisons the region. A layer without power
holds no replica. -/
def State.upset (s : State) : Upset → State
  | .register n k e =>
    match e.ref.home n with
    | some h => s.modCore h fun c => { c with unitErr := flipMark c.unitErr e }
    | none => s.modThread n k fun t => { t with regErr := flipMark t.regErr e }
  | .unit n e => s.modCore n fun c => { c with unitErr := flipMark c.unitErr e }
  | .memory a bad =>
    let tw := (homeTower a).getD 0
    if bad then (s.poisonAt a).machineCheck tw (memorySrc a) 0 0 (BitVec.ofNat 64 a) 0 0 else s.count tw 2
  | .replica gl off bad =>
    let a := layerAperture gl + regionOff + off
    if !bad then s.count (gl / 8) 2
    else match (s.layer gl).season with
      | .summer | .autumn =>
        (s.modLayer gl fun l => { l with stale := true }).machineCheck (gl / 8) 5 0 0 (BitVec.ofNat 64 a) 0 0
      | _ => s
  | .mirror t off bad =>
    if bad then (s.modTower t fun w => { w with regionPoison := true }).machineCheck t 6 0 0 (BitVec.ofNat 64 (mirrorBase t + off)) 0 0
    else s.count t 2
  | .caldera t off bad =>
    if bad then s.machineCheck t 7 0 0 (BitVec.ofNat 64 (mirrorBase t - regionOff + off)) 0 0 else s.count t 2

end Sys2Proof.Machine
end

