-- ==== Sys2Proof/Machine/Select.lean ====
section
/-!
DEFINITION. The instruction of a thread attempted, with the waits that run it again (R24), and the thread that a core picks for a
class (R23).
-/
namespace Sys2Proof.Machine

/-- An outcome leaves the thread that ran waiting for its instruction to run again (R24). -/
def stalls (n k : Nat) : Host.Outcome State Fault Refusal → Bool
  | .next t => (t.thread n k).wait == .stalled
  | _ => false

/-- The effect of an instruction of the current thread. One that stalls has not issued: no thread and no layer sees it (R24). -/
noncomputable def attempt (i : Instr) (s : State) : Host.Outcome State Fault Refusal :=
  if stalls s.cur s.curSlot (exec i s.beginIssue) then exec i s else exec i s.beginIssue

/-- A slot that waits for its instruction to run again regains readiness when the instruction would no longer stall (R24). -/
noncomputable def State.stillStalled (s : State) (n k : Nat) : Bool :=
  (s.thread n k).wait == .stalled &&
    match s.turnover n k with
    | .word w =>
      (match decodeWord w with
       | .instr i => stalls n k (exec i (s.as n k))
       | .reject _ => false)
    | _ => false

/-- The threads of a core that are ready for a class, of those whose operands are available. -/
noncomputable def State.readyFor (s : State) (n : Nat) (c : IssueClass) (available : List Nat) : List Nat :=
  (List.range 4).filter fun k => available.contains k && (s.turnover n k).inClass c && !s.stillStalled n k

/-- The thread that a core picks for a class (R23): one ready for 64 cycles or more, the one ready longest and then the lowest slot;
else, of the highest thread priority among the ready, the one after the slot that issued last in the class at that
priority. With none yet the search starts at slot 0, the model's choice (log 1). -/
noncomputable def State.pick (s : State) (n : Nat) (c : IssueClass) (available : List Nat) : Option Nat :=
  let ks := s.readyFor n c available
  let since (k : Nat) : Nat := (s.readySince n c k).getD 0
  match ks.filter (s.overdue n c) with
  | k :: old => some (old.foldl (fun b j => if since j < since b then j else b) k)
  | [] =>
    let top := (ks.map fun k => (s.thread n k).prio).foldl max 0
    nextAfter ((s.core n).lastIssued.getD (issueIndex c top) none) (ks.filter fun k => (s.thread n k).prio == top)

end Sys2Proof.Machine
end

