-- ==== Sys2Proof/Machine/Step.lean ====
section
/-!
DEFINITION. One step of the part: the next turn of the schedule, a thread's issue or a device step; and the state in which a
given instruction is the next one to issue.
-/
namespace Sys2Proof.Machine

/-- The current thread's turn. -/
noncomputable def issue (s : State) : Host.Outcome State Fault Refusal :=
  match s.turnover s.cur s.curSlot with
  | .idle => .next s
  | .watchdog c => .next (s.beginIssue.watchdogTrap c)
  | .overlay => .next s.beginIssue.overlayTrap
  | .word w =>
    match decodeWord w with
    | .instr i => attempt i s
    | .reject _ => exec (.nonInstructionWord w) s.beginIssue

/-- A core's turn for one class: the thread that R23 picks issues. The schedule says which slots have their operands available, since
no latency is modelled; two turns of one core for its two classes may stand for one cycle (log 1). -/
noncomputable def portTurn (n : Nat) (c : IssueClass) (available : List Nat) (s : State) : Host.Outcome State Fault Refusal :=
  let s1 := s.noteReady n c (s.readyFor n c available)
  match s.pick n c available with
  | some k => issue (s1.as n k)
  | none => .next s1

/-- One step: the counter of steps advances; the schedule's next turn happens. With none left the current thread issues, the one
slot whose operands are available. A turn of a core, or of an instruction word as a device step, that the part does not have is a
fault. -/
noncomputable def step (s : State) : Host.Outcome State Fault Refusal :=
  match s.agenda with
  | [] => issue s.tick
  | .port n c available :: rest =>
    if n < coreCount then portTurn n c available { s.tick with agenda := rest } else .fault .noSuchAgent
  | .upset u :: rest =>
    if u.present then .next ({ s.tick with agenda := rest }.upset u) else .fault .noSuchAgent
  | .event i :: rest =>
    if i.schedulable then exec i { s.tick with agenda := rest } else .fault .noSuchAgent

/-- The instruction's word stored where the current thread fetches next, with no turn scheduled and its layer running. A free
slot holds a task, with every lane group granted; PC and XB change only when PC is not below XB. This stands for the load of a
program (log 24). -/
def State.withFetchWord (s : State) (nbits w : Nat) : State :=
  let n := s.cur
  let k := s.curSlot.val
  let t := s.me
  let below := decide (t.pc.toNat + 4 ≤ s.myCore.xb.toNat)
  let pc := if below then t.pc else 0
  let s1 := { s with agenda := [] }.modLayer (layerOf n) fun l =>
    match l.season with | .inReset | .winter => { l with season := .summer } | _ => l
  let s2 := s1.modCore n fun c =>
    { c with xb := if below then c.xb else 0x1000
             lpart := if t.occ = .free then lpBind (s.groupMask n) c.lpart k 4 else c.lpart }
  (s2.putMe { t with occ := if t.occ = .free then .task else t.occ, pc := pc, wait := .none, watchdog := none }).setBytes
    (privBase n + pc.toNat) (leBytes 4 (w % 2 ^ nbits))

end Sys2Proof.Machine
end

