-- ==== Sys2Proof/Safety.lean ====
section
/-!
DEFINITION. What counts as a safe state and a safe run, and the relations between the states before and after an instruction in
which claims are stated.
-/
namespace Sys2Proof.Machine

/-- Every turn of a schedule names a core of the part, a device step, or storage that the part has. -/
def Turn.valid : Turn → Bool
  | .port n _ _ => decide (n < coreCount)
  | .event i => i.schedulable
  | .upset u => u.present

/-- A domain tag as it reads: reserved bits 0, a spatial tag 0 (R47). -/
def tagLegal (g : Word) : Bool := fld g 4 28 == 0 && (bit g 0 || g == 0)

/-- The registers of a thread read as the specification says whatever was written: FCSR.RM a rounding mode and its reserved bits 0
(R54), VTYPE a legal image or VILL alone (R55), tags as R47 says. -/
def Thread.legal (t : Thread) : Bool :=
  decide (fld t.fcsr 0 3 ≤ 4) && fld t.fcsr 16 48 == 0 &&
    (t.vtype == villImage || vtypeLegal t.vtype && fld t.vtype 12 52 == 0) && t.vtag.all tagLegal

/-- A state is well formed: memory is in canonical form, every thread's registers read as the specification says, the schedule names
only what the part has, the current core exists. -/
def State.wf (s : State) : Bool :=
  Memory.wf s.mem && s.cores.all (fun p => p.2.threads.all Thread.legal) && s.agenda.all Turn.valid && decide (s.cur < coreCount)

/-- A step does not stop the machine. -/
def State.advances (s : State) : Prop := ∃ t, step s = .next t

/-- A run of n steps that never stops. -/
def State.safeFor : Nat → State → Prop
  | 0, _ => True
  | n + 1, s => ∃ t, step s = .next t ∧ t.safeFor n

/-- The current thread issues in this step: no turn is scheduled before it, its slot holds a context that waits for nothing or whose
instruction runs again, its layer runs, no snapshot holds its core, its word does not wait for slices of its own, and no watchdog trap is pending (R24, R136, R144,
R169, R296, R306, R375). -/
def State.ready (s : State) : Prop :=
  s.agenda = [] ∧ (s.layer (layerOf s.cur)).season ≠ .inReset ∧ (s.layer (layerOf s.cur)).season ≠ .winter ∧
    s.me.occ ≠ .free ∧ (s.me.wait = .none ∨ s.me.wait = .stalled) ∧ s.snapshotHolds s.cur = false ∧
    s.heldBySlices s.cur s.curSlot (if s.myCore.xb ≤ s.me.pc then 0 else s.wordAt s.cur s.me.pc) = false ∧ s.me.watchdog = none

/-! ### Frames -/

/-- Beside the list of cores nothing of the state differs: memory, clusters, layers, towers, keys, the host's view. -/
def State.coresOnly (s t : State) : Prop := { t with cores := s.cores } = s

/-- Only the thread whose turn it is differs: no other core, no other slot, no register of the core itself. -/
def State.onlyMe (s t : State) : Prop :=
  s.coresOnly t ∧ (∀ n, n ≠ s.cur → t.core n = s.core n) ∧
    (∀ k : Fin 4, k ≠ s.curSlot → t.thread s.cur k = s.thread s.cur k) ∧
    { t.myCore with threads := s.myCore.threads } = s.myCore

/-- The instruction retired and the thread goes on at an address, its watchdog counter counting anew (R24, R130, R306). -/
def State.wentTo (s t : State) (target : Word) : Prop :=
  t.me.pc = target ∧ t.me.cameFrom = s.me.pc ∧ t.me.retired = s.me.retired + 1 ∧ t.me.wait = .none ∧
    t.me.counted = 0 ∧ t.me.since = some s.steps

/-- Scalar register rd took v, x0 discarding it, and every other scalar register of both banks kept its value (R45, R298). -/
def State.tookX (s t : State) (rd : BitVec 5) (v : Word) : Prop :=
  t.x rd = (if rd = 0 then 0 else v) ∧ (∀ r, r ≠ rd → t.x r = s.x r) ∧
    (s.me.level = .T → t.me.sx = s.me.sx) ∧
    (s.me.level = .S → ∀ r : Nat, 28 ≤ r → t.me.x.getD r 0 = s.me.x.getD r 0)

/-- Beside scalar registers, the place in the program and the counts, the thread kept everything: flags, vector, mask, scale and
threshold registers, every CSR and trap register; no register error arose. -/
def Thread.keptRest (u t : Thread) : Prop :=
  { t with x := u.x, sx := u.sx, regErr := u.regErr, pc := u.pc, cameFrom := u.cameFrom, retired := u.retired, wait := u.wait
           counted := u.counted, since := u.since } = u ∧ ∀ e ∈ t.regErr, e ∈ u.regErr

/-- The instruction wrote v to rd and did nothing else. -/
def State.wrote (s t : State) (rd : BitVec 5) (v : Word) : Prop :=
  s.onlyMe t ∧ s.tookX t rd v ∧ s.wentTo t (s.me.pc + 4) ∧ s.me.keptRest t.me

/-- The instruction only moved the thread on to an address. -/
def State.moved (s t : State) (target : Word) : Prop :=
  s.onlyMe t ∧ (∀ r, t.x r = s.x r) ∧ s.wentTo t target ∧
    { t.me with pc := s.me.pc, cameFrom := s.me.cameFrom, retired := s.me.retired, wait := s.me.wait, counted := s.me.counted
                since := s.me.since } = s.me

/-- Executing i writes v to rd and nothing else. -/
def State.gives (s : State) (i : Instr) (rd : BitVec 5) (v : Word) : Prop := ∃ t, exec i s = .next t ∧ s.wrote t rd v

/-- Executing i moves the thread to an address and does nothing else. -/
def State.goes (s : State) (i : Instr) (target : Word) : Prop := ∃ t, exec i s = .next t ∧ s.moved t target

/-- The instruction stalls: it runs again at a later turn of the thread, and nothing else happened (R24). -/
def State.stalled (s t : State) : Prop := s.onlyMe t ∧ t.me = { s.me with wait := .stalled }

/-- Executing i stalls. -/
def State.waits (s : State) (i : Instr) : Prop := ∃ t, exec i s = .next t ∧ s.stalled t

/-- Executing i has the given next state. -/
def State.becomes (s : State) (i : Instr) (t : State) : Prop := exec i s = .next t

/-- Beside the thread whose turn it is only flag summaries differ: flags fl joined those of its cluster and its layer (R58). -/
def State.outside (s t : State) (fl : Flags) : Prop :=
  (∀ n k : Nat, k < 4 → ¬(n = s.cur ∧ k = s.curSlot) → t.thread n k = s.thread n k) ∧
    (∀ n, { t.core n with threads := (s.core n).threads } = s.core n) ∧
    (∀ n, t.cluster n =
      if n = clusterOf s.cur then { s.cluster n with cflags := (s.cluster n).cflags ||| (zx fl <<< 3) } else s.cluster n) ∧
    (∀ n, t.layer n =
      if n = layerOf s.cur then { s.layer n with lflags := (s.layer n).lflags ||| (zx fl <<< 3) } else s.layer n) ∧
    { t with cores := s.cores, clusters := s.clusters, layers := s.layers } = s

/-- Flags fl joined FCSR and the summaries of the cluster and the layer; nothing else differs (R54, R58). -/
def State.raisedOnly (s t : State) (fl : Flags) : Prop :=
  t.me = { s.me with fcsr := s.me.fcsr ||| (zx fl <<< 3) } ∧ s.outside t fl

/-! ### Traps -/

/-- The current thread, at level T, took a trap and nothing else happened (R297, R299, R301): the trap registers hold the cause,
the address of the instruction and the values, the level is S and PC the entry address. -/
def State.trapped (s t : State) (tr : Trap) : Prop :=
  s.onlyMe t ∧ t.me.level = .S ∧ t.me.pc = (if tr.cause = 9 then s.myCore.ovh else s.myCore.evec) ∧
    t.me.ecause = BitVec.ofNat 64 tr.cause ∧ t.me.epc = s.me.pc ∧ t.me.eval = tr.eval ∧ t.me.eval2 = tr.eval2 ∧
    t.me.estat = estatOf tr (s.me.occ = .task && !s.me.post) ∧ t.me.watchdog = none ∧
    { t.me with level := s.me.level, pc := s.me.pc, cameFrom := s.me.cameFrom, wait := s.me.wait, ecause := s.me.ecause
                epc := s.me.epc, eval := s.me.eval, eval2 := s.me.eval2, estat := s.me.estat
                watchdog := s.me.watchdog } = s.me

/-- The current thread, at level S, met a second fault of a cause, and nothing else happened (R300): it stops, to be retired as faulted, its
trap registers keep their values, and the tower logs a machine check with the cause. -/
def State.doubleFaulted (s t : State) (cause : Nat) : Prop :=
  t.me = { s.me with wait := .retiring .faulted none } ∧
    (∀ n k : Nat, k < 4 → ¬(n = s.cur ∧ k = s.curSlot) → t.thread n k = s.thread n k) ∧
    (∀ n, { t.core n with threads := (s.core n).threads } = s.core n) ∧
    ∃ m, t.myTower = { s.myTower with mseq := s.myTower.mseq + 1, mchecks := (m :: s.myTower.mchecks).take 4096 } ∧ m.src = 8 ∧
      (s.me.pc.toNat < 2 ^ 56 → fld m.aux 56 8 = cause) ∧
      (∀ n, n ≠ towerOf s.cur → t.tower n = s.tower n) ∧ t.msix = (2, s.steps) :: s.msix ∧
      { t with cores := s.cores, towers := s.towers, msix := s.msix } = s

/-- Executing i ends with a failed check, in the state s1 that its checks leave: a trap at level T, a double fault at level S. -/
def State.failsAs (s : State) (i : Instr) (s1 : State) (tr : Trap) : Prop :=
  (s.me.level = .T → ∃ t, exec i s = .next t ∧ s1.trapped t tr) ∧
    (s.me.level = .S → ∃ t, exec i s = .next t ∧ s1.doubleFaulted t tr.cause)

/-- Executing i takes a trap and does nothing else. -/
def State.traps (s : State) (i : Instr) (tr : Trap) : Prop := ∃ t, exec i s = .next t ∧ s.trapped t tr

/-- Executing a scalar floating-point form i: its flags are set; when none of them is enabled v is written to rd, else the trap of cause
0x0C is taken with the enabled flags raised and rd unwritten (R126). -/
def State.givesFp (s : State) (i : Instr) (rd : BitVec 5) (v : Nat) (fl : Flags) : Prop :=
  ∃ u t, s.raisedOnly u fl ∧ exec i s = .next t ∧
    (enabled s.me.fcsr fl = 0 → u.wrote t rd (BitVec.ofNat 64 v)) ∧
    (s.me.level = .T → enabled s.me.fcsr fl ≠ 0 →
      u.trapped t { cause := 0xC, eval2 := BitVec.ofNat 64 (enabled s.me.fcsr fl) })

/-! ### Memory -/

/-- Every byte outside [a, a + n) reads as before under a key. -/
def State.sameOutside (s t : State) (key : KeyVal) (a n : Nat) : Prop :=
  ∀ b, ¬(a ≤ b ∧ b < a + n) → t.byteKey key b = s.byteKey key b

/-- Memory, its poison and its keys are as before. -/
def State.sameMemory (s t : State) : Prop :=
  t.mem = s.mem ∧ t.fresh = s.fresh ∧ t.poison = s.poison ∧ t.blockKey = s.blockKey ∧ t.keys = s.keys ∧ t.key0 = s.key0

/-- The accesses of a list of elements pass their checks one after another: their places, and the state that the checks leave. -/
def State.passes (use : Use) (n strm : Nat) (allow : Window → Bool) (ea : Nat → Word) : List Nat → State → List Place → State → Prop
  | [], s, ps, t => ps = [] ∧ t = s
  | i :: r, s, ps, t => ∃ p qs s1, ps = p :: qs ∧ s.check (ea i) n use strm allow = (.val p, s1) ∧
      s1.passes use n strm allow ea r qs t

/-- The stores of a list of elements pass their checks and are made one after another: their places, and the state they leave. `half`
names the half of its byte that an element of four bits takes. -/
def State.stored (n strm : Nat) (ea : Nat → Word) (bs : Nat → Nat → List Byte) (half : Nat → Option Nat) :
    List Nat → State → List (Nat × Nat) → List Place → State → Prop
  | [], s, _, ps, t => ps = [] ∧ t = s
  | i :: r, s, done, ps, t => ∃ p qs s1 s2 d, ps = p :: qs ∧ s.check (ea i) n .store strm storeWindows = (.val p, s1) ∧
      s1.storePart p (bs i (s1.loaded p n)) done (half i) = .inl (s2, d) ∧ s2.stored n strm ea bs half r d qs t

/-- No poison in the part, and no watermark for the thread to meet (R258, R402). -/
def State.calm (s : State) : Prop :=
  s.poison = [] ∧ ∀ c : Fin 8, (∀ e ∈ s.myCluster.queues[c], e.wm = false) ∧ s.me.rewound[c] = none

/-- The thread's launch is neither captured nor replayed (R406, R408). -/
def State.uncaptured (s : State) : Prop :=
  ∀ i l, s.me.task = some i → look s.myTower.launches i.launch = some l → l.capture = none

/-- A byte address of the own core's private scratchpad at or above XB, of its cluster scratchpad or of its layer's Onsen: where it is
held (R220). -/
def State.localAt (s : State) (a : Nat) : Option Nat :=
  if s.myCore.xb.toNat ≤ a ∧ a < 0x80000 then some (privBase s.cur + a)
  else if 0x100000 ≤ a ∧ a < 0x900000 then some (clusterBase (layerOf s.cur) (cluIdx s.cur) + (a - 0x100000))
  else if 0x10000000 ≤ a ∧ a < 0x30000000 then some (layerAperture (layerOf s.cur) + a)
  else none

/-- No register of the current thread, no tile, latch or CSR of its core, and no CSR that its cluster, layer or tower holds has an error
(R65). -/
def State.sound (s : State) : Prop :=
  s.me.regErr = [] ∧ s.myCore.unitErr = [] ∧ ∀ n ∈ [0x050, 0x051, 0x061], s.marksOf ⟨3, n⟩ = []

/-! ### Vectors -/

/-- A vector instruction may start: no register error, legal registers (as every step keeps them), VILL clear, a lane grant (R28,
R55). -/
def State.vecReady (s : State) : Prop := s.sound ∧ s.me.legal = true ∧ vill s.me.vtype = false ∧ s.lanes ≠ 0

/-- Element i is processed: in the body and, under a governing mask, active (R141). -/
def VCtx.ran (c : VCtx) (u : Thread) (vm : BitVec 3) (govern : Bool) (i : Nat) : Bool :=
  decide (c.estart ≤ i ∧ i < c.vl) && (!govern || c.active u vm i)

/-- The flags of the processed elements. -/
def VCtx.flagsOf (c : VCtx) (u : Thread) (vm : BitVec 3) (govern : Bool) (f : Nat → Nat × Flags) : Flags :=
  (List.range c.vl).foldl (fun a i => if c.ran u vm govern i then a ||| (f i).2 else a) 0

/-- An element of the destination afterwards: the tail under TA, the prestart unchanged, the processed elements their results, the
others under MA (R141). -/
def VCtx.elemAfter (c : VCtx) (u : Thread) (vd : BitVec 5) (vm : BitVec 3) (govern : Bool) (f : Nat → Nat × Flags) (e : Nat) : Nat :=
  if c.vl ≤ e then (if c.ta then 0 else c.get u vd e)
  else if e < c.estart then c.get u vd e
  else if c.ran u vm govern e then (f e).1 % 2 ^ c.sew
  else if c.ma then 0 else c.get u vd e

/-- Vector registers beside a destination group: marked ones are released, zero, spatial and no longer live, the others keep contents
and tag; the group is live and holds one tag, with every lane position beyond the thread's lanes as before (R47, R64, R141). -/
def Thread.othersKept (u t : Thread) (lanes : Nat) (dst marked : List Nat) (g : Word) : Prop :=
  ∀ r : Fin 32,
    if r.val ∈ dst then
      t.vtag[r] = g ∧ bit t.vlive r = true ∧ ∀ i, 32 * lanes ≤ i → bit t.v[r] i = bit u.v[r] i
    else if r.val ∈ marked then t.v[r] = 0 ∧ t.vtag[r] = 0 ∧ bit t.vlive r = false
    else t.v[r] = u.v[r] ∧ t.vtag[r] = u.vtag[r] ∧ bit t.vlive r = bit u.vlive r

/-- Beside vector, mask and flag registers the thread only moved on, with ESTART 0: scalar, scale and threshold registers, every other
CSR and every trap register kept their values. -/
def Thread.vecRest (u t : Thread) : Prop :=
  t.pc = u.pc + 4 ∧ t.cameFrom = u.pc ∧ t.retired = u.retired + 1 ∧ t.wait = .none ∧ t.estart = 0 ∧ t.restart = none ∧
    t.counted = 0 ∧
    { t with v := u.v, vtag := u.vtag, vlive := u.vlive, m := u.m, mlive := u.mlive, fcsr := u.fcsr, pc := u.pc, wait := u.wait
             cameFrom := u.cameFrom, retired := u.retired, estart := u.estart, restart := u.restart, counted := u.counted
             since := u.since } = u

/-- A vector instruction with a vector destination did what R141 says: f gives the result and flags of each processed element; X writes
capture bits into m7 (R151); g is the destination's tag; marked sources are released (R64). Nothing else happened. -/
def State.vecDone (s t : State) (c : VCtx) (vd : BitVec 5) (vm : BitVec 3) (govern x : Bool) (g : Word) (marked : List Nat)
    (f : Nat → Nat × Flags) : Prop :=
  (∀ e < c.vlmax, c.get t.me vd e = c.elemAfter s.me vd vm govern f e) ∧
    s.me.othersKept t.me c.lanes (c.group vd) marked g ∧
    (∀ q : Fin 8, ∀ i < 1024, q ≠ 7 ∨ x = false ∨ 32 * c.lanes ≤ i → bit t.me.m[q] i = bit s.me.m[q] i) ∧
    (x = true → ∀ i < 32 * c.lanes, t.me.maskBit c.lanes 7 i =
      if c.ran s.me vm govern i then decide (fld (f i).2 0 5 ≠ 0) else s.me.maskBit c.lanes 7 i) ∧
    (∀ q : Fin 8, bit t.me.mlive q = (bit s.me.mlive q || (x && q == 7 && (List.range c.vl).any fun i => c.ran s.me vm govern i))) ∧
    t.me.fcsr = s.me.fcsr ||| (zx (c.flagsOf s.me vm govern f) <<< 3) ∧ s.me.vecRest t.me ∧
    s.outside t (c.flagsOf s.me vm govern f)

/-- Executing i has that effect, unless a processed element raises an enabled flag. -/
def State.doesVec (s : State) (i : Instr) (c : VCtx) (vd : BitVec 5) (vm : BitVec 3) (govern x : Bool) (g : Word)
    (marked : List Nat) (f : Nat → Nat × Flags) : Prop :=
  (∀ e, c.ran s.me vm govern e = true → enabled s.me.fcsr (f e).2 = 0) →
    ∃ t, exec i s = .next t ∧ s.vecDone t c vd vm govern x g marked f

/-- A vector instruction with a mask destination did what R141 says: f gives the bit and flags of each active element. -/
def State.maskDone (s t : State) (c : VCtx) (md : BitVec 5) (vm : BitVec 3) (marked : List Nat) (f : Nat → Bool × Flags) : Prop :=
  let n (i : Nat) : Nat × Flags := (if (f i).1 then 1 else 0, (f i).2)
  (∀ e < 32 * c.lanes, t.me.maskBit c.lanes md.toNat e =
    if c.vl ≤ e then !c.ta && s.me.maskBit c.lanes md.toNat e
    else if e < c.estart then s.me.maskBit c.lanes md.toNat e
    else if c.ran s.me vm true e then (f e).1
    else !c.ma && s.me.maskBit c.lanes md.toNat e) ∧
    s.me.othersKept t.me c.lanes [] marked 0 ∧
    (∀ q : Fin 8, ∀ i < 1024, q.val ≠ md.toNat ∨ 32 * c.lanes ≤ i → bit t.me.m[q] i = bit s.me.m[q] i) ∧
    (∀ q : Fin 8, bit t.me.mlive q = (bit s.me.mlive q || q.val == md.toNat)) ∧
    t.me.fcsr = s.me.fcsr ||| (zx (c.flagsOf s.me vm true n) <<< 3) ∧ s.me.vecRest t.me ∧ s.outside t (c.flagsOf s.me vm true n)

/-- Executing i has that effect, unless an active element raises an enabled flag. -/
def State.doesMask (s : State) (i : Instr) (c : VCtx) (md : BitVec 5) (vm : BitVec 3) (marked : List Nat)
    (f : Nat → Bool × Flags) : Prop :=
  (∀ e, c.ran s.me vm true e = true → enabled s.me.fcsr (f e).2 = 0) →
    ∃ t, exec i s = .next t ∧ s.maskDone t c md vm marked f

/-- A vector instruction wrote v to scalar register rd and released its marked sources, and did nothing else. -/
def State.vecGives (s : State) (i : Instr) (rd : BitVec 5) (v : Word) (marked : List Nat) : Prop :=
  ∃ t, exec i s = .next t ∧ s.onlyMe t ∧ s.tookX t rd v ∧ s.wentTo t (s.me.pc + 4) ∧ s.me.othersKept t.me 32 [] marked 0 ∧
    { t.me with x := s.me.x, sx := s.me.sx, v := s.me.v, vtag := s.me.vtag, vlive := s.me.vlive, pc := s.me.pc, wait := s.me.wait
                cameFrom := s.me.cameFrom, retired := s.me.retired, estart := s.me.estart, restart := s.me.restart
                counted := s.me.counted, since := s.me.since } = s.me ∧
    t.me.estart = 0

/-- The registers a K bit marks. -/
def VCtx.mark (c : VCtx) (v : BitVec 5) (k : BitVec 1) : List Nat := if k = 1 then c.group v else []

/-- The exact value v × 2^e. -/
def FVal.is (x : FVal) (v e : Int) : Prop :=
  ∃ neg m, ∃ k : Nat, x = .fin neg m (e + k) false ∧ v = (if neg then -1 else 1) * m * 2 ^ k

/-- A column form wrote elements 0 to 31 of its destination group, raising the flags of each, and left the elements above as they were
(R202). -/
def State.columnDone (s t : State) (c : VCtx) (vd : BitVec 5) (g : Word) (marked : List Nat) (f : Nat → Nat × Flags) : Prop :=
  let fl : Flags := (List.range 32).foldl (fun a i => a ||| (f i).2) 0
  (∀ e < c.vlmax, c.get t.me vd e = if e < 32 then (f e).1 % 2 ^ c.sew else c.get s.me vd e) ∧
    s.me.othersKept t.me c.lanes (c.group vd) marked g ∧ t.me.m = s.me.m ∧ t.me.mlive = s.me.mlive ∧
    t.me.fcsr = s.me.fcsr ||| (zx fl <<< 3) ∧ s.me.vecRest t.me ∧ s.outside t fl

/-! ### The array -/

/-- A matrix form may issue: no register error, the core has the array, the thread holds lanes (R102). -/
def State.armed (s : State) : Prop := s.sound ∧ s.clsOf s.cur ≤ 1 ∧ s.lanes ≠ 0

/-- Only the core whose turn it is differs, and of its threads only the current one. -/
def State.inCore (s t : State) : Prop :=
  s.coresOnly t ∧ (∀ n, n ≠ s.cur → t.core n = s.core n) ∧ ∀ k : Fin 4, k ≠ s.curSlot → t.thread s.cur k = s.thread s.cur k

/-- A slice form placed its slices in the queue and its thread waits for them, or waits for room in the queue of 16, which holds the slices
that no pipe has taken; without any slice from SSTART on it retired. TST leaves the tile as it is (R166 to R168, R175, R193). -/
def State.queued (s t : State) (acc : Nat) (op : SliceOp) (tag : Word) (rows : List Nat) (data : Nat → List Nat) : Prop :=
  let count := (rows.length + 7) / 8
  let start := s.me.sstart.toNat
  s.inCore t ∧
    if start < count ∧ 16 < (s.myCore.slices.filter fun x => !x.started).length + (count - start) then s.stalled t
    else if start < count then
      let at_ (q : Nat) : Nat := (s.myCore.latch.getD q {}).filled - (s.myCore.latch.getD q {}).depth
      let ks := match op with | .opl la lb _ _ _ => (at_ la, at_ lb) | _ => (0, 0)
      { t.myCore with threads := s.myCore.threads, slices := s.myCore.slices } = s.myCore ∧ t.me = { s.me with wait := .slices } ∧
      t.myCore.slices = s.myCore.slices ++ ((List.range count).drop start).map fun n =>
        { slot := s.curSlot, acc := acc, op := op, num := n, rows := (rows.drop (8 * n)).take 8, last := n + 1 == count, tag := tag
          data := ((rows.drop (8 * n)).take 8).map data, ka := ks.1, kb := ks.2, level := s.me.level }
    else
      { t.myCore with threads := s.myCore.threads, ttag := s.myCore.ttag, latch := s.myCore.latch, unitErr := s.myCore.unitErr } =
        s.myCore ∧
      (match op with
       | .tst _ _ _ _ _ => t.myCore.ttag = s.myCore.ttag ∧ t.myCore.unitErr = s.myCore.unitErr
       | _ => t.myCore.ttag = s.myCore.ttag.set! acc tag ∧
           t.myCore.unitErr = s.myCore.unitErr.filter fun e => e.ref != ⟨3, 0x010 + acc⟩) ∧
      (∀ q : Fin 4, t.myCore.latch[q] = match op with
        | .opl la lb n d _ =>
          if q.val = la ∨ q.val = lb then { s.myCore.latch[q] with depth := s.myCore.latch[q].depth - n * d } else s.myCore.latch[q]
        | _ => s.myCore.latch[q]) ∧
      t.me = { s.me with sstart := 0, pc := s.me.pc + 4, cameFrom := s.me.pc, retired := s.me.retired + 1, wait := .none
                         counted := 0, since := some s.steps }

/-- A whole form on the array retired: beside the thread's vector registers, scale registers and flags only SSTART became 0 and the thread
moved on (R193). -/
def Thread.wholeRest (u t : Thread) : Prop :=
  t.pc = u.pc + 4 ∧ t.cameFrom = u.pc ∧ t.retired = u.retired + 1 ∧ t.wait = .none ∧ t.sstart = 0 ∧ t.counted = 0 ∧
    { t with v := u.v, vtag := u.vtag, vlive := u.vlive, q := u.q, fcsr := u.fcsr, sstart := u.sstart, pc := u.pc, wait := u.wait
             cameFrom := u.cameFrom, retired := u.retired, counted := u.counted, since := u.since } = u

/-! ### Number formats -/

/-- The value of a DS8 code in units of 1/64: its two terms (R71). -/
def ds8Sum (b : Nat) : Int :=
  let term (neg : Bool) (k : Nat) : Int := if k = 7 then 0 else (if neg then -1 else 1) * 2 ^ (6 - k)
  term (b.testBit 7) (b / 16 % 8) + term (b.testBit 3) (b % 8)

/-- The magnitude of an unsigned pattern of a format in units of its smallest subnormal, the exponents going on beyond its largest finite
value (R69, R79). -/
def Fmt.units (f : Fmt) (b : Nat) : Nat :=
  let e := b / 2 ^ f.mb
  (if e = 0 then b else 2 ^ f.mb + b % 2 ^ f.mb) * 2 ^ (max e 1 - 1)

/-! ### Synchronisation -/

/-- Beside n bytes at a physical address only the current thread differs. -/
def State.changed (s t : State) (a n : Nat) : Prop :=
  (∀ b, ¬(a ≤ b ∧ b < a + n) → t.byte b = s.byte b) ∧
    s.onlyMe { t with mem := s.mem, fresh := s.fresh, poison := s.poison, blockKey := s.blockKey }

/-- The instruction wrote v to rd and only n bytes at a physical address beside. -/
def State.stores (s t : State) (a n : Nat) (rd : BitVec 5) (v : Word) : Prop :=
  s.changed t a n ∧ s.tookX t rd v ∧ s.wentTo t (s.me.pc + 4) ∧ s.me.keptRest t.me

/-- Beside its current thread and its tower the state is as before; of the tower, what a function of it says. -/
def State.inTower (s t : State) (f : Tower → Tower) : Prop :=
  t.myTower = f s.myTower ∧ (∀ n, n ≠ towerOf s.cur → t.tower n = s.tower n) ∧ s.onlyMe { t with towers := s.towers }

/-! ### Lahar -/

/-- A join object of an address space has its place at p while its page tables stand: whatever the object's own block of memory comes to
hold, each of its words is found there (R37, R38, R384). The place takes writes, and has power (R296, R362). -/
def State.joinAt (s : State) (tw asn : Nat) (a : Word) (p : Place) : Prop :=
  s.poison = [] ∧ Memory.wf s.mem = true ∧ p.addr % 32 = 0 ∧ p.ro = false ∧
    (∀ l, sramLayer p.addr = some l → l.2 = false ∧ ((s.layer l.1).season = .summer ∨ (s.layer l.1).season = .autumn)) ∧
    ∀ t : State, t.poison = [] → t.keys = s.keys → t.key0 = s.key0 → t.pkg = s.pkg →
      (∀ n, (t.tower n).asd = (s.tower n).asd ∧ (t.tower n).peers = (s.tower n).peers ∧ (t.tower n).ports = (s.tower n).ports ∧
        t.alone n = s.alone n) → (∀ n, (t.core n).xb = (s.core n).xb) →
      (∀ key b, b / 64 ≠ p.addr / 64 → t.byteKey key b = s.byteKey key b) →
      ∀ off ∈ [0, 8, 16], t.calderaPlace tw asn (a.toNat + off) .atomic = .ok { p with addr := p.addr + off }

/-- The word of a join object at an offset (R37). -/
def State.joinWord (s : State) (p : Place) (off : Nat) : Word := BitVec.ofNat 64 (leNat (s.bytesKey p.key (p.addr + off) 8))

end Sys2Proof.Machine
end

