-- ==== Sys2Proof/Certificates/Slice0/Obligations.lean ====
section
/-!
DEFINITION. The obligations: what is claimed of the model, each a proposition that formalises rules of the specification.
-/

open Sys2Proof Sys2Proof.Machine

/-! ### Encoding -/

/-- Words written out bit by bit from the encoding tables decode to the instructions they stand for (R91, R92, R101): major 0x01 with
rd 3, rs1 1, rs2 2 and fn11 0 is `ADD x3, x1, x2`, and so on. -/
def Obligations.DecodesWrittenWords : Prop :=
  decodeWord 0b00000100011000010001000000000000#32 = .instr (.add 3 1 2) ∧
  decodeWord 0b00001000101001001111111111111111#32 = .instr (.addi 5 4 0xFFFF) ∧
  decodeWord 0b01011000111000100000000000001000#32 = .instr (.ldd 7 2 8) ∧
  decodeWord 0b01101100001000101111111111111110#32 = .instr (.beq 1 2 0xFFFE) ∧
  decodeWord 0b10010100000000000000000000001001#32 = .instr .tret ∧
  decodeWord 0b10010100001000100000000000010000#32 = .instr (.csrrw 1 2 1) ∧
  decodeWord 0b10100000000000000000000000000001#32 = .instr .tcommit ∧
  decodeWord 0b10101100100001010011000101000000#32 = .instr (.vaddVv 4 5 6 1 1 0)

/-- Decoding the word of a well-formed instruction gives the instruction back, whatever its operands (R92 to R101). -/
def Obligations.DecodeOfEncode : Prop :=
  ∀ i : Instr, i.encoded = true → i.wf = true → decodeWord (encode i) = .instr i

/-- A word that decodes is the word of what it decodes to: no two words mean the same, and no bit of a word is without effect on its
reading (R92, R93). -/
def Obligations.EncodeOfDecode : Prop :=
  ∀ (w : Half) (i : Instr), decodeWord w = .instr i → encode i = w ∧ i.encoded = true ∧ i.wf = true

/-! ### The step -/

/-- A step in which the current thread issues fetches the four bytes at PC from its core's private scratchpad, below XB, decodes them
and executes the instruction, or takes the trap of a word that is none (R91, R102, R305). Before it the step counter advances, a
layer in Autumn wakes, and other threads see the issue: the thread and memory are as they were. An instruction that stalls has not
issued: no other thread and no layer sees it (R24). That a step with an empty agenda runs the current thread (log 1), that the word is
fetched in the step that issues it (log 64), and that a PC off a multiple of 4 fetches the four bytes at it (log 50), are the model's
choices. -/
def Obligations.StepRunsDecodedInstruction : Prop :=
  ∀ s : State, s.ready → s.me.pc < s.myCore.xb →
    let s0 := s.tick.beginIssue
    let stalls (t : State) : Prop := (t.thread s.cur s.curSlot).wait = .stalled
    (∀ i, decodeBytes (s.bytes (privBase s.cur + s.me.pc.toNat) 4) = .instr i →
      ((∀ t, exec i s0 = .next t → ¬stalls t) → step s = exec i s0) ∧
      (∀ t, exec i s0 = .next t → stalls t → step s = exec i s.tick)) ∧
    (∀ r, decodeBytes (s.bytes (privBase s.cur + s.me.pc.toNat) 4) = .reject r →
      step s = exec (.nonInstructionWord (s.wordAt s.cur s.me.pc)) s0) ∧
    s0.me = s.me ∧ s.sameMemory s0 ∧ s.tick.me = s.me ∧ s.sameMemory s.tick

/-- A turn of the schedule happens before anything else. A device step takes its effect; a core or step that the part does not have stops
the machine. In a core's turn for a class (R23) a thread ready for 64 cycles issues before one that is not, the one ready longest
first, and of these the lowest slot; otherwise the thread of highest priority does, and among equals the next slot after the one that
issued last in that class at that priority; with no thread ready nothing issues. A thread whose slot is free, that waits, or whose
layer is in reset or in Winter does nothing (R24, R296). A fetch at or above XB traps to OVH with cause 0x09, EVAL the fetch address
and EVAL2 the address that led there (R301, R305). Storage may suffer an error in a turn (R402 to R404): a corrected memory error only
counts; an uncorrectable one poisons its unit, of 64 bytes in HBM and 8 elsewhere, marks the replica of a powered layer stale, or
poisons the tower's region, and writes a machine check with the storage's SRC and its physical address; a load of a poisoned unit
traps with cause 0x05 and EVAL2 0xE. The order of turns, which operands are available, the slot at which a first search starts, the
stop of a turn that the part lacks (log 1), and that an error is found in the step in which it appears (log 61), are the model's. -/
def Obligations.StepTakesTurns : Prop :=
  (((∀ (s : State) n c av rest, s.agenda = .port n c av :: rest → n < coreCount →
      let s0 : State := { s with agenda := rest, steps := s.steps + 1 }
      let ready := s0.readyFor n c av
      let since (k : Nat) : Nat := (s0.readySince n c k).getD 0
      let prio (k : Nat) : Nat := (s0.thread n k).prio
      let late (k : Nat) : Prop := s0.overdue n c k = true
      let turns (k : Nat) : Nat := (k + 3 * (((s0.core n).lastIssued.getD (issueIndex c (prio k)) none).getD 3 + 1)) % 4
      (∀ k ∈ ready, k < 4 ∧ k ∈ av ∧ (s0.thread n k).occ ≠ .free ∧ ∀ w, s0.turnover n k = .word w → classOf w = c) ∧
      (ready = [] → ∃ t, step s = .next t ∧ (∀ m k : Nat, k < 4 → t.thread m k = s.thread m k) ∧ s.sameMemory t) ∧
      (ready ≠ [] → ∃ k ∈ ready, step s = issue ((s0.noteReady n c ready).as n k) ∧
        (∀ j ∈ ready, late j → late k ∧ (since k < since j ∨ since k = since j ∧ k ≤ j)) ∧
        ((∀ j ∈ ready, ¬late j) → ∀ j ∈ ready, prio j < prio k ∨ prio j = prio k ∧ turns k ≤ turns j))) ∧
    (∀ (s : State) i rest, s.agenda = .event i :: rest → i.schedulable = true →
      step s = exec i { s with agenda := rest, steps := s.steps + 1 }) ∧
    (∀ (s : State) u rest, s.agenda = u :: rest → u.valid = false → step s = .fault .noSuchAgent)) ∧
   (∀ s : State, s.agenda = [] →
      (s.me.occ = .free ∨ (s.me.wait ≠ .none ∧ s.me.wait ≠ .stalled) ∨ (s.layer (layerOf s.cur)).season = .inReset ∨
        (s.layer (layerOf s.cur)).season = .winter) →
      step s = .next { s with steps := s.steps + 1 })) ∧
  (∀ s : State, s.ready → s.me.level = .T → s.myCore.xb ≤ s.me.pc →
     ∃ t, step s = .next t ∧ s.tick.beginIssue.trapped t { cause := 9, eval := s.me.pc, eval2 := s.me.cameFrom } ∧
       t.me.pc = s.myCore.ovh ∧ t.me.epc = s.me.pc) ∧
  (∀ (s : State) u rest, s.agenda = .upset u :: rest → u.present = true →
     step s = .next (({ s with agenda := rest, steps := s.steps + 1 } : State).upset u)) ∧
  (∀ (s : State) (a : Nat), correctable a = true →
     let tw := (homeTower a).getD 0
     let u := if a < 0x8000000000 then a / 64 * 64 else a / 8 * 8
     (s.upset (.memory a false)).mem = s.mem ∧ (s.upset (.memory a false)).poison = s.poison ∧
     ((s.tower tw).counters[2] ≠ BitVec.allOnes 64 →
       ((s.upset (.memory a false)).tower tw).counters[2] = (s.tower tw).counters[2] + 1) ∧
     (let t := s.upset (.memory a true)
      u ∈ t.poison ∧ (∀ v, v ∈ t.poison → v = u ∨ v ∈ s.poison) ∧ t.mem = s.mem ∧
      ∃ m, (t.tower tw).mchecks = (m :: (s.tower tw).mchecks).take 4096 ∧ m.seq = (s.tower tw).mseq + 1 ∧
        m.addr = BitVec.ofNat 64 a ∧ m.src = (if a < 0x8000000000 then 4 else if 0x30000000 ≤ a % 0x100000000 then 2 else 3))) ∧
  (∀ (s : State) (gl off : Nat), gl < 16 → off < 0x2000000 →
     let t := s.upset (.replica gl off true)
     let on := (s.layer gl).season = .summer ∨ (s.layer gl).season = .autumn
     (on → (t.layer gl).stale = true ∧ ∃ m, (t.tower (gl / 8)).mchecks = (m :: (s.tower (gl / 8)).mchecks).take 4096 ∧ m.src = 5) ∧
     (¬on → t = s)) ∧
  (∀ (s : State) (tw off : Nat), tw < 2 → off < 0x2000000 →
     let t := s.upset (.mirror tw off true)
     (t.tower tw).regionPoison = true ∧
     ∃ m, (t.tower tw).mchecks = (m :: (s.tower tw).mchecks).take 4096 ∧ m.src = 6) ∧
  (∀ (s : State) (ea : Word) (n : Nat) (p : Place), s.place s.cur (s.asnOf s.cur s.curSlot) ea.toNat .load false loadWindows = (.ok p, s) →
     ea.toNat % n = 0 → p.win ≠ .glob → s.accessWaits s.cur s.curSlot n p = false → s.poisoned p.addr n = true →
     s.check ea n .load 0 loadWindows = (.trap 5 0xE, s))

/-! ### Reset -/

/-- After a package reset every CSR of every thread and core that has a reset value reads it (R19, R53, R59, R321). TASKID, CTXID and
BKEY, whose Reset column is a dash, hold the model's 0 (log 3). -/
def Obligations.ResetCsrValues : Prop :=
  ∀ (n : Nat) (k : Fin 4), n < coreCount →
    let s : State := State.reset.as n k
    s.readCsr 0x001 = 0 ∧ s.readCsr 0x002 = 0x28A ∧ s.readCsr 0x003 = 0 ∧
    (∀ c ∈ [0x005, 0x006, 0x007, 0x008, 0x009, 0x030, 0x031, 0x050, 0x051, 0x060], s.readCsr c = 0) ∧
    (∀ j < 8, s.readCsr (0x010 + j) = 0 ∧ s.readCsr (0x040 + j) = 0) ∧
    (∀ c ∈ [0x100, 0x101, 0x102, 0x103, 0x104, 0x105, 0x106, 0x107, 0x108, 0x109, 0x10B, 0x10D, 0x10E, 0x10F],
      s.readCsr c = 0) ∧
    (∀ j < 32, s.readCsr (0x120 + j) = 1 <<< 35) ∧ (∀ c ∈ [0x020, 0x10A, 0x10C], s.readCsr c = 0)


/-! ### The machine as a whole -/

/-- Every step keeps the state well formed: memory stays in canonical form, the schedule names what the part has, the current core
exists. -/
def Obligations.StepKeepsWellFormed : Prop := ∀ s t : State, s.wf = true → step s = .next t → t.wf = true

/-- The state after a package reset is well formed. -/
def Obligations.ResetWellFormed : Prop := State.reset.wf = true

/-- x0 reads as zero and discards writes; at level T the task's bank is the only one; at level S a name from x28 to x31 is the slot's
second bank and any other name the task's (R45, R298). -/
def Obligations.ScalarRegisterBanks : Prop :=
  ∀ (s : State) (r : BitVec 5) (v : Word),
    s.x 0 = 0 ∧ (s.setX 0 v).me = s.me ∧
    (s.me.level = .T → r ≠ 0 → s.x r = s.me.x[r.toNat] ∧
      (s.setX r v).me.x = s.me.x.set r.toNat v ∧ (s.setX r v).me.sx = s.me.sx) ∧
    (s.me.level = .S → r ≠ 0 → (h : r.toNat < 28) → s.x r = s.me.x[r.toNat] ∧
      (s.setX r v).me.x = s.me.x.set r.toNat v ∧ (s.setX r v).me.sx = s.me.sx) ∧
    (s.me.level = .S → (h : 28 ≤ r.toNat) → s.x r = s.me.sx[r.toNat - 28] ∧
      (s.setX r v).me.sx = s.me.sx.set (r.toNat - 28) v ∧ (s.setX r v).me.x = s.me.x) ∧
    s.onlyMe (s.setX r v)

/-- The fields of ESTAT after a trap (R299): the level before it, whether it was asynchronous, whether the task was pre-commit, and
what the cause records; reserved bits are 0. TRAP at level T traps with cause 0x14 and its code: EPC is its own address, PC the
address in EVEC, the level S (R297, R314). -/
def Obligations.TrapEntry : Prop :=
  (∀ (s : State) (tr : Trap), s.me.level = .T →
     let e := (s.trap tr).me.estat
     bit e 0 = false ∧ bit e 1 = tr.async ∧ bit e 2 = (s.me.occ == .task && !s.me.post) ∧ bit e 3 = tr.fail ∧
       bit e 4 = tr.wr ∧ fld e 5 3 = tr.strm % 8 ∧ fld e 8 56 = 0) ∧
  (∀ (s : State) (code : BitVec 16), s.me.level = .T → s.traps (.trap code) { cause := 0x14, eval := zx code })

/-- A trap raised at level S is a double fault: the thread stops, to be retired as faulted, every trap register keeps its value,
and the tower logs a machine check with the second cause and its EPC; nothing else happens (R300). TRAP raises it. TRET at level
S returns: the level becomes ESTAT.PL, PC becomes EPC, and nothing else changes but the retired count and the watchdog counter, which
a retirement resets (R306, R315); in a slot that a
message holds without a task it is an illegal instruction, which is a double fault. The machine check's ADDR is the model's 0
(log 54). -/
def Obligations.DoubleFaultAndReturn : Prop :=
  (∀ (s : State) (code : BitVec 16), s.me.level = .S →
     ∃ t m, exec (.trap code) s = .next t ∧
       t.me = { s.me with wait := .retiring .faulted none } ∧
       (∀ n k : Nat, k < 4 → ¬(n = s.cur ∧ k = s.curSlot) → t.thread n k = s.thread n k) ∧
       (∀ n, { t.core n with threads := (s.core n).threads } = s.core n) ∧
       t.myTower = { s.myTower with mseq := s.myTower.mseq + 1, mchecks := (m :: s.myTower.mchecks).take 4096 } ∧
       m.src = 8 ∧ m.coreid = coreId s.cur ∧ m.slot = s.curSlot.val ∧ m.addr = 0 ∧ m.seq = s.myTower.mseq + 1 ∧
       (s.me.pc.toNat < 2 ^ 56 → fld m.aux 56 8 = 0x14 ∧ fld m.aux 0 56 = s.me.pc.toNat) ∧
       (∀ n, n ≠ towerOf s.cur → t.tower n = s.tower n) ∧ t.msix = (2, s.steps) :: s.msix ∧
       { t with cores := s.cores, towers := s.towers, msix := s.msix } = s) ∧
  (∀ s : State, s.me.level = .S →
     (s.me.occ ≠ .message → ∃ t, exec .tret s = .next t ∧ s.onlyMe t ∧
       t.me = { s.me with level := (if bit s.me.estat 0 then .S else .T), pc := s.me.epc, cameFrom := s.me.epc - 4
                          retired := s.me.retired + 1, counted := 0, since := some s.steps }) ∧
     (s.me.occ = .message → ∃ t, exec .tret s = .next t ∧ t.me = { s.me with wait := .retiring .faulted none }))

/-- A word that is no instruction traps by its major: 0x00 and 0x3F with cause 0x01 and check 1, 0x3B to 0x3E with cause 0x02 and
check 2, any other with cause 0x01 and check 3; EVAL is the word and EPC its address (R102, R103). Majors 0x00, 0x3F and 0x3B to 0x3E
hold no instruction, whatever the other bits (checks 1 and 2 of R102), and every other major holds one. At level T a supervisor
instruction, and a CSR form that names a supervisor CSR, traps with cause privileged, the word and 4 (check 4 of R102, R301), and does
nothing else.
An instruction that reads a scalar register with an uncorrectable error, two bits of its 64, traps before any effect with cause 0x12,
the register's number and kind 2, and a machine check is logged (R65, R301). Register forms, immediate forms, branches, loads and
stores. A single failing bit is corrected and counted, and the instruction goes on (R65, R404). -/
def Obligations.TrapsBeforeExecution : Prop :=
  (((∀ (s : State) (w : Half), s.me.level = .T →
        ((fld w 26 6 = 0 ∨ fld w 26 6 = 0x3F) → s.traps (.nonInstructionWord w) { cause := 1, eval := zx w, eval2 := 1 }) ∧
        ((0x3B ≤ fld w 26 6 ∧ fld w 26 6 ≤ 0x3E) → s.traps (.nonInstructionWord w) { cause := 2, eval := zx w, eval2 := 2 }) ∧
        ((1 ≤ fld w 26 6 ∧ fld w 26 6 ≤ 0x3A) → s.traps (.nonInstructionWord w) { cause := 1, eval := zx w, eval2 := 3 })) ∧
     ((∀ w : Half, (fld w 26 6 = 0 ∨ fld w 26 6 = 0x3F) → decodeWord w = .reject .illegalMajor) ∧
      (∀ w : Half, (0x3B ≤ fld w 26 6 ∧ fld w 26 6 ≤ 0x3E) → decodeWord w = .reject .reservedMajor) ∧
      (∀ m : Nat, 1 ≤ m → m ≤ 0x3A → ∃ (w : Half) (i : Instr), fld w 26 6 = m ∧ decodeWord w = .instr i))) ∧
    (∀ s : State, s.me.level = .T →
       let priv : Trap := { cause := 3, eval := s.myWord, eval2 := 4 }
       (∀ i ∈ [Instr.tret, .tdiscard, .tfail], s.traps i priv) ∧
       (∀ a b, s.traps (.csave a b) priv) ∧ (∀ a, s.traps (.crestore a) priv) ∧
       (∀ (rd r : BitVec 5) (c : BitVec 12), 0x100 ≤ c.toNat →
         ∀ i ∈ [Instr.csrrw rd r c, .csrrs rd r c, .csrrc rd r c, .csrrwi rd r c, .csrrsi rd r c, .csrrci rd r c],
           s.traps i priv))) ∧
  (∀ (s : State) (r rd q : BitVec 5) (e : RegMark), s.me.level = .T → s.me.regErr = [e] → s.myCore.unitErr = [] →
      e.ref = ⟨2, r.toNat⟩ → r ≠ 0 → s.myTower.counters[1] ≠ BitVec.allOnes 64 →
      ∃ t, exec (.add rd r q) s = .next t ∧ t.x rd = (if rd = 0 then 0 else s.x r + s.x q) ∧ t.me.regErr = [] ∧
        t.myTower.counters[1] = s.myTower.counters[1] + 1 ∧ s.sameMemory t) ∧
  (∀ (s : State) (r : BitVec 5) (e f : RegMark), s.me.level = .T → e ∈ s.me.regErr → f ∈ s.me.regErr →
      (∀ g ∈ s.me.regErr, g.ref = ⟨2, r.toNat⟩) → e.word = f.word → e.bit ≠ f.bit →
      ∀ rd q imm (off : BitVec 16),
        ∀ i ∈ [Instr.add rd r q, .sub rd r q, .mul rd r q, .div rd r q, .slt rd r q, .clz rd r, .addi rd r imm, .slli rd r 1,
            .beq r q off, .blt r q off, .jalr rd r imm, .ldd rd r imm, .std q r imm, .aadd rd r q 0 0 0, .csrrw rd r 1],
          ∃ t, exec i s = .next t ∧ t.me.pc = s.myCore.evec ∧ t.me.level = .S ∧ t.me.ecause = 0x12 ∧ t.me.epc = s.me.pc ∧
            t.me.eval = zx r ∧ t.me.eval2 = 2 ∧ t.me.x = s.me.x ∧ s.sameMemory t ∧
            ∃ m, t.myTower.mchecks = (m :: s.myTower.mchecks).take 4096 ∧ m.src = 1)


/-! ### Integer forms -/

/-- The register forms of major 0x01 write the result that R115 gives, modulo 2^64, and do nothing else: no flag, no trap. Shifts and
rotations take rs2 [5:0]. The four division forms: toward zero, the remainder with the sign of rs1; a divisor of 0 gives all ones and
the dividend, and the signed overflow gives the dividend and 0 (R115, R116). The immediate forms: imm16 signed for ADDI, SLTI, SLTIU
and MULI, unsigned for ANDI, ORI and XORI; the shifts by imm16 [5:0]; LIH and ADDPC (R117, R118, R119). -/
def Obligations.IntegerForms : Prop :=
  (∀ (s : State) (rd rs1 rs2 : BitVec 5), s.sound →
     let a := s.x rs1
     let b := s.x rs2
     let n := b.toNat % 64
     s.gives (.add rd rs1 rs2) rd (BitVec.ofNat 64 (a.toNat + b.toNat)) ∧
     s.gives (.sub rd rs1 rs2) rd (BitVec.ofInt 64 (a.toNat - b.toNat)) ∧
     s.gives (.and rd rs1 rs2) rd (a &&& b) ∧ s.gives (.or rd rs1 rs2) rd (a ||| b) ∧
     s.gives (.xor rd rs1 rs2) rd (a ^^^ b) ∧ s.gives (.andn rd rs1 rs2) rd (a &&& ~~~b) ∧
     s.gives (.sll rd rs1 rs2) rd (BitVec.ofNat 64 (a.toNat * 2 ^ n)) ∧
     s.gives (.srl rd rs1 rs2) rd (BitVec.ofNat 64 (a.toNat / 2 ^ n)) ∧
     s.gives (.sra rd rs1 rs2) rd (BitVec.ofInt 64 (a.toInt / 2 ^ n)) ∧
     s.gives (.ror rd rs1 rs2) rd ((a >>> n) ||| (a <<< (64 - n))) ∧
     s.gives (.slt rd rs1 rs2) rd (if a.toInt < b.toInt then 1 else 0) ∧
     s.gives (.sltu rd rs1 rs2) rd (if a.toNat < b.toNat then 1 else 0) ∧
     s.gives (.min rd rs1 rs2) rd (if a.toInt ≤ b.toInt then a else b) ∧
     s.gives (.max rd rs1 rs2) rd (if b.toInt ≤ a.toInt then a else b) ∧
     s.gives (.minu rd rs1 rs2) rd (if a.toNat ≤ b.toNat then a else b) ∧
     s.gives (.maxu rd rs1 rs2) rd (if b.toNat ≤ a.toNat then a else b) ∧
     s.gives (.mul rd rs1 rs2) rd (BitVec.ofNat 64 (a.toNat * b.toNat)) ∧
     s.gives (.mulh rd rs1 rs2) rd (BitVec.ofInt 64 (a.toInt * b.toInt / 2 ^ 64)) ∧
     s.gives (.mulhu rd rs1 rs2) rd (BitVec.ofNat 64 (a.toNat * b.toNat / 2 ^ 64)) ∧
     s.gives (.mulhsu rd rs1 rs2) rd (BitVec.ofInt 64 (a.toInt * b.toNat / 2 ^ 64)) ∧
     s.gives (.sh1add rd rs1 rs2) rd (BitVec.ofNat 64 (a.toNat * 2 + b.toNat)) ∧
     s.gives (.sh2add rd rs1 rs2) rd (BitVec.ofNat 64 (a.toNat * 4 + b.toNat)) ∧
     s.gives (.sh3add rd rs1 rs2) rd (BitVec.ofNat 64 (a.toNat * 8 + b.toNat)) ∧
     (∃ c ≤ 64, s.gives (.clz rd rs1) rd (BitVec.ofNat 64 c) ∧ (∀ i < c, bit a (63 - i) = false) ∧
       (c < 64 → bit a (63 - c) = true)) ∧
     (∃ c ≤ 64, s.gives (.ctz rd rs1) rd (BitVec.ofNat 64 c) ∧ (∀ i < c, bit a i = false) ∧ (c < 64 → bit a c = true)) ∧
     s.gives (.cpop rd rs1) rd (BitVec.ofNat 64 ((List.range 64).filter fun i => bit a i).length)) ∧
  (∀ (s : State) (rd rs1 rs2 : BitVec 5), s.sound →
     let a := s.x rs1
     let b := s.x rs2
     ∃ q r qu ru : Word,
       s.gives (.div rd rs1 rs2) rd q ∧ s.gives (.rem rd rs1 rs2) rd r ∧
       s.gives (.divu rd rs1 rs2) rd qu ∧ s.gives (.remu rd rs1 rs2) rd ru ∧
       (b = 0 → q = BitVec.allOnes 64 ∧ r = a ∧ qu = BitVec.allOnes 64 ∧ ru = a) ∧
       (a = BitVec.intMin 64 ∧ b = BitVec.allOnes 64 → q = a ∧ r = 0) ∧
       (b ≠ 0 ∧ ¬(a = BitVec.intMin 64 ∧ b = BitVec.allOnes 64) →
         q.toInt = Int.tdiv a.toInt b.toInt ∧ r.toInt = Int.tmod a.toInt b.toInt) ∧
       (b ≠ 0 → qu.toNat = a.toNat / b.toNat ∧ ru.toNat = a.toNat % b.toNat)) ∧
  (∀ (s : State) (rd rs1 : BitVec 5) (imm : BitVec 16) (sh : BitVec 6) (im : BitVec 21), s.sound →
     let a := s.x rs1
     let v : Word := BitVec.ofInt 64 imm.toInt
     let u : Word := BitVec.ofNat 64 imm.toNat
     let n := sh.toNat
     s.gives (.addi rd rs1 imm) rd (a + v) ∧ s.gives (.andi rd rs1 imm) rd (a &&& u) ∧
     s.gives (.ori rd rs1 imm) rd (a ||| u) ∧ s.gives (.xori rd rs1 imm) rd (a ^^^ u) ∧
     s.gives (.slti rd rs1 imm) rd (if a.toInt < imm.toInt then 1 else 0) ∧
     s.gives (.sltiu rd rs1 imm) rd (if a.toNat < v.toNat then 1 else 0) ∧
     s.gives (.muli rd rs1 imm) rd (BitVec.ofInt 64 (a.toInt * imm.toInt)) ∧
     s.gives (.slli rd rs1 sh) rd (BitVec.ofNat 64 (a.toNat * 2 ^ n)) ∧
     s.gives (.srli rd rs1 sh) rd (BitVec.ofNat 64 (a.toNat / 2 ^ n)) ∧
     s.gives (.srai rd rs1 sh) rd (BitVec.ofInt 64 (a.toInt / 2 ^ n)) ∧
     s.gives (.rori rd rs1 sh) rd ((a >>> n) ||| (a <<< (64 - n))) ∧
     s.gives (.lih rd im) rd (BitVec.ofInt 64 (im.toInt * 2 ^ 16)) ∧
     s.gives (.addpc rd im) rd (s.me.pc + BitVec.ofInt 64 im.toInt))


/-! ### Scalar floating point -/

/-- The register forms of major 0x0B write their result, FP32 in bits [31:0] with zero above, and set their flags; a flag enabled in
FCSR.TE traps instead, with the flags set and rd unwritten (R120, R126). Each result is one rounding of the exact one. FCMP writes 0
or 1: with a NaN 0 but for FUN, NV from a signalling NaN, and from any NaN in FLT and FLE; −0 equals +0 (R123).
FCVT between floating point and integers, and between the two floating types; FADDI and FMULI with a BF16 immediate, whose NaN is the
canonical one (R82, R124, R125). -/
def Obligations.ScalarFpForms : Prop :=
  ((∀ (s : State) (rd rs1 rs2 : BitVec 5) (p : BitVec 1), s.sound →
       let f : Fmt := if p = 1 then FP64 else FP32
       let a := (s.x rs1).toNat % 2 ^ f.width
       let b := (s.x rs2).toNat % 2 ^ f.width
       let d := (s.x rd).toNat % 2 ^ f.width
       let g (i : Instr) (r : Nat × Flags) : Prop := s.givesFp i rd r.1 r.2
       let r (e : FVal × Flags) : Nat × Flags := ((e.1.arith f s.rm).1, e.2 ||| (e.1.arith f s.rm).2)
       let va := f.decode a
       let vb := f.decode b
       g (.fadd rd rs1 rs2 p) (r (va.add s.rm vb)) ∧ g (.fsub rd rs1 rs2 p) (r (va.add s.rm vb.flip)) ∧
       g (.fmul rd rs1 rs2 p) (r (va.mul vb)) ∧ g (.fdiv rd rs1 rs2 p) (r (va.div vb)) ∧ g (.fsqrt rd rs1 p) (r va.sqrt) ∧
       g (.fmac rd rs1 rs2 p) (r ((f.decode d).mulAdd s.rm va vb)) ∧
       g (.fmin rd rs1 rs2 p) (fMinMax false f a b) ∧ g (.fmax rd rs1 rs2 p) (fMinMax true f a b) ∧
       g (.fclass rd rs1 p) (fClass f a, 0) ∧
       g (.fsgnj rd rs1 rs2 p) (withSign f a (f.signOf b), 0) ∧ g (.fsgnjn rd rs1 rs2 p) (withSign f a (!f.signOf b), 0) ∧
       g (.fsgnjx rd rs1 rs2 p) (withSign f a (f.signOf a != f.signOf b), 0)) ∧
    (∀ (s : State) (rd rs1 rs2 : BitVec 5) (p : BitVec 1), s.sound →
       let f : Fmt := if p = 1 then FP64 else FP32
       let a := f.decode ((s.x rs1).toNat % 2 ^ f.width)
       let b := f.decode ((s.x rs2).toNat % 2 ^ f.width)
       let sig : Flags := if a.isSig || b.isSig then fNV else 0
       let num (v : Bool) : Nat := if v then 1 else 0
       let nan := a.isNan || b.isNan
       s.givesFp (.feq rd rs1 rs2 p) rd (num (!nan && a.eqv b)) sig ∧
       s.givesFp (.flt rd rs1 rs2 p) rd (num (!nan && a.lt b)) (if nan then fNV else 0) ∧
       s.givesFp (.fle rd rs1 rs2 p) rd (num (!nan && (a.lt b || a.eqv b))) (if nan then fNV else 0) ∧
       s.givesFp (.funord rd rs1 rs2 p) rd (num nan) sig)) ∧
  (∀ (s : State) (rd rs1 : BitVec 5) (imm : BitVec 16) (p : BitVec 1), s.sound →
      let f : Fmt := if p = 1 then FP64 else FP32
      let x := s.x rs1
      let v := f.decode (x.toNat % 2 ^ f.width)
      let int (i : Instr) (lo hi : Int) : Prop :=
        s.givesFp i rd (BitVec.ofInt 64 (v.narrowInt s.rm lo hi).1).toNat (v.narrowInt s.rm lo hi).2
      int (.fcvtI32 rd rs1 p) (-2 ^ 31) (2 ^ 31 - 1) ∧ int (.fcvtUi32 rd rs1 p) 0 (2 ^ 32 - 1) ∧
      int (.fcvtI64 rd rs1 p) (-2 ^ 63) (2 ^ 63 - 1) ∧ int (.fcvtUi64 rd rs1 p) 0 (2 ^ 64 - 1) ∧
      (let w := FVal.fin (x.toInt < 0) x.toInt.natAbs 0 false
       s.givesFp (.fcvtFI64 rd rs1 p) rd (w.narrow f s.rm).1 (w.narrow f s.rm).2) ∧
      (let w := FVal.fin false x.toNat 0 false
       s.givesFp (.fcvtFUi64 rd rs1 p) rd (w.narrow f s.rm).1 (w.narrow f s.rm).2) ∧
      s.givesFp (.fcvtFF rd rs1 1) rd ((FP32.decode (x.toNat % 2 ^ 32)).widen FP64) 0 ∧
      s.givesFp (.fcvtFF rd rs1 0) rd ((FP64.decode x.toNat).narrow FP32 s.rm).1 ((FP64.decode x.toNat).narrow FP32 s.rm).2 ∧
      (let i := if (BF16.decode imm.toNat).isNan then 0x7FC00000 else imm.toNat * 2 ^ 16
       s.givesFp (.faddi rd rs1 imm) rd (fAdd FP32 s.rm (x.toNat % 2 ^ 32) i).1 (fAdd FP32 s.rm (x.toNat % 2 ^ 32) i).2 ∧
       s.givesFp (.fmuli rd rs1 imm) rd (fMul FP32 s.rm (x.toNat % 2 ^ 32) i).1 (fMul FP32 s.rm (x.toNat % 2 ^ 32) i).2))

/-- The special cases of the arithmetic forms: any NaN gives the canonical NaN, with NV if one is signalling; the invalid operations
give it with NV; a finite non-zero number divided by zero gives an infinity with DZ; the root of −0 is −0; an exact zero sum is −0 for
two terms −0 and under RDN (log 10), else +0; overflow as R75, with OF and NX (R75, R80, R121). FMIN and FMAX: −0 lies below +0; one
NaN gives the other operand, two give the canonical NaN; a signalling NaN sets NV and nothing else sets a flag (R122). The five
rounding modes, of an exact value ±m/2^k to an integer: nearest with ties to even, toward zero, up, down, nearest with ties away from
zero; inexact exactly when the value is no integer (R75). Rounding gives back what the format holds: a pattern that is no NaN comes
back unchanged with no flag, in every mode (R75, R77). Elements: the value of every code of every format (R67 to R69, R71); narrowing
to a floating format, to DS8 with its canonical codes, to integers (R72, R77, R79); changes of format, scaled widening, quantisation
and scale codes (R74, R79, R84, R85); FCLASS by the fields of its operand (R123). -/
def Obligations.FpRules : Prop :=
  ((∀ f ∈ [FP64, FP32], ∀ (rm : RM) (a b c : Nat),
      let x := f.decode a
      let y := f.decode b
      let z := f.decode c
      let nv (q : Bool) : Flags := if q then fNV else 0
      (x.isNan || y.isNan → ∀ r ∈ [fAdd f rm a b, fSub f rm a b, fMul f rm a b, fDiv f rm a b],
        r = (f.cnan, nv (x.isSig || y.isSig))) ∧
      (x.isNan → fSqrt f rm a = (f.cnan, nv x.isSig)) ∧
      (z.isNan && !(x.isInf && y.isZero) && !(x.isZero && y.isInf) || x.isNan || y.isNan →
        fMac f rm c a b = (f.cnan, nv (x.isSig || y.isSig || z.isSig))) ∧
      (x.isInf && y.isZero || x.isZero && y.isInf → fMul f rm a b = (f.cnan, fNV) ∧ fMac f rm c a b = (f.cnan, fNV)) ∧
      (x.isInf && y.isInf && x.neg != y.neg → fAdd f rm a b = (f.cnan, fNV)) ∧
      (x.isInf && y.isInf && x.neg == y.neg → fSub f rm a b = (f.cnan, fNV)) ∧
      (x.isInf && y.isInf || x.isZero && y.isZero → fDiv f rm a b = (f.cnan, fNV)) ∧
      (x.neg && !x.isZero && !x.isNan → fSqrt f rm a = (f.cnan, fNV)) ∧
      (x.isZero → fSqrt f rm a = (f.sign x.neg, 0)) ∧
      (!x.isNan && !x.isInf && !x.isZero && y.isZero → fDiv f rm a b = (f.infBits (x.neg != y.neg), fDZ)) ∧
      (x.isZero && y.isZero → fAdd f rm a b = (f.sign (x.neg && y.neg || rm == .rdn), 0)) ∧
      (!x.isNan && !x.isInf && !x.isZero && y == x.flip → fAdd f rm a b = (f.sign (rm == .rdn), 0)) ∧
      (∀ (neg : Bool) (m : Nat) (e : Int) (st : Bool), 2 ^ f.mb ≤ m → (f.maxE : Int) - f.bias + 1 - f.mb ≤ e →
        (FVal.fin neg m e st).arith f rm =
          ((match rm, neg with
            | .rne, _ | .rna, _ | .rup, false | .rdn, true => f.infBits neg
            | .rtz, _ | .rup, true | .rdn, false => f.maxBits neg), fOF ||| fNX))) ∧
   (∀ f ∈ [FP64, FP32], ∀ a b : Nat, a < 2 ^ f.width → b < 2 ^ f.width →
      let x := f.decode a
      let y := f.decode b
      let zeros := x.isZero && y.isZero
      (∀ m : Bool, (fMinMax m f a b).2 = if x.isSig || y.isSig then fNV else 0) ∧
      (x.isNan = true → y.isNan = true → ∀ m : Bool, (fMinMax m f a b).1 = f.cnan) ∧
      (x.isNan = true → y.isNan = false → ∀ m : Bool, (fMinMax m f a b).1 = b) ∧
      (x.isNan = false → y.isNan = true → ∀ m : Bool, (fMinMax m f a b).1 = a) ∧
      (x.isNan = false → y.isNan = false →
        (x.lt y = true → (fMinMax false f a b).1 = a ∧ (fMinMax true f a b).1 = b) ∧
        (y.lt x = true → (fMinMax false f a b).1 = b ∧ (fMinMax true f a b).1 = a) ∧
        (zeros = true → (fMinMax false f a b).1 = (if f.signOf a then a else b) ∧
          (fMinMax true f a b).1 = (if f.signOf a then b else a))))) ∧
  ((∀ (rm : RM) (neg : Bool) (m k : Nat),
      let v : Int := if neg then -(m : Int) else m
      let q : Int := 2 ^ k
      let i := (FVal.toInt rm neg m (-(k : Int)) false).1
      ((FVal.toInt rm neg m (-(k : Int)) false).2 = true ↔ i * q ≠ v) ∧
      (match rm with
       | .rne => 2 * (i * q - v).natAbs ≤ 2 ^ k ∧ (2 * (i * q - v).natAbs = 2 ^ k → i % 2 = 0)
       | .rtz => (i * q).natAbs ≤ m ∧ m < (i * q).natAbs + 2 ^ k
       | .rup => v ≤ i * q ∧ (i - 1) * q < v
       | .rdn => i * q ≤ v ∧ v < (i + 1) * q
       | .rna => 2 * (i * q - v).natAbs ≤ 2 ^ k ∧ (2 * (i * q - v).natAbs = 2 ^ k → v.natAbs < (i * q).natAbs))) ∧
   (∀ f ∈ [FP64, FP32, BF16, FP16], ∀ (rm : RM) (b : Nat), b < 2 ^ f.width → (f.decode b).isNan = false →
      (f.decode b).arith f rm = (b, 0))) ∧
  -- the value of an element by its format code
  ((∀ c eb mb bias : Nat, (c, eb, mb, bias) ∈ [(8, 8, 7, 127), (9, 5, 10, 15), (0xA, 8, 23, 127), (0xC, 4, 3, 7), (0xD, 5, 2, 15),
      (0xE, 2, 3, 1), (0xF, 2, 1, 1)] → ∀ b < 2 ^ (1 + eb + mb),
      let neg := b.testBit (eb + mb)
      let e := b / 2 ^ mb % 2 ^ eb
      let m := b % 2 ^ mb
      elemVal c b =
        if c ∈ [8, 9, 0xA, 0xD] ∧ e = 2 ^ eb - 1 then
          (if m = 0 then .inf neg else .nan neg (decide (c ≠ 0xD) && !m.testBit (mb - 1)))
        else if c = 0xC ∧ e = 15 ∧ m = 7 then .nan neg false
        else .fin neg (if e = 0 then m else 2 ^ mb + m) ((max e 1 : Nat) - (bias : Int) - mb) false) ∧
   (∀ c w : Nat, (c, w) ∈ [(0, 8), (1, 16), (2, 32), (3, 64), (4, 8), (5, 16), (6, 32)] → ∀ b < 2 ^ w,
      let v : Int := if c ≤ 3 then (BitVec.ofNat w b).toInt else b
      elemVal c b = .fin (decide (v < 0)) v.natAbs 0 false) ∧
   (∀ b < 256, elemVal 7 b = .fin (decide (ds8Sum b < 0)) (ds8Sum b).natAbs (-6) false) ∧
   -- narrowing to a floating format
   (∀ f ∈ [FP32, BF16, FP16, E4M3, E5M2, E2M3, E2M1], ∀ (rm : RM) (neg : Bool),
      (∀ s, (FVal.nan neg s).narrow f rm = if f.nan then (f.cnan, if s then fNV else 0) else (f.maxBits neg, fNV)) ∧
      (FVal.inf neg).narrow f rm = (f.maxBits neg, fSAT) ∧ (∀ e, (FVal.fin neg 0 e false).narrow f rm = (f.sign neg, 0)) ∧
      ∀ (m : Nat) (e : Int) (b : Nat), m ≠ 0 →
        let q : Int := 1 - (f.bias : Int) - f.mb
        let num := m * 2 ^ (e - q).toNat
        let k := (q - e).toNat
        f.units b * 2 ^ k ≤ num → num < f.units (b + 1) * 2 ^ k →
        let exact := decide (f.units b * 2 ^ k = num)
        let mid := (f.units b + f.units (b + 1)) * 2 ^ k
        let up : Bool := !exact && (match rm with
          | .rne => decide (mid < 2 * num ∨ mid = 2 * num ∧ b % 2 = 1)
          | .rna => decide (mid ≤ 2 * num)
          | .rtz => false
          | .rup => !neg
          | .rdn => neg)
        let r := if up then b + 1 else b
        let tiny : Bool := match rm, neg with
          | .rne, _ | .rna, _ => decide (4 * num < (2 ^ (f.mb + 2) - 1) * 2 ^ k)
          | .rtz, _ | .rup, true | .rdn, false => decide (num < 2 ^ f.mb * 2 ^ k)
          | .rup, false | .rdn, true => decide (2 * num ≤ (2 ^ (f.mb + 1) - 1) * 2 ^ k)
        (FVal.fin neg m e false).narrow f rm =
          if f.maxE * 2 ^ f.mb + f.maxM < r then (f.maxBits neg, fSAT ||| fNX)
          else (f.sign neg + r, (if exact then 0 else fNX) ||| (if !exact && tiny then fUF else 0))) ∧
   -- conversion to DS8
   (∀ (rm : RM) (neg : Bool), (∀ s, toElem 7 rm (.nan neg s) = (if neg then 0x88 else 0, fNV)) ∧
      toElem 7 rm (.inf neg) = (if neg then 0x88 else 0, fSAT) ∧ (∀ e, toElem 7 rm (.fin neg 0 e false) = (0x77, 0)) ∧
      ∀ (m : Nat) (e : Int), m ≠ 0 →
        let num := m * 2 ^ (e + 6).toNat
        let k := (-(e + 6)).toNat
        let r := toElem 7 rm (.fin neg m e false)
        let d := (ds8Sum r.1).natAbs
        let far (x : Nat) : Nat := ((num : Int) - x * 2 ^ k).natAbs
        let below : Prop := d * 2 ^ k ≤ num ∧ ∀ b < 256, (ds8Sum b).natAbs * 2 ^ k ≤ num → (ds8Sum b).natAbs ≤ d
        let above : Prop := num ≤ d * 2 ^ k ∧ ∀ b < 256, num ≤ (ds8Sum b).natAbs * 2 ^ k → d ≤ (ds8Sum b).natAbs
        (128 * 2 ^ k < num → r = (if neg then 0x88 else 0, fSAT ||| fNX)) ∧
        (num ≤ 128 * 2 ^ k → (d ≠ 0 → (neg = true ↔ ds8Sum r.1 < 0)) ∧
          (match rm, neg with
            | .rne, _ => ∀ b < 256, far d < far (ds8Sum b).natAbs ∨ far d = far (ds8Sum b).natAbs ∧ d ≤ (ds8Sum b).natAbs
            | .rna, _ => ∀ b < 256, far d < far (ds8Sum b).natAbs ∨ far d = far (ds8Sum b).natAbs ∧ (ds8Sum b).natAbs ≤ d
            | .rtz, _ | .rup, true | .rdn, false => below
            | .rup, false | .rdn, true => above) ∧
          r.2 = (if d * 2 ^ k ≠ num ∨ num < 2 ^ k then fNX else 0) ||| (if num < 2 ^ k then fUF else 0))) ∧
   (∀ (rm : RM) (b : Nat), b < 256 →
      let c := (toElem 7 rm (elemVal 7 b)).1
      (toElem 7 rm (elemVal 7 b)).2 = 0 ∧ c < 256 ∧ ds8Sum c = ds8Sum b ∧ (ds8Sum b = 0 → c = 0x77) ∧
        ((∃ k < 7, (ds8Sum b).natAbs = 2 ^ k) → c % 16 = 7 ∧ c / 16 % 8 ≠ 7) ∧
        (ds8Sum b ≠ 0 → (∀ k < 7, (ds8Sum b).natAbs ≠ 2 ^ k) → c / 16 % 8 ≤ c % 8 ∧ c % 8 ≠ 7 ∧
          ∀ d < 256, ds8Sum d = ds8Sum b → d / 16 % 8 ≤ d % 8 → d % 8 ≠ 7 → d / 16 % 8 ≤ c / 16 % 8)) ∧
   -- narrowing to an integer
   (∀ (c w : Nat) (lo hi : Int), (c, w, lo, hi) ∈ [(0, 8, -2 ^ 7, 2 ^ 7 - 1), (1, 16, -2 ^ 15, 2 ^ 15 - 1), (2, 32, -2 ^ 31, 2 ^ 31 - 1),
      (3, 64, -2 ^ 63, 2 ^ 63 - 1), (4, 8, 0, 2 ^ 8 - 1), (5, 16, 0, 2 ^ 16 - 1), (6, 32, 0, 2 ^ 32 - 1)] → ∀ (rm : RM) (neg : Bool),
      (∀ s, toElem c rm (.nan neg s) = (0, fNV)) ∧
      toElem c rm (.inf neg) = (((if neg then lo else hi) % 2 ^ w).toNat, fSAT) ∧
      ∀ (m : Nat) (e : Int),
        let i := (FVal.toInt rm neg m e false).1
        toElem c rm (.fin neg m e false) = (((max lo (min hi i)) % 2 ^ w).toNat,
          (if (FVal.toInt rm neg m e false).2 then fNX else 0) ||| (if i < lo ∨ hi < i then fSAT else 0))) ∧
   -- changes of format, scaled widening, quantisation, scale codes
   ([8, 9, 0xA, 0xC, 0xD, 0xE, 0xF, 7, 0].map nanOf = [0x7FC0, 0x7E00, 0x7FC00000, 0x7F, 0x7E, 0, 0, 0x77, 0]) ∧
   (∀ (src dst : Nat) (rm : RM) (b : Nat), b < 2 ^ widthOf src →
      let y := convertElem src dst rm b
      let wide := (src, dst) ∈ [(8, 0xA), (9, 0xA), (0xD, 9), (0xD, 8), (0xD, 0xA), (0xC, 9), (0xC, 8), (0xC, 0xA)]
      (src = dst → y = (b, 0)) ∧ (src ≠ dst → ¬wide → y = toElem dst rm (elemVal src b)) ∧
      (wide → y.2 = 0 ∧ ((elemVal src b).isNan = true → y.1 = nanOf dst) ∧ ((elemVal src b).isNan = false →
        (elemVal dst y.1).eqv (elemVal src b) = true ∧ (elemVal dst y.1).neg = (elemVal src b).neg))) ∧
   (∀ (src code dst : Nat) (rm : RM) (b : Nat) (f : Fmt), fmtOf dst = some f →
      (code = 0xFF ∨ (elemVal src b).isNan = true → widenScaled src code dst rm b = (nanOf dst, 0)) ∧
      (code < 0xFF → ∀ neg, elemVal src b = .inf neg → widenScaled src code dst rm b = (f.infBits neg, 0)) ∧
      (code < 0xFF → ∀ neg m e, elemVal src b = .fin neg m e false →
        let q : Int := 1 - (f.bias : Int) - f.mb
        let e1 : Int := e + code - 127
        widenScaled src code dst rm b =
          if m = 0 then (f.sign neg, 0)
          else if f.units (f.maxE * 2 ^ f.mb + f.maxM) * 2 ^ (q - e1).toNat < m * 2 ^ (e1 - q).toNat then (f.maxBits neg, fSAT)
          else (FVal.fin neg m e1 false).narrow f rm)) ∧
   (∀ (dst code : Nat) (rm : RM), (∀ v, quantise dst 0xFF rm v = (nanOf dst, 0)) ∧
      (code ≠ 0xFF → (∀ n m e s, quantise dst code rm (.fin n m e s) = toElem dst rm (.fin n m (e + 127 - code) s)) ∧
        (∀ n, quantise dst code rm (.inf n) = toElem dst rm (.inf n)) ∧ ∀ n s, quantise dst code rm (.nan n s) = toElem dst rm (.nan n s))) ∧
   (∀ (dst : Nat) (emax : Int), (dst, emax) ∈ [(0, 6), (7, 1), (0xC, 8), (0xD, 15), (0xE, 2), (0xF, 2)] →
      (∀ n s, scaleCode dst (.nan n s) = (0xFF, 0)) ∧ (∀ n, scaleCode dst (.inf n) = (0xFE, fOF)) ∧
      (∀ n e s, scaleCode dst (.fin n 0 e s) = (0, 0)) ∧
      ∀ (n : Bool) (m : Nat) (e : Int) (s : Bool) (j : Nat), 2 ^ j ≤ m → m < 2 ^ (j + 1) → scaleCode dst (.fin n m e s) =
        if e + j - emax < -127 then (0, fSU) else ((e + j - emax + 127).toNat, 0)) ∧
   -- classes
   (∀ f ∈ [FP64, FP32], ∀ b < 2 ^ f.width,
      let neg := b.testBit (f.eb + f.mb)
      let e := b / 2 ^ f.mb % 2 ^ f.eb
      let m := b % 2 ^ f.mb
      fClass f b = 2 ^ (if e = 2 ^ f.eb - 1 then (if m = 0 then (if neg then 0 else 7) else if m.testBit (f.mb - 1) then 9 else 8)
        else if e ≠ 0 then (if neg then 1 else 6) else if m ≠ 0 then (if neg then 2 else 5) else if neg then 3 else 4)))


/-! ### Scalar memory -/

/-- The checks of an access change nothing but what the part keeps behind the scenes: translations and table entries that it caches,
and the season of a layer that the access wakes (R128, R296, R383). Where an access that passes lands: a local window's byte of the
thread's own core, cluster or layer (R220), at or above XB in the private scratchpad; a global address at the leaf's page plus
its offset, where the leaf permits the access (R128, R364); a replica, the base mirror, and a private scratchpad below its XB take no write
there (R362). An aligned access
to the own private scratchpad at or above XB, to the cluster scratchpad, or to Onsen passes, unless it meets a watermark or poison, and
lands at its window's byte (R128, R220, R258). A watermark is judged by location (log 55). -/
def Obligations.AccessChecks : Prop :=
  (∀ (s : State) (ea : Word) (n : Nat) (use : Use) (strm : Nat) (allow : Window → Bool),
     let s1 := (s.check ea n use strm allow).2
     { s1 with clusters := s.clusters, layers := s.layers, towers := s.towers } = s ∧
       (∀ k, { s1.cluster k with tlb := (s.cluster k).tlb, coreTlb := (s.cluster k).coreTlb } = s.cluster k) ∧
       (∀ k, { s1.tower k with tables := (s.tower k).tables } = s.tower k) ∧
       (∀ k, { s1.layer k with season := (s.layer k).season, powered := (s.layer k).powered, springF := (s.layer k).springF }
         = s.layer k)) ∧
  (∀ (s : State) (ea : Word) (n strm : Nat) (use : Use) (allow : Window → Bool) (p : Place) (s1 : State),
     s.check ea n use strm allow = (.val p, s1) →
     let a := ea.toNat
     a % n = 0 ∧ allow p.win = true ∧
     (a < 2 ^ 32 → p.key = .random 0 ∧ p.ro = false ∧
       ((a < 0x80000 ∧ s.myCore.xb.toNat ≤ a ∧ p.win = .priv ∧ p.addr = privBase s.cur + a) ∨
        (0x100000 ≤ a ∧ a < 0x900000 ∧ p.win = .clus ∧ p.addr = clusterBase (layerOf s.cur) (cluIdx s.cur) + (a - 0x100000)) ∨
        (0x10000000 ≤ a ∧ a < 0x30000000 ∧ p.win = .onsen ∧ p.addr = layerAperture (layerOf s.cur) + a) ∨
        (0x30000000 ≤ a ∧ a < 0x32000000 ∧ p.win = .region ∧ p.addr = layerAperture (layerOf s.cur) + a) ∨
        (0x40000000 ≤ a ∧ a < 0x4A000000 ∧ (p.win = .clus ∨ p.win = .other) ∧ p.addr = layerAperture (layerOf s.cur) + a))) ∧
     (2 ^ 32 ≤ a → a < 2 ^ 52 ∧ p.win = .glob ∧ ∃ e s2, s.coreXlate s.cur (s.asnOf s.cur s.curSlot) a = (.leaf e, s2) ∧
       (use ≠ .store → bit e.leaf 2 = true) ∧ (use ≠ .load → bit e.leaf 3 = true) ∧
       s2.locate (towerOf s.cur) (ptePA e.leaf + (a - e.base)) = some p.addr ∧ p.dcls = bit e.leaf 5 ∧ p.sa = bit e.leaf 6 ∧
       (∀ tw u off : Nat, tw < 2 → u ≤ 8 → p.addr = 0x100000000000 + tw * 0x1000000000 + u * 0x100000000 + off → off < 0x100000000 →
         (p.ro = true ↔ 0x30000000 ≤ off ∧ off < 0x32000000 ∨ u < 8 ∧ 0x80000000 ≤ off ∧ off < 0x85000000 ∧
           off % 0x80000 < (s.core ((tw * 8 + u) * 160 + (off - 0x80000000) / 0x80000)).xb.toNat)))) ∧
  (∀ (s : State) (ea : Word) (n strm a : Nat) (use : Use) (allow : Window → Bool), s.calm → ea.toNat % n = 0 →
     (∀ w, w ≠ .coreWin → w ≠ .region → allow w = true) → s.localAt ea.toNat = some a →
     ∃ p, s.check ea n use strm allow = (.val p, s) ∧ p.addr = a ∧ p.key = .random 0 ∧ p.ro = false)

/-- A scalar load whose access passes writes its little-endian bytes to rd, sign- or zero-extended, and does nothing else (R127). -/
def Obligations.ScalarLoads : Prop :=
  ∀ (s : State) (rd rs1 : BitVec 5) (imm : BitVec 16), s.sound →
    ∀ q ∈ [(Instr.ldb rd rs1 imm, 1, true), (.ldbu rd rs1 imm, 1, false), (.ldh rd rs1 imm, 2, true), (.ldhu rd rs1 imm, 2, false),
        (.ldw rd rs1 imm, 4, true), (.ldwu rd rs1 imm, 4, false), (.ldd rd rs1 imm, 8, false)],
      ∀ p s1, s.check (s.x rs1 + BitVec.ofInt 64 imm.toInt) q.2.1 .load 0 loadWindows = (.val p, s1) →
        let v := leNat (s.bytesKey p.key p.addr q.2.1)
        s1.sameMemory s ∧ s1.me = s.me ∧ ∃ t, exec q.1 s = .next t ∧
          s1.wrote t rd (if q.2.2 ∧ 2 ^ (8 * q.2.1 - 1) ≤ v then BitVec.ofInt 64 (v - 2 ^ (8 * q.2.1)) else BitVec.ofNat 64 v)

/-- A scalar store whose access passes, outside every marked checkpoint, stores the low bytes of its register, little-endian, at the place
of ea; every other byte reads as before. Where the location takes no write, as a replica or the base mirror, the store is dropped and
APERR of the location's tower is set (R362). The thread only moves on, a pre-commit task commits on a global store and when its rewind log
lacks room, and otherwise a logged store enters the old doubleword (R30, R31, R127, R129). Of layers only the season of one that
the access wakes changes (R296), of caches of translations what they hold (R383).
A store at level T into a marked region also enters the word's local address and its old value in the checkpoint's log, behind the
entries there, which stay as they are: the first old value of a word is kept (R30, R287). It finds the log full at 4,096 entries: it
then traps with cause 0x0E, the address and the id, with nothing stored, logged or committed, and FULL is set (R287). -/
def Obligations.ScalarStores : Prop :=
  (∀ (s : State) (rs rs1 : BitVec 5) (imm : BitVec 16), s.sound → Memory.wf s.mem = true → s.myCluster.ckpts = [] →
    ∀ q ∈ [(Instr.stb rs rs1 imm, 1), (.sth rs rs1 imm, 2), (.stw rs rs1 imm, 4), (.std rs rs1 imm, 8)],
      ∀ p s1, s.check (s.x rs1 + BitVec.ofInt 64 imm.toInt) q.2 .store 0 storeWindows = (.val p, s1) →
        let full := decide (4096 < s.myCluster.log.length + 1)
        let commits := s.preCommit && (p.win == .glob || p.win.logged && full)
        let logs := s.preCommit && p.win.logged && !full
        let word := p.addr / 8 * 8
        let mine (e : LogEntry) : Bool := e.core == s.cur && e.slot == s.curSlot
        ∃ t, exec q.1 s = .next t ∧
          (p.ro = false → t.bytesKey p.key p.addr q.2 = leBytes q.2 (s.x rs).toNat ∧ s.sameOutside t p.key p.addr q.2) ∧
          (p.ro = true → s.sameMemory t) ∧
          t.me = { s.me with pc := s.me.pc + 4, cameFrom := s.me.pc, retired := s.me.retired + 1, wait := .none
                             post := s.me.post || commits, counted := 0, since := some s.steps } ∧
          t.myCluster.log = (if commits then s.myCluster.log.filter (!mine ·)
            else if logs then s.myCluster.log ++ [⟨s.cur, s.curSlot, word, s.dword word⟩] else s.myCluster.log) ∧
          (∀ n k : Nat, k < 4 → ¬(n = s.cur ∧ k = s.curSlot) → t.thread n k = s.thread n k) ∧
          (∀ n, { t.core n with threads := (s.core n).threads } = s.core n) ∧
          (∀ n, n ≠ clusterOf s.cur → (t.cluster n).log = (s.cluster n).log) ∧
          (∀ n, { t.cluster n with log := (s.cluster n).log, tlb := (s.cluster n).tlb, coreTlb := (s.cluster n).coreTlb }
            = s.cluster n) ∧
          (∀ n, { t.layer n with season := (s.layer n).season, powered := (s.layer n).powered, springF := (s.layer n).springF }
            = s.layer n) ∧
          (∀ n, { t.tower n with tables := (s.tower n).tables, aperr := (s.tower n).aperr } = s.tower n ∧
            (t.tower n).aperr = ((s.tower n).aperr || (p.ro && decide (p.addr < physEnd) && n == apertureTower p.addr))) ∧
          { t with cores := s.cores, clusters := s.clusters, layers := s.layers, towers := s.towers, mem := s.mem
                   fresh := s.fresh, blockKey := s.blockKey, poison := s.poison } = s) ∧
  (∀ (s : State) (rs rs1 : BitVec 5) (imm : BitVec 16), s.sound → Memory.wf s.mem = true → s.me.level = .T →
    ∀ q ∈ [(Instr.stb rs rs1 imm, 1), (.sth rs rs1 imm, 2), (.stw rs rs1 imm, 4), (.std rs rs1 imm, 8)],
      ∀ p s1 m, s.check (s.x rs1 + BitVec.ofInt 64 imm.toInt) q.2 .store 0 storeWindows = (.val p, s1) → p.win.logged = true →
        let word := p.addr / 8 * 8
        let holds (x : Ckpt) : Prop := x.base ≤ word ∧ word < x.base + x.len
        let counted (f : Ckpt → Ckpt) : List Ckpt := s.myCluster.ckpts.map fun x => if x.id = m.id then f x else x
        m ∈ s.myCluster.ckpts → holds m → (∀ x ∈ s.myCluster.ckpts, holds x → x = m) →
        (4096 ≤ m.count → ∃ u t, exec q.1 s = .next t ∧
          u = s.modCluster (clusterOf s.cur) (fun c => { c with ckpts := counted fun x => { x with full := true } }) ∧
          u.trapped t { cause := 0x0E, eval := s.x rs1 + BitVec.ofInt 64 imm.toInt, eval2 := BitVec.ofNat 64 m.id, wr := true }) ∧
        (m.count < 4096 → hbmEnd ≤ m.logBase →
          let entry := m.logBase + 16 * m.count
          let full := decide (4096 < s.myCluster.log.length + 1)
          let mine (e : LogEntry) : Bool := e.core == s.cur && e.slot == s.curSlot
          entry + 16 ≤ word ∨ word + 8 ≤ entry → ∃ t, exec q.1 s = .next t ∧
            t.dword entry = BitVec.ofNat 64 (ckptLocal (clusterOf s.cur) word) ∧ t.dword (entry + 8) = s.dword word ∧
            t.bytes p.addr q.2 = leBytes q.2 (s.x rs).toNat ∧
            (∀ b, ¬(entry ≤ b ∧ b < entry + 16) → ¬(p.addr ≤ b ∧ b < p.addr + q.2) → t.byte b = s.byte b) ∧
            t.myCluster.ckpts = (counted fun x => { x with count := x.count + 1 }) ∧
            t.myCluster.log = (if s.preCommit then
              (if full then s.myCluster.log.filter (!mine ·) else s.myCluster.log ++ [⟨s.cur, s.curSlot, word, s.dword word⟩])
              else s.myCluster.log) ∧
            t.me = { s.me with pc := s.me.pc + 4, cameFrom := s.me.pc, retired := s.me.retired + 1, wait := .none
                               post := s.me.post || s.preCommit && full, counted := 0, since := some s.steps } ∧
            (∀ n k : Nat, k < 4 → ¬(n = s.cur ∧ k = s.curSlot) → t.thread n k = s.thread n k) ∧
            (∀ n, { t.core n with threads := (s.core n).threads } = s.core n) ∧
            (∀ n, n ≠ clusterOf s.cur → t.cluster n = s.cluster n) ∧
            { t.myCluster with log := s.myCluster.log, ckpts := s.myCluster.ckpts } = s.myCluster ∧
            { t with cores := s.cores, clusters := s.clusters, mem := s.mem, fresh := s.fresh, poison := s.poison } = s))

/-- The checks of a scalar access in their order: misaligned (0x04); no local window, 2^52 or above, or a store to the stack-broadcast
region (0x05 or 0x06); the own private scratchpad below XB (0x08). The first that fails traps, and nothing else happens (R128). A
global access without a translation suspends its thread, at level T with the trap registers of cause 0x07 and at level S with none of
them written, and a fault record is held for the driver: rd and memory are unchanged, nothing commits, and its watchdog counter stands
still (R129, R303, R306). A leaf that lacks R or W, or that leads to no memory, traps (R128, R364). At level S, where the same tables
translate (R379), a failed check is a double fault (R300). All loads and stores. -/
def Obligations.ScalarAccessFaults : Prop :=
  (∀ (s : State) (rd rs1 : BitVec 5) (imm : BitVec 16), s.sound →
     let ea := s.x rs1 + BitVec.ofInt 64 imm.toInt
     let a := ea.toNat
     let windowless := ¬(a < 0x80000) ∧ ¬(0x100000 ≤ a ∧ a < 0x900000) ∧ ¬(0x10000000 ≤ a ∧ a < 0x32000000) ∧
       ¬(0x40000000 ≤ a ∧ a < 0x4A000000) ∧ a < 2 ^ 32
     ∀ q ∈ [(Instr.ldb rd rs1 imm, 1, false), (.ldbu rd rs1 imm, 1, false), (.ldh rd rs1 imm, 2, false), (.ldhu rd rs1 imm, 2, false),
         (.ldw rd rs1 imm, 4, false), (.ldwu rd rs1 imm, 4, false), (.ldd rd rs1 imm, 8, false),
         (.stb rd rs1 imm, 1, true), (.sth rd rs1 imm, 2, true), (.stw rd rs1 imm, 4, true), (.std rd rs1 imm, 8, true)],
       let tr (c : Nat) : Trap := { cause := c, eval := ea, wr := q.2.2 }
       (a % q.2.1 ≠ 0 → s.failsAs q.1 s (tr 4)) ∧
       (a % q.2.1 = 0 → (windowless ∨ 2 ^ 52 ≤ a ∨ (q.2.2 = true ∧ 0x30000000 ≤ a ∧ a < 0x32000000)) →
         s.failsAs q.1 s (tr (if q.2.2 then 6 else 5))) ∧
       (a % q.2.1 = 0 → a < 0x80000 → a < s.myCore.xb.toNat → s.failsAs q.1 s (tr 8))) ∧
  (∀ (s : State) (rd rs1 : BitVec 5) (imm : BitVec 16), s.sound →
     let ea := s.x rs1 + BitVec.ofInt 64 imm.toInt
     2 ^ 32 ≤ ea.toNat → ea.toNat < 2 ^ 52 →
     ∀ q ∈ [(Instr.ldb rd rs1 imm, false, 1), (.ldbu rd rs1 imm, false, 1), (.ldh rd rs1 imm, false, 2), (.ldhu rd rs1 imm, false, 2),
         (.ldw rd rs1 imm, false, 4), (.ldwu rd rs1 imm, false, 4), (.ldd rd rs1 imm, false, 8),
         (.stb rd rs1 imm, true, 1), (.sth rd rs1 imm, true, 2), (.stw rd rs1 imm, true, 4), (.std rd rs1 imm, true, 8)],
       ea.toNat % q.2.2 = 0 →
       (∀ kind level entry s1,
         s.coreXlate s.cur (s.asnOf s.cur s.curSlot) ea.toNat = (.fail kind level entry, s1) →
         let f : FaultRef := { va := ea.toNat, write := q.2.1, strm := 0, kind := kind, level := level, entry := entry }
         let stopped : Thread := { s.me with wait := .suspended f, counted := s.me.count s.steps, since := none }
         ∃ t, exec q.1 s = .next t ∧ s.sameMemory t ∧ t.myCluster = s.myCluster ∧
           (s.me.level = .S → t.me = stopped) ∧
           (s.me.level = .T → t.me = { stopped with
             epc := s.me.pc, ecause := 7, eval := ea, estat := estatOf { cause := 7, wr := q.2.1 } (s.me.occ = .task && !s.me.post) }) ∧
           t.myTower = { s.myTower with heldFaults := s.myTower.heldFaults ++ [s.threadRecord s.cur s.curSlot f]
                                        tables := t.myTower.tables }) ∧
       (∀ e s1, s.coreXlate s.cur (s.asnOf s.cur s.curSlot) ea.toNat = (.leaf e, s1) →
         (bit e.leaf (if q.2.1 then 3 else 2) = false ∨ s1.locate (towerOf s.cur) (ptePA e.leaf + (ea.toNat - e.base)) = none) →
         s.failsAs q.1 s1 { cause := (if q.2.1 then 6 else 5), eval := ea, wr := q.2.1 }))

/-- Rolling a task back writes its logged words back, youngest entry first, so that each word holds what the oldest entry recorded; every
byte outside the logged words, and every other task's log, is as before (R33; no checkpoint marked). -/
def Obligations.RollbackRestores : Prop :=
  ∀ (s : State) (n k : Nat), Memory.wf s.mem = true → (s.cluster (clusterOf n)).ckpts = [] →
    let log := (s.cluster (clusterOf n)).log
    let mine := log.filter fun e => e.core == n && e.slot == k
    (∀ e ∈ mine, e.addr % 8 = 0) →
    (∀ pre e post, mine = pre ++ e :: post → (∀ d ∈ pre, d.addr ≠ e.addr) → (s.rollback n k).dword e.addr = e.old) ∧
    (∀ b, (∀ e ∈ mine, ¬(e.addr ≤ b ∧ b < e.addr + 8)) → (s.rollback n k).byte b = s.byte b) ∧
    ((s.rollback n k).cluster (clusterOf n)).log = log.filter (fun e => !(e.core == n && e.slot == k)) ∧
    (s.rollback n k).cores = s.cores

/-- The conditional branches go to PC + sext(off16) × 4 when their condition holds and to PC + 4 otherwise, and write no register
(R130). JAL and JALR write PC + 4 to rd and jump; JALR takes its target from the old rs1 and traps as misaligned when the target is no
multiple of 4. SUBBNZ writes rd − rs and branches when the difference is not zero, which with rd = x0 is −rs (R131, R134). -/
def Obligations.BranchesAndJumps : Prop :=
  (∀ (s : State) (rs1 rs2 : BitVec 5) (off : BitVec 16), s.sound →
     let a := s.x rs1
     let b := s.x rs2
     let to_ (c : Bool) : Word := if c then s.me.pc + BitVec.ofInt 64 (off.toInt * 4) else s.me.pc + 4
     s.goes (.beq rs1 rs2 off) (to_ (decide (a = b))) ∧ s.goes (.bne rs1 rs2 off) (to_ (decide (a ≠ b))) ∧
     s.goes (.blt rs1 rs2 off) (to_ (decide (a.toInt < b.toInt))) ∧ s.goes (.bge rs1 rs2 off) (to_ (decide (b.toInt ≤ a.toInt))) ∧
     s.goes (.bltu rs1 rs2 off) (to_ (decide (a.toNat < b.toNat))) ∧ s.goes (.bgeu rs1 rs2 off) (to_ (decide (b.toNat ≤ a.toNat)))) ∧
  (∀ (s : State) (rd rs1 : BitVec 5) (imm : BitVec 16) (off : BitVec 21), s.sound →
     let link (i : Instr) (v target : Word) : Prop :=
       ∃ t, exec i s = .next t ∧ s.onlyMe t ∧ s.tookX t rd v ∧ s.wentTo t target ∧ s.me.keptRest t.me
     link (.jal rd off) (s.me.pc + 4) (s.me.pc + BitVec.ofInt 64 (off.toInt * 4)) ∧
     (let u := s.x rs1 + BitVec.ofInt 64 imm.toInt
      (u.toNat % 4 = 0 → link (.jalr rd rs1 imm) (s.me.pc + 4) u) ∧
      (u.toNat % 4 ≠ 0 → s.me.level = .T → s.traps (.jalr rd rs1 imm) { cause := 4, eval := u })) ∧
     (let d := s.x rd - s.x rs1
      link (.subbnz rd rs1 imm) d (if d ≠ 0 then s.me.pc + BitVec.ofInt 64 (imm.toInt * 4) else s.me.pc + 4)))


/-! ### CSRs, strip mining and vector configuration -/

/-- A CSR form on a CSR that its level may access writes the CSR's old value to rd, and its new value to the CSR: the source, the old
value with the source's bits set, or with them cleared; with a source field of 0 the set and clear forms write nothing (R135). Tile
tags are stated apart; a write of TOWN or LOWN waits for units being zeroed (R326). What a write leaves in a CSR: the writable
fields take the value and reserved bits read 0; FCSR.RM keeps its value for 5 to 7, and flags that the write sets join the summaries of
the cluster and the layer (R58); an illegal VTYPE image sets VILL; VL stores at most VLMAX, where VLMAX under VILL is the model's 0
(log 66); RETIRED holds the value written once the instruction has retired; read-only CSRs ignore the write (R9, R53 to R56, R59,
R137). That flags which a write of FCSR sets join CFLAGS and LFLAGS is the model's choice (log 47). -/
def Obligations.CsrForms : Prop :=
  (∀ (s : State) (rd r : BitVec 5) (c : BitVec 12), s.sound → (c.toNat < 0x100 ∨ s.me.level = .S) →
     ¬(0x010 ≤ c.toNat ∧ c.toNat ≤ 0x017) → (s.myCore.zeroing = [] ∨ c ≠ 0x109 ∧ c ≠ 0x10D ∧ c ≠ 0x10F) →
     let old := s.readCsr c.toNat
     let put (v : Word) : State := (s.writeCsr c.toNat v).result rd old
     s.becomes (.csrrw rd r c) (put (s.x r)) ∧ s.becomes (.csrrwi rd r c) (put (zx r)) ∧
     (r ≠ 0 → s.becomes (.csrrs rd r c) (put (old ||| s.x r)) ∧ s.becomes (.csrrc rd r c) (put (old &&& ~~~s.x r)) ∧
       s.becomes (.csrrsi rd r c) (put (old ||| zx r)) ∧ s.becomes (.csrrci rd r c) (put (old &&& ~~~zx r))) ∧
     (r = 0 → s.gives (.csrrs rd r c) rd old ∧ s.gives (.csrrc rd r c) rd old ∧ s.gives (.csrrsi rd r c) rd old ∧
       s.gives (.csrrci rd r c) rd old)) ∧
  (∀ (s : State) (rd r : BitVec 5), s.sound → s.me.level = .S → s.myCore.zeroing ≠ [] →
     s.waits (.csrrw rd r 0x109) ∧ s.waits (.csrrw rd r 0x10D)) ∧
  (∀ (s : State) (v : Word),
     (∀ p ∈ [(0x005, 0xFFFF), (0x006, 0x3), (0x007, 0x7F7F7F7F), (0x008, 0x1), (0x009, 0xFFFFFFFF), (0x100, 0x7F000),
         (0x101, 0xFFFFFFFFFFFFFFFF), (0x102, 0xFFFFFFFFFFFFFFFF), (0x103, 0xFF), (0x104, 0xFFFFFFFFFFFFFFFF),
         (0x105, 0xFFFFFFFFFFFFFFFF), (0x106, 0xFFFFFFFFFFFFFFFF), (0x109, 0xFFFFFFFFFFFFFFFF), (0x10A, 0xFFFFFFFFFFFFFFFF),
         (0x10B, 0xFFFFFFFFFFFFFFFF), (0x10C, 0x7F), (0x10D, 0xFFFFFFFF)],
       (s.writeCsr p.1 v).readCsr p.1 = v &&& BitVec.ofNat 64 p.2) ∧
     (let w := (s.writeCsr 0x001 v).readCsr 0x001
      fld w 0 3 = (if fld v 0 3 ≤ 4 then fld v 0 3 else fld s.me.fcsr 0 3) ∧ fld w 3 13 = fld v 3 13 ∧ fld w 16 48 = 0) ∧
     (∀ i < 64, let t := s.writeCsr 0x001 v
      let fresh := decide (3 ≤ i ∧ i < 10) && bit v i && !bit s.me.fcsr i
      bit t.myCluster.cflags i = (bit s.myCluster.cflags i || fresh) ∧
      bit (t.layer (layerOf s.cur)).lflags i = (bit (s.layer (layerOf s.cur)).lflags i || fresh)) ∧
     (let t := s.writeCsr 0x002 v
      let n := t.readCsr 0x004
      if vtypeLegal v then t.readCsr 0x002 = v &&& 0xFFF ∧ t.readCsr 0x003 = (if s.me.vl.toNat ≤ n.toNat then s.me.vl else n) ∧
         n = BitVec.ofNat 64 (s.lanes * 32 / widthOf (fld v 0 4) * 2 ^ fld v 4 3)
       else t.readCsr 0x002 = 0x8000000000000000 ∧ n = 0) ∧
     (s.writeCsr 0x003 v).readCsr 0x003 = (if v.toNat ≤ (s.readCsr 0x004).toNat then v else s.readCsr 0x004) ∧
     (s.writeCsr 0x031 v).retire.readCsr 0x031 = v ∧
     (s.writeCsr 0x107 v).readCsr 0x107 = (s.readCsr 0x107 &&& ~~~1#64) ||| (v &&& 1) ∧
     (∀ c ∈ [0x004, 0x020, 0x021, 0x022, 0x023, 0x024, 0x025, 0x030, 0x050, 0x051, 0x060, 0x061], s.writeCsr c v = s) ∧
     (∀ k < 32, fld ((s.writeCsr (0x120 + k) v).readCsr (0x120 + k)) 0 37 = fld v 0 37))

/-- A CSR form that names TTAGt touches tile t: unowned, the issuer claims it and its contents and tag read zero; owned by another
context, it traps with cause tile unavailable and writes nothing, a double fault at level S; a tile still being zeroed makes it wait
(R51, R60, R62, R300). The form gives rd the tag as it stood, and the tag the new value (R135): its domain, coefficient level and
origin; a LEV of 6 or 7 leaves LEV unchanged (R51). All six forms, with any source, at both levels. -/
def Obligations.TileTagTouch : Prop :=
  ∀ (s : State) (rd r : BitVec 5) (u : Nat) (c : BitVec 12), s.sound → u < 8 → c.toNat = 0x010 + u →
    let b := s.myCore.ownerByte u
    let ctx := fld s.me.ctxid 0 7
    let mine := 128 ≤ b ∧ b % 128 = ctx
    let old : Word := if b < 128 then 0 else s.myCore.ttag.getD u 0
    let some_ (v : Word) : Option Word := if r = 0 then none else some v
    ∀ q ∈ [(Instr.csrrw rd r c, some (s.x r)), (.csrrwi rd r c, some (zx r)), (.csrrs rd r c, some_ (old ||| s.x r)),
        (.csrrc rd r c, some_ (old &&& ~~~s.x r)), (.csrrsi rd r c, some_ (old ||| zx r)), (.csrrci rd r c, some_ (old &&& ~~~zx r))],
      (s.myCore.zeroing.contains u = true → s.waits q.1) ∧
      (s.myCore.zeroing.contains u = false → b < 128 ∨ mine → ∃ t, exec q.1 s = .next t ∧
        s.tookX t rd old ∧ s.wentTo t (s.me.pc + 4) ∧ s.me.keptRest t.me ∧ s.inCore t ∧ t.myCore.ownerByte u = 128 + ctx ∧
        t.myCore.ttag.getD u 1 = (match q.2 with
          | none => old
          | some w => (w &&& 0xFFFFFFFF00000001) ||| (if fld w 1 3 ≤ 5 then w &&& 0xE else old &&& 0xE)) ∧
        (b < 128 → t.myCore.acc.getD u (Vector.replicate 32 1) = Vector.replicate 32 0) ∧ (mine → t.myCore.acc = s.myCore.acc) ∧
        (∀ v < 12, v ≠ u → t.myCore.ownerByte v = s.myCore.ownerByte v) ∧
        (∀ v : Fin 8, v.val ≠ u → t.myCore.ttag[v] = s.myCore.ttag[v] ∧ t.myCore.acc[v] = s.myCore.acc[v]) ∧
        { t.myCore with town := s.myCore.town, acc := s.myCore.acc, ttag := s.myCore.ttag, threads := s.myCore.threads } = s.myCore) ∧
      (s.myCore.zeroing.contains u = false → 128 ≤ b → b % 128 ≠ ctx →
        s.failsAs q.1 s { cause := 0xB, eval := BitVec.ofNat 64 u })

/-- The lane boundary of a slot (R26): groups outside its PENDG are given up, with HOME the slot and LENT set; groups of its PENDG
that no slot holds are taken, lowest first, while more than r groups stay unheld. Other slots' masks and every PENDG keep their
values. A boundary changes nothing but LPART and, when the thread's groups change, its vector and mask registers: lane positions below
both lane counts keep their contents, the others read as zero; tags stay (R26, R27).
STRIP makes the lane boundary, then advances each pointer register that mask4 selects by the old VL shifted by its entry's size, sets
VL to min(rs1, VLMAX) and copies it to rd. Without lanes it traps with cause 0x0F, and with VILL set with cause 0x01, after the boundary;
VL, rd and the pointers are then unchanged (R133). -/
def Obligations.LaneBoundaryAndStrip : Prop :=
  ((∀ (lp : Word) (all r k : Nat), (all = 15 ∨ all = 3) → k < 4 →
       let lp' := lpBoundary all r lp k
       let holds (j g : Nat) : Bool := (force lp j).testBit g
       let wants (g : Nat) : Bool := (pendg lp k).testBit g
       let free (g : Nat) : Bool := all.testBit g && !(holds k g && wants g) && (List.range 4).all fun j => j == k || !holds j g
       let room := ((List.range 4).filter free).length - r
       (∀ g < 4, (force lp' k).testBit g =
         ((holds k g && wants g) || (wants g && free g && decide (((List.range g).filter fun h => wants h && free h).length < room)))) ∧
       (∀ j < 4, pendg lp' j = pendg lp j ∧ (j ≠ k → force lp' j = force lp j)) ∧
       (∀ g < 4, homeOf lp' g = (if holds k g && !wants g then k else homeOf lp g) ∧
         lent lp' g = (lent lp g || (holds k g && !wants g)))) ∧
    (∀ s : State,
       let b := s.boundary
       let lp := lpBoundary (s.groupMask s.cur) s.myCore.resvGroups s.myCore.lpart s.curSlot
       let keep := min s.lanes b.lanes
       s.coresOnly b ∧ b.myCore.lpart = lp ∧ { b.myCore with lpart := s.myCore.lpart, threads := s.myCore.threads } = s.myCore ∧
       (∀ n k : Nat, k < 4 → ¬(n = s.cur ∧ k = s.curSlot) → b.thread n k = s.thread n k) ∧ (∀ n, n ≠ s.cur → b.core n = s.core n) ∧
       { b.me with v := s.me.v, m := s.me.m } = s.me ∧
       (force lp s.curSlot = force s.myCore.lpart s.curSlot → b.me = s.me) ∧
       (force lp s.curSlot ≠ force s.myCore.lpart s.curSlot → ∀ (r : Fin 32) (q : Fin 8) (i : Nat), i < 1024 →
         bit b.me.v[r] i = (bit s.me.v[r] i && decide (i < 32 * keep)) ∧ bit b.me.m[q] i = (bit s.me.m[q] i && decide (i < 32 * keep))))) ∧
  (∀ (s : State) (rd rs1 : BitVec 5) (mask : BitVec 4), s.sound →
      let b := s.boundary
      let n := (s.x rs1).toNat
      let vl := BitVec.ofNat 64 (min n b.vlmax)
      let moved (r : BitVec 5) : Word := ([0, 1, 2, 3] : List Nat).foldl
        (fun a i => if bit mask i = true ∧ fld s.me.spset (8 * i) 5 = r.toNat then a + s.me.vl <<< fld s.me.spset (8 * i + 5) 2 else a)
        (s.x r)
      (b.lanes ≠ 0 → vill s.me.vtype = false → ∃ t, exec (.strip rd rs1 mask) s = .next t ∧
        t.me.vl = vl ∧ (∀ r, r ≠ 0 → t.x r = if r = rd then vl else moved r) ∧ s.wentTo t (s.me.pc + 4) ∧ b.onlyMe t ∧
        { t.me with x := b.me.x, sx := b.me.sx, vl := b.me.vl, pc := b.me.pc, cameFrom := b.me.cameFrom
                    retired := b.me.retired, wait := b.me.wait, counted := b.me.counted, since := b.me.since } = b.me) ∧
      (s.me.level = .T → b.lanes = 0 →
        ∃ t, exec (.strip rd rs1 mask) s = .next t ∧ b.trapped t { cause := 0xF, eval := s.myWord, eval2 := 6 }) ∧
      (s.me.level = .T → b.lanes ≠ 0 → vill s.me.vtype = true →
        ∃ t, exec (.strip rd rs1 mask) s = .next t ∧ b.trapped t { cause := 1, eval := s.myWord, eval2 := 5 }))

/-- VSETVL and VSETVLI make the boundary; a legal image becomes VTYPE and VL follows rs1, or VLMAX when rs1 is x0 and rd is not, or stays
within VLMAX; an illegal one sets VILL and clears VL; rd takes VL. VLMAXQ gives the VLMAX of an image, 0 for an illegal one. All three
leave ESTART 0 and change nothing else (R141, R143); for VLMAXQ that is the model's choice (log 81). -/
def Obligations.VectorConfiguration : Prop :=
  ∀ (s : State) (rd rs1 rs2 : BitVec 5) (imm : BitVec 12), s.sound →
    let b := s.boundary
    (b.lanes ≠ 0 → ∀ q ∈ [(Instr.vsetvl rd rs1 rs2, s.x rs2), (.vsetvli rd rs1 imm, zx imm)],
      let im : Word := q.2 &&& 0xFFF
      let vlmax := b.lanes * 32 / widthOf (fld im 0 4) * 2 ^ fld im 4 3
      let vl : Word := if vtypeLegal im = false then 0
        else if rs1 ≠ 0 then BitVec.ofNat 64 (min (s.x rs1).toNat vlmax)
        else if rd ≠ 0 then BitVec.ofNat 64 vlmax else BitVec.ofNat 64 (min s.me.vl.toNat vlmax)
      ∃ t, exec q.1 s = .next t ∧ t.me.vtype = (if vtypeLegal im then im else 0x8000000000000000) ∧ t.me.vl = vl ∧ b.onlyMe t ∧
        b.tookX t rd vl ∧ b.wentTo t (s.me.pc + 4) ∧ t.me.estart = 0 ∧ t.me.restart = none ∧
        { t.me with vtype := b.me.vtype, vl := b.me.vl, x := b.me.x, sx := b.me.sx, pc := b.me.pc, cameFrom := b.me.cameFrom
                    retired := b.me.retired, wait := b.me.wait, counted := b.me.counted, since := b.me.since
                    estart := b.me.estart, restart := b.me.restart } = b.me) ∧
    (s.me.level = .T → b.lanes = 0 → ∀ i ∈ [Instr.vsetvl rd rs1 rs2, .vsetvli rd rs1 imm],
      ∃ t, exec i s = .next t ∧ b.trapped t { cause := 0xF, eval := s.myWord, eval2 := 6 }) ∧
    (s.lanes ≠ 0 → vill s.me.vtype = false →
      s.vecGives (.vlmaxq rd rs2) rd
        (if vtypeLegal (s.x rs2 &&& 0xFFF) then
          BitVec.ofNat 64 (s.lanes * 32 / widthOf (fld (s.x rs2) 0 4) * 2 ^ fld (s.x rs2) 4 3) else 0) [])


/-! ### Vector forms -/

/-- The integer forms of major 0x2B: each processed element takes the result of R146 in its low SEW bits, by the signedness of ET; the bitwise
forms take every element type; VSADD and VSSUB clamp, with SAT; VMERGE writes every body element; VMV writes one value (R145 to R147).
A scalar operand that is converted to BF16 is stated apart (R83). That every element takes the value that a source had before the
instruction, where the source is vd too, is the model's choice (log 67). -/
def Obligations.VectorIntegerForms : Prop :=
  ∀ (s : State) (vd vs1 vs2 rs2 imm : BitVec 5) (vm : BitVec 3) (k1 k2 : BitVec 1) (g : Word), s.vecReady →
    let c := s.vctx
    aligned c vd = true → aligned c vs1 = true →
    let a := c.get s.me vs1
    let b := c.get s.me vs2
    let d := c.get s.me vd
    let x := (s.x rs2).toNat % 2 ^ c.sew
    let im := (imm.toInt % 2 ^ c.sew).toNat
    let low (v : Int) : Nat × Flags := ((v % 2 ^ c.sew).toNat, 0)
    let num (v : Nat) : Int := if c.et ≤ 2 ∧ 2 ^ (c.sew - 1) ≤ v then v - 2 ^ c.sew else v
    let sat (v : Int) : Nat × Flags :=
      let lo : Int := if c.et ≤ 2 then -2 ^ (c.sew - 1) else 0
      let hi : Int := if c.et ≤ 2 then 2 ^ (c.sew - 1) - 1 else 2 ^ c.sew - 1
      ((max lo (min hi v) % 2 ^ c.sew).toNat, if v < lo ∨ hi < v then fSAT else 0)
    let vv (i : Instr) (f : Nat → Nat × Flags) : Prop := aligned c vs2 = true →
      s.domain c .nonLinear [vs1, vs2] (some vd) vm = .inl g →
      s.doesVec i c vd vm true false g (c.mark vs1 k1 ++ c.mark vs2 k2) f
    let vx (i : Instr) (f : Nat → Nat × Flags) : Prop := c.et ≠ 8 → s.domain c .nonLinear [vs1] (some vd) vm = .inl g →
      s.doesVec i c vd vm true false g (c.mark vs1 k1) f
    let vi (i : Instr) (f : Nat → Nat × Flags) : Prop := s.domain c .nonLinear [vs1] (some vd) vm = .inl g →
      s.doesVec i c vd vm true false g (c.mark vs1 k1) f
    vv (.vandVv vd vs1 vs2 vm k1 k2) (fun i => (a i &&& b i, 0)) ∧ vx (.vandVx vd vs1 rs2 vm k1 k2) (fun i => (a i &&& x, 0)) ∧
    vv (.vorVv vd vs1 vs2 vm k1 k2) (fun i => (a i ||| b i, 0)) ∧ vx (.vorVx vd vs1 rs2 vm k1 k2) (fun i => (a i ||| x, 0)) ∧
    vv (.vxorVv vd vs1 vs2 vm k1 k2) (fun i => (a i ^^^ b i, 0)) ∧ vx (.vxorVx vd vs1 rs2 vm k1 k2) (fun i => (a i ^^^ x, 0)) ∧
    vi (.vxorVi vd vs1 imm vm k1 k2) (fun i => (a i ^^^ im, 0)) ∧
    (s.domain c .nonLinear [] (some vd) vm = .inl g →
      s.doesVec (.vmvVx vd rs2 vm k1 k2) c vd vm true false g [] (fun _ => (x, 0)) ∧
      s.doesVec (.vmvVi vd imm vm k1 k2) c vd vm true false g [] (fun _ => (im, 0))) ∧
    (aligned c vs2 = true → s.domain c .like [vs1, vs2] (some vd) 0 = .inl g →
      s.doesVec (.vmergeVv vd vs1 vs2 vm k1 k2) c vd vm false false g (c.mark vs1 k1 ++ c.mark vs2 k2)
        (fun i => (if c.active s.me vm i then b i else a i, 0))) ∧
    (c.isInt = true →
      vv (.vaddVv vd vs1 vs2 vm k1 k2) (fun i => low (a i + b i)) ∧ vx (.vaddVx vd vs1 rs2 vm k1 k2) (fun i => low (a i + x)) ∧
      vi (.vaddVi vd vs1 imm vm k1 k2) (fun i => low (a i + im)) ∧
      vv (.vsubVv vd vs1 vs2 vm k1 k2) (fun i => low (a i - b i)) ∧ vx (.vsubVx vd vs1 rs2 vm k1 k2) (fun i => low (a i - x)) ∧
      vi (.vrsubVi vd vs1 imm vm k1 k2) (fun i => low (im - a i)) ∧
      vv (.vsllVv vd vs1 vs2 vm k1 k2) (fun i => low (a i * 2 ^ (b i % c.sew))) ∧
      vi (.vsllVi vd vs1 imm vm k1 k2) (fun i => low (a i * 2 ^ (imm.toNat % c.sew))) ∧
      vv (.vsrVv vd vs1 vs2 vm k1 k2) (fun i => low (num (a i) / 2 ^ (b i % c.sew))) ∧
      vi (.vsrVi vd vs1 imm vm k1 k2) (fun i => low (num (a i) / 2 ^ (imm.toNat % c.sew))) ∧
      vv (.vminVv vd vs1 vs2 vm k1 k2) (fun i => low (min (num (a i)) (num (b i)))) ∧
      vx (.vminVx vd vs1 rs2 vm k1 k2) (fun i => low (min (num (a i)) (num x))) ∧
      vv (.vmaxVv vd vs1 vs2 vm k1 k2) (fun i => low (max (num (a i)) (num (b i)))) ∧
      vx (.vmaxVx vd vs1 rs2 vm k1 k2) (fun i => low (max (num (a i)) (num x))) ∧
      vv (.vmulVv vd vs1 vs2 vm k1 k2) (fun i => low (a i * b i)) ∧ vx (.vmulVx vd vs1 rs2 vm k1 k2) (fun i => low (a i * x)) ∧
      vv (.vmulhVv vd vs1 vs2 vm k1 k2) (fun i => low (num (a i) * num (b i) / 2 ^ c.sew)) ∧
      (s.domain c .nonLinear [vs1, vs2, vd] (some vd) vm = .inl g → aligned c vs2 = true →
        s.doesVec (.vmaccVv vd vs1 vs2 vm k1 k2) c vd vm true false g (c.mark vs1 k1 ++ c.mark vs2 k2)
          (fun i => low (d i + a i * b i))) ∧
      (s.domain c .nonLinear [vs1, vd] (some vd) vm = .inl g →
        s.doesVec (.vmaccVx vd vs1 rs2 vm k1 k2) c vd vm true false g (c.mark vs1 k1) (fun i => low (d i + a i * x))) ∧
      vv (.vsaddVv vd vs1 vs2 vm k1 k2) (fun i => sat (num (a i) + num (b i))) ∧
      vv (.vssubVv vd vs1 vs2 vm k1 k2) (fun i => sat (num (a i) - num (b i))))

/-- The floating-point forms of major 0x2C on vectors: each processed element takes one rounding of the exact result in FP32 or BF16,
with subnormals flushed under FTZ where R78 says so, and its flags; X captures (R148 to R151). VFNMSAC, VFREC and VFRSQRT of finite
operands by one rounding of the exact value, a quotient or root standing as more bits than the format has and a sticky part; VFEXP2 of
an integer by one rounding of the power of two, of any other number only that it is inexact; the round-to-integer form by the rounded
integer; and the special cases of VFREC, VFRSQRT and VFEXP2 (R149, R150). What VFEXP2 gives for a number that is no integer is the
model's approximation (log 12); that every element takes the value that a source had before the instruction, where the source is vd
too, is the model's choice (log 67). -/
def Obligations.VectorFpForms : Prop :=
  (∀ (s : State) (vd vs1 vs2 : BitVec 5) (vm : BitVec 3) (x k1 k2 : BitVec 1) (g : Word), s.vecReady →
     let c := s.vctx
     (c.et = 8 ∨ c.et = 0xA) → aligned c vd = true → aligned c vs1 = true → aligned c vs2 = true →
     let f : Fmt := if c.et = 8 then BF16 else FP32
     let sub (v : Nat) : Bool := v / 2 ^ f.mb % 2 ^ f.eb == 0
     let inp (v : Nat) : Nat := if c.ftz && sub v then f.sign (f.signOf v) else v
     let out (r : Nat × Flags) : Nat × Flags :=
       if c.ftz && sub r.1 && r.1 % 2 ^ f.mb != 0 then (f.sign (f.signOf r.1), r.2 ||| fUF ||| fNX) else r
     let a i := inp (c.get s.me vs1 i)
     let b i := inp (c.get s.me vs2 i)
     let d i := inp (c.get s.me vd i)
     let ra i := c.get s.me vs1 i
     let rb i := c.get s.me vs2 i
     let marks2 := c.mark vs1 k1 ++ c.mark vs2 k2
     let two (dc : DomClass) (i : Instr) (h : Nat → Nat × Flags) : Prop := s.domain c dc [vs1, vs2] (some vd) vm = .inl g →
       s.doesVec i c vd vm true (x == 1) g marks2 h
     let acc (i : Instr) (h : Nat → Nat × Flags) : Prop := s.domain c .nonLinear [vs1, vs2, vd] (some vd) vm = .inl g →
       s.doesVec i c vd vm true (x == 1) g marks2 h
     let one (cap : Bool) (i : Instr) (h : Nat → Nat × Flags) : Prop := s.domain c .nonLinear [vs1] (some vd) vm = .inl g →
       s.doesVec i c vd vm true cap g (c.mark vs1 k1) h
     let sgn (i : Instr) (dc : DomClass) (h : Nat → Nat) : Prop := s.domain c dc [vs1, vs2] (some vd) vm = .inl g →
       s.doesVec i c vd vm true false g marks2 (fun i => (h i, 0))
     let w : Nat := if c.et = 8 then 16 else 32
     let half : Int := 2 ^ (w - 1)
     two .like (.vfaddVv vd vs1 vs2 vm x k1 k2) (fun i => out (fAdd f c.rm (a i) (b i))) ∧
     two .like (.vfsubVv vd vs1 vs2 vm x k1 k2) (fun i => out (fSub f c.rm (a i) (b i))) ∧
     two .nonLinear (.vfmulVv vd vs1 vs2 vm x k1 k2) (fun i => out (fMul f c.rm (a i) (b i))) ∧
     two .nonLinear (.vfdivVv vd vs1 vs2 vm x k1 k2) (fun i => out (fDiv f c.rm (a i) (b i))) ∧
     acc (.vfmaccVv vd vs1 vs2 vm x k1 k2) (fun i => out (fMac f c.rm (d i) (a i) (b i))) ∧
     acc (.vfnmsacVv vd vs1 vs2 vm x k1 k2) (fun i => out (fNmsac f c.rm (d i) (a i) (b i))) ∧
     two .nonLinear (.vfminVv vd vs1 vs2 vm x k1 k2) (fun i => fMinMax false f (a i) (b i)) ∧
     two .nonLinear (.vfmaxVv vd vs1 vs2 vm x k1 k2) (fun i => fMinMax true f (a i) (b i)) ∧
     sgn (.vfsgnjVv vd vs1 vs2 vm k1 k2) .nonLinear (fun i => withSign f (ra i) (f.signOf (rb i))) ∧
     sgn (.vfsgnjnVv vd vs1 vs2 vm k1 k2) .negate (fun i => withSign f (ra i) (!f.signOf (rb i))) ∧
     sgn (.vfsgnjxVv vd vs1 vs2 vm k1 k2) .nonLinear (fun i => withSign f (ra i) (f.signOf (ra i) != f.signOf (rb i))) ∧
     one (x == 1) (.vfsqrt vd vs1 vm x k1) (fun i => out (fSqrt f c.rm (a i))) ∧
     one (x == 1) (.vfrec vd vs1 vm x k1) (fun i => out (fRec f c.rm (a i))) ∧
     one (x == 1) (.vfrsqrt vd vs1 vm x k1) (fun i => out (fRsqrt f c.rm (a i))) ∧
     one (x == 1) (.vfexp2 vd vs1 vm x k1) (fun i => out (fExp2 f c.rm (a i))) ∧
     one (x == 1) (.vfcvtI vd vs1 vm x k1) (fun i =>
       let r := (f.decode (a i)).narrowInt c.rm (-half) (half - 1)
       ((r.1 % 2 ^ w).toNat, r.2)) ∧
     one (x == 1) (.vfcvtUi vd vs1 vm x k1) (fun i =>
       let r := (f.decode (a i)).narrowInt c.rm 0 (2 * half - 1)
       ((r.1 % 2 ^ w).toNat, r.2)) ∧
     one (x == 1) (.vfcvtFi vd vs1 vm x k1) (fun i =>
       let n : Int := if half ≤ (ra i : Int) then ra i - 2 ^ w else ra i
       (FVal.fin (n < 0) n.natAbs 0 false).narrow f c.rm) ∧
     one (x == 1) (.vfcvtFui vd vs1 vm x k1) (fun i => (FVal.fin false (ra i) 0 false).narrow f c.rm) ∧
     one (x == 1) (.vfcvtRint vd vs1 vm x k1) (fun i => fRint f c.rm (a i)) ∧
     one false (.vfclass vd vs1 vm k1) (fun i => (fClass f (ra i), 0))) ∧
  (∀ f ∈ [FP32, BF16], ∀ (rm : RM) (a : Nat), a < 2 ^ f.width →
     let v := f.decode a
     let nan : Nat × Flags := (f.cnan, if v.isSig then fNV else 0)
     (v.isNan → fRec f rm a = nan ∧ fRsqrt f rm a = nan ∧ fExp2 f rm a = nan) ∧
     (v.isZero → fRec f rm a = (f.infBits v.neg, fDZ) ∧ fRsqrt f rm a = (f.infBits v.neg, fDZ) ∧
       fExp2 f rm a = (f.bias * 2 ^ f.mb, 0)) ∧
     (v.isInf → fRec f rm a = (f.sign v.neg, 0) ∧ fRsqrt f rm a = (if v.neg then (f.cnan, fNV) else (0, 0)) ∧
       fExp2 f rm a = (if v.neg then (0, 0) else (f.infBits false, 0))) ∧
     (v.neg ∧ !v.isZero ∧ !v.isNan → fRsqrt f rm a = (f.cnan, fNV)) ∧
     (∀ (n : Nat) (e : Int), v = .fin false n e false → ∀ k : Nat, 1 ≤ k → k ≤ f.bias → (n : Int) * 2 ^ e.toNat = k * 2 ^ (-e).toNat →
       fExp2 f rm a = ((k + f.bias) * 2 ^ f.mb, 0)) ∧
     (∀ (neg : Bool) (m : Nat) (e : Int), v = .fin neg m e false → m ≠ 0 →
       (∃ k : Nat, 2 ^ (f.mb + 3) ≤ 2 ^ k / m ∧
         fRec f rm a = (FVal.fin neg (2 ^ k / m) (-e - k) (decide (2 ^ k % m ≠ 0))).arith f rm) ∧
       (neg = false → ∃ k r : Nat, 2 ^ (f.mb + 3) ≤ r ∧ (e + k) % 2 = 0 ∧ r * r * m ≤ 2 ^ k ∧ 2 ^ k < (r + 1) * (r + 1) * m ∧
         fRsqrt f rm a = (FVal.fin false r (-((e + k) / 2)) (decide (r * r * m ≠ 2 ^ k))).arith f rm) ∧
       (∀ k : Int, (if neg then -(m : Int) else m) * 2 ^ e.toNat = k * 2 ^ (-e).toNat →
         fExp2 f rm a = (FVal.fin false 1 k false).arith f rm) ∧
       ((∀ k : Int, (if neg then -(m : Int) else m) * 2 ^ e.toNat ≠ k * 2 ^ (-e).toNat) → (fExp2 f rm a).2 &&& fNX = fNX)) ∧
     (∀ (neg : Bool) (m : Nat) (e : Int), v = .fin neg m e false →
       let i := FVal.toInt rm neg m e false
       fRint f rm a = (((FVal.fin neg i.1.natAbs 0 false).arith f rm).1, if i.2 then fNX else 0))) ∧
  (∀ f ∈ [FP32, BF16], ∀ (rm : RM) (a b c : Nat) (n k i : Bool) (m p r : Nat) (e g h : Int),
     f.decode a = .fin n m e false → f.decode b = .fin k p g false → f.decode c = .fin i r h false →
     let q := min h (e + g)
     let v : Int := (if i then -1 else 1) * (r * 2 ^ (h - q).toNat) - (if n = k then 1 else -1) * (m * p * 2 ^ (e + g - q).toNat)
     v ≠ 0 → fNmsac f rm c a b = (FVal.fin (decide (v < 0)) v.natAbs q false).arith f rm)

/-- The forms with a scalar operand: it is the scalar's FP32 value, converted once to BF16 for that element type, with its flags (R83). A
flag it raises that is enabled traps before any element, at the element of ESTART. The bitwise integer forms take the scalar in the
same way (R145 to R147). That every element takes the value that a source had before the instruction, where the source is vd too, is
the model's choice (log 67). -/
def Obligations.VectorScalarFpForms : Prop :=
  ∀ (s : State) (vd vs1 rs2 : BitVec 5) (vm : BitVec 3) (x k1 k2 : BitVec 1) (g : Word), s.vecReady →
    let c := s.vctx
    (c.et = 8 ∨ c.et = 0xA) → aligned c vd = true → aligned c vs1 = true →
    let f : Fmt := if c.et = 8 then BF16 else FP32
    let y := FP32.decode ((s.x rs2).toNat % 2 ^ 32)
    let conv : Nat × Flags := if c.et = 8 then ((y.arith BF16 c.rm).1, (y.arith BF16 c.rm).2 ||| (if y.isSig then fNV else 0))
      else ((s.x rs2).toNat % 2 ^ 32, 0)
    let inp := flushIn c.ftz f
    let out := flushOut c.ftz f
    let a i := inp (c.get s.me vs1 i)
    let d i := inp (c.get s.me vd i)
    let b := inp conv.1
    let form (cap : Bool) (dc : DomClass) (srcs : List (BitVec 5)) (i : Instr) (h : Nat → Nat × Flags) : Prop :=
      s.domain c dc srcs (some vd) vm = .inl g →
      (enabled s.me.fcsr conv.2 = 0 → (∀ e, c.ran s.me vm true e = true → enabled s.me.fcsr (h e).2 = 0) →
        ∃ u t, s.raisedOnly u conv.2 ∧ exec i s = .next t ∧ u.vecDone t c vd vm true cap g (c.mark vs1 k1) h) ∧
      (enabled s.me.fcsr conv.2 ≠ 0 → s.me.level = .T →
        ∃ u t, s.raisedOnly u conv.2 ∧ exec i s = .next t ∧
          u.trapped t { cause := 0xC, eval := s.me.estart, eval2 := BitVec.ofNat 64 (enabled s.me.fcsr conv.2) })
    let run := form (x == 1)
    let bits (i : Instr) (h : Nat → Nat → Nat) : Prop :=
      form false .nonLinear [vs1] i (fun i => (h (c.get s.me vs1 i) conv.1, 0))
    bits (.vandVx vd vs1 rs2 vm k1 k2) (· &&& ·) ∧ bits (.vorVx vd vs1 rs2 vm k1 k2) (· ||| ·) ∧
    bits (.vxorVx vd vs1 rs2 vm k1 k2) (· ^^^ ·) ∧
    run .bias [vs1] (.vfaddVx vd vs1 rs2 vm x k1 k2) (fun i => out (fAdd f c.rm (a i) b)) ∧
    run .bias [vs1] (.vfsubVx vd vs1 rs2 vm x k1 k2) (fun i => out (fSub f c.rm (a i) b)) ∧
    run .nonLinear [vs1] (.vfrsubVx vd vs1 rs2 vm x k1 k2) (fun i => out (fSub f c.rm b (a i))) ∧
    run .one [vs1] (.vfmulVx vd vs1 rs2 vm x k1 k2) (fun i => out (fMul f c.rm (a i) b)) ∧
    run .one [vs1] (.vfdivVx vd vs1 rs2 vm x k1 k2) (fun i => out (fDiv f c.rm (a i) b)) ∧
    run .like [vs1, vd] (.vfmaccVx vd vs1 rs2 vm x k1 k2) (fun i => out (fMac f c.rm (d i) (a i) b)) ∧
    run .like [vs1, vd] (.vfnmsacVx vd vs1 rs2 vm x k1 k2) (fun i => out (fNmsac f c.rm (d i) (a i) b)) ∧
    run .nonLinear [vs1] (.vfminVx vd vs1 rs2 vm x k1 k2) (fun i => fMinMax false f (a i) b) ∧
    run .nonLinear [vs1] (.vfmaxVx vd vs1 rs2 vm x k1 k2) (fun i => fMinMax true f (a i) b)

/-- The checks of a vector form in their order: an element type or a group number that the form does not admit traps with cause 0x01 and
check 3; VILL with cause 0x01 and check 5; an empty lane grant with cause 0x0F; a Haar-tagged source of a non-linear
form with cause 0x0A, the register and its tag, unless TAGIGN is set (R28, R55, R102, R140, R214, R218). For VADD and VFMUL. The
result tag of the domain check: spatial sources give a spatial result in every class; a linear form whose sources agree in DOM
and LEV carries them forward with the union of their masks, the destination counting where it keeps elements below 32; otherwise
the first Haar-tagged source faults, unless TAGIGN makes the result spatial (R214 to R216, R218). An elementwise instruction
traps at its first element with an enabled flag: elements below it are written with their flags, it and the elements above are
not, its flags are set, ESTART names it, and the trap has cause 0x0C with the element and its enabled flags (R142, R301). For
VFADD, VFMUL and VFDIV, no capture. That check 3 reads the fields of VTYPE as they read under VILL, 0 (R55), is the model's
reading (log 11). -/
def Obligations.VectorTraps : Prop :=
  ((∀ (s : State) (vd vs1 vs2 : BitVec 5) (vm : BitVec 3), s.sound → s.me.level = .T →
      let c := s.vctx
      let word (cause check : Nat) : Trap := { cause := cause, eval := s.myWord, eval2 := BitVec.ofNat 64 check }
      let ok : Bool := aligned c vd && aligned c vs1 && aligned c vs2
      ∀ q ∈ [(Instr.vaddVv vd vs1 vs2 vm 0 0, c.isInt && ok), (.vfmulVv vd vs1 vs2 vm 0 0 0, c.isFp && ok)],
        (q.2 = false → s.traps q.1 (word 1 3)) ∧
        (q.2 = true → vill s.me.vtype = true → s.traps q.1 (word 1 5)) ∧
        (vill s.me.vtype = false → q.2 = true → s.lanes = 0 → s.traps q.1 (word 0xF 6)) ∧
        (vill s.me.vtype = false → q.2 = true → s.lanes ≠ 0 → bit s.me.dctl 0 = false →
          (bit s.me.vtag[vs1.toNat] 0 = true → s.traps q.1 { cause := 0xA, eval := zx vs1, eval2 := s.me.vtag[vs1.toNat] }) ∧
          (bit s.me.vtag[vs1.toNat] 0 = false → bit s.me.vtag[vs2.toNat] 0 = true →
            s.traps q.1 { cause := 0xA, eval := zx vs2, eval2 := s.me.vtag[vs2.toNat] }))) ∧
   (∀ (s : State) (c : VCtx) (vd vs1 vs2 : BitVec 5) (vm : BitVec 3),
      let tag (v : BitVec 5) : Word := s.me.vtag[v.toNat]
      let key (g : Word) : Nat := g.toNat % 16
      let mask (g : Word) : Nat := g.toNat / 2 ^ 32
      let keeps := c.keepsOld s.me vm && vd != vs1 && vd != vs2
      (∀ k, bit (tag vs1) 0 = false → bit (tag vs2) 0 = false → (keeps = true → bit (tag vd) 0 = false) →
        key (tag vs1) = 0 → key (tag vs2) = 0 → key (tag vd) = 0 →
        s.domain c k [vs1, vs2] (some vd) vm = .inl 0) ∧
      (c.keepsOld s.me vm = true ↔ ∃ e < 32, e < c.vlmax ∧ ((c.vl ≤ e ∧ c.ta = false) ∨
        (e < c.vl ∧ c.ma = false ∧ c.active s.me vm e = false))) ∧
      (keeps = true → bit (tag vs1) 0 = false → bit (tag vs2) 0 = false → bit (tag vd) 0 = true → bit s.me.dctl 0 = false →
        s.domain c .nonLinear [vs1, vs2] (some vd) vm = .inr { cause := 0xA, eval := zx vd, eval2 := tag vd }) ∧
      (key (tag vs1) = key (tag vs2) → (keeps = true → key (tag vd) = key (tag vs1)) → bit (tag vs1) 0 = true →
        ∃ g, s.domain c .like [vs1, vs2] (some vd) vm = .inl g ∧ key g = key (tag vs1) ∧
          mask g = mask (tag vs1) ||| mask (tag vs2) ||| (if keeps then mask (tag vd) else 0)) ∧
      (bit (tag vs1) 0 = true → bit s.me.dctl 0 = false →
        (∀ d, s.domain c .nonLinear [vs1, vs2] d vm = .inr { cause := 0xA, eval := zx vs1, eval2 := tag vs1 }) ∧
        (key (tag vs1) ≠ key (tag vs2) →
          s.domain c .like [vs1, vs2] (some vd) vm = .inr { cause := 0xA, eval := zx vs1, eval2 := tag vs1 })) ∧
      (bit s.me.dctl 0 = true → ∀ d, s.domain c .nonLinear [vs1, vs2] d vm = .inl 0) ∧
      (∀ d, s.domain c .blind [vs1, vs2] d vm = .inl 0))) ∧
  (∀ (s : State) (vd vs1 vs2 : BitVec 5) (vm : BitVec 3) (g : Word) (k : Nat), s.vecReady → s.me.level = .T → s.me.restart = none →
     let c := s.vctx
     (c.et = 8 ∨ c.et = 0xA) → aligned c vd = true → aligned c vs1 = true → aligned c vs2 = true → c.ftz = false →
     ∀ q ∈ [(Instr.vfaddVv vd vs1 vs2 vm 0 0 0, DomClass.like, fAdd c.fmt c.rm), (.vfmulVv vd vs1 vs2 vm 0 0 0, .nonLinear, fMul c.fmt c.rm),
         (.vfdivVv vd vs1 vs2 vm 0 0 0, .nonLinear, fDiv c.fmt c.rm)],
       let f (i : Nat) : Nat × Flags := q.2.2 (c.get s.me vs1 i) (c.get s.me vs2 i)
       let fl := { c with vl := k + 1 }.flagsOf s.me vm true f
       s.domain c q.2.1 [vs1, vs2] (some vd) vm = .inl g →
       c.ran s.me vm true k = true → enabled s.me.fcsr (f k).2 ≠ 0 →
       (∀ i < k, c.ran s.me vm true i = true → enabled s.me.fcsr (f i).2 = 0) →
       ∃ t, exec q.1 s = .next t ∧
         (∀ e < c.vlmax, c.get t.me vd e =
           if c.estart ≤ e ∧ e < k then (if c.active s.me vm e then (f e).1 % 2 ^ c.sew else if c.ma then 0 else c.get s.me vd e)
           else c.get s.me vd e) ∧
         t.me.vtag = s.me.vtag ∧ t.me.m = s.me.m ∧ t.me.fcsr = s.me.fcsr ||| (zx fl <<< 3) ∧ s.outside t fl ∧
         t.me.estart = BitVec.ofNat 64 k ∧ t.me.level = .S ∧ t.me.pc = s.myCore.evec ∧ t.me.epc = s.me.pc ∧ t.me.ecause = 0xC ∧
         t.me.eval = BitVec.ofNat 64 k ∧ t.me.eval2 = BitVec.ofNat 64 (enabled s.me.fcsr (f k).2) ∧ t.me.x = s.me.x)

/-- The permutes and moves of major 0x2D (R152): slides with fill, the gather with 0 from VL on, compress with the rest as tail, expand, VIOTA,
VID, VMV.vv with the tag, the extraction to a scalar register and the insertion of one element. Cross-element forms ignore ESTART (R142).
That every element takes the value that a source had before the instruction, where the source is vd too (log 67), that VIOTA's count
wraps at the element's width (log 44), and that VINSX at an index of VL or above leaves the tag (log 83), are the model's choices. -/
def Obligations.VectorPermutes : Prop :=
  ∀ (s : State) (vd vs1 vs2 n rd r1 r2 : BitVec 5) (vm : BitVec 3) (k1 k2 : BitVec 1) (g : Word), s.vecReady →
    let c := { s.vctx with estart := 0 }
    aligned c vd = true → aligned c vs1 = true → aligned c vs2 = true →
    let apart (v : BitVec 5) : Prop := groupsMeet c vd v = false
    let a := c.get s.me vs1
    let idx := c.get s.me vs2
    let fill := s.me.vfill.toNat % 2 ^ c.sew
    let act := (List.range c.vl).filter fun i => c.active s.me vm i
    let below (i : Nat) : Nat := (act.filter (· < i)).length
    let one := s.domain c .nonLinear [vs1] (some vd) vm = .inl g
    let v2 := (s.x r2).toNat
    (apart vs1 → one → s.doesVec (.vslupVi vd vs1 n vm k1 k2) c vd vm true false g (c.mark vs1 k1)
      (fun i => (if n.toNat ≤ i then a (i - n.toNat) else fill, 0))) ∧
    (apart vs1 → one → s.doesVec (.vsldnVi vd vs1 n vm k1 k2) c vd vm true false g (c.mark vs1 k1)
      (fun i => (if i + n.toNat < c.vl then a (i + n.toNat) else fill, 0))) ∧
    (apart vs1 → apart vs2 → s.domain c .nonLinear [vs1, vs2] (some vd) vm = .inl g →
      s.doesVec (.vrgathVv vd vs1 vs2 vm k1 k2) c vd vm true false g (c.mark vs1 k1 ++ c.mark vs2 k2)
        (fun i => (if idx i < c.vl then a (idx i) else 0, 0))) ∧
    (apart vs1 → s.domain { c with vl := act.length } .nonLinear [vs1] (some vd) 0 = .inl g → ∃ t, exec (.vcompress vd vs1 vm k1) s = .next t ∧
      s.vecDone t { c with vl := act.length } vd vm false false g (c.mark vs1 k1) (fun j => (a (act.getD j 0), 0))) ∧
    (apart vs1 → one → s.doesVec (.vexpand vd vs1 vm k1) c vd vm true false g (c.mark vs1 k1) (fun i => (a (below i), 0))) ∧
    (c.isInt = true → n.toNat ≤ 7 → s.domain c .nonLinear [] (some vd) vm = .inl g → s.doesVec (.viota vd n vm) c vd vm true false g []
      (fun i => (((act.filter (· < i)).filter fun j => s.me.maskBit c.lanes n.toNat j).length, 0))) ∧
    (c.isInt = true → s.domain s.vctx .nonLinear [] (some vd) vm = .inl g →
      s.doesVec (.vid vd vm) s.vctx vd vm true false g [] (fun i => (i, 0))) ∧
    (s.domain s.vctx .one [vs1] (some vd) vm = .inl g →
      s.doesVec (.vmvVv vd vs1 vm k1) s.vctx vd vm true false g (c.mark vs1 k1) (fun i => (a i, 0))) ∧
    (let e := a v2
     let v : Word := if c.et ≤ 2 ∧ 2 ^ (c.sew - 1) ≤ e then BitVec.ofInt 64 (e - 2 ^ c.sew) else BitVec.ofNat 64 e
     s.vecGives (.vextx rd vs1 r2 k1 k2) rd (if v2 < c.vlmax then v else 0) (c.mark vs1 k1)) ∧
    (let h := s.me.vtag[vd.toNat]
     let tag : Word := if bit h 0 = true ∧ v2 < 32 then h ||| BitVec.ofNat 64 (2 ^ (32 + v2)) else h
     (v2 < c.vl → ∃ t, exec (.vinsx vd r1 r2 k1 k2) s = .next t ∧
       (∀ e < c.vlmax, c.get t.me vd e = if e = v2 then (s.x r1).toNat % 2 ^ c.sew else c.get s.me vd e) ∧
       (∀ r : Fin 32, t.me.vtag[r] = (if r.val ∈ c.group vd then tag else s.me.vtag[r]) ∧
         (r.val ∉ c.group vd → t.me.v[r] = s.me.v[r]) ∧
         bit t.me.vlive r = (bit s.me.vlive r || r.val == vd.toNat + v2 / c.perReg)) ∧
       t.me.m = s.me.m ∧ t.me.mlive = s.me.mlive ∧ t.me.fcsr = s.me.fcsr ∧ s.me.vecRest t.me ∧ s.onlyMe t) ∧
     (c.vl ≤ v2 → ∃ t, exec (.vinsx vd r1 r2 k1 k2) s = .next t ∧ s.onlyMe t ∧ s.me.othersKept t.me 32 [] [] 0 ∧
       t.me.m = s.me.m ∧ t.me.mlive = s.me.mlive ∧ t.me.fcsr = s.me.fcsr ∧ s.me.vecRest t.me))


/-- The reductions combine element 0 of vs2 with the active body elements of vs1 into element 0 of vd; the rest of vd is tail. Floating sums
round each step under FCSR.RM and FTZ, VREDSUM by the pairwise tree over −0 leaves and VREDOSUM in order; minima and maxima follow R122 or
signedness; VAMAX gives the largest magnitude, without flags. An enabled flag traps with vd unchanged (R88, R142, R154). That the trap
names element 0, in EVAL and ESTART (log 13), and the results with no active element of VREDOSUM and of a minimum or maximum (log 68)
are the model's choice, as is that every element takes the value that a source had before the instruction, where it is vd too (log 67). -/
def Obligations.VectorReductions : Prop :=
  ∀ (s : State) (vd vs1 vs2 : BitVec 5) (vm : BitVec 3) (k1 k2 : BitVec 1) (g : Word), s.vecReady →
    let c := { s.vctx with estart := 0 }
    aligned c vd = true → aligned c vs1 = true → aligned c vs2 = true →
    let act := (List.range c.vl).filter fun i => c.active s.me vm i
    let es := act.map (c.get s.me vs1)
    let start := c.get s.me vs2 0
    let num (v : Nat) : Int := if c.et ≤ 2 ∧ 2 ^ (c.sew - 1) ≤ v then v - 2 ^ c.sew else v
    let low (v : Int) : Nat := (v % 2 ^ c.sew).toNat
    let fp := c.et = 8 ∨ c.et = 0xA
    let f : Fmt := if c.et = 8 then BF16 else FP32
    let rnd (a b : Nat) : Nat × Flags := flushOut c.ftz f (fAdd f c.rm (flushIn c.ftz f a) (flushIn c.ftz f b))
    let seq (h : Nat → Nat → Nat × Flags) (l : List Nat) (a : Nat) : Nat × Flags :=
      l.foldl (fun acc e => ((h acc.1 e).1, acc.2 ||| (h acc.1 e).2)) (a, 0)
    let run (dc : DomClass) (i : Instr) (r : Nat × Flags) : Prop := s.domain { c with vl := 1 } dc [vs1, vs2] (some vd) 0 = .inl g →
      (enabled s.me.fcsr r.2 = 0 → ∃ t, exec i s = .next t ∧
        s.vecDone t { c with vl := 1 } vd vm false false g (c.mark vs1 k1 ++ c.mark vs2 k2) (fun _ => r)) ∧
      (enabled s.me.fcsr r.2 ≠ 0 → s.me.level = .T → ∃ t, exec i s = .next t ∧ t.me.v = s.me.v ∧ t.me.vtag = s.me.vtag ∧
        t.me.fcsr = s.me.fcsr ||| (zx r.2 <<< 3) ∧ t.me.ecause = 0xC ∧ t.me.epc = s.me.pc ∧ t.me.eval = 0 ∧ t.me.estart = 0 ∧
        t.me.eval2 = BitVec.ofNat 64 (enabled s.me.fcsr r.2))
    (fp → run .nonLinear (.vredosum vd vs1 vs2 vm k1 k2) (seq rnd es start)) ∧
    (fp → run .nonLinear (.vredmin vd vs1 vs2 vm k1 k2)
      (seq (fun a b => fMinMax false f (flushIn c.ftz f a) (flushIn c.ftz f b)) es (flushIn c.ftz f start))) ∧
    (fp → run .nonLinear (.vredmax vd vs1 vs2 vm k1 k2)
      (seq (fun a b => fMinMax true f (flushIn c.ftz f a) (flushIn c.ftz f b)) es (flushIn c.ftz f start))) ∧
    (fp → run .blind (.vamax vd vs1 vs2 vm k1 k2)
      (if (start :: es).any fun e => (f.decode e).isNan then f.cnan
        else (start :: es).foldl (fun m e => max m (e % 2 ^ (f.width - 1))) 0, 0)) ∧
    (fp → ∃ (n : Nat) (tree : Nat → Nat → Nat × Flags), 2 ^ n < 2 * max c.vl 1 ∧ c.vl ≤ 2 ^ n ∧
      (∀ i < 2 ^ n, tree 0 i = (if i < c.vl ∧ c.active s.me vm i = true then c.get s.me vs1 i else f.sign true, 0)) ∧
      (∀ l < n, ∀ i < 2 ^ (n - l - 1), tree (l + 1) i =
        let r := rnd (tree l (2 * i)).1 (tree l (2 * i + 1)).1
        (r.1, (tree l (2 * i)).2 ||| (tree l (2 * i + 1)).2 ||| r.2)) ∧
      run .nonLinear (.vredsum vd vs1 vs2 vm k1 k2) ((rnd start (tree n 0).1).1, (tree n 0).2 ||| (rnd start (tree n 0).1).2)) ∧
    (c.et ∈ [0, 1, 2, 4, 5, 6] →
      run .nonLinear (.vredsum vd vs1 vs2 vm k1 k2) (low (es.foldl (fun (a : Int) (e : Nat) => a + e) start), 0) ∧
      run .nonLinear (.vredmin vd vs1 vs2 vm k1 k2) (low (es.foldl (fun a e => min a (num e)) (num start)), 0) ∧
      run .nonLinear (.vredmax vd vs1 vs2 vm k1 k2) (low (es.foldl (fun a e => max a (num e)) (num start)), 0) ∧
      run .nonLinear (.vredand vd vs1 vs2 vm k1 k2) (es.foldl (· &&& ·) start, 0) ∧
      run .nonLinear (.vredor vd vs1 vs2 vm k1 k2) (es.foldl (· ||| ·) start, 0) ∧
      run .nonLinear (.vredxor vd vs1 vs2 vm k1 k2) (es.foldl (· ^^^ ·) start, 0))

/-- The comparisons write one bit for each active element to a mask register: integers by signedness; floating point as R123, with 0
for an unordered pair but 1 under NE, NV from a signalling NaN under EQ and NE and from any NaN otherwise (R155). The logical mask
forms act on bits 0 to VL − 1; VMPOP counts the active set bits of ms below VL and VMFIRST gives the lowest, or all ones (R156). -/
def Obligations.VectorMaskForms : Prop :=
  (∀ (s : State) (md vs1 vs2 rs2 : BitVec 5) (vm : BitVec 3) (k1 k2 : BitVec 1) (g : Word), s.vecReady →
     let c := s.vctx
     1 ≤ md.toNat → md.toNat ≤ 7 → aligned c vs1 = true →
     let fp : Bool := c.et == 8 || c.et == 0xA
     let f : Fmt := if c.et = 8 then BF16 else FP32
     let num (v : Nat) : Int := if c.et ≤ 2 ∧ 2 ^ (c.sew - 1) ≤ v then v - 2 ^ c.sew else v
     let eq (a b : Nat) : Bool × Flags :=
       if fp then (let x := f.decode a; let y := f.decode b; (x.eqv y, if x.isSig || y.isSig then fNV else 0)) else (num a == num b, 0)
     let ne (a b : Nat) : Bool × Flags := (!(eq a b).1, (eq a b).2)
     let ord (h : FVal → FVal → Bool) (k : Int → Int → Bool) (a b : Nat) : Bool × Flags :=
       if fp then (let x := f.decode a; let y := f.decode b; if x.isNan || y.isNan then (false, fNV) else (h x y, 0))
       else (k (num a) (num b), 0)
     let lt := ord (fun x y => x.lt y) (fun a b => decide (a < b))
     let le := ord (fun x y => x.lt y || x.eqv y) (fun a b => decide (a ≤ b))
     let vv (i : Instr) (h : Nat → Nat → Bool × Flags) : Prop := aligned c vs2 = true →
       s.domain c .nonLinear [vs1, vs2] none vm = .inl g →
       s.doesMask i c md vm (c.mark vs1 k1 ++ c.mark vs2 k2) (fun i => h (c.get s.me vs1 i) (c.get s.me vs2 i))
     let y := FP32.decode ((s.x rs2).toNat % 2 ^ 32)
     let conv : Nat × Flags := if c.et = 8 then ((y.arith BF16 c.rm).1, (y.arith BF16 c.rm).2 ||| (if y.isSig then fNV else 0))
       else ((s.x rs2).toNat % 2 ^ c.sew, 0)
     let vx (i : Instr) (h : Nat → Nat → Bool × Flags) : Prop := s.domain c .nonLinear [vs1] none vm = .inl g →
       enabled s.me.fcsr conv.2 = 0 →
       (∀ e, c.ran s.me vm true e = true → enabled s.me.fcsr (h (c.get s.me vs1 e) conv.1).2 = 0) →
       ∃ u t, s.raisedOnly u conv.2 ∧ exec i s = .next t ∧
         u.maskDone t c md vm (c.mark vs1 k1) (fun i => h (c.get s.me vs1 i) conv.1)
     vv (.vmseqVv md vs1 vs2 vm k1 k2) eq ∧ vv (.vmsneVv md vs1 vs2 vm k1 k2) ne ∧
     vv (.vmsltVv md vs1 vs2 vm k1 k2) lt ∧ vv (.vmsleVv md vs1 vs2 vm k1 k2) le ∧
     vx (.vmseqVx md vs1 rs2 vm k1 k2) eq ∧ vx (.vmsneVx md vs1 rs2 vm k1 k2) ne ∧
     vx (.vmsltVx md vs1 rs2 vm k1 k2) lt ∧ vx (.vmsleVx md vs1 rs2 vm k1 k2) le ∧
     vx (.vmsgtVx md vs1 rs2 vm k1 k2) (fun a b => lt b a) ∧ vx (.vmsgeVx md vs1 rs2 vm k1 k2) (fun a b => le b a)) ∧
  (∀ (s : State) (md ms1 ms2 rd : BitVec 5) (vm : BitVec 3), s.vecReady →
     let c := s.vctx
     1 ≤ md.toNat → md.toNat ≤ 7 → ms1.toNat ≤ 7 → ms2.toNat ≤ 7 →
     let a i := s.me.maskBit c.lanes ms1.toNat i
     let b i := s.me.maskBit c.lanes ms2.toNat i
     let set := (List.range c.vl).filter fun i => c.active s.me vm i && a i
     s.doesMask (.vmand md ms1 ms2) c md 0 [] (fun i => (a i && b i, 0)) ∧
     s.doesMask (.vmor md ms1 ms2) c md 0 [] (fun i => (a i || b i, 0)) ∧
     s.doesMask (.vmxor md ms1 ms2) c md 0 [] (fun i => (a i != b i, 0)) ∧
     s.doesMask (.vmandn md ms1 ms2) c md 0 [] (fun i => (a i && !b i, 0)) ∧
     s.vecGives (.vmpop rd ms1 vm) rd (BitVec.ofNat 64 set.length) [] ∧
     s.vecGives (.vmfirst rd ms1 vm) rd ((set.head?.map (BitVec.ofNat 64)).getD (BitVec.allOnes 64)) [])

/-- A vector load whose active elements pass their checks writes each of them, converted from the memory format to ET with its
flags, tags the destination spatial and follows R141 elsewhere: unit stride, with or without scale codes, first-fault, strided
and indexed (R157 to R159, R163). Its element i lies at base + i × size, base + i × stride, or base + the index. VLDQ loads 64
bytes unconverted into a scale register, and does nothing else (R162). VLDFF shortens VL to the first element that fails a check
with cause 0x04 to 0x08 above its lowest active one, a missing translation among them: elements below it are loaded, those from it on
follow TA, nothing traps and nothing suspends; a page fault of the lowest one suspends it as VLD (R163, R303). A failing element of
another load traps with ESTART naming it, and the elements below it written (R160). Elements are checked, then read, then converted
(log 44). -/
def Obligations.VectorLoads : Prop :=
  (∀ (s : State) (vd rs1 rs2 vs2 qn fmt : BitVec 5) (vm stream : BitVec 3) (ffmt : BitVec 4), s.vecReady → s.me.restart = none →
     let c := s.vctx
     aligned c vd = true →
     let act := (List.range c.vl).filter fun i => c.estart ≤ i && c.active s.me vm i
     let f := fmt.toNat % 16
     let q (i : Nat) : Nat :=
       let j := i / 2 ^ fld s.me.vtype 7 3
       fld s.me.q[(qn.toNat + j / 64) % 16]! (8 * (j % 64)) 8
     let load (i : Instr) (f : Nat) (ea : Nat → Word) (conv : Nat → Nat → Nat × Flags) : Prop :=
       ∀ ps s1, s.passes .load (memSize f) stream.toNat loadWindows ea act ps s1 →
         let at_ (i : Nat) : Place := ps.getD (act.idxOf i) { win := .priv, addr := 0 }
         let el (i : Nat) : Nat × Flags := conv i (pickElem f i (leNat (s.bytesKey (at_ i).key (at_ i).addr (memSize f))))
         (∀ i ∈ act, enabled s.me.fcsr (el i).2 = 0) →
         s.sameMemory s1 ∧ s1.me = s.me ∧ ∃ t, exec i s = .next t ∧ s1.vecDone t c vd vm true false 0 [] el
     let unit (f i : Nat) : Word := s.x rs1 + BitVec.ofNat 64 (if f = 0xF then i / 2 else i * memSize f)
     (bit fmt 4 = false → load (.vld vd rs1 qn vm stream fmt) f (unit f) (fun _ b => convertElem f c.et c.rm b)) ∧
     (bit fmt 4 = true → c.et = 8 ∨ c.et = 0xA →
       load (.vld vd rs1 qn vm stream fmt) f (unit f) (fun i b => widenScaled f (q i) c.et c.rm b)) ∧
     load (.vldff vd rs1 vm stream ffmt) ffmt.toNat (unit ffmt.toNat) (fun _ b => convertElem ffmt.toNat c.et c.rm b) ∧
     load (.vlds vd rs1 rs2 vm stream fmt) f (fun i => s.x rs1 + BitVec.ofNat 64 i * s.x rs2) (fun _ b => convertElem f c.et c.rm b) ∧
     (aligned c vs2 = true → groupsMeet c vd vs2 = false →
       load (.vldx vd rs1 vs2 vm stream fmt) f (fun i => s.x rs1 + BitVec.ofNat 64 (c.get s.me vs2 i))
         (fun _ b => convertElem f c.et c.rm b))) ∧
  (∀ (s : State) (vd rs1 qd : BitVec 5) (vm stream : BitVec 3) (k : Nat) (cause : Nat), s.vecReady → s.me.restart = none →
     let c := s.vctx
     aligned c vd = true →
     let act := (List.range c.vl).filter fun i => c.estart ≤ i && c.active s.me vm i
     let ea (i : Nat) : Word := s.x rs1 + BitVec.ofNat 64 (i * (c.sew / 8))
     let fmt : BitVec 5 := BitVec.ofNat 5 c.et
     (∀ ps s1, qd.toNat < 16 →
       s.passes .load 8 stream.toNat loadWindows (fun i => s.x rs1 + BitVec.ofNat 64 (8 * i)) (List.range 8) ps s1 →
       ∃ t, exec (.vldq qd rs1 stream) s = .next t ∧ s.sameMemory t ∧ t.me.q = s.me.q.set! qd.toNat
           (BitVec.ofNat 512 (leNat (ps.flatMap fun p => s.bytesKey p.key p.addr 8))) ∧
         { t.me with q := s.me.q, pc := s.me.pc, cameFrom := s.me.cameFrom, retired := s.me.retired, wait := s.me.wait
                     estart := s.me.estart, restart := s.me.restart, counted := s.me.counted, since := s.me.since } = s.me ∧
         t.me.pc = s.me.pc + 4 ∧ t.me.estart = 0) ∧
     (∀ ps s1 s2 f, k ∈ act → (c.et = 8 ∨ c.et = 0xA ∨ c.et ≤ 6) →
       s.passes .load (c.sew / 8) stream.toNat loadWindows ea (act.filter (· < k)) ps s1 →
       s1.check (ea k) (c.sew / 8) .load stream.toNat loadWindows = (.fault f, s2) →
       let at_ (i : Nat) : Place := ps.getD (act.idxOf i) { win := .priv, addr := 0 }
       let el (i : Nat) : Nat := leNat (s.bytesKey (at_ i).key (at_ i).addr (c.sew / 8))
       ∃ t, exec (.vldff vd rs1 vm stream (BitVec.ofNat 4 c.et)) s = .next t ∧ s.sameMemory t ∧
         (act.head? ≠ some k → t.me.vl = BitVec.ofNat 64 k ∧ t.me.pc = s.me.pc + 4 ∧ t.me.wait = .none ∧
           t.myTower.heldFaults = s.myTower.heldFaults ∧
           ∀ e < c.vlmax, c.get t.me vd e = { c with vl := k }.elemAfter s.me vd vm true (fun i => (el i, 0)) e) ∧
         (act.head? = some k → t.me.wait = .suspended f ∧ t.me.pc = s.me.pc ∧ t.me.vl = s.me.vl ∧
           t.myTower.heldFaults = s.myTower.heldFaults ++ [s.threadRecord s.cur s.curSlot f] ∧
           (s.me.level = .T → t.me.estart = BitVec.ofNat 64 k ∧ t.me.ecause = 7 ∧ t.me.epc = s.me.pc ∧ t.me.eval = ea k))) ∧
     (∀ ps s1 s2, k ∈ act → (c.et = 8 ∨ c.et = 0xA ∨ c.et ≤ 6) →
       s.passes .load (c.sew / 8) stream.toNat loadWindows ea (act.filter (· < k)) ps s1 →
       s1.check (ea k) (c.sew / 8) .load stream.toNat loadWindows = (.trap cause 0, s2) →
       let at_ (i : Nat) : Place := ps.getD (act.idxOf i) { win := .priv, addr := 0 }
       let el (i : Nat) : Nat := leNat (s.bytesKey (at_ i).key (at_ i).addr (c.sew / 8))
       (act.head? ≠ some k → 4 ≤ cause → cause ≤ 8 →
         ∃ t, exec (.vldff vd rs1 vm stream (BitVec.ofNat 4 c.et)) s = .next t ∧
           t.me.vl = BitVec.ofNat 64 k ∧ t.me.pc = s.me.pc + 4 ∧ s.sameMemory t ∧
           (∀ e < c.vlmax, c.get t.me vd e = { c with vl := k }.elemAfter s.me vd vm true (fun i => (el i, 0)) e)) ∧
       (s.me.level = .T → ∃ t, exec (.vld vd rs1 0 vm stream fmt) s = .next t ∧
           t.me.estart = BitVec.ofNat 64 k ∧ t.me.level = .S ∧ t.me.pc = s.myCore.evec ∧ t.me.epc = s.me.pc ∧
           t.me.ecause = BitVec.ofNat 64 cause ∧ t.me.eval = ea k ∧ s.sameMemory t ∧ t.me.vtag = s.me.vtag ∧
           (∀ e < c.vlmax, c.get t.me vd e =
             if c.estart ≤ e ∧ e < k then (if c.active s.me vm e then el e else if c.ma then 0 else c.get s.me vd e)
             else c.get s.me vd e))))

/-- A vector store whose active elements pass leaves each of them in memory, converted from ET to the memory format with its
flags, the highest index last where elements overlap; every byte outside the elements reads as before, and the registers are as
before. Elements of several keys are not covered, nor locations that take no write. The rewind log and the task's phase are as its
elements leave them in order (R157 to R161). What one part of an instruction leaves: a pre-commit task commits on a global part, and
when its log lacks room; otherwise a logged part enters the old doubleword, once for the parts of one instruction unless they write
a bit of it again (R30, R31). Elements are checked, then converted (log 44). -/
def Obligations.VectorStores : Prop :=
  (∀ (s : State) (p : Place) (bs : List Byte) (done : List (Nat × Nat)), s.myCluster.ckpts = [] → s.preCommit = true →
    bs.length ∈ [1, 2, 4, 8] → p.addr % bs.length = 0 → s.myCluster.log.length ≤ 4096 →
    let w := p.addr / 8 * 8
    let lo := 8 * p.addr
    let hi := 8 * p.addr + 8 * bs.length
    let touched := ∃ d ∈ done, d.1 < 8 * w + 64 ∧ 8 * w < d.2
    let again := ∃ d ∈ done, ∃ b, d.1 ≤ b ∧ b < d.2 ∧ lo ≤ b ∧ b < hi
    let mine (e : LogEntry) : Bool := e.core == s.cur && e.slot == s.curSlot
    ∃ t, s.storePart p bs done = .inl (t, done ++ [(lo, hi)]) ∧
      let commits := t.me.post = true ∧ t.myCluster.log = s.myCluster.log.filter (!mine ·)
      let keeps := t.me.post = s.me.post ∧ t.myCluster.log = s.myCluster.log
      (p.win = .glob → commits) ∧ ((p.win = .priv ∨ p.win = .region) → keeps) ∧
      ((p.win = .clus ∨ p.win = .other ∨ p.win = .onsen) →
        (touched → ¬again → keeps) ∧
        (¬touched ∨ again → s.myCluster.log.length = 4096 → commits) ∧
        (¬touched ∨ again → s.myCluster.log.length < 4096 → t.me.post = s.me.post ∧
          t.myCluster.log = s.myCluster.log ++ [⟨s.cur, s.curSlot, w, s.dword w⟩]))) ∧
  ∀ (s : State) (vs3 rs1 rs2 vs2 qn fmt : BitVec 5) (vm stream : BitVec 3) (key : KeyVal), s.vecReady → s.me.restart = none →
    Memory.wf s.mem = true → s.myCluster.ckpts = [] →
    let c := s.vctx
    aligned c vs3 = true →
    let act := (List.range c.vl).filter fun i => c.estart ≤ i && c.active s.me vm i
    let f := fmt.toNat % 16
    let n := memSize f
    let q (i : Nat) : Nat :=
      let j := i / 2 ^ fld s.me.vtype 7 3
      fld s.me.q[(qn.toNat + j / 64) % 16]! (8 * (j % 64)) 8
    let store (i : Instr) (ea : Nat → Word) (conv : Nat → Nat → Nat × Flags) : Prop :=
      let el (i : Nat) : Nat × Flags := conv i (c.get s.me vs3 i)
      let bs (i old : Nat) : List Byte := leBytes n (placeElem f i (if f = 0xF then old else 0) (el i).1)
      ∀ ps s1, s.stored n stream.toNat ea bs (fun i => if f = 0xF then some (i % 2) else none) act [] ps s1 → (∀ p ∈ ps, p.ro = false ∧ (p.key = key ∨ hbmEnd ≤ p.addr)) →
        (∀ i ∈ act, enabled s.me.fcsr (el i).2 = 0) →
        let at_ (i : Nat) : Nat := (ps.map Place.addr).getD (act.idxOf i) 0
        ∃ t, exec i s = .next t ∧
          (∀ i ∈ act, (∀ j ∈ act, i < j → at_ j + n ≤ at_ i ∨ at_ i + n ≤ at_ j ∨ f = 0xF ∧ j % 2 ≠ i % 2 ∧ at_ j = at_ i) →
            pickElem f i (leNat (t.bytesKey key (at_ i) n)) = pickElem f i (leNat (bs i 0))) ∧
          (∀ b, (∀ i ∈ act, ¬(at_ i ≤ b ∧ b < at_ i + n)) → t.byteKey key b = s.byteKey key b) ∧
          t.me.v = s.me.v ∧ t.me.vtag = s.me.vtag ∧ t.me.m = s.me.m ∧
          t.me.fcsr = s.me.fcsr ||| (zx (act.foldl (fun (a : Flags) i => a ||| (el i).2) 0) <<< 3) ∧
          { t.me with post := s.me.post, fcsr := s.me.fcsr, pc := s.me.pc, cameFrom := s.me.cameFrom, retired := s.me.retired
                      wait := s.me.wait, estart := s.me.estart, restart := s.me.restart, counted := s.me.counted
                      since := s.me.since } = s.me ∧
          t.me.pc = s.me.pc + 4 ∧ t.me.estart = 0 ∧ t.me.retired = s.me.retired + 1 ∧
          t.myCluster.log = s1.myCluster.log ∧ t.me.post = s1.me.post ∧
          (∀ m k : Nat, k < 4 → ¬(m = s.cur ∧ k = s.curSlot) → t.thread m k = s.thread m k)
    let unit (i : Nat) : Word := s.x rs1 + BitVec.ofNat 64 (if f = 0xF then i / 2 else i * n)
    (bit fmt 4 = false → store (.vst vs3 rs1 qn vm stream fmt) unit (fun _ b => convertElem c.et f c.rm b)) ∧
    (bit fmt 4 = true → c.et = 8 ∨ c.et = 0xA →
      store (.vst vs3 rs1 qn vm stream fmt) unit (fun i b => quantise f (q i) c.rm (elemVal c.et b))) ∧
    store (.vsts vs3 rs1 rs2 vm stream fmt) (fun i => s.x rs1 + BitVec.ofNat 64 i * s.x rs2) (fun _ b => convertElem c.et f c.rm b) ∧
    (aligned c vs2 = true →
      store (.vstx vs3 rs1 vs2 vm stream fmt) (fun i => s.x rs1 + BitVec.ofNat 64 (c.get s.me vs2 i))
        (fun _ b => convertElem c.et f c.rm b))

/-- A vector atomic performs its active elements in index order, ordered or not: element i takes the word at its address as the elements
before it left it, writes the new value there, and vd[i] gets that old value. Here for words of the local windows; other bytes read as
before (R164, R165). That the unordered form performs its elements in index order is the model's choice (log 19), and so is its start
at ESTART (log 65). -/
def Obligations.VectorAtomics : Prop :=
  ∀ (s : State) (vd rs1 vs2 : BitVec 5) (vm stream : BitVec 3) (o : BitVec 1), s.vecReady → s.me.restart = none →
    Memory.wf s.mem = true → s.calm → s.uncaptured → s.myCluster.ckpts = [] →
    let c := s.vctx
    c.sew = 32 → aligned c vd = true → aligned c vs2 = true →
    let act := (List.range c.vl).filter fun i => c.estart ≤ i && c.active s.me vm i
    let ea (i : Nat) : Nat := (s.x rs1 + BitVec.ofNat 64 (c.get s.me vs2 i)).toNat
    (∀ i ∈ act, ea i % 4 = 0 ∧ (s.localAt (ea i)).isSome) →
    let at_ (i : Nat) : Nat := (s.localAt (ea i)).getD 0
    let num (v : Nat) : Int := if c.et = 2 ∧ 2 ^ 31 ≤ v then v - 2 ^ 32 else v
    let run (i : Instr) (f : Nat → Nat → Nat) : Prop :=
      let mem (a upto : Nat) : Nat :=
        (act.filter fun j => j < upto && at_ j == a).foldl (fun old j => f old (c.get s.me vd j)) (leNat (s.bytes a 4))
      ∃ t, exec i s = .next t ∧
        (∀ e < c.vlmax, c.get t.me vd e = c.elemAfter s.me vd vm true (fun i => (mem (at_ i) i, 0)) e) ∧
        (∀ i ∈ act, leNat (t.bytes (at_ i) 4) = mem (at_ i) c.vl) ∧
        (∀ b, (∀ i ∈ act, ¬(at_ i ≤ b ∧ b < at_ i + 4)) → t.byte b = s.byte b) ∧
        s.me.othersKept t.me c.lanes (c.group vd) [] 0 ∧ t.me.m = s.me.m ∧ t.me.fcsr = s.me.fcsr ∧ t.me.x = s.me.x ∧
        t.me.pc = s.me.pc + 4 ∧ t.me.estart = 0 ∧ t.me.retired = s.me.retired + 1 ∧
        (∀ m k : Nat, k < 4 → ¬(m = s.cur ∧ k = s.curSlot) → t.thread m k = s.thread m k)
    run (.vamoswp vd rs1 vs2 vm stream o) (fun _ b => b) ∧
    (c.et = 2 ∨ c.et = 6 →
      run (.vamoadd vd rs1 vs2 vm stream o) (fun a b => (a + b) % 2 ^ 32) ∧
      run (.vamoand vd rs1 vs2 vm stream o) (· &&& ·) ∧ run (.vamoor vd rs1 vs2 vm stream o) (· ||| ·) ∧
      run (.vamoxor vd rs1 vs2 vm stream o) (· ^^^ ·) ∧
      run (.vamomin vd rs1 vs2 vm stream o) (fun a b => if num b < num a then b else a) ∧
      run (.vamomax vd rs1 vs2 vm stream o) (fun a b => if num a < num b then b else a)) ∧
    (c.et = 0xA →
      run (.vamoadd vd rs1 vs2 vm stream o) (fun a b => (fAdd FP32 .rne a b).1) ∧
      run (.vamomin vd rs1 vs2 vm stream o) (fun a b => (fMinMax false FP32 a b).1) ∧
      run (.vamomax vd rs1 vs2 vm stream o) (fun a b => (fMinMax true FP32 a b).1))

/-! ### The Haar domain -/

/-- VHAAR writes the transform of elements 0 to 31 of a spatial group, each rounded once, and tags it Haar with its levels;
VIHAAR writes the inverse of a Haar group, rows outside its mask read as +0, and tags it spatial; a source of the other domain
traps with cause 0x0A; a group of fewer than 32 elements traps with check 7 (R202 to R204, R218). The transform of R89 in exact
numbers: with x[i] = X(i) × 2^e, the approximation j of L levels is the mean of its block of 2^L inputs, and the detail of level
l in row 2^(5 − l) + j is half the difference of the means of the two halves of its block of 2^l inputs; the inverse gives the
inputs back. The sign of an exact zero inside the transform (log 17), that on completion every register of the written group is live
(log 31), and that the rows of a source which is vd too are those before the instruction (log 67), are the model's choices. -/
def Obligations.HaarForms : Prop :=
  (∀ (s : State) (vd vs1 lev : BitVec 5) (k1 k2 : BitVec 1), s.vecReady → lev.toNat ≤ 5 →
     let c := s.vctx
     (c.et = 8 ∨ c.et = 0xA) → aligned c vd = true → aligned c vs1 = true →
     let tag := s.me.vtag[vs1.toNat]
     let f : Fmt := if c.et = 8 then BF16 else FP32
     let sub (v : Nat) : Bool := v / 2 ^ f.mb % 2 ^ f.eb == 0
     let inp (v : Nat) : Nat := if c.ftz && sub v then f.sign (f.signOf v) else v
     let out (r : Nat × Flags) : Nat × Flags :=
       if c.ftz && sub r.1 && r.1 % 2 ^ f.mb != 0 then (f.sign (f.signOf r.1), r.2 ||| fUF ||| fNX) else r
     let vals (present : Nat → Bool) : List HVal :=
       (List.range 32).map fun i => if present i then (f.decode (inp (c.get s.me vs1 i)), 0) else hZero
     let run (i : Instr) (g : Word) (rows : List HVal) : Prop :=
       let el (i : Nat) : Nat × Flags := out (hRound f c.rm (rows.getD i hZero))
       (∀ j < 32, enabled s.me.fcsr (el j).2 = 0) → ∃ t, exec i s = .next t ∧ s.columnDone t c vd g (c.mark vs1 k1) el
     (32 ≤ c.vlmax →
       (bit tag 0 = false → run (.vhaar vd vs1 lev k1 k2) (0xFFFFFFFF00000001 ||| (zx lev <<< 1)) (haarFwd lev.toNat (vals fun _ => true))) ∧
       (bit tag 0 = true → run (.vihaar vd vs1 k1) 0 (haarInv (fld tag 1 3) (vals fun i => bit tag (32 + i)))) ∧
       (s.me.level = .T →
         (bit tag 0 = true → s.traps (.vhaar vd vs1 lev k1 k2) { cause := 0xA, eval := zx vs1, eval2 := tag }) ∧
         (bit tag 0 = false → s.traps (.vihaar vd vs1 k1) { cause := 0xA, eval := zx vs1, eval2 := 0 }))) ∧
     (c.vlmax < 32 → s.me.level = .T → ∀ i ∈ [Instr.vhaar vd vs1 lev k1 k2, .vihaar vd vs1 k1],
       s.traps i { cause := 1, eval := s.myWord, eval2 := 7 })) ∧
  (∀ (l : Nat) (e : Int) (x : Nat → Int) (v : List HVal), l ≤ 5 → v.length = 32 →
     (∀ i < 32, (v.getD i hZero).1.is (x i) e ∧ (v.getD i hZero).2 = 0) →
     let sum (a n : Nat) : Int := ((List.range n).map fun k => x (a + k)).sum
     let c := haarFwd l v
     (∀ i < 32, (c.getD i hZero).2 = 0 ∧
       (if i < 32 / 2 ^ l then (c.getD i hZero).1.is (sum (i * 2 ^ l) (2 ^ l)) (e - l)
        else
         let k := 5 - Nat.log2 i
         let a := (i - 2 ^ Nat.log2 i) * 2 ^ k
         (c.getD i hZero).1.is ((sum a (2 ^ (k - 1)) - sum (a + 2 ^ (k - 1)) (2 ^ (k - 1))) * 2 ^ (l - k)) (e - l))) ∧
     (∀ i < 32, ((haarInv l c).getD i hZero).1.is (x i * 2 ^ l) (e - l) ∧ ((haarInv l c).getD i hZero).2 = 0))

/-- THSET and THGET move threshold registers, whatever VTYPE and the lane grant hold; DTAGR and DTAGW tags (LEV 6 and 7 trap with check
7), DTAGMK takes bits 0 to 31 of a mask register from a scalar register, DTAGMA sets those below 32 >> LEV; the other bits of that
mask register are 0 (R201, R205). -/
def Obligations.ThresholdAndTagForms : Prop :=
  (∀ (s : State) (r rs1 rs2 hs n : BitVec 5) (k1 k2 : BitVec 1), s.sound →
    (r.toNat ≤ 3 → ∃ t, exec (.thset r rs1 rs2 k1 k2) s = .next t ∧ s.onlyMe t ∧
      t.me.h = s.me.h.set! r.toNat (BitVec.ofNat 128 (fld (s.x rs1) 0 64 + 2 ^ 64 * fld (s.x rs2) 0 17)) ∧
      { t.me with h := s.me.h, pc := s.me.pc, cameFrom := s.me.cameFrom, retired := s.me.retired, wait := s.me.wait
                  estart := s.me.estart, restart := s.me.restart, counted := s.me.counted, since := s.me.since } = s.me ∧
      s.wentTo t (s.me.pc + 4) ∧ t.me.estart = 0) ∧
    ((h : hs.toNat ≤ 3) → n.toNat ≤ 1 →
      s.vecGives (.thget r hs n k2) r (BitVec.ofNat 64 (s.me.h[hs.toNat].toNat / 2 ^ (64 * n.toNat))) [])) ∧
  ∀ (s : State) (r rs1 vs1 : BitVec 5) (k1 : BitVec 1), s.vecReady →
    let c := s.vctx
    let a := s.x rs1
    let tag := s.me.vtag[vs1.toNat]
    let rest (t : State) : Prop := s.onlyMe t ∧ s.me.vecRest t.me ∧ t.me.fcsr = s.me.fcsr
    let mask (i : Instr) (marked : List Nat) (b : Nat → Bool) : Prop :=
      1 ≤ r.toNat → r.toNat ≤ 7 → ∃ t, exec i s = .next t ∧ rest t ∧
        (∀ e < 32 * c.lanes, t.me.maskBit c.lanes r.toNat e = (decide (e < 32) && b e)) ∧
        (∀ q : Fin 8, q.val ≠ r.toNat → t.me.m[q] = s.me.m[q]) ∧
        (∀ q : Fin 8, bit t.me.mlive q = (bit s.me.mlive q || q.val == r.toNat)) ∧ s.me.othersKept t.me c.lanes [] marked 0
    (aligned c vs1 = true → s.vecGives (.dtagr r vs1 k1) r tag (c.mark vs1 k1)) ∧
    (aligned c r = true → fld a 1 3 ≤ 5 → ∃ t, exec (.dtagw r rs1 k1) s = .next t ∧ rest t ∧ t.me.v = s.me.v ∧
      s.me.othersKept t.me c.lanes (c.group r) [] (if bit a 0 then a &&& 0xFFFFFFFF0000000F else 0) ∧
      t.me.m = s.me.m ∧ t.me.mlive = s.me.mlive) ∧
    (aligned c r = true → 5 < fld a 1 3 → s.me.level = .T → s.traps (.dtagw r rs1 k1) { cause := 1, eval := s.myWord, eval2 := 7 }) ∧
    mask (.dtagmk r rs1 k1) [] (fun i => bit a i) ∧
    (aligned c vs1 = true → mask (.dtagma r vs1 k1) (c.mark vs1 k1) (fun i => decide (i < 32 / 2 ^ fld tag 1 3)))

/-- VSTW stores 32 elements in the Haar domain: the transform of a spatial group, or a Haar group of the same levels with absent rows +0,
converted to the format; a detail element is stored as +0 when its row is no candidate or its magnitude lies below the threshold of its
level in h0. Without a level the elements are converted as they stand, a same format copying bits (R79). VLDW loads 32 elements and
marks present the approximations and the elements not ±0 (R50, R206, R207). A pre-commit task's stores to its cluster or Onsen enter
each doubleword of the column once in its rewind log (R30); a task at level S, or past its commit, logs nothing. The sign of an exact zero
inside the transform (log 17) and which registers a completed VLDW makes live (log 31) are the model's choices. -/
def Obligations.HaarColumns : Prop :=
  ∀ (s : State) (v rs1 : BitVec 5) (lev stream : BitVec 3) (fmt : BitVec 4), s.vecReady → lev.toNat ≤ 5 →
    fmt.toNat ∈ [0xA, 8, 0xC, 0xD] → Memory.wf s.mem = true → s.myCluster.ckpts = [] →
    let c := s.vctx
    (c.et = 8 ∨ c.et = 0xA) → aligned c v = true → 32 ≤ c.vlmax →
    let l := lev.toNat
    let f := fmt.toNat
    let n := if f = 0xA then 4 else if f = 8 then 2 else 1
    let m : Fmt := if f = 0xA then FP32 else if f = 8 then BF16 else if f = 0xC then E4M3 else E5M2
    let src : Fmt := if c.et = 8 then BF16 else FP32
    let ea (i : Nat) : Word := s.x rs1 + BitVec.ofNat 64 (i * n)
    (∀ ps s1, s.passes .load n stream.toNat loadWindows ea (List.range 32) ps s1 → (∀ p ∈ ps, p.dcls = false) →
      let el (i : Nat) : Nat × Flags := let p := ps.getD i { win := .priv, addr := 0 }
        convertElem f c.et c.rm (leNat (s.bytesKey p.key p.addr n))
      (∀ i < 32, enabled s.me.fcsr (el i).2 = 0) →
      ∃ t g, exec (.vldw v rs1 lev stream fmt) s = .next t ∧ s.sameMemory t ∧ s1.columnDone t c v g [] el ∧
        fld g 0 32 = 1 + 2 * l ∧ ∀ i < 32, bit g (32 + i) = (decide (i < 32 / 2 ^ l) || !(src.decode (el i).1).isZero)) ∧
    (∀ ps s1 (key : KeyVal), s.passes .store n stream.toNat storeWindows ea (List.range 32) ps s1 →
      (∀ p ∈ ps, p.dcls = false ∧ p.ro = false ∧ (p.key = key ∨ hbmEnd ≤ p.addr)) →
      let tag := s.me.vtag[v.toNat]
      (bit tag 0 = true → fld tag 1 3 = l) →
      let rows := haarFwd l ((List.range 32).map fun i => (src.decode (c.get s.me v i), 0))
      let el (i : Nat) : Nat × Flags :=
        if bit tag 0 then (if bit tag (32 + i) then convertElem c.et f c.rm (c.get s.me v i) else (0, 0))
        else if l = 0 then convertElem c.et f c.rm (c.get s.me v i)
        else let r := rows.getD i hZero; ((r.1.narrow m c.rm).1, (r.1.narrow m c.rm).2 ||| r.2)
      let keep (i : Nat) : Bool :=
        let h : BitVec 128 := s.me.h[0]
        let a := m.decode (el i).1
        let th := BF16.decode (fld h (16 * (4 - Nat.log2 i)) 15)
        decide (i < 32 / 2 ^ l) ||
          ((!bit tag 0 || bit tag (32 + i)) && (!bit h 80 || th.isNan || a.isNan || !a.abs.lt th))
      let st (i : Nat) : Nat := if keep i then (el i).1 else 0
      let at_ (i : Nat) : Nat := (ps.getD i { win := .priv, addr := 0 }).addr
      let fl : Flags := (List.range 32).foldl (fun a i => a ||| (el i).2) 0
      (∀ i < 32, enabled s.me.fcsr (el i).2 = 0) →
      ∃ t, exec (.vstw v rs1 lev stream fmt) s = .next t ∧
        (∀ i < 32, (∀ j < 32, i < j → at_ j + n ≤ at_ i ∨ at_ i + n ≤ at_ j) → t.bytesKey key (at_ i) n = leBytes n (st i)) ∧
        (∀ b, (∀ i < 32, ¬(at_ i ≤ b ∧ b < at_ i + n)) → t.byteKey key b = s.byteKey key b) ∧
        t.me.fcsr = s.me.fcsr ||| (zx fl <<< 3) ∧
        { t.me with post := s.me.post, fcsr := s.me.fcsr, pc := s.me.pc, cameFrom := s.me.cameFrom, retired := s.me.retired
                    wait := s.me.wait, estart := s.me.estart, restart := s.me.restart, counted := s.me.counted
                    since := s.me.since } = s.me ∧
        s.wentTo t (s.me.pc + 4) ∧ t.me.estart = 0 ∧
        (s.preCommit = false → t.myCluster.log = s.myCluster.log ∧ t.me.post = s.me.post) ∧
        (s.preCommit = true → (∀ p ∈ ps, p.win = .clus ∨ p.win = .other ∨ p.win = .onsen) →
          (∀ i < 32, ∀ j < 32, i ≠ j → at_ j + n ≤ at_ i ∨ at_ i + n ≤ at_ j) → s.myCluster.log.length + 32 ≤ 4096 →
          t.me.post = false ∧ t.myCluster.log = s.myCluster.log ++
            ((List.range 32).map fun i => at_ i / 8 * 8).eraseDups.map fun w => ⟨s.cur, s.curSlot, w, s.dword w⟩) ∧
        (∀ m k : Nat, k < 4 → ¬(m = s.cur ∧ k = s.curSlot) → t.thread m k = s.thread m k))

/-! ### The outer-product array -/

/-- A slice form reads its row mask and operands at issue and queues its compacted slices, from SSTART on: OPR elements 0 to 31
of two groups, OPL a latch pair of which either or neither is BF16 with enough k-steps, TZERO nothing, TLD the elements of its
rows, TST its places (R166 to R181, R193, R217). Claims are made first; s1 is the state they leave. A unit that another context owns
traps with cause 0x0B and its number, one being zeroed makes the form wait, a group or latch of another shape traps with check 7, and
OPR's tags that do not agree with cause 0x0A (R60, R173, R218). The tag that OPR leaves (R217). That TLD reads memory at issue (log 8)
and the model's readings of the array that log 18 lists are its choices. -/
def Obligations.SliceForms : Prop :=
  (∀ (s : State) (acc : Nat) (vs1 vs2 : BitVec 5) (sel : BitVec 32) (z : Bool), acc < 8 →
    let ta := s.me.vtag[vs1.toNat]
    let tb := s.me.vtag[vs2.toNat]
    let tt := s.myCore.ttag[acc]!
    let r := if bit ta 0 then fld ta 0 4 else 0
    let like_ := fld tt 0 4 = r
    let tag := s.oprTag acc vs1 vs2 sel.toNat z
    (bit tb 0 = false → z = true → ∃ g, tag = .inl g ∧ fld g 0 32 = r ∧ ∀ i < 32,
      bit g (32 + i) = ((bit sel i && bit ta (32 + i)) || (decide like_ && !bit sel i && bit tt (32 + i)))) ∧
    (bit tb 0 = false → z = false → like_ → ∃ g, tag = .inl g ∧ fld g 0 32 = fld tt 0 32 ∧ ∀ i < 32,
      bit g (32 + i) = (bit tt (32 + i) || (bit sel i && bit ta (32 + i)))) ∧
    (bit s.me.dctl 0 = false →
      (bit tb 0 = true → bit ta 0 = true → tag = .inr { cause := 0xA, eval := zx vs1, eval2 := ta }) ∧
      (bit tb 0 = true → bit ta 0 = false → tag = .inr { cause := 0xA, eval := zx vs2, eval2 := tb }) ∧
      (bit tb 0 = false → z = false → ¬like_ → tag = .inr { cause := 0xA, eval := BitVec.ofNat 64 (32 + acc), eval2 := tt })) ∧
    (bit s.me.dctl 0 = true → bit tb 0 = true ∨ (z = false ∧ ¬like_) → tag = .inl 0)) ∧
  ∀ (s s1 : State) (acc : BitVec 3) (vs1 vs2 rs1 rs2 : BitVec 5) (rm : BitVec 3) (two qs : BitVec 2) (z : BitVec 1),
    s.armed → two.toNat ≤ 3 →
    let a := acc.toNat
    let rows := (List.range 32).filter fun i => rm == 0 || s.me.maskBit s.lanes rm.toNat i
    let lmul := fld s.me.vtype 4 3
    let tt := s1.myCore.ttag[a]!
    let present : Word := if bit tt 0 then rows.foldl (fun g i => g ||| (1 <<< (32 + i))) tt else tt
    let run (i : Instr) (s1 : State) (op : SliceOp) (tag : Word) (data : Nat → List Nat) : Prop :=
      ∃ t, exec i s = .next t ∧ s1.queued t a op tag rows data
    (s.claims [a] = (s1, none) → vill s.me.vtype = false → s.me.legal = true → vs1.toNat % 2 ^ lmul = 0 → vs2.toNat % 2 ^ lmul = 0 →
      two.toNat ≤ 1 →
      let w := if two = 1 then 16 else 32
      let tag := s1.oprTag a vs1 vs2 (rows.foldl (fun m i => m + 2 ^ i) 0) (z == 1)
      (s.lanes * 32 / w * 2 ^ lmul < 32 → s.me.level = .T → ∃ t, exec (.opr acc vs1 vs2 rm two z) s = .next t ∧
        s1.trapped t { cause := 1, eval := s.myWord, eval2 := 7 }) ∧
      (32 ≤ s.lanes * 32 / w * 2 ^ lmul →
        (∀ g, tag = .inl g →
          let el (v : BitVec 5) : List Nat := (List.range 32).map fun i => s.me.elem w s.lanes v.toNat i
          run (.opr acc vs1 vs2 rm two z) s1 (.opr (two == 1) (z == 1) (el vs1) (el vs2)) g (fun _ => [])) ∧
        (∀ tr, tag = .inr tr → s.me.level = .T → ∃ t, exec (.opr acc vs1 vs2 rm two z) s = .next t ∧ s1.trapped t tr))) ∧
    (let forms : List Instr := [.tzero acc rm, .tld acc qs rs1 rs2 rm two z, .tst acc qs rs1 rs2 rm two z] ++
       (if two.toNat ≤ 2 then [.opl acc qs rm two z] else []) ++
       (if two.toNat ≤ 1 ∧ vill s.me.vtype = false ∧ vs1.toNat % 2 ^ lmul = 0 ∧ vs2.toNat % 2 ^ lmul = 0
         then [.opr acc vs1 vs2 rm two z] else [])
     (s.myCore.zeroing.contains a = true → ∀ i ∈ forms, s.waits i) ∧
     (s.myCore.zeroing.contains a = false → 128 ≤ s.myCore.ownerByte a → s.myCore.ownerByte a % 128 ≠ fld s.me.ctxid 0 7 →
       s.me.level = .T → ∀ i ∈ forms, s.traps i { cause := 0xB, eval := BitVec.ofNat 64 a }) ∧
     (let la := 8 + qs.toNat / 2
      two.toNat ≤ 2 → s.myCore.zeroing = [] → s.myCore.ownerByte a = 128 + fld s.me.ctxid 0 7 → 128 ≤ s.myCore.ownerByte la →
      s.myCore.ownerByte la % 128 ≠ fld s.me.ctxid 0 7 → s.me.level = .T →
      s.traps (.opl acc qs rm two z) { cause := 0xB, eval := BitVec.ofNat 64 la })) ∧
    (let la := qs.toNat / 2
     let lb := 2 + qs.toNat % 2
     s.claims [a, 8 + la, 8 + lb] = (s1, none) → two.toNat ≤ 2 →
      let l := s1.myCore.latch.getD la {}
      let r := s1.myCore.latch.getD lb {}
      let fa := l.fmt.toNat % 16
      let fb := r.fmt.toNat % 16
      let n := 4 / 2 ^ two.toNat
      let d := if fa = 8 then 1 else if fa ∈ [7, 0xE, 0xF] ∧ fb ∈ [7, 0xE, 0xF] then 4 else 2
      (¬(fa = 8 ↔ fb = 8) ∨ l.depth < n * d ∨ r.depth < n * d → s.me.level = .T → ∃ t, exec (.opl acc qs rm two z) s = .next t ∧
        s1.trapped t { cause := 1, eval := s.myWord, eval2 := 7 }) ∧
      ((fa = 8 ↔ fb = 8) → n * d ≤ l.depth → n * d ≤ r.depth →
        run (.opl acc qs rm two z) s1 (.opl la lb n d (z == 1)) present (fun _ => []))) ∧
    (s.claims [a] = (s1, none) →
      run (.tzero acc rm) s1 .tzero (if rows.length = 32 then 0 else tt) (fun _ => []) ∧
      (let f := if two = 0 then 0xA else if two = 1 then 8 else if two = 2 then 0xC else 0xD
       let n := if two = 0 then 4 else if two = 1 then 2 else 1
       let es := rows.flatMap fun i => (List.range 32).map fun j => 32 * i + j
       let ea (e : Nat) : Word := s.x rs1 + BitVec.ofNat 64 (e / 32) * s.x rs2 + BitVec.ofNat 64 (e % 32 * n)
       let q : BitVec 512 := s.me.q[12 + qs.toNat]!
       (∀ ps s2, s1.passes .load n 0 tileLoadWindows ea es ps s2 →
         let el (e : Nat) : Nat := let p := ps.getD (es.idxOf e) { win := .priv, addr := 0 }
           leNat (s.bytesKey p.key p.addr n)
         s.sameMemory s2 ∧ run (.tld acc qs rs1 rs2 rm two z) s2 (.tld f (z == 1) q) (if rows.length = 32 then 0 else present)
           (fun i => (List.range 32).map fun j => el (32 * i + j))) ∧
       (∀ ps s2, s1.passes .store n 0 tileStoreWindows ea es ps s2 →
         s.sameMemory s2 ∧ run (.tst acc qs rs1 rs2 rm two z) s2 (.tst (s.x rs1) (s.x rs2) f (z == 1) q) tt (fun _ => []))))

/-- SLICE_START starts the oldest slice that may start while one of four pipes is free; with the last slice of an instruction its thread
goes on, unless a trap enable is set or, for TST, a region of the cluster is marked (R169; that TST's thread then waits is the model's
choice, log 8). SLICE_RETIRE retires the head of the queue when it has started: its rows take their results and no other row changes,
TST's rows are stored, flags are raised, and with its last slice the instruction retires, OPL consuming its k-steps, unless its thread
has gone on, whose flags trap no more. That another NaN goes before ∞ × 0 in a sum (log 69) and whose latch's k-step EVAL2 holds for OPL
(log 70) are the model's choices. An enabled flag traps instead:
rows and memory are unchanged, the flags are set, the thread's slices are discarded, SSTART names the slice and EVAL the first
offending element by row and column (R190, R191; for one group). TILE_ZERO_DONE ends a zeroing (R62, R166 to R169, R174, R175, R179 to
R181).
The sum of the array (R86, R87): an exact sum that is not zero is rounded once under RNE; ∞ × 0 and sums of both infinities give the
canonical NaN with NV, any other NaN the canonical NaN; the exact sum zero is −0 only when every term and the accumulator are. -/
def Obligations.SliceSteps : Prop :=
  ((∀ (s : State) (n : Nat) (pre post : List Slice) (x : Slice),
     let may (older : List Slice) (y : Slice) : Bool := !y.started && older.all fun z =>
       (z.slot != y.slot || z.started) && (z.acc != y.acc || y.rows.all fun i => !z.rows.contains i)
     (s.core n).slices = pre ++ x :: post → ((s.core n).slices.filter Slice.started).length < 4 → may pre x = true →
     (∀ k : Fin pre.length, may (pre.take k) pre[k] = false) →
     let c := s.core n
     let begun : List Slice := pre ++ { x with started := true } :: post
     let goesOn : Prop := x.last = true ∧ (s.thread n x.slot).wait = .slices ∧ fld (s.thread n x.slot).fcsr 10 5 = 0 ∧
       (match x.op with | .tst _ _ _ _ _ => (s.cluster (clusterOf n)).ckpts = [] | _ => True)
     ∃ t, exec (.sliceStart n) s = .next t ∧ s.coresOnly t ∧ (∀ m, m ≠ n → t.core m = s.core m) ∧
       (¬goesOn → t.core n = { c with slices := begun }) ∧
       (goesOn → x.slot < 4 → x.acc < 8 →
         (t.core n).slices = (begun.map fun y => if y.slot = x.slot then { y with released := true } else y) ∧
         (match x.op with
           | .tst _ _ _ _ _ => (t.core n).ttag = c.ttag ∧ (t.core n).unitErr = c.unitErr
           | _ => (t.core n).ttag = c.ttag.set! x.acc x.tag ∧
               (t.core n).unitErr = c.unitErr.filter fun e => e.ref != ⟨3, 0x010 + x.acc⟩) ∧
         (∀ q : Fin 4, (t.core n).latch[q] = match x.op with
           | .opl la lb m d _ => if q.val = la ∨ q.val = lb then { c.latch[q] with depth := c.latch[q].depth - m * d } else c.latch[q]
           | _ => c.latch[q]) ∧
         { t.core n with threads := c.threads, slices := c.slices, ttag := c.ttag, latch := c.latch, unitErr := c.unitErr } = c ∧
         (let u := s.thread n x.slot
          t.thread n x.slot = { u with sstart := 0, pc := u.pc + 4, cameFrom := u.pc, retired := u.retired + 1, wait := .none
                                       counted := 0, since := some s.steps }) ∧
         ∀ k : Nat, k < 4 → k ≠ x.slot → t.thread n k = s.thread n k)) ∧
   (∀ (s : State) (n : Nat) (x : Slice) (rest : List Slice), (s.core n).slices = x :: rest → x.started = true → x.slot < 4 → x.acc < 8 →
     (∀ i ∈ x.rows, i < 32) → x.rows.Pairwise (· < ·) → Memory.wf s.mem = true →
     ((s.cluster (clusterOf n)).ckpts = [] ∨ x.released = true) → (x.last = false → ∃ y ∈ rest, y.slot = x.slot ∧ y.released = false) →
     let c := s.core n
     let u := s.thread n x.slot
     let old (i j : Nat) : Nat := fld ((c.acc[x.acc]!)[i]! : VReg) (32 * j) 32
     let el (i j : Nat) : Nat × Flags := match x.op with
       | .opr bf z a b =>
         let f : Fmt := if bf then BF16 else FP32
         accumulate (if z then 0 else old i j) [(f.decode (a.getD i 0), f.decode (b.getD j 0))]
       | .opl la lb m d z =>
         let l := c.latch.getD la {}
         let r := c.latch.getD lb {}
         (List.range m).foldl (fun (a : Nat × Flags) g =>
           let b := accumulate a.1 ((List.range d).map fun k =>
             (l.val i (x.ka + g * d + k), r.val j (x.kb + g * d + k)))
           (b.1, a.2 ||| b.2)) (if z then 0 else old i j, 0)
       | .tzero => (0, 0)
       | .tld f sc q =>
         let b := (x.data.getD (x.rows.idxOf i) []).getD j 0
         if sc then widenScaled f (fld q (8 * i) 8) 0xA .rne b else convertElem f 0xA .rne b
       | .tst _ _ f sc q => if sc then quantise f (fld q (8 * i) 8) .rne (FP32.decode (old i j)) else convertElem 0xA f .rne (old i j)
     let fl : Flags := x.rows.foldl (fun a i => (List.range 32).foldl (fun b j => b ||| (el i j).2) a) 0
     let writes : Bool := match x.op with | .tst _ _ _ _ _ => false | _ => true
     (match x.op with | .tld _ _ _ => x.data.length = x.rows.length ∧ ∀ r ∈ x.data, r.length = 32 | _ => True) →
     (match x.op with
       | .tst b p _ _ _ => ∀ i ∈ x.rows, ((s.as n x.slot).localAt (b + BitVec.ofNat 64 i * p).toNat).isSome
       | _ => True) →
     let alive : Bool := decide (u.wait = .slices) && !x.released
     let ends := x.last && alive
     (alive → enabled u.fcsr fl ≠ 0 → u.level = .T → (match x.op with | .opl _ _ m _ _ => m = 1 | _ => True) →
       ∃ t i j, exec (.sliceRetire n) s = .next t ∧ i ∈ x.rows ∧ j < 32 ∧ enabled u.fcsr (el i j).2 ≠ 0 ∧
         (∀ k ∈ x.rows, ∀ m < 32, k < i ∨ k = i ∧ m < j → enabled u.fcsr (el k m).2 = 0) ∧
         t.core n = { c with threads := (t.core n).threads, slices := (t.core n).slices } ∧
         (t.core n).slices = c.slices.filter (fun y => y.slot ≠ x.slot) ∧ s.sameMemory t ∧
         (let v := t.thread n x.slot
          v.sstart = BitVec.ofNat 64 x.num ∧ v.level = .S ∧ v.pc = c.evec ∧ v.epc = u.pc ∧ v.ecause = 0xC ∧
          v.eval = BitVec.ofNat 64 (256 * i + j) ∧ v.fcsr = u.fcsr ||| (zx fl <<< 3) ∧ v.wait = .none ∧
          v.eval2 = (match x.op with
            | .opr _ _ _ _ => BitVec.ofNat 64 (i + 256 * j)
            | .opl la lb _ _ _ => BitVec.ofNat 64 (((c.latch.getD la {}).rowMap.getD i 0).toNat +
                256 * ((c.latch.getD lb {}).rowMap.getD j 0).toNat + 65536 * (x.ka % 16))
            | _ => 0))) ∧
     (alive → enabled u.fcsr fl = 0) →
     ∃ t, exec (.sliceRetire n) s = .next t ∧
       (∀ (a : Fin 8) (i : Fin 32) (j : Nat), j < 32 → fld (t.core n).acc[a][i] (32 * j) 32 =
         if a.val = x.acc ∧ i.val ∈ x.rows ∧ writes = true then (el i j).1 % 2 ^ 32 else fld (c.acc[a][i] : VReg) (32 * j) 32) ∧
       (t.core n).slices = rest ∧
       (t.core n).ttag = (if ends ∧ writes = true then c.ttag.set! x.acc x.tag else c.ttag) ∧
       (∀ q : Fin 4, (t.core n).latch[q] = match x.op with
         | .opl la lb m d _ => if ends ∧ (q.val = la ∨ q.val = lb) then { c.latch[q] with depth := c.latch[q].depth - m * d } else c.latch[q]
         | _ => c.latch[q]) ∧
       { t.core n with threads := c.threads, acc := c.acc, slices := c.slices, ttag := c.ttag, latch := c.latch
                       unitErr := c.unitErr } = c ∧ (∀ e ∈ (t.core n).unitErr, e ∈ c.unitErr) ∧
       (t.thread n x.slot).fcsr = u.fcsr ||| (zx fl <<< 3) ∧
       { t.thread n x.slot with fcsr := u.fcsr, post := u.post } =
         (if ends then { u with sstart := 0, pc := u.pc + 4, cameFrom := u.pc, retired := u.retired + 1, wait := .none
                                counted := 0, since := some s.steps } else u) ∧
       (∀ k : Nat, k < 4 → k ≠ x.slot → t.thread n k = s.thread n k) ∧ (∀ m, m ≠ n → t.core m = s.core m) ∧
       match x.op with
       | .tst b p f _ _ =>
         let size := if f = 0xA then 4 else if f = 8 then 2 else 1
         let at_ (i : Nat) : Nat := ((s.as n x.slot).localAt (b + BitVec.ofNat 64 i * p).toNat).getD 0
         (f ∈ [0xA, 8, 0xC, 0xD] → (∀ i ∈ x.rows, (∀ k ∈ x.rows, i < k → at_ k + 32 * size ≤ at_ i ∨ at_ i + 32 * size ≤ at_ k) →
             ∀ j < 32, leNat (t.bytes (at_ i + j * size) size) = (el i j).1 % 2 ^ (8 * size)) ∧
           ∀ a, (∀ i ∈ x.rows, ¬(at_ i ≤ a ∧ a < at_ i + 32 * size)) → t.byte a = s.byte a)
       | _ => s.sameMemory t) ∧
   (∀ (s : State) (n u : Nat), ∃ t, exec (.tileZeroDone n u) s = .next t ∧ s.coresOnly t ∧ (∀ m, m ≠ n → t.core m = s.core m) ∧
     t.core n = { s.core n with zeroing := (s.core n).zeroing.filter (· ≠ u) })) ∧
  (∀ (acc : Nat) (ts : List (FVal × FVal)),
     let a := FP32.decode acc
     let r := accumulate acc ts
     let sig : Bool := ts.any fun t => t.1.isSig || t.2.isSig
     let bad : Bool := ts.any fun t => t.1.isInf && t.2.isZero || t.1.isZero && t.2.isInf
     let infs (n : Bool) : Bool := (a.isInf && a.neg == n) ||
       ts.any fun t => (t.1.isInf && !t.2.isNan && !t.2.isZero || t.2.isInf && !t.1.isNan && !t.1.isZero) && (t.1.neg != t.2.neg) == n
     let nan : Bool := a.isNan || ts.any fun t => t.1.isNan || t.2.isNan
     (∀ (e x : Int) (p : List (Int × Int)), a.is x e → p.length = ts.length →
       (∀ q ∈ ts.zip p, ∃ e1 e2 : Int, q.1.1.is q.2.1 e1 ∧ q.1.2.is q.2.2 e2 ∧ e1 + e2 = e) →
       let sum := x + (p.map fun q => q.1 * q.2).sum
       if sum = 0 then
         r = ((if a.neg && ts.all fun t => t.1.neg != t.2.neg then 0x80000000 else 0), 0)
       else r = (FVal.fin (decide (sum < 0)) sum.natAbs e false).arith FP32 .rne) ∧
     (nan = true → r = (FP32.cnan, if sig || bad || infs true && infs false then fNV else 0)) ∧
     (nan = false → bad = true ∨ infs true = true ∧ infs false = true → r = (FP32.cnan, fNV)) ∧
     (nan = false → bad = false → ∀ n, infs n = true → infs (!n) = false → r = (FP32.infBits n, 0)))

/-- TMOVV copies a row or a column, TAMAX the magnitudes by row or by column, to elements 0 to 31 of a group; SCALEX writes the scale codes of
R84 to one half of a q register; TREL releases a unit, which is zeroed; OPLD and OPLDX fill a latch from 32 rows (R176 to R178, R182 to
R185). TMOVV and TAMAX wait while an older slice writes their tile, the others while one reads or writes their unit, and each while
its unit is being zeroed (R170, R326). Which registers a completed form makes live is the model's choice (log 31). -/
def Obligations.ArrayWholeForms : Prop :=
  ∀ (s s1 : State) (acc rm lf qs : BitVec 3) (two kind : BitVec 2) (one : BitVec 1) (v vs1 rs1 rs2 fmt : BitVec 5), s.armed →
    let a := acc.toNat
    let lmul := fld s.me.vtype 4 3
    let n32 := s.lanes * 2 ^ lmul
    let shaped (v : BitVec 5) : Prop := vill s.me.vtype = false ∧ s.me.legal = true ∧ v.toNat % 2 ^ lmul = 0 ∧ 32 ≤ n32
    let group (v : BitVec 5) : List Nat := (List.range (2 ^ lmul)).map (v.toNat + ·)
    let row (i : Nat) : Bool := rm == 0 || s.me.maskBit s.lanes rm.toNat i
    let tile (i j : Nat) : Nat := fld ((s1.myCore.acc[a]!)[i]! : VReg) (32 * j) 32
    let tt := s1.myCore.ttag[a]!
    let toGroup (i : Instr) (w : Nat) (tag : Word) (r : Nat → Nat × Flags) : Prop :=
      let fl : Flags := (List.range 32).foldl (fun f e => f ||| (r e).2) 0
      (∀ e < 32, enabled s.me.fcsr (r e).2 = 0) → ∃ t, exec i s = .next t ∧
        (∀ e < n32 * 32 / w, t.me.elem w s.lanes v.toNat e = if e < 32 then (r e).1 % 2 ^ w else s.me.elem w s.lanes v.toNat e) ∧
        s.me.othersKept t.me s.lanes (group v) [] tag ∧ t.me.q = s.me.q ∧ t.me.fcsr = s.me.fcsr ||| (zx fl <<< 3) ∧
        s.me.wholeRest t.me ∧ s1.outside t fl
    let moved (t : State) (fl : Flags) : Prop :=
      s.me.wholeRest t.me ∧ t.me.v = s.me.v ∧ t.me.vtag = s.me.vtag ∧ t.me.vlive = s.me.vlive ∧
        t.me.fcsr = s.me.fcsr ||| (zx fl <<< 3)
    (∀ (writes : Bool) (u : Nat), s1.unitWaits writes u = true ↔ u ∈ s1.myCore.zeroing ∨ ∃ x ∈ s1.myCore.slices, match x.op with
      | .opl la lb _ _ _ => u = x.acc ∨ writes = false ∧ (u = 8 + la ∨ u = 8 + lb)
      | .tst _ _ _ _ _ => u = x.acc ∧ writes = false
      | _ => u = x.acc) ∧
    (let waits (i : Instr) : Prop := ∃ t, exec i s = .next t ∧ s1.stalled t
     (s.claims [a] = (s1, none) → s1.unitWaits true a = true → shaped v →
       ∀ col : BitVec 2, col.toNat ≤ 1 → waits (.tmovv acc col rs1 v 0) ∧ waits (.tmovv acc col rs1 v 1) ∧ waits (.tamax acc col v rm)) ∧
     (kind.toNat ≤ 1 → (kind = 1 → a < 4) → s.claims [if kind = 1 then 8 + a else a] = (s1, none) →
       s1.unitWaits false (if kind = 1 then 8 + a else a) = true → waits (.trel acc kind)) ∧
     (∀ l : BitVec 2, lf.toNat ≤ 6 → two.toNat ≤ 2 → (lf = 0 → one = 0) → s.claims [8 + l.toNat] = (s1, none) →
       s1.unitWaits false (8 + l.toNat) = true →
       waits (.opld qs l rs1 rs2 lf two one) ∧ (shaped vs1 → waits (.opldx rs2 rs1 vs1 lf l one)))) ∧
    (s.claims [a] = (s1, none) → s1.unitWaits true a = false → shaped v →
      (∀ col : BitVec 2, col.toNat ≤ 1 →
        let k := (s.x rs1).toNat % 32
        let src (e : Nat) : Nat := if col = 1 then tile e k else tile k e
        let tag : Word := if col = 1 ∧ bit tt 0 then tt &&& 0xFFFFFFFF0000000F else 0
        toGroup (.tmovv acc col rs1 v 0) 32 tag (fun e => (src e, 0)) ∧
        toGroup (.tmovv acc col rs1 v 1) 16 tag (fun e => convertElem 0xA 8 .rne (src e))) ∧
      (let amax (l : List Nat) : Nat :=
         if l.any fun b => (FP32.decode b).isNan then FP32.cnan else l.foldl (fun m b => max m (b % 2 ^ 31)) 0
       toGroup (.tamax acc 0 v rm) 32 0 (fun i => (if row i then amax ((List.range 32).map fun j => tile i j) else 0, 0)) ∧
       toGroup (.tamax acc 1 v rm) 32 0 (fun j => (amax (((List.range 32).filter row).map fun i => tile i j), 0)))) ∧
    (shaped vs1 → v.toNat % 2 ^ lmul = 0 → v.toNat ≤ 15 → fmt.toNat ∈ [0, 7, 0xC, 0xD, 0xE, 0xF] → two.toNat ≤ 1 →
      let emax : Int := match fmt.toNat with | 0 => 6 | 7 => 1 | 0xC => 8 | 0xD => 15 | _ => 2
      let code (i : Nat) : Nat × Flags :=
        let b := s.me.elem 32 s.lanes vs1.toNat i % 2 ^ 31
        let e : Int := (if 2 ^ 23 ≤ b then ((b / 2 ^ 23 : Nat) : Int) - 127 else (Nat.log2 b : Int) - 149) - emax
        if 0x7F800000 < b then (0xFF, 0) else if b = 0x7F800000 then (0xFE, fOF) else if b = 0 then (0, 0)
        else if e < -127 then (0, fSU) else ((e + 127).toNat, 0)
      let fl : Flags := ((List.range 32).filter row).foldl (fun f i => f ||| (code i).2) 0
      enabled s.me.fcsr fl = 0 → ∃ t, exec (.scalex v vs1 fmt rm two) s = .next t ∧ moved t fl ∧ s.outside t fl ∧
        ∀ (q : Fin 16) (j : Nat), j < 64 → fld t.me.q[q] (8 * j) 8 =
          if q.val = v.toNat ∧ j / 32 = two.toNat ∧ row (j % 32) then (code (j % 32)).1 else fld s.me.q[q] (8 * j) 8) ∧
    (kind.toNat ≤ 1 → (kind = 1 → a < 4) →
      let u := if kind = 1 then 8 + a else a
      s.claims [u] = (s1, none) → s1.unitWaits false u = false → ∃ t, exec (.trel acc kind) s = .next t ∧ s1.inCore t ∧ moved t 0 ∧
        t.me.q = s.me.q ∧ t.myCore.zeroing = u :: s1.myCore.zeroing ∧
        (∀ b < 12, t.myCore.ownerByte b = if b = u then 0 else s1.myCore.ownerByte b) ∧
        t.myCore.acc = (if u < 8 then s1.myCore.acc.set! u (Vector.replicate 32 0) else s1.myCore.acc) ∧
        t.myCore.ttag = (if u < 8 then s1.myCore.ttag.set! u 0 else s1.myCore.ttag) ∧
        t.myCore.latch = (if u < 8 then s1.myCore.latch else s1.myCore.latch.set! (u - 8) {})) ∧
    (lf.toNat ≤ 6 → two.toNat ≤ 2 → (lf = 0 → one = 0) →
      let code := if lf = 0 then 8 else if lf = 1 then 0 else if lf = 2 then 7 else 0xA + (lf.toNat - 1)
      let w := if code = 8 then 16 else if code = 0xF then 4 else 8
      let size := if code = 8 then 2 else 1
      let fill (i : Instr) (l f : Nat) (q : BitVec 512) (addr : Nat → Word) (from_ : Nat → Nat) : Prop :=
        let per := f * w / 8 / size
        s.claims [8 + l] = (s1, none) → s1.unitWaits false (8 + l) = false →
        ∀ ps s2, s1.passes .load size 0 fillWindows (fun e => addr (e / per) + BitVec.ofNat 64 (e % per * size)) (List.range (32 * per)) ps s2 →
          let unit (m k : Nat) : Nat := let p := ps.getD (m * per + k) { win := .priv, addr := 0 }
            leNat (s.bytesKey p.key p.addr size)
          let raw (m k : Nat) : Nat := if w = 4 then unit m (k / 2) / 16 ^ (k % 2) % 16 else if code = 0xE then unit m k % 64 else unit m k
          let sc (m : Nat) : Nat := if one = 1 then fld q (8 * m) 8 else 0x7F
          let fl : Flags := if code = 8 then 0 else (List.range 32).foldl (fun g m => (List.range f).foldl (fun h k =>
            h ||| (widenScaled code (sc m) 8 .rne (raw m k)).2) g) 0
          enabled s.me.fcsr fl = 0 → ∃ t, exec i s = .next t ∧ moved t fl ∧ t.me.q = s.me.q ∧ s.sameMemory t ∧
            (∀ b : Fin 4, b.val ≠ l → t.myCore.latch[b] = s1.myCore.latch[b]) ∧
            { t.myCore with threads := s1.myCore.threads, latch := s1.myCore.latch } = s1.myCore ∧
            (let new := t.myCore.latch.getD l {}
             (∀ m < 32, ∀ k < 64 / w, new.raw m k = if k < f then raw m k else 0) ∧
             (∀ m : Fin 32, new.scale[m].toNat = sc m ∧ new.rowMap[m].toNat = from_ m % 32) ∧
             new.fmt.toNat = code + 16 * one.toNat ∧ new.filled = f ∧ new.depth = f)
      (∀ l : BitVec 2, (one = 0 → qs = 0) → fill (.opld qs l rs1 rs2 lf two one) l.toNat (64 / w / 2 ^ two.toNat) s.me.q[8 + qs.toNat]!
        (fun m => s.x rs1 + BitVec.ofNat 64 m * s.x rs2) id) ∧
      (∀ l : BitVec 2, shaped vs1 → fill (.opldx rs2 rs1 vs1 lf l one) l.toNat (64 / w) s.me.q[8]!
        (fun m => s.x rs1 + BitVec.ofNat 64 (s.me.elem 32 s.lanes vs1.toNat m) * s.x rs2) (fun m => s.me.elem 32 s.lanes vs1.toNat m)))

/-- THAAR and TIHAAR transform the 32 columns of a tile, each result rounded once to FP32 under RNE, and set its tag; a tile of
the other domain traps with cause 0x0A. TSTW writes a dense image: header, scale block, rows that survive and +0 rows; TLDW
reads one back, and traps on a malformed header with cause 0x05 and EVAL2 all ones (R198, R200, R209 to R213). TSTW here onto
one stretch of a local window. Zero signs, accesses by doublewords, and the approximation rows that TLDW's mask takes beside the
header's are the model's readings (logs 15, 17, 72). -/
def Obligations.TileHaarForms : Prop :=
  ∀ (s s1 : State) (acc : BitVec 3) (lev rs1 : BitVec 5) (hn ty : BitVec 2) (sc : BitVec 1), s.armed → lev.toNat ≤ 5 →
    let a := acc.toNat
    let l := lev.toNat
    s.claims [a] = (s1, none) → s1.unitWaits false a = false →
    let tile (i j : Nat) : Nat := fld ((s1.myCore.acc[a]!)[i]! : VReg) (32 * j) 32
    let tt := s1.myCore.ttag[a]!
    let col (row : Nat → Bool) (j : Nat) : List HVal :=
      (List.range 32).map fun i => if row i then (FP32.decode (tile i j), 0) else hZero
    let all (fl : Nat → Nat → Flags) : Flags := (List.range 32).foldl (fun f i => (List.range 32).foldl (fun g j => g ||| fl i j) f) 0
    let kept (t : State) (fl : Flags) : Prop :=
      s.me.wholeRest t.me ∧ t.me.v = s.me.v ∧ t.me.vtag = s.me.vtag ∧ t.me.vlive = s.me.vlive ∧ t.me.q = s.me.q ∧
        t.me.fcsr = s.me.fcsr ||| (zx fl <<< 3)
    let takes (i : Instr) (g : Word) (el : Nat → Nat → Nat × Flags) : Prop :=
      let fl := all fun i j => (el i j).2
      enabled s.me.fcsr fl = 0 → ∃ t, exec i s = .next t ∧ kept t fl ∧ s.sameMemory t ∧
        (∀ (b : Fin 8) (i : Fin 32) (j : Nat), j < 32 → fld t.myCore.acc[b][i] (32 * j) 32 =
          if b.val = a then (el i j).1 % 2 ^ 32 else fld (s1.myCore.acc[b][i] : VReg) (32 * j) 32) ∧
        t.myCore.ttag = s1.myCore.ttag.set! a g ∧
        { t.myCore with threads := s1.myCore.threads, acc := s1.myCore.acc, ttag := s1.myCore.ttag } = s1.myCore ∧
        ∀ n k : Nat, k < 4 → ¬(n = s.cur ∧ k = s.curSlot) → t.thread n k = s.thread n k
    let fault (i : Instr) : Prop := s.me.level = .T →
      ∃ t, exec i s = .next t ∧ s1.trapped t { cause := 0xA, eval := BitVec.ofNat 64 (32 + a), eval2 := tt }
    let round (v : HVal) : Nat × Flags := hRound FP32 .rne v
    (bit tt 0 = false → takes (.thaar acc lev) (0xFFFFFFFF00000001 ||| (zx lev <<< 1))
      fun i j => round ((haarFwd l (col (fun _ => true) j)).getD i hZero)) ∧
    (bit tt 0 = true → takes (.tihaar acc) 0 fun i j => round ((haarInv (fld tt 1 3) (col (fun i => bit tt (32 + i)) j)).getD i hZero)) ∧
    (bit tt 0 = true → fault (.thaar acc lev)) ∧ (bit tt 0 = false → fault (.tihaar acc)) ∧
    (let f := if ty = 0 then 0xA else if ty = 1 then 8 else if ty = 2 then 0xC else 0xD
     let n := if ty = 0 then 4 else if ty = 1 then 2 else 1
     let m : Fmt := if ty = 0 then FP32 else if ty = 1 then BF16 else if ty = 2 then E4M3 else E5M2
     let haar := bit tt 0
     (haar = true → fld tt 1 3 ≠ l → fault (.tstw acc hn rs1 lev ty sc)) ∧
     (∀ p : Nat, (haar = true → fld tt 1 3 = l) → (sc = 1 → 2 ≤ ty.toNat) → (s.x rs1).toNat % 64 = 0 → s1.calm →
      s1.myCluster.ckpts = [] → Memory.wf s.mem = true →
      (∀ b < 64 + 1024 * n, s.localAt ((s.x rs1).toNat + b) = some (p + b)) →
      let q : BitVec 512 := s.me.q[12]
      let h : BitVec 128 := s.me.h[hn.toNat]
      let c (i j : Nat) : HVal :=
        if haar then (col (fun i => bit tt (32 + i)) j).getD i hZero else (haarFwd l (col (fun _ => true) j)).getD i hZero
      let el (i j : Nat) : Nat × Flags :=
        if f = 0xA ∧ (haar ∨ l = 0) then (if !haar || bit tt (32 + i) then tile i j else 0, 0)
        else
          let r := if sc = 1 then quantise f (fld q (8 * i) 8) .rne (c i j).1 else (c i j).1.narrow m .rne
          (r.1, r.2 ||| (c i j).2)
      let val (i j : Nat) : FVal :=
        if sc = 1 then (if fld q (8 * i) 8 = 0xFF then .nan false false else (m.decode (el i j).1).scale (fld q (8 * i) 8 - 127 : Int))
        else m.decode (el i j).1
      let keep (i : Nat) : Bool :=
        let th := BF16.decode (fld h (16 * (4 - Nat.log2 i)) 15)
        decide (i < 32 / 2 ^ l) || ((!haar || bit tt (32 + i)) &&
          (!bit h 80 || th.isNan || (List.range 32).any fun j => (val i j).isNan || !(val i j).abs.lt th))
      let fl := all fun i j => (el i j).2
      enabled s.me.fcsr fl = 0 →
      ∃ t, exec (.tstw acc hn rs1 lev ty sc) s = .next t ∧
        leNat (t.bytes p 8) = 1 + 2 * l + 16 * f + 512 * hn.toNat + 2048 * sc.toNat ∧
        (∀ i < 32, bit (t.dword (p + 8)) i = keep i) ∧ fld (t.dword (p + 8)) 32 32 = 0 ∧
        (∀ i < 32, (t.byte (p + 16 + i)).toNat = if sc = 1 then fld q (8 * i) 8 else 0) ∧ (∀ i < 16, t.byte (p + 48 + i) = 0) ∧
        (∀ i < 32, ∀ j < 32, leNat (t.bytes (p + 64 + (32 * i + j) * n) n) = if keep i then (el i j).1 % 2 ^ (8 * n) else 0) ∧
        (∀ b, ¬(p ≤ b ∧ b < p + 64 + 1024 * n) → t.byte b = s.byte b) ∧
        t.myCore.acc = s1.myCore.acc ∧ t.myCore.ttag = s1.myCore.ttag ∧ t.me.fcsr = s.me.fcsr ||| (zx fl <<< 3) ∧
        { t.me with post := s.me.post, fcsr := s.me.fcsr } = { s.me with
          sstart := 0, pc := s.me.pc + 4, cameFrom := s.me.pc, retired := s.me.retired + 1, wait := .none
          counted := 0, since := some s.steps })) ∧
    (∀ hs s2, (s.x rs1).toNat % 64 = 0 →
      s1.passes .load 8 0 tileLoadWindows (fun k => s.x rs1 + BitVec.ofNat 64 (8 * k)) (List.range 8) hs s2 →
      let w (k : Nat) : Word := let p := hs.getD k { win := .priv, addr := 0 }
        BitVec.ofNat 64 (leNat (s.bytesKey p.key p.addr 8))
      let f := fld (w 0) 4 4
      let n := if f = 0xA then 4 else if f = 8 then 2 else 1
      let good : Prop := fld (w 0) 1 3 ≤ 5 ∧ f ∈ [0xA, 8, 0xC, 0xD] ∧ (bit (w 0) 11 = true → f = 0xC ∨ f = 0xD) ∧ bit (w 0) 8 = false ∧
        (bit (w 0) 0 = false → fld (w 0) 1 3 = 0 ∧ fld (w 1) 0 32 = 0xFFFFFFFF) ∧ fld (w 0) 12 52 = 0 ∧ fld (w 1) 32 32 = 0
      (¬good → s.me.level = .T → ∃ t, exec (.tldw acc rs1) s = .next t ∧
        s2.trapped t { cause := 5, eval := s.x rs1, eval2 := BitVec.allOnes 64 }) ∧
      (good → ∀ ps s3, s2.passes .load n 0 tileLoadWindows (fun e => s.x rs1 + BitVec.ofNat 64 (64 + e * n)) (List.range 1024) ps s3 →
        takes (.tldw acc rs1) (if bit (w 0) 0 then BitVec.ofNat 64 (1 + 2 * fld (w 0) 1 3 + 2 ^ 32 *
            (fld (w 1) 0 32 ||| (2 ^ (32 / 2 ^ fld (w 0) 1 3) - 1))) else 0) fun i j =>
          let p := ps.getD (32 * i + j) { win := .priv, addr := 0 }
          let b := leNat (s.bytesKey p.key p.addr n)
          if bit (w 1) i = false then (0, 0)
          else if bit (w 0) 11 then widenScaled f (fld (w (2 + i / 8)) (8 * (i % 8)) 8) 0xA .rne b else convertElem f 0xA .rne b))

/-! ### Context switches -/

/-- TSAVE at level S writes a unit's record and takes the unit over, logging nothing; a latch that nobody owns is saved as an empty one.
TRESTORE installs a record, a tag image as a write of the tag (R51), and refuses a latch record that R186 calls malformed: a trap of
cause 0x05, which at level S is a double fault whose machine check names that cause (R300). At level T both trap as privileged; they wait
while a slice uses their unit (R170, R186 to R188). Records are made in doublewords (log 15). -/
def Obligations.TileRecords : Prop :=
  ∀ (s : State) (unit : BitVec 3) (kind : BitVec 2) (rs1 : BitVec 5) (key : KeyVal), s.armed → kind.toNat ≤ 1 → (kind = 1 → unit.toNat < 4) →
    Memory.wf s.mem = true →
    let u := if kind = 1 then 8 + unit.toNat else unit.toNat
    let n := if kind = 1 then 40 else 520
    let a := s.x rs1
    let ea (k : Nat) : Word := a + BitVec.ofNat 64 (8 * k)
    let moved (t : State) : Prop :=
      t.me = { s.me with sstart := 0, pc := s.me.pc + 4, cameFrom := s.me.pc, retired := s.me.retired + 1, wait := .none
                         counted := 0, since := some s.steps }
    let other (t : State) : Prop := ∀ m k : Nat, k < 4 → ¬(m = s.cur ∧ k = s.curSlot) → t.thread m k = s.thread m k
    (s.me.level = .T → ∀ i ∈ [Instr.tsave unit kind rs1, .trestore unit kind rs1],
      s.traps i { cause := 3, eval := s.myWord, eval2 := 4 }) ∧
    (s.me.level = .S → s.unitWaits false u = true → ∀ i ∈ [Instr.tsave unit kind rs1, .trestore unit kind rs1], s.waits i) ∧
    (s.me.level = .S → s.unitWaits false u = false → a.toNat % 64 = 0 →
      (∀ ps s1, s.passes .store 8 0 recordWindows ea (List.range n) ps s1 →
        (∀ p ∈ ps, p.ro = false ∧ (p.key = key ∨ hbmEnd ≤ p.addr)) →
        let l : Latch := if s.myCore.ownerByte u < 128 then {} else s.myCore.latch.getD (u - 8) {}
        let map : Nat := (List.range 32).foldl (fun r m => r + (l.rowMap[m]! : BitVec 5).toNat * 2 ^ (5 * m)) 0
        let word (k : Nat) : Nat :=
          if u < 8 then (if k < 512 then fld ((s.myCore.acc[u]!)[k / 16]! : VReg) (64 * (k % 16)) 64
            else if k = 512 then (s.myCore.ttag[u]! : Word).toNat else 0)
          else if k < 32 then (l.data[k]! : Word).toNat
          else if k < 36 then leNat ((List.range 8).map fun i => l.scale[8 * (k - 32) + i]!)
          else if k < 38 then map / 2 ^ (64 * (k - 36)) % 2 ^ 64
          else if k = 38 then map / 2 ^ 128 + 2 ^ 32 * l.fmt.toNat + 2 ^ 40 * (l.filled % 256) + 2 ^ 48 * (l.depth % 256) else 0
        let at_ (k : Nat) : Nat := (ps.getD k { win := .priv, addr := 0 }).addr
        ∃ t, exec (.tsave unit kind rs1) s = .next t ∧ moved t ∧ other t ∧ t.myCluster.log = s.myCluster.log ∧
          (∀ k < n, (∀ j < n, k < j → at_ j + 8 ≤ at_ k ∨ at_ k + 8 ≤ at_ j) → leNat (t.bytesKey key (at_ k) 8) = word k) ∧
          (∀ b, (∀ k < n, ¬(at_ k ≤ b ∧ b < at_ k + 8)) → t.byteKey key b = s.byteKey key b) ∧
          (∀ v < 12, t.myCore.ownerByte v = if v = u then 128 + fld s.me.ctxid 0 7 else s.myCore.ownerByte v) ∧
          { t.myCore with threads := s.myCore.threads, town := s.myCore.town, lown := s.myCore.lown } = s.myCore) ∧
      (∀ ps s1, s.passes .load 8 0 recordWindows ea (List.range n) ps s1 →
        let w (k : Nat) : Word := let p := ps.getD k { win := .priv, addr := 0 }
          BitVec.ofNat 64 (leNat (s.bytesKey p.key p.addr 8))
        let fmt := fld (w 38) 32 8
        let cap := if fmt % 16 = 8 then 4 else if fmt % 16 = 0xF then 16 else 8
        let filled := fld (w 38) 40 8
        let good : Prop := fmt < 32 ∧ fmt % 16 ∈ [8, 0, 7, 0xC, 0xD, 0xE, 0xF] ∧ fmt ≠ 0x18 ∧ filled ∈ [0, cap, cap / 2, cap / 4] ∧
          fld (w 38) 48 8 ≤ filled ∧ fld (w 38) 56 8 = 0 ∧ w 39 = 0
        (u < 8 → ∃ t, exec (.trestore unit kind rs1) s = .next t ∧ moved t ∧ other t ∧ s.sameMemory t ∧
          (∀ (b : Fin 8) (i : Fin 32) (j : Nat), j < 16 → fld t.myCore.acc[b][i] (64 * j) 64 =
            if b.val = u then (w (16 * i.val + j)).toNat else fld (s.myCore.acc[b][i] : VReg) (64 * j) 64) ∧
          (let old : Word := s.myCore.ttag[u]!
           t.myCore.ttag = s.myCore.ttag.set! u
             ((w 512 &&& 0xFFFFFFFF00000001) ||| ((if fld (w 512) 1 3 ≤ 5 then w 512 else old) &&& 0xE))) ∧
          { t.myCore with threads := s.myCore.threads, acc := s.myCore.acc, ttag := s.myCore.ttag } = s.myCore) ∧
        (8 ≤ u → good → ∃ t, exec (.trestore unit kind rs1) s = .next t ∧ moved t ∧ other t ∧ s.sameMemory t ∧
          (∀ v : Fin 4, v.val ≠ u - 8 → t.myCore.latch[v] = s.myCore.latch[v]) ∧
          (let l := t.myCore.latch.getD (u - 8) {}
           (∀ m : Fin 32, l.data[m] = w m ∧ l.scale[m].toNat = fld (w (32 + m / 8)) (8 * (m % 8)) 8 ∧
             l.rowMap[m].toNat = ((w 36).toNat + 2 ^ 64 * (w 37).toNat + 2 ^ 128 * fld (w 38) 0 32) / 2 ^ (5 * m.val) % 32) ∧
           l.fmt.toNat = fmt ∧ l.filled = filled ∧ l.depth = fld (w 38) 48 8) ∧
          { t.myCore with threads := s.myCore.threads, latch := s.myCore.latch } = s.myCore) ∧
        (8 ≤ u → ¬good → ∃ t m, exec (.trestore unit kind rs1) s = .next t ∧ t.myCore.latch = s.myCore.latch ∧
          t.me = { s.me with wait := .retiring .faulted none } ∧ t.myTower.mchecks.head? = some m ∧ m.src = 8 ∧
          m.coreid = coreId s.cur ∧ m.slot = s.curSlot ∧ m.aux = (5 : Word) <<< 56 ||| s.me.pc)))

/-- CSAVE at level S saves a post-commit context into its block: the header, the registers, CSRs, tags, staging sets, live vector and mask
registers at the offsets of R311, and frees the slot, whose units take the new number; Lahar records it as Saved. It waits for the
context's commands and broadcasts, and for the power of the layer that holds the block (R296, R316). A pre-commit task is discarded instead,
as by TDISCARD; TDISCARD of a post-commit task and TFAIL let the task retire as faulted; TFAIL in a slot without a task frees it and logs
the machine check of a double fault (R300, R311, R312, R316, R318), whose cause is the model's 0 (log 51). That CSAVE waits while a
snapshot holds Lahar frozen is the model's choice too (log 23). -/
def Obligations.ContextSave : Prop :=
  ∀ (s : State) (rs1 rs2 : BitVec 5), s.sound → s.me.level = .S → s.cur < coreCount →
    let a := s.x rs1
    let n := (s.x rs2).toNat
    let ends (i : Instr) (how : Ending) : Prop :=
      ∃ t, exec i s = .next t ∧ t.me = { s.me with wait := .retiring how none, watchdog := none } ∧ s.sameMemory t ∧
        t.myCore.slices = s.myCore.slices.filter (fun x => !(x.slot == s.curSlot.val && !x.started)) ∧
        { t.myCore with threads := s.myCore.threads, slices := s.myCore.slices } = s.myCore ∧
        (∀ m k : Nat, k < 4 → ¬(m = s.cur ∧ k = s.curSlot) → t.thread m k = s.thread m k) ∧
        { t with cores := s.cores, towers := s.towers } = s
    (s.me.occ ≠ .message → ends .tfail .faulted ∧ ends .tdiscard (if s.me.post then .faulted else .discarded)) ∧
    (s.me.occ = .message → ∃ t m, exec .tfail s = .next t ∧ t.me = { s.me with wait := .retiring .faulted none } ∧
      t.myTower.mchecks.head? = some m ∧ m.src = 8 ∧ m.coreid = coreId s.cur ∧ m.slot = s.curSlot.val ∧ m.aux = s.me.pc) ∧
    (∀ i, s.me.occ = .task → s.me.task = some i → a.toNat % 4096 = 0 → 2 ^ 32 ≤ a.toNat → a.toNat < 2 ^ 52 → 4 ≤ n → n ≤ 127 →
      (s.me.post = false → ends (.csave rs1 rs2) .discarded) ∧
      (s.me.post = true → s.saveWaits = true → s.waits (.csave rs1 rs2)) ∧
      (s.me.post = true → s.saveWaits = false → i.psize % 4096 = 0 → ∀ ps s1,
        blockPlaces a .store ([0] ++ (if s.me.vlive = 0 then [] else [1]) ++ (List.range (i.psize / 4096)).map (0xB + ·)) s = (s1, .inl ps) →
        (∃ p ∈ ps, s1.powerWaits p.2.addr = true) →
        ∃ t, exec (.csave rs1 rs2) s = .next t ∧ t.me = { s.me with wait := .stalled } ∧ s.sameMemory t) ∧
      (s.me.post = true → s.saveWaits = false → Memory.wf s.mem = true → i.psize % 4096 = 0 → i.pbase + i.psize ≤ 0x80000 →
        let pieces := [0] ++ (if s.me.vlive = 0 then [] else [1]) ++ (List.range (i.psize / 4096)).map (0xB + ·)
        ∀ ps s1, blockPlaces a .store pieces s = (s1, .inl ps) →
        (∀ p ∈ ps, s1.powerWaits p.2.addr = false ∧ p.2.ro = false ∧ p.2.addr % 4096 = 0 ∧
          (p.2.addr + 4096 ≤ privBase s.cur ∨ privBase s.cur + 0x80000 ≤ p.2.addr)) →
        (ps.map fun p => p.2.addr).Nodup →
        let ctx := fld s.me.ctxid 0 7
        let held (u : Nat) : Bool := s.myCore.ownerByte u == 128 + ctx
        ∃ t, exec (.csave rs1 rs2) s = .next t ∧ t.me = { oclaim := s.me.oclaim, bindStamp := s.me.bindStamp } ∧
          (∀ u < 12, t.myCore.ownerByte u = if held u then 128 + n else s.myCore.ownerByte u) ∧
          (∀ m k : Nat, k < 4 → ¬(m = s.cur ∧ k = s.curSlot) → t.thread m k = s.thread m k) ∧
          (∃ sv, t.myTower.saved = s.myTower.saved ++ [sv] ∧ sv.ctx = n ∧ sv.block = a ∧ sv.core = s.cur ∧ sv.taskid = s.me.taskid ∧
            sv.groups = s.lanes / 8 ∧ ∀ u < 12, bit sv.res u = held u) ∧
          (let rd (off len : Nat) : Nat := let p := (look ps (off / 4096)).getD { win := .priv, addr := 0 }
             leNat (t.bytesKey p.key (p.addr + off % 4096) len)
           rd 0 2 = 1 ∧ rd 2 1 = n ∧ rd 4 1 = s.lanes ∧ rd 5 1 = s.me.prio % 256 ∧ rd 8 4 = s.me.vlive.toNat ∧
           rd 12 4 = s.me.mlive.toNat / 2 ∧ rd 16 4 = i.psize ∧ rd 20 4 = i.pbase ∧ (∀ u < 12, (rd 24 2).testBit u = held u) ∧
           rd 26 2 = coreId s.cur ∧ rd 28 4 = 0 ∧ (∀ k < 4, rd (32 + 8 * k) 8 = 0) ∧
           (∀ r : Fin 32, rd (0x40 + 8 * r) 8 = if r = 0 then 0 else s.me.x[r].toNat) ∧ rd 0x140 8 = s.me.epc.toNat ∧
           rd 0x148 8 = s.me.fcsr.toNat ∧ rd 0x150 8 = s.me.vtype.toNat ∧ rd 0x158 8 = s.me.vl.toNat ∧ rd 0x160 8 = s.me.estart.toNat ∧
           rd 0x168 8 = s.me.sstart.toNat ∧ rd 0x170 8 = s.me.spset.toNat ∧ rd 0x178 8 = s.me.dctl.toNat ∧
           rd 0x180 8 = s.me.vfill.toNat ∧ rd 0x188 8 = s.me.retired.toNat ∧ (∀ c : Fin 8, rd (0x190 + 8 * c) 8 = s.me.wm[c].toNat) ∧
           rd 0x1D0 8 = s.me.taskid.toNat ∧ (s.me.glease < 128 → rd 0x1D8 8 = s.me.glease) ∧
           (∀ r : Fin 32, rd (0x200 + 8 * r) 8 = s.me.vtag[r].toNat) ∧ (∀ k : Fin 4, rd (0x300 + 16 * k) 16 = s.me.h[k].toNat) ∧
           (∀ k : Fin 16, rd (0x400 + 64 * k) 64 = s.me.q[k].toNat) ∧
           (∀ k : Fin 8, s.me.regs.getD k 0 < 2 ^ 64 → rd (0x340 + 8 * k) 8 = s.me.regs.getD k 0) ∧
           (∀ c : Fin 8, let g := s.me.staging[c]
             let at_ (j : Nat) : Nat := rd (0x800 + 128 * c + 8 * j) 8
             at_ 0 = g.sigAddr.toNat ∧ at_ 1 = g.sigVal.toNat ∧ at_ 2 = g.sigBar.toNat ∧ at_ 3 / 2 ^ 32 = g.seed.toNat ∧
             at_ 4 = g.expected.toNat ∧ at_ 5 = g.xf.toNat ∧ at_ 6 = g.scaleAddr.toNat ∧ at_ 7 = g.fill.toNat ∧
             at_ 8 = g.rowBytes.toNat ∧ at_ 9 = g.rowPitch.toNat ∧ (at_ 10 % 2 = 0 ↔ s.me.chains[c].open_ = none)) ∧
           (∀ k : Fin 8, k ≠ 0 → bit s.me.mlive k = true → rd (0xC00 + 128 * (k - 1)) (4 * s.lanes) = fld s.me.m[k] 0 (32 * s.lanes)) ∧
           (∀ r : Fin 32, bit s.me.vlive r = true → rd (0x1000 + 128 * r) (4 * s.lanes) = fld s.me.v[r] 0 (32 * s.lanes)) ∧
           ∀ b < i.psize, rd (0xB000 + b) 1 = (s.byte (privBase s.cur + i.pbase + b)).toNat)))

/-- CRESTORE in a slot that a resume message holds installs an accepted block: registers, CSRs, tags, staging sets with their chains,
registrations and private area, EPC the saved PC, ESTAT 0, the context resident and post-commit; registers not live in the block are
released, reserved bits of h read 0 (R50). That flags which FCSR gains here join the summaries is the model's choice (log 47). It waits for
the power of the layer that holds the block, and while Lahar is frozen (R296, R374, log 23). A block that R317 refuses, or a slot that no resume message holds, is a
double fault that ends the slot (R300, R317). Corners of an altered block, and a VL above the restored VLMAX, are the model's readings
(logs 51, 73). -/
def Obligations.ContextRestore : Prop :=
  ∀ (s : State) (rs1 : BitVec 5), s.sound → s.me.level = .S →
    let a := s.x rs1
    (s.resuming = none → ∃ t, exec (.crestore rs1) s = .next t ∧ t.me = { s.me with wait := .retiring .faulted none }) ∧
    (∀ sv ps s1, s.resuming = some sv → a.toNat % 4096 = 0 → 2 ^ 32 ≤ a.toNat → a.toNat < 2 ^ 52 →
      blockPlaces a .load [0] s = (s1, .inl ps) → (∃ p ∈ ps, s1.powerWaits p.2.addr = true) →
      ∃ t, exec (.crestore rs1) s = .next t ∧ t.me = { s.me with wait := .stalled } ∧ s.sameMemory t) ∧
    (∀ sv ps s1, s.resuming = some sv → a.toNat % 4096 = 0 → 2 ^ 32 ≤ a.toNat → a.toNat < 2 ^ 52 →
      blockPlaces a .load [0] s = (s1, .inl ps) → (∀ p ∈ ps, s1.powerWaits p.2.addr = false ∧ s1.unreadable p.2.addr 4096 = false) →
      let w (k : Nat) : Word := s1.blockWord ps (8 * k)
      let ln := fld (w 0) 32 6
      let res := fld (w 3) 0 12
      let clear (k lo len : Nat) : Prop := fld (w k) lo len = 0
      let good : Prop := fld (w 0) 0 16 = 1 ∧ ln ∈ [8, 16, 24, 32] ∧ 4 ≤ fld (w 0) 16 7 ∧
        (clear 0 23 9 ∧ clear 0 38 2 ∧ clear 0 43 21 ∧ clear 1 39 25 ∧ clear 3 12 4 ∧ clear 3 28 4 ∧ clear 3 44 20 ∧
          w 4 = 0 ∧ w 5 = 0 ∧ w 6 = 0 ∧ w 7 = 0) ∧
        (res ≠ 0 → fld (w 3) 16 12 = coreId s.cur) ∧ ln / 8 ≤ pop4 (force s.myCore.lpart s.curSlot) ∧
        (res ≠ 0 ∨ fld (w 3) 32 12 ≠ 0 → s.clsOf s.cur ≤ 1)
      (¬good → ∃ t, exec (.crestore rs1) s = .next t ∧ t.me = { s.me with wait := .retiring .faulted none }) ∧
      (good → s.myTower.lfrz = true → ∃ t, exec (.crestore rs1) s = .next t ∧ t.me = { s.me with wait := .stalled } ∧ s.sameMemory t) ∧
      (good → s.myTower.lfrz = false → ∀ qs s2, fld (w 2) 0 32 % 4096 = 0 → fld (w 2) 32 32 + fld (w 2) 0 32 ≤ 0x80000 → fld (w 2) 32 32 % 4096 = 0 →
        blockPlaces a .load ([0] ++ (if fld (w 1) 0 32 = 0 then [] else [1]) ++ (List.range (fld (w 2) 0 32 / 4096)).map (0xB + ·)) s1 =
          (s2, .inl qs) →
        (∀ p ∈ qs, s2.powerWaits p.2.addr = false ∧ s2.unreadable p.2.addr 4096 = false) → look qs 0 = look ps 0 →
        ∃ t, exec (.crestore rs1) s = .next t ∧
          (∀ r : Fin 32, t.me.x[r] = if r = 0 then 0 else w (8 + r)) ∧ t.me.epc = w 40 ∧ t.me.vl = w 43 ∧ t.me.retired = w 49 + 1 ∧
          (fld (w 41) 0 3 ≤ 4 → t.me.fcsr = w 41 &&& 0xFFFF) ∧ (vtypeLegal (w 42) = true → bit (w 42) 63 = false → t.me.vtype = w 42 &&& 0xFFF) ∧
          t.me.estart = w 44 &&& 0xFFFF ∧ t.me.sstart = w 45 &&& 3 ∧ t.me.spset = w 46 &&& 0x7F7F7F7F ∧ t.me.dctl = w 47 &&& 1 ∧
          t.me.vfill = w 48 &&& 0xFFFFFFFF ∧ (∀ c : Fin 8, t.me.wm[c] = w (50 + c)) ∧ t.me.taskid = w 58 ∧
          (∀ k : Fin 4, t.me.h[k] = BitVec.ofNat 128 (s1.blockRead ps (0x300 + 16 * k) 16 % 2 ^ 81)) ∧
          t.me.regs = ((List.range 8).map fun i => (w (104 + i)).toNat).filter (· ≠ 0) ∧
          (∀ c : Fin 8, let g := t.me.staging[c]
            let at_ (j : Nat) : Word := w (256 + 16 * c + j)
            g.sigAddr = at_ 0 ∧ g.sigVal = at_ 1 ∧ g.sigBar = at_ 2 ∧ g.cont = bit (at_ 3) 2 ∧ g.verify = bit (at_ 3) 3 ∧
            g.seed.toNat = fld (at_ 3) 32 32 ∧ g.chk = (if fld (at_ 3) 0 2 = 1 then .crc else if fld (at_ 3) 0 2 = 2 then .add32 else .none) ∧
            g.expected.toNat = fld (at_ 4) 0 32 ∧ g.xf = at_ 5 ∧ g.scaleAddr = at_ 6 ∧ g.fill = at_ 7 ∧ g.rowBytes = at_ 8 ∧
            g.rowPitch = at_ 9 ∧ (t.me.chains[c].open_ = none ↔ bit (at_ 10) 0 = false) ∧
            (bit (at_ 10) 0 = true → t.me.chains[c].running.toNat = fld (at_ 10) 32 32 ∧
              t.me.chains[c].pending = leBytes (fld (at_ 10) 3 2) (fld (at_ 10) 8 24))) ∧
          (let gained : Word := w 41 &&& ~~~s.me.fcsr &&& 0x3F8
           t.myCluster.cflags = s.myCluster.cflags ||| gained ∧
           (t.layer (layerOf s.cur)).lflags = (s.layer (layerOf s.cur)).lflags ||| gained) ∧
          (∀ k : Fin 16, t.me.q[k] = BitVec.ofNat 512 (s1.blockRead ps (0x400 + 64 * k) 64)) ∧
          (∀ r : Fin 32, bit t.me.vlive r = bit (w 1) r ∧
            t.me.v[r] = (if bit (w 1) r then BitVec.ofNat 1024 (s2.blockRead qs (0x1000 + 128 * r) (4 * ln)) else 0) ∧
            (bit (w 1) r = false → t.me.vtag[r] = 0) ∧ (bit (w 1) r = true → tagLegal (w (64 + r)) = true → fld (w (64 + r)) 1 3 ≤ 5 →
              t.me.vtag[r] = w (64 + r))) ∧
          (∀ k : Fin 8, k ≠ 0 → bit t.me.mlive k = bit (w 1) (31 + k) ∧
            t.me.m[k] = if bit (w 1) (31 + k) then BitVec.ofNat 1024 (s1.blockRead ps (0xC00 + 128 * (k - 1)) (4 * ln)) else 0) ∧
          t.me.counted = 0 ∧ t.me.since = some s.steps ∧
          t.me.glease ≤ 64 ∧ t.me.glease ≤ fld (w 59) 0 7 ∧ (t.me.task.map TaskInfo.chan = some none) ∧ t.me.estat = 0 ∧ t.me.ctxid = BitVec.ofNat 64 (fld (w 0) 16 7) ∧ t.me.prio = fld (w 0) 40 3 ∧ t.me.post = true ∧
          t.me.occ = .task ∧ t.me.level = .S ∧ t.me.pc = s.me.pc + 4 ∧ t.lanes = ln ∧ t.me.sx = s.me.sx ∧
          (∀ b < fld (w 2) 0 32, (t.byte (privBase s.cur + fld (w 2) 32 32 + b)).toNat = s2.blockRead qs (0xB000 + b) 1) ∧
          (∀ m k : Nat, k < 4 → ¬(m = s.cur ∧ k = s.curSlot) → t.thread m k = s.thread m k)))

/-! ### Atomics, ordering and checkpoints -/

/-- A scalar atomic whose access passes writes the new value at home and the old one to rd: 32-bit forms act on the low halves
and sign-extend, AFADD zero-extends, a failing ACAS writes nothing; other bytes read as before. Before commit the old doubleword of a
logged location enters the rewind log, or the task commits: at a global location, and when the log lacks room (R30, R31, R269 to R271).
A location that takes no write, a replica or the base mirror, keeps its bytes (R362). A failed check traps. FENCE goes on, and a release
waits for the thread's own pending writes; SBAR goes on (R228 to R230). That a failing ACAS logs and commits as a succeeding one does, and
what an ordering form waits for, are the model's readings (logs 19, 45). A releasing form on a page with SA waits at `.pkg` or wider, which
is the scope it is to have there (R242). -/
def Obligations.ScalarAtomics : Prop :=
  ∀ (s : State) (rd rs1 rs2 : BitVec 5) (scope : BitVec 3) (ord : BitVec 2) (w : BitVec 1),
    (∀ m : BitVec 8, s.goes (.sbar m) (s.me.pc + 4)) ∧
    (if bit ord 1 = true ∧ s.releaseWaits scope.toNat = true then s.waits (.fence ord scope)
     else s.goes (.fence ord scope) (s.me.pc + 4)) ∧
    (s.sound → (bit ord 1 = true → s.releaseWaits scope.toNat = false) →
      let n := if w = 1 then 4 else 8
      let b := (s.x rs2).toNat % 2 ^ (8 * n)
      let num (v : Nat) : Int := if 2 ^ (8 * n - 1) ≤ v then v - 2 ^ (8 * n) else v
      let forms : List (Instr × (Nat → Nat)) :=
        [(.aadd rd rs1 rs2 scope ord w, fun a => (a + b) % 2 ^ (8 * n)), (.aand rd rs1 rs2 scope ord w, (· &&& b)),
          (.aor rd rs1 rs2 scope ord w, (· ||| b)), (.axor rd rs1 rs2 scope ord w, (· ^^^ b)),
          (.amin rd rs1 rs2 scope ord w, fun a => if num b < num a then b else a),
          (.amax rd rs1 rs2 scope ord w, fun a => if num a < num b then b else a),
          (.aminu rd rs1 rs2 scope ord w, fun a => if b < a then b else a),
          (.amaxu rd rs1 rs2 scope ord w, fun a => if a < b then b else a), (.aswap rd rs1 rs2 scope ord w, fun _ => b),
          (.acas rd rs1 rs2 scope ord w, fun a => if a = (s.x rd).toNat % 2 ^ (8 * n) then b else a),
          (.afadd rd rs1 rs2 scope ord w, fun a => (fAdd (if w = 1 then FP32 else FP64) .rne a b).1)]
      ∀ q ∈ forms,
        (∀ p s1, s.check (s.x rs1) n .atomic 0 storeWindows = (.val p, s1) → bit ord 1 = true → p.sa = true →
          s1.releaseWaits (max scope.toNat 5) = true → ∃ t, exec q.1 s = .next t ∧ s1.stalled t) ∧
        (∀ p s1, s.check (s.x rs1) n .atomic 0 storeWindows = (.val p, s1) → Memory.wf s.mem = true → s.myCluster.ckpts = [] →
          (bit ord 1 = true → p.sa = true → s1.releaseWaits (max scope.toNat 5) = false) → s.uncaptured →
          let old := leNat (s.bytesKey p.key p.addr n)
          let full := decide (4096 < s.myCluster.log.length + 1)
          let commits := s.preCommit && (p.win == .glob || p.win.logged && full)
          let logs := s.preCommit && p.win.logged && !full
          let word := p.addr / 8 * 8
          let mine (e : LogEntry) : Bool := e.core == s.cur && e.slot == s.curSlot
          let fp : Bool := match q.1 with | .afadd _ _ _ _ _ _ => true | _ => false
          ∃ t, exec q.1 s = .next t ∧
            (p.ro = false → t.bytesKey p.key p.addr n = leBytes n (q.2 old) ∧ s.sameOutside t p.key p.addr n) ∧
            (p.ro = true → s.sameMemory t) ∧
            t.myCluster.log = (if commits then s.myCluster.log.filter (!mine ·)
              else if logs then s.myCluster.log ++ [⟨s.cur, s.curSlot, word, s.dword word⟩] else s.myCluster.log) ∧
            s.tookX t rd (if w = 1 ∧ fp = false ∧ 2 ^ 31 ≤ old then BitVec.ofInt 64 (old - 2 ^ 32) else BitVec.ofNat 64 old) ∧
            s.wentTo t (s.me.pc + 4) ∧ s.me.keptRest { t.me with post := s.me.post } ∧ t.me.post = (s.me.post || commits) ∧
            (∀ m k : Nat, k < 4 → ¬(m = s.cur ∧ k = s.curSlot) → t.thread m k = s.thread m k)) ∧
        (∀ c e s1, s.check (s.x rs1) n .atomic 0 storeWindows = (.trap c e, s1) → s.me.level = .T →
          ∃ t, exec q.1 s = .next t ∧ s1.trapped t { cause := c, eval := s.x rs1, eval2 := e, wr := true }))

/-- CKMARK commits and marks a region of the cluster with an empty log, once the thread's own pending broadcasts have been performed (R286);
an id already marked traps with code 6, a malformed region or log area, and one that overlaps a marked region or its log, with code 7.
CKROLL writes the logged words back, youngest entry first, CKCOMMIT does not; both wait for older writes at `.layer`, empty
the log, and with U remove the mark. CKSTAT gives entries, MARKED and FULL (R286, R288, R289). The order of the checks and the
EVAL of codes 6 and 7 are the model's readings (log 52). -/
def Obligations.Checkpoints : Prop :=
  ∀ (s : State) (rd rs1 rs2 : BitVec 5) (u : BitVec 1) (id : BitVec 4), s.sound → s.me.occ ≠ .message →
    let cl := clusterOf s.cur
    let mark := s.myCluster.ckpts.find? fun m => m.id == id.toNat
    let c := s.implicitCommit
    let base := (s.x rs1).toNat
    let n := (s.x rs2).toNat
    let lg := (s.x rd).toNat
    let inClus : Prop := 0x100000 ≤ base ∧ base + n ≤ 0x900000
    let inOnsen : Prop := 0x10000000 ≤ base ∧ base + n ≤ 0x30000000
    let fit : Prop := base % 8 = 0 ∧ n % 8 = 0 ∧ n ≠ 0 ∧ (inClus ∨ inOnsen) ∧ lg % 64 = 0 ∧ 0x10000000 ≤ lg ∧ lg + 65536 ≤ 0x30000000
    let pb := if base < 0x900000 then clusterBase (layerOf s.cur) (cluIdx s.cur) + (base - 0x100000) else layerAperture (layerOf s.cur) + base
    let pl := layerAperture (layerOf s.cur) + lg
    let apart (a m b k : Nat) : Prop := a + m ≤ b ∨ b + k ≤ a
    let free : Prop := apart pb n pl 65536 ∧ ∀ m ∈ s.myCluster.ckpts, apart pb n m.base m.len ∧ apart pb n m.logBase 65536 ∧
      apart pl 65536 m.base m.len ∧ apart pl 65536 m.logBase 65536
    let moved (t : State) (f : List Ckpt → List Ckpt) : Prop :=
      t.me = { c.me with pc := s.me.pc + 4, cameFrom := s.me.pc, retired := s.me.retired + 1, wait := .none
                         counted := 0, since := some s.steps } ∧
        t.cluster cl = { c.cluster cl with ckpts := f s.myCluster.ckpts } ∧ (∀ k, k ≠ cl → t.cluster k = s.cluster k) ∧
        (∀ m k : Nat, k < 4 → ¬(m = s.cur ∧ k = s.curSlot) → t.thread m k = s.thread m k)
    let bad (i : Instr) (ea : Word) (code : Nat) : Prop := s.me.level = .T →
      s.traps i { cause := 0x10, eval := ea, eval2 := BitVec.ofNat 64 code }
    (let pending : Prop := ∃ g ∈ s.myTower.gpend, g.core = s.cur ∧ g.slot = s.curSlot.val ∧ g.engine = none
     (mark = none → fit → free → ¬pending → ∃ t, exec (.ckmark rd rs1 rs2 id) s = .next t ∧ s.sameMemory t ∧
       moved t (· ++ [{ id := id.toNat, base := pb, len := n, logBase := pl }])) ∧
     (mark = none → fit → free → pending → ∃ t, exec (.ckmark rd rs1 rs2 id) s = .next t ∧ c.stalled t)) ∧
    (mark = none → fit → (∀ m ∈ s.myCluster.ckpts, m.len ≠ 0) → ¬free → bad (.ckmark rd rs1 rs2 id) (s.x rs1) 7) ∧
    (mark ≠ none → bad (.ckmark rd rs1 rs2 id) (zx id) 6) ∧
    (mark = none → ¬fit → bad (.ckmark rd rs1 rs2 id) (s.x rs1) 7) ∧
    (mark = none → bad (.ckroll u id) (zx id) 6 ∧ bad (.ckcommit u id) (zx id) 6) ∧
    s.gives (.ckstat rd id) rd (match mark with
      | none => 0
      | some m => BitVec.ofNat 64 (m.count + 2 ^ 16 + if m.full then 2 ^ 17 else 0)) ∧
    (mark ≠ none → c.releaseWaits 3 = true → ∀ i ∈ [Instr.ckcommit u id, .ckroll u id], ∃ t, exec i s = .next t ∧ c.stalled t) ∧
    (∀ m, mark = some m → c.releaseWaits 3 = false →
      let f (l : List Ckpt) : List Ckpt := if u = 1 then l.filter fun x => x.id != id.toNat
        else l.map fun x => if x.id = id.toNat then { x with count := 0, full := false } else x
      (∃ t, exec (.ckcommit u id) s = .next t ∧ s.sameMemory t ∧ moved t f) ∧
      (∀ at_ : Nat → Nat, Memory.wf s.mem = true → m.base % 8 = 0 → apart m.base m.len m.logBase 65536 → m.count ≤ 4096 →
        hbmEnd ≤ m.base → hbmEnd ≤ m.logBase →
        (∀ i < m.count, (localPlace s.cur false (s.dword (m.logBase + 16 * i)).toNat).map Place.addr = some (at_ i) ∧ at_ i % 8 = 0 ∧
          m.base ≤ at_ i ∧ at_ i + 8 ≤ m.base + m.len) →
        ∃ t, exec (.ckroll u id) s = .next t ∧ moved t f ∧
          (∀ i < m.count, (∀ j < i, at_ j ≠ at_ i) → t.dword (at_ i) = s.dword (m.logBase + 16 * i + 8)) ∧
          (∀ b, (∀ i < m.count, ¬(at_ i ≤ b ∧ b < at_ i + 8)) → t.byte b = s.byte b)))

/-! ### The stack broadcast -/

/-- GSLOT grants leasable slots that are free, up to 64 for a thread, spaced as evenly through the frame as the free ones allow: no other
choice has a smaller sum of the squares of its gaps, the one across the frame's end among them. GREL gives slots back once the thread's
writes have gone out, GFRAME reads frame and slot; GST and GAMO commit and
join the thread's pending writes, at most 16, else they wait, and a GAMO with a destination waits for its value; a misaligned address, one
outside the region, and a poisoned region trap (R290 to R295). The measure of evenness, and which slots GREL gives back, are the model's
(log 21). -/
def Obligations.GeyserForms : Prop :=
  ∀ (s : State) (rd rs1 rs2 : BitVec 5) (sz : BitVec 3) (op : BitVec 2), s.sound → s.me.occ ≠ .message →
    let a := s.x rs1
    let mine : Nat × Nat := (s.cur, s.curSlot.val)
    let c := s.implicitCommit
    let pend := s.myTower.gpend.filter fun g => g.core == s.cur && g.slot == s.curSlot.val
    s.gives (.gframe rd) rd (BitVec.ofNat 64 (s.myTower.frame % 2 ^ 48 + s.myTower.gslot % 256 * 2 ^ 48)) ∧
    (let free := (List.range 232).filter fun i => !s.myTower.leases.any fun l => l.1 == i + 8
     let g := min a.toNat (min (64 - s.me.glease) free.length)
     ∃ (t : State) (new : List Nat), exec (.gslot rd rs1) s = .next t ∧ new.length = g ∧ new.Nodup ∧
       (∀ x ∈ new, 8 ≤ x ∧ x ≤ 239 ∧ ∀ l ∈ s.myTower.leases, l.1 ≠ x) ∧
       (let cost : List Nat → Nat
          | [] => 0
          | f :: r => ((f :: r).zip (r ++ [f + 256])).foldl (fun n p => n + (p.2 - p.1) * (p.2 - p.1)) 0
        new.Pairwise (· < ·) ∧ ∀ other : List Nat, other.length = g → other.Pairwise (· < ·) →
          (∀ x ∈ other, 8 ≤ x ∧ x ≤ 239 ∧ ∀ l ∈ s.myTower.leases, l.1 ≠ x) → cost new ≤ cost other) ∧
       s.inTower t (fun w => { w with leases := w.leases ++ new.map fun x => (x, mine) }) ∧
       s.tookX t rd (BitVec.ofNat 64 g) ∧ s.wentTo t (s.me.pc + 4) ∧
       s.me.keptRest { t.me with glease := s.me.glease } ∧ t.me.glease = s.me.glease + g) ∧
    (let g := min a.toNat s.me.glease
     (g = 0 ∨ pend = [] → ∃ t, exec (.grel rd rs1) s = .next t ∧
       t.me.glease = s.me.glease - g ∧ s.tookX t rd (BitVec.ofNat 64 (s.me.glease - g)) ∧ s.wentTo t (s.me.pc + 4) ∧
       s.me.keptRest { t.me with glease := s.me.glease } ∧
       (∀ l ∈ t.myTower.leases, l ∈ s.myTower.leases) ∧ (∀ l ∈ s.myTower.leases, l.2 ≠ mine → l ∈ t.myTower.leases) ∧
       ((∀ l ∈ s.myTower.leases, l.1 < 256) → (s.myTower.leases.map Prod.fst).Nodup →
         (t.myTower.leases.filter fun l => l.2 == mine).length = (s.myTower.leases.filter fun l => l.2 == mine).length - g)) ∧
     (g ≠ 0 → pend ≠ [] → s.waits (.grel rd rs1))) ∧
    (let joins (i : Instr) (w : GWrite) (after : Thread → Thread) : Prop :=
       ∃ t, exec i s = .next t ∧ c.inTower t (fun x => { x with gpend := x.gpend ++ [w] }) ∧ t.me = after c.me
     let on (t : Thread) : Thread := { t with pc := t.pc + 4, cameFrom := t.pc, retired := t.retired + 1, wait := .none
                                              counted := 0, since := some s.steps }
     let room : Prop := (pend.filter fun g => g.engine.isNone).length < 16
     let inside (n : Nat) : Prop := a.toNat % n = 0 ∧ 0x30000000 ≤ a.toNat ∧ a.toNat < 0x32000000
     let traps (i : Instr) (n : Nat) : Prop := s.me.level = .T →
       (a.toNat % n ≠ 0 → s.traps i { cause := 4, eval := a, wr := true }) ∧
       (a.toNat % n = 0 → ¬inside n → s.traps i { cause := 6, eval := a, wr := true }) ∧
       (inside n → s.myTower.regionPoison = true → s.traps i { cause := 0x11, eval := a })
     let wr (n : Nat) (o : GOp) (r : Option (BitVec 5)) : GWrite :=
       { core := s.cur, slot := s.curSlot, engine := none, off := a.toNat - 0x30000000, op := o, rd := r, size := n }
     let n := 2 ^ sz.toNat
     let fits : Prop := n ≤ 8 ∨ s.lanes ≠ 0 ∧ rs2.toNat + (n / 4 - 1) / s.lanes ≤ 31
     (fits → traps (.gst rs1 rs2 sz) n) ∧
     (fits → inside n → s.myTower.regionPoison = false → room → ∃ data : BitVec 1024,
       joins (.gst rs1 rs2 sz) (wr n (.write (BitVec.ofNat 128 (2 ^ n - 1)) data) none) on ∧
       (n ≤ 8 → data.toNat = (s.x rs2).toNat % 2 ^ (8 * n)) ∧
       (8 < n → ∀ k < n / 4, fld data (32 * k) 32 = fld (s.me.v[rs2.toNat + k / s.lanes]! : VReg) (32 * (k % s.lanes)) 32)) ∧
     (s.myTower.regionPoison = false → ¬room →
       (fits → inside n → ∃ t, exec (.gst rs1 rs2 sz) s = .next t ∧ c.stalled t) ∧
       (inside 8 → ∃ t, exec (.gamo rd rs1 rs2 op) s = .next t ∧ c.stalled t)) ∧
     traps (.gamo rd rs1 rs2 op) 8 ∧
     (inside 8 → s.myTower.regionPoison = false → room →
       let o : GOp := if op = 0 then .add (s.x rs2) else if op = 1 then .max (s.x rs2) else if op = 2 then .swap (s.x rs2)
         else .cas (s.x rd) (s.x rs2)
       joins (.gamo rd rs1 rs2 op) (wr 8 o (if rd = 0 then none else some rd))
         (fun t => if rd = 0 then on t else { t with wait := .gamo rd none })))

/-- GEYSER_SLOT lets a slot of the frame pass, and the next one follows. A leased slot carries its holder's oldest write that may go out, an
unleased slot below 240 none, a commons slot the oldest one of the layer whose turn it is from a thread without slots; of one engine queue's
beats only the first may go out (R266). The write is applied to the base mirror and every current replica of the tower, leaves the pending
writes, and gives a waiting GAMO its old value (R238, R239, R291, R292, R294). Here for writes of threads without capture. Slots 0 to 7
carry Caldera's own writes, which are free (log 78). -/
def Obligations.GeyserSlots : Prop :=
  ∀ (s : State) (tw : Nat), tw < 2 →
    let w := s.tower tw
    let next (x : Tower) : Tower := if w.gslot = 255 then { x with gslot := 0, frame := w.frame + 1 } else { x with gslot := w.gslot + 1 }
    let copies := mirrorBase tw :: ((List.range 8).filter fun l =>
      let y := s.layer (tw * 8 + l)
      !y.stale && (y.season == .summer || y.season == .autumn)).map fun l => layerAperture (tw * 8 + l) + 0x30000000
    let sizeOf_ (g : GWrite) : Nat := match g.op with | .write _ _ => g.size | _ => 8
    let applied (t : State) (g : GWrite) : Prop :=
      (∀ c ∈ copies, match g.op with
        | .write m d => ∀ i < g.size, (t.byte (c + g.off + i)).toNat = if bit m i then fld d (8 * i) 8 else (s.byte (c + g.off + i)).toNat
        | .add v => t.dword (c + g.off) = s.dword (c + g.off) + v
        | .max v => t.dword (c + g.off) = if (s.dword (c + g.off)).toInt < v.toInt then v else s.dword (c + g.off)
        | .swap v => t.dword (c + g.off) = v
        | .cas e v => t.dword (c + g.off) = if s.dword (c + g.off) = e then v else s.dword (c + g.off)) ∧
      (∀ b, (∀ c ∈ copies, ¬(c + g.off ≤ b ∧ b < c + g.off + sizeOf_ g)) → t.byte b = s.byte b)
    let held := w.leases.find? fun l => l.1 == w.gslot
    let turn (g : GWrite) : Prop := match held with
      | some l => l.2 = (g.core, g.slot)
      | none => 240 ≤ w.gslot ∧ layerOf g.core = tw * 8 + (w.frame + w.gslot) % 8 ∧ (s.thread g.core g.slot).glease = 0
    let out (g : GWrite) : Prop := ∀ q, g.engine = some q →
      w.gpend.find? (fun e => e.engine == some q && clusterOf e.core == clusterOf g.core) = some g
    (∃ t, exec (.geyserSlot tw) s = .next t ∧ (t.tower tw).gslot = (next w).gslot ∧ (t.tower tw).frame = (next w).frame) ∧
    (8 ≤ w.gslot → s.calderaWrite tw = none ∧
      (∀ pre g post, w.gpend = pre ++ g :: post → turn g → out g → (∀ e ∈ pre, ¬(turn e ∧ out e)) → s.dueWrite tw = some g) ∧
      ((∀ g ∈ w.gpend, ¬(turn g ∧ out g)) → s.dueWrite tw = none)) ∧
    (w.gslot < 8 → s.dueWrite tw = none ∧ ∀ g, s.calderaWrite tw = some g → Memory.wf s.mem = true →
      ∃ t, exec (.geyserSlot tw) s = .next t ∧ t.tower tw = next w ∧ g.size = 128 ∧ g.off % 128 = 0 ∧ g.off + 128 ≤ 0x2000000 ∧
        applied t g) ∧
    (s.dueWrite tw = none → s.calderaWrite tw = none → ∃ t, exec (.geyserSlot tw) s = .next t ∧ t.tower tw = next w ∧
      (∀ n, n ≠ tw → t.tower n = s.tower n) ∧ { t with towers := s.towers } = s) ∧
    (∀ g, s.dueWrite tw = some g → g.engine = none → g.slot < 4 → towerOf g.core = tw → Memory.wf s.mem = true →
      (∀ i l, (s.thread g.core g.slot).task = some i → look w.launches i.launch = some l → l.capture = none) →
      let size := sizeOf_ g
      g.off + size ≤ 0x2000000 → size ≤ 128 → (match g.op with | .write m _ => ∀ i, size ≤ i → bit m i = false | _ => True) →
      ∃ t, exec (.geyserSlot tw) s = .next t ∧ t.tower tw = next { w with gpend := w.gpend.erase g } ∧ applied t g ∧
        (∀ rd, g.rd = some rd → (s.thread g.core g.slot).wait = .gamo rd none →
          layerAperture (layerOf g.core) + 0x30000000 ∈ copies →
          let u := t.thread g.core g.slot
          u.getX rd = (if rd = 0 then 0 else s.dword (layerAperture (layerOf g.core) + 0x30000000 + g.off)) ∧
          u.pc = (s.thread g.core g.slot).pc + 4 ∧ u.wait = .none))

/-! ### Waiting, barriers, heaps -/

/-- WAITA ends when the word differs from x[rs2] under the mask x[rd], and else waits. BARR arrives, and completes the phase
with the last arrival; BWAIT gives the status of R275 in its order, or waits; BJOIN and BLEAVE count registrations; PQPUSH and
PQPOP keep a heap of the same entries. Misuse traps with the codes of R278 (R272 to R280). The order of the checks is the
model's reading (log 52); a heap's arrangement is free (log 22). A heap operation that would read a poisoned entry traps (R402). -/
def Obligations.SyncForms : Prop :=
  ∀ (s : State) (rd rs1 rs2 tl : BitVec 5), s.sound → s.uncaptured → Memory.wf s.mem = true →
    let ea := s.x rs1
    let limit : Option Nat := if tl = 31 then none else some (Config.cyclesTo s.steps + 64 * 2 ^ tl.toNat)
    let misuse (i : Instr) (s1 : State) (code : Nat) : Prop := s.me.level = .T →
      ∃ t, exec i s = .next t ∧ s1.trapped t { cause := 0x10, eval := ea, eval2 := BitVec.ofNat 64 code }
    (∀ p s1, s.check ea 8 .load 0 loadWindows = (.val p, s1) →
      let w : Word := BitVec.ofNat 64 (leNat (s.bytesKey p.key p.addr 8))
      ∃ t, exec (.waita rd rs1 rs2 tl) s = .next t ∧
        if (w ^^^ s.x rs2) &&& s.x rd ≠ 0 then s1.wrote t rd w
        else s1.onlyMe t ∧ t.me = { s.me with wait := .waita rd ea (s.x rd) (s.x rs2) limit }) ∧
    (∀ p s1, s.check ea 16 .load 0 loadWindows = (.val p, s1) →
      let b := s.dword p.addr
      let d := (fld b 32 16 + 65536 - fld (s.x rs2) 0 16) % 65536
      let good : Bool := p.win == .clus || p.win == .other || p.win == .onsen
      (good = false → misuse (.bwait rd rs1 rs2 tl) s1 8) ∧
      (good = true → 32768 ≤ d → misuse (.bwait rd rs1 rs2 tl) s1 1) ∧
      (good = true → d < 32768 → ∃ t, exec (.bwait rd rs1 rs2 tl) s = .next t ∧
        let out (n : Nat) : Prop := s1.wrote t rd (BitVec.ofNat 64 (n + fld b 32 16 * 2 ^ 32))
        if bit b 48 then out 1 else if 2 ≤ d then out 2 else if d = 1 then out (if bit b 50 then 3 else 0)
        else if bit b 49 then out 3
        else s1.onlyMe t ∧ t.me = { s.me with wait := .bwait rd ea (fld (s.x rs2) 0 16) limit })) ∧
    (∀ p s1, s.me.occ ≠ .message → s.check ea 16 .atomic 0 loadWindows = (.val p, s1) → p.win ≠ .region →
      let c := s1.implicitCommit
      let b := s.dword p.addr
      let r := s.dword (p.addr + 8)
      let good : Bool := p.win == .clus || p.win == .other || p.win == .onsen
      let regs := s.me.regs
      (good = false → ∀ i ∈ [Instr.barr rd rs1, .bjoin rs1, .bleave rs1], misuse i s1 8) ∧
      (good = true → s1.releaseWaits (homeScope s.cur p.addr) = true → ∃ t, exec (.barr rd rs1) s = .next t ∧ s1.stalled t) ∧
      (good = true → s1.releaseWaits (homeScope s.cur p.addr) = false →
        (fld b 0 16 = 0 → s.me.level = .T →
          ∃ t, exec (.barr rd rs1) s = .next t ∧ c.trapped t { cause := 0x10, eval := ea, eval2 := 4 }) ∧
        (fld b 0 16 ≠ 0 → ∃ t, exec (.barr rd rs1) s = .next t ∧
          let last := decide (fld b 0 16 ≤ fld b 16 16 + 1)
          c.stores t p.addr 8 rd (BitVec.ofNat 64 (fld b 32 16 + if last then 2 ^ 16 else 0)) ∧
          let e := t.dword p.addr
          fld e 0 16 = fld b 0 16 ∧ fld e 16 16 = (if last then 0 else fld b 16 16 + 1) ∧
            fld e 32 16 = (fld b 32 16 + if last then 1 else 0) % 65536 ∧ bit e 48 = bit b 48 ∧
            bit e 49 = (!last && bit b 49) ∧ bit e 50 = (if last then bit b 49 else bit b 50) ∧ fld e 51 13 = fld b 51 13)) ∧
      (good = true → ∀ held : Bool, held = regs.contains ea.toNat →
        let on (t : State) (rs : List Nat) : Prop :=
          t.me = { c.me with regs := rs, pc := s.me.pc + 4, cameFrom := s.me.pc, retired := s.me.retired + 1, wait := .none
                             counted := 0, since := some s.steps }
        (held = true → ∃ t, exec (.bjoin rs1) s = .next t ∧ c.onlyMe t ∧ on t regs) ∧
        (held = false → 8 ≤ regs.length → misuse (.bjoin rs1) s1 2) ∧
        (held = false → regs.length < 8 → ∃ t, exec (.bjoin rs1) s = .next t ∧ c.changed t (p.addr + 8) 8 ∧ on t (regs ++ [ea.toNat]) ∧
          fld (t.dword (p.addr + 8)) 0 16 = (fld r 0 16 + 1) % 65536 ∧ fld (t.dword (p.addr + 8)) 16 48 = fld r 16 48) ∧
        (held = false → misuse (.bleave rs1) s1 3) ∧
        (held = true → ∃ t, exec (.bleave rs1) s = .next t ∧ c.changed t (p.addr + 8) 8 ∧ on t (regs.filter (· ≠ ea.toNat)) ∧
          fld (t.dword (p.addr + 8)) 0 16 = (fld r 0 16 + 65535) % 65536 ∧ fld (t.dword (p.addr + 8)) 16 48 = fld r 16 48))) ∧
    (∀ p s1, s.me.occ ≠ .message → s.check ea 64 .atomic 0 loadWindows = (.val p, s1) → p.win ≠ .region →
      let c := s1.implicitCommit
      let w (i : Nat) : Word := s.dword (p.addr + 8 * i)
      let n := fld (w 0) 0 32
      let cap := fld (w 0) 32 32
      let max := bit (w 1) 0
      let good : Prop := n ≤ cap ∧ cap ≠ 0 ∧ cap ≤ 65536 ∧ fld (w 1) 1 63 = 0 ∧ ∀ i < 6, w (i + 2) = 0
      let entry (t : State) (i : Nat) : Nat × Nat := ((t.dword (p.addr + 64 + 16 * i)).toNat, (t.dword (p.addr + 72 + 16 * i)).toNat)
      let es (t : State) (n : Nat) : List (Nat × Nat) := (List.range n).map (entry t)
      let before (a b : Nat × Nat) : Prop := if max then b.1 ≤ a.1 else a.1 ≤ b.1
      let holds (t : State) (l : List (Nat × Nat)) : Prop :=
        fld (t.dword p.addr) 0 32 = l.length ∧ fld (t.dword p.addr) 32 32 = cap ∧ (es t l.length).Perm l ∧
        ∀ i < l.length, i ≠ 0 → before (entry t ((i - 1) / 2)) (entry t i)
      (p.win ≠ .onsen → ∀ i ∈ [Instr.pqpush rd rs1 rs2, .pqpop rd rs1 rs2], misuse i s1 8) ∧
      (p.win = .onsen → (¬good → s.me.level = .T → ∃ t, exec (.pqpop rd rs1 rs2) s = .next t ∧
        c.trapped t { cause := 0x10, eval := ea, eval2 := 5 })) ∧
      let lost (o : Nat) : Prop := s.poisoned (p.addr + o) 8 = true
      let whole : Prop := ∀ i < 2 * n, ¬lost (64 + 8 * i)
      (p.win = .onsen → good → ea.toNat + 64 + 16 * cap ≤ 0x30000000 →
        (s.me.level = .T → ∀ i < 2 * n, lost (64 + 8 * i) → (∀ j < i, ¬lost (64 + 8 * j)) →
          let stop (i1 : Instr) : Prop := ∃ t, exec i1 s = .next t ∧
            c.trapped t { cause := 5, eval := ea + BitVec.ofNat 64 (64 + 8 * i), eval2 := 0xE, wr := true }
          stop (.pqpop rd rs1 rs2) ∧ (n < cap → s1.releaseWaits 3 = false → stop (.pqpush rd rs1 rs2))) ∧
        (s1.releaseWaits 3 = false →
          (n = cap → ∃ t, exec (.pqpush rd rs1 rs2) s = .next t ∧ c.wrote t rd 1) ∧
          (n < cap → whole → ∃ t, exec (.pqpush rd rs1 rs2) s = .next t ∧ c.stores t p.addr (64 + 16 * cap) rd 0 ∧
            holds t (((s.x rs2).toNat % 2 ^ 63, (s.x rd).toNat) :: es s n))) ∧
        (rs2 = 0 ∨ rs2 ≠ rd →
          let gives (t : State) (k v : Word) : Prop := t.x rd = (if rd = 0 then 0 else k) ∧ t.x rs2 = (if rs2 = 0 then 0 else v) ∧
            (∀ r, r ≠ rd → r ≠ rs2 → t.x r = s.x r) ∧ s.wentTo t (s.me.pc + 4) ∧ c.me.keptRest t.me
          (n = 0 → ∃ t, exec (.pqpop rd rs1 rs2) s = .next t ∧ c.onlyMe t ∧ gives t 0x8000000000000000 0) ∧
          (n ≠ 0 → whole → ∃ t i, exec (.pqpop rd rs1 rs2) s = .next t ∧ i < n ∧ (∀ j < n, before (entry s i) (entry s j)) ∧
            c.changed t p.addr (64 + 16 * cap) ∧ gives t (BitVec.ofNat 64 (entry s i).1) (BitVec.ofNat 64 (entry s i).2) ∧
            holds t ((es s n).eraseIdx i)))))

/-! ### Tasks -/

/-- TCOMMIT discards the task's log and makes it post-commit, at level S too; a store of a post-commit task, or at level S,
commits nothing. DONE lets the task retire, YIELD leaves the selection until the other ready threads have issued. SPAWN copies
its record with its count to queue 8p + 7, and waits for room there, WQRY leaves a request with Lahar; both commit first. JOINW gives the
status when the counter is 0 and else waits. KILL ends the tasks it names, in slots, inboxes, queues and save blocks, and gives their
number, or waits for their retirement; from a tower that runs alone it reaches no task of the other (R31, R32, R188, R281 to R285, R396).
What waits for a frozen Lahar (log 23), and that KILL counts a task that has stopped and not begun to retire (log 86), are the model's
readings. -/
def Obligations.TaskForms : Prop :=
  ∀ (s : State) (rd rs1 rs2 : BitVec 5) (all : BitVec 1), s.sound → s.me.occ ≠ .message →
    let c := s.implicitCommit
    let mine (e : LogEntry) : Bool := e.core == s.cur && e.slot == s.curSlot
    let on (t : Thread) : Thread := { t with pc := t.pc + 4, cameFrom := t.pc, retired := t.retired + 1, wait := .none
                                             counted := 0, since := some s.steps }
    let v := s.x rs1
    let asks (a : Nat) : Wqry :=
      { core := s.cur, slot := s.curSlot, stamp := s.me.bindStamp, addr := a, launch := (s.me.task.map TaskInfo.launch).getD 0 }
    (s.preCommit = false → c = s) ∧
    (s.preCommit = true → c.me = { s.me with post := true } ∧
      c.myCluster = { s.myCluster with log := s.myCluster.log.filter (!mine ·) }) ∧
    (s.me.occ = .task → ∃ t, exec .tcommit s = .next t ∧ t.me = { on s.me with post := true } ∧ s.sameMemory t ∧
      t.myCluster = (if s.me.post then s.myCluster else { s.myCluster with log := s.myCluster.log.filter (!mine ·) }) ∧
      (∀ m k : Nat, k < 4 → ¬(m = s.cur ∧ k = s.curSlot) → t.thread m k = s.thread m k)) ∧
    (∃ t, exec .doneTask s = .next t ∧ s.onlyMe t ∧ t.me = { s.me with wait := .retiring .done none }) ∧
    (∃ t, exec .yield s = .next t ∧ s.onlyMe t ∧ t.me = { on s.me with
      wait := .yield ((List.range 4).filter fun k => k ≠ s.curSlot.val ∧ (s.thread s.cur k).occ ≠ .free ∧ (s.thread s.cur k).wait = .none)
        (Config.cyclesTo s.steps + 64) }) ∧
    (∀ ps s1, (s.x rs2).toNat < 2 ^ 32 → s.passes .load 8 0 ownWindows (fun k => v + BitVec.ofNat 64 (8 * k)) (List.range 16) ps s1 →
      s1.implicitCommit.releaseWaits 5 = false →
      let w (k : Nat) : Word := let p := ps.getD k { win := .priv, addr := 0 }
        BitVec.ofNat 64 (leNat (s.bytesKey p.key p.addr 8))
      let q := 8 * fld (w 2) 40 3 + 7
      (s.x rs2 = 0 → ∃ t, exec (.spawn rs1 rs2) s = .next t ∧ s1.implicitCommit.onlyMe t ∧ t.me = on c.me) ∧
      (s.x rs2 ≠ 0 → s.myTower.lfrz = true ∨ 64 ≤ (s.myTower.queues.getD q {}).ring.length →
        ∃ t, exec (.spawn rs1 rs2) s = .next t ∧ s1.implicitCommit.stalled t) ∧
      (s.x rs2 ≠ 0 → s.myTower.lfrz = false → (s.myTower.queues.getD q {}).ring.length < 64 → ∃ t e, exec (.spawn rs1 rs2) s = .next t ∧
        t.me = on c.me ∧ (t.myTower.queues.getD q {}).ring = (s.myTower.queues.getD q {}).ring ++ [e] ∧ e.record.length = 16 ∧
        (∀ k < 16, e.record.getD k 0 = if k = 2 then (w 2 &&& 0xFFFFFFFF00000000) ||| s.x rs2 else w k) ∧
        e.parent = some s.cur ∧ e.asn = s.asnOf s.cur s.curSlot ∧ (∀ j : Fin 64, j.val ≠ q → t.myTower.queues[j] = s.myTower.queues[j]))) ∧
    (∀ p s1, s.check v 8 .store 0 ownWindows = (.val p, s1) → ∃ t, exec (.wqry rs1) s = .next t ∧ t.me = on c.me ∧
      s1.implicitCommit.inTower t (fun w => { w with wqry := w.wqry ++ [asks p.addr] })) ∧
    (∀ p s1, s.check v 32 .load 0 globWindow = (.val p, s1) → ∃ t, exec (.joinw rd rs1) s = .next t ∧
      if leNat (s.bytesKey p.key p.addr 8) = 0 then s1.wrote t rd (BitVec.ofNat 64 (leNat (s.bytesKey p.key (p.addr + 8) 8)))
      else s1.onlyMe t ∧ t.me = { s.me with wait := .joinw rd v }) ∧
    (let tw := fld v 48 1
     let slot := fld v 32 12
     let reached : Prop := tw = towerOf s.cur ∨ s.alone (towerOf s.cur) = false
     (reached → (s.tower tw).lfrz = true → s.waits (.kill rd rs1 all)) ∧
     (¬reached → ∃ t, exec (.kill rd rs1 all) s = .next t ∧ c.wrote t rd 0) ∧
     (reached → (s.tower tw).lfrz = false →
     ((fld v 44 4 ≠ 0 ∨ fld v 49 15 ≠ 0 ∨ ∀ l, look (c.tower tw).launches slot = some l → l.asn ≠ s.asnOf s.cur s.curSlot) →
       ∃ t, exec (.kill rd rs1 all) s = .next t ∧ c.wrote t rd 0) ∧
     (∀ l, fld v 44 4 = 0 → fld v 49 15 = 0 → look (c.tower tw).launches slot = some l → l.asn = s.asnOf s.cur s.curSlot →
      let r := c.killTasks tw slot (all == 1) (fld v 0 32)
      let jobs := r.2.jobs.map fun j => 2 * j + tw
      let hit (n k : Nat) : Prop := towerOf n = tw ∧ (s.thread n k).occ = .task ∧
        (s.thread n k).task.map TaskInfo.launch = some slot ∧ (all = 1 ∨ fld (s.thread n k).taskid 0 32 = fld v 0 32) ∧
        ∀ e j, (s.thread n k).wait ≠ .retiring e (some j)
      (∀ n k : Nat, k < 4 → hit n k → (r.1.thread n k).wait = .retiring .killed none ∧ (n, k, (s.thread n k).bindStamp) ∈ r.2.threads) ∧
      (hit s.cur s.curSlot → s.becomes (.kill rd rs1 all) r.1) ∧
      ((∀ st, (s.cur, s.curSlot.val, st) ∉ r.2.threads) →
        (r.1.killWaits r.2.threads jobs = true → s.becomes (.kill rd rs1 all)
          (r.1.putMe { r.1.me with wait := .kill rd r.2.count r.2.threads jobs })) ∧
        (r.1.killWaits r.2.threads jobs = false → s.becomes (.kill rd rs1 all) (r.1.result rd (BitVec.ofNat 64 r.2.count)))) ∧
      (let w := s.tower tw
       let sel (i : Nat) : Bool := all == 1 || i == fld v 0 32
       let named := w.saved.filter fun sv => sv.info.launch == slot && sel (fld sv.taskid 0 32)
       let q := w.queues.getD l.queue {}
       let sent (m : Msg) : Bool := m.task.any fun i => i.launch == slot && sel i.index
       let here := s.cores.filter fun p => towerOf p.1 == tw
       let held (p : Nat × Core) : Nat := ((List.range 4).filter fun k =>
         let u := p.2.threads.getD k {}
         u.occ == .task && u.killable && u.task.map TaskInfo.launch == some slot && sel (fld u.taskid 0 32)).length
       let back := q.returned.filter fun i => i.launch == slot && sel i.index
       let ahead := if all = 1 then (l.count - l.next) - l.removed.length
         else if l.next ≤ fld v 0 32 ∧ fld v 0 32 < l.count ∧ fld v 0 32 ∉ l.removed then 1 else 0
       (∀ n, towerOf n = tw → ∀ m ∈ (r.1.core n).inbox ++ (r.1.core n).net,
         m ∈ (s.core n).inbox ++ (s.core n).net ∧ sent m = false) ∧
       (∀ sv ∈ (r.1.tower tw).saved, sv ∈ w.saved ∧ (sv ∈ named →
         ∃ b, sv.sent = some b ∧ (s.thread b.1 b.2).occ = .message ∧ (s.thread b.1 b.2).resume = some sv.ctx)) ∧
       (l.retired + named.length < l.count ∨ named = [] →
         (∀ i ∈ ((r.1.tower tw).queues.getD l.queue {}).returned, i ∈ q.returned ∧ ¬(i.launch = slot ∧ sel i.index = true)) ∧
         (∀ l2 j, look (r.1.tower tw).launches slot = some l2 → sel j = true → ¬(l2.next ≤ j ∧ j < l2.count ∧ j ∉ l2.removed)) ∧
         ((∀ n, ∀ m ∈ (s.core n).inbox ++ (s.core n).net, m.ctx ≠ none → m.task = none) → (s.cores.map Prod.fst).Nodup →
           r.2.count = (here.map held).sum + named.length + (here.map fun p => ((p.2.inbox ++ p.2.net).filter sent).length).sum
             + back.length + ahead))))))

/-! ### The copy engines -/

/-- CSIG, CCHK, CXF, CFILL and CROW replace their part of a staging set; a value with bit 63 traps at CSIG. CQST reads a queue's
status and with `.clr` clears its flags. QFENCE places an entry with its mask, or goes on at a mask of 0 (R245, R253 to R255,
R260, R263, R267). A data command that passes steps 1 and 2 of R248 commits unless it writes only its own area, joins the queue
with its staging, resets the set, and retires; a full queue stalls it; a failed step traps (R244, R248 to R254, R258, R264,
R322). Step 1 asks for a descriptor that R260 allows with the form, a scale array where one is needed, and a chain as R263 asks; step 2 of a
copy traps for the first byte of its local ranges, in their order, that R128 and R249 refuse. A CPY convert takes a whole number of elements,
of 32-element blocks when scaled (R261). What R248 and R250 leave open inside the engine is the model's (log 53), and so is that a
command takes an injection only while INJEN is 1 (log 62). -/
def Obligations.EngineForms : Prop :=
  ∀ (s : State) (r1 r2 r3 : BitVec 5) (queue : BitVec 3) (a b : BitVec 1) (kind : BitVec 2), s.sound → s.me.occ ≠ .message →
    let qn := queue.toNat
    let q : Fin 8 := ⟨qn, queue.isLt⟩
    let on (t : Thread) : Thread := { t with pc := t.pc + 4, cameFrom := t.pc, retired := t.retired + 1, wait := .none
                                             counted := 0, since := some s.steps }
    let g := s.me.staging[q]
    let es := s.myCluster.queues[q]
    let stages (i : Instr) (x : Staging) : Prop :=
      ∃ t, exec i s = .next t ∧ s.onlyMe t ∧ t.me = { on s.me with staging := s.me.staging.set! qn x }
    let illegal : Trap := { cause := 1, eval := s.myWord, eval2 := 7 }
    let base (k : CmdKind) : EngCmd :=
      { kind := k, core := s.cur, slot := s.curSlot, taskid := s.me.taskid, asn := s.asnOf s.cur s.curSlot, lvs := s.me.level = .S
        launch := s.me.task.map TaskInfo.launch, st := if k = .qfence then {} else g }
    let armed : Bool := s.myTower.injen && bit s.myCore.einj 0 && fld s.myCore.einj 1 3 == qn
    let taken (c : EngCmd) : EngCmd :=
      { c with stamp := s.steps, flip := if armed then some (fld s.myCore.einj 8 24, fld s.myCore.einj 4 3) else none }
    (bit (s.x r2) 63 = false →
      stages (.csig r1 r2 r3 queue) { g with sigAddr := s.x r1, sigVal := s.x r2, sigBar := s.x r3 }) ∧
    (bit (s.x r2) 63 = true → s.me.level = .T → s.traps (.csig r1 r2 r3 queue) illegal) ∧
    (∀ k, (kind = 0 ∧ k = ChkKind.none ∨ kind = 1 ∧ k = .crc ∨ kind = 2 ∧ k = .add32) →
      stages (.cchk a r1 r2 queue b kind) { g with chk := k, cont := a = 1, verify := b = 1, seed := (s.x r1).setWidth 32
                                                   expected := (s.x r2).setWidth 32 }) ∧
    stages (.cxf r1 r2 queue) { g with xf := s.x r2, scaleAddr := s.x r1 } ∧
    stages (.cfill r1 queue) { g with fill := s.x r1 } ∧
    stages (.crow r1 r2 queue) { g with rowBytes := s.x r1, rowPitch := s.x r2 } ∧
    (∃ t, exec (.cqst r1 queue a) s = .next t ∧
      s.wrote { t with clusters := s.clusters } r1 (BitVec.ofNat 64 ((if bit s.myCluster.qsat qn then 1 else 0) +
        (if bit s.myCluster.qnv qn then 2 else 0) + 256 * es.length + (if es.head?.any EngCmd.paused then 2 ^ 13 else 0) +
        s.myCluster.srcb[q].toNat * 2 ^ 32)) ∧
      (∀ n, n ≠ clusterOf s.cur → t.cluster n = s.cluster n) ∧
      { t.myCluster with qsat := s.myCluster.qsat, qnv := s.myCluster.qnv } = s.myCluster ∧
      ∀ j < 8, bit t.myCluster.qsat j = (bit s.myCluster.qsat j && !(a == 1 && j == qn)) ∧
        bit t.myCluster.qnv j = (bit s.myCluster.qnv j && !(a == 1 && j == qn))) ∧
    (fld (s.x r1) 0 8 = 0 → es.length < 16 → s.goes (.qfence r1 queue) (s.me.pc + 4)) ∧
    (let e := { base .qfence with mask := (s.x r1).setWidth 8 }
     (fld (s.x r1) 0 8 ≠ 0 → es.length < 16 → ∃ t, exec (.qfence r1 queue) s = .next t ∧ t.me = on s.me ∧
       t.myCluster = { s.myCluster with queues := s.myCluster.queues.set! qn (es ++ [{ e with stamp := s.steps }]) } ∧
       (∀ n, n ≠ clusterOf s.cur → t.cluster n = s.cluster n) ∧ s.onlyMe { t with clusters := s.clusters }) ∧
     (16 ≤ es.length → ∃ t, exec (.qfence r1 queue) s = .next t ∧ s.onlyMe t ∧ t.me = { s.me with wait := .engineFull qn e })) ∧
    (let steps (i : Instr) (c : EngCmd) (ok : Prop) : Prop :=
       let fine : Prop := s.operandsOk c queue = true ∧ ok
       let mine := c.images = false ∧
         ∀ x ∈ (s.dataTouches c).2 ++ c.sigTouch ++ c.scaleTouch.filter (fun t => t.2.2.1 = .store), s.inOwnArea x = true
       (¬fine → s.me.level = .T → s.traps i illegal) ∧
       (fine → ∀ tr, s.touchTrap c = some tr → s.me.level = .T → s.traps i tr) ∧
       (fine → s.touchTrap c = none → 16 ≤ es.length → ∃ t, exec i s = .next t ∧
         { t.me with post := s.me.post } = { s.me with wait := .engineFull qn c } ∧ (mine → t.me.post = s.me.post)) ∧
       (fine → s.touchTrap c = none → es.length < 16 → ∃ t, exec i s = .next t ∧
         { t.myCluster with log := s.myCluster.log } = { s.myCluster with queues := s.myCluster.queues.set! qn (es ++ [taken c]) } ∧
         (∀ n, n ≠ clusterOf s.cur → t.cluster n = s.cluster n) ∧ s.sameMemory t ∧
         t.myCore.einj = (if armed then putBit s.myCore.einj 0 false else s.myCore.einj) ∧
         (mine → t.me.post = s.me.post ∧ t.myCluster.log = s.myCluster.log) ∧
         (c.images = false → ¬mine → t.me.post = (s.me.post || s.preCommit)) ∧
         (∀ m k : Nat, k < 4 → ¬(m = s.cur ∧ k = s.curSlot) → t.thread m k = s.thread m k) ∧
         let h := s.me.chains[q]
         let open1 := if g.chk = .none then h.open_ else if g.verify then none else if g.cont then h.open_ else some g.chk
         let first : Prop := ∀ e ∈ es, ¬(e.wm = true ∧ e.core = s.cur ∧ e.slot = s.curSlot)
         { t.me with post := s.me.post } = { on s.me with
           staging := s.me.staging.set! qn {}, chains := s.me.chains.set! qn { h with open_ := open1 }
           rewound := if c.wm then s.me.rewound.set! qn none else s.me.rewound
           wm := if c.wm ∧ first then s.me.wm.set! qn c.dst else s.me.wm })
     let out (n : Nat) : Nat :=
       if xfKind g.xf = 1 then (n * memBits (xfDst g.xf) + memBits (xfSrc g.xf) - 1) / memBits (xfSrc g.xf) else n
     let block := (if xfScaled g.xf then 32 else 1) * memBits (xfSrc g.xf)
     (∀ c : EngCmd, c.st = g →
       let d := g.xf
       let scaled := [0, 7, 0xC, 0xD, 0xE, 0xF]
       let copy := decide (c.kind = .cpy)
       (s.operandsOk c queue = true ↔
         fld d 13 51 = 0 ∧ bit d 3 = false ∧
         (fld d 0 3 = 0 ∨
          fld d 0 3 = 1 ∧ bit d 12 = false ∧ fld d 4 4 ≠ 0xB ∧ fld d 8 4 ≠ 0xB ∧ (fld d 4 4 = 3 ↔ fld d 8 4 = 3) ∧
            (c.kind = .cpyt → fld d 4 4 ≠ 0xF ∧ fld d 8 4 ≠ 0xF) ∨
          fld d 0 3 = 1 ∧ bit d 12 = true ∧ copy = true ∧ (fld d 4 4 ∈ scaled ∧ fld d 8 4 ∈ [0xA, 8] ∨ fld d 8 4 ∈ scaled ∧ fld d 4 4 ∈ [0xA, 8]) ∨
          (fld d 0 3 = 2 ∨ fld d 0 3 = 3) ∧ copy = true ∧ fld d 4 9 = 0 ∧ c.wm = false) ∧
         (fld d 0 3 = 1 → bit d 12 = true → g.scaleAddr ≠ 0) ∧
         (g.chk ≠ .none → s.me.chains[q].open_ = if g.cont then some g.chk else none))) ∧
     (∀ c : EngCmd, c.kind = .cpy → c.images = false → c.core = s.cur → c.st = g →
       -- why R128 and R249 refuse a byte of a local range
       let faulty (use : Use) (data : Bool) (a : Word) : Option Nat :=
         let n := a.toNat
         let below (core off : Nat) : Option Nat := if off < (s.core core).xb.toNat then some 8 else none
         if 2 ^ 32 ≤ n then none
         else if n < 0x80000 then below s.cur n
         else if 0x900000 ≤ n ∧ n < 0xD00000 then below (s.cur / 8 * 8 + (n - 0x900000) / 0x80000) ((n - 0x900000) % 0x80000)
         else if 0x30000000 ≤ n ∧ n < 0x32000000 then (if data then none else some 6)
         else if 0x100000 ≤ n ∧ n < 0x900000 ∨ 0x10000000 ≤ n ∧ n < 0x30000000 ∨ 0x40000000 ≤ n ∧ n < 0x4A000000 then none
         else some (if use = .load then 5 else 6)
       let first (a : Word) (n : Nat) (use : Use) (data : Bool) : Option Trap := (List.range n).findSome? fun k =>
         (faulty use data (a + BitVec.ofNat 64 k)).map fun x => { cause := x, eval := a + BitVec.ofNat 64 k, wr := decide (use ≠ .load) }
       let odd (a : Word) (n : Nat) : Option Trap := if a.toNat % n = 0 then none else some { cause := 4, eval := a, wr := true }
       let codes := fld g.xf 0 3 = 1 ∧ bit g.xf 12 = true
       s.touchTrap c = ([first c.src c.len .load true, first c.dst c.span .store true,
         odd g.sigAddr 8, if g.sigAddr = 0 then none else first g.sigAddr 8 .store false,
         odd g.sigBar 16, if g.sigBar = 0 then none else first g.sigBar 16 .store false,
         if codes then first g.scaleAddr c.units (if fld g.xf 8 4 ∈ [0, 7, 0xC, 0xD, 0xE, 0xF] then .store else .load) false
         else none]).findSome? id) ∧
     (let n := (s.x r3).toNat
      let c0 := { base .cpy with dst := s.x r1, src := s.x r2, len := n, wm := b = 1 }
      let unit := c0.unitLen.1
      (c0.images = false → steps (.cpy r1 r2 r3 queue b) { c0 with span := out n, units := (n + unit - 1) / unit }
        (n < 2 ^ 32 ∧ (xfKind g.xf = 1 → 8 * n % block = 0))) ∧
      (c0.images = true → steps (.cpy r1 r2 r3 queue b) { c0 with span := 4160 * n, units := n } (1 ≤ n ∧ n ≤ 65535))) ∧
     (s.lanes ≠ 0 →
      let w (i : Nat) : Half := BitVec.ofNat 32 (fld (s.me.getV r3.toNat) (32 * i) 32)
      let n := s.me.vl.toNat
      let box (i : Nat) : Nat := fld (w (4 + i)) 16 12
      let esz := 2 ^ fld (w 4) 28 2
      let total := ((List.range n).map box).foldl (· * ·) 1
      let size := if xfKind g.xf = 1 then memBits (xfDst g.xf) / 8 else esz
      let fits : Prop := 1 ≤ n ∧ n ≤ 4 ∧ fld (w 4) 30 2 = 0 ∧ (∀ i < n, 1 ≤ box i ∧ box i ≤ 2048 ∧ (i ≠ 0 → fld (w (4 + i)) 28 4 = 0)) ∧
        total * esz ≤ 2 ^ 24 ∧ (xfKind g.xf = 1 → 8 * esz = memBits (xfSrc g.xf))
      steps (.cpyt r1 r2 r3 queue a b) { base .cpyt with
        dst := s.x r1, src := s.x r2, wm := b = 1, nofill := a = 1, dims := n, layout := (List.range 8).map w, len := size
        span := total * size, units := total } fits) ∧
     (s.vecReady → r3.toNat % 2 ^ s.vctx.lmul = 0 →
      let r := g.rowBytes.toNat
      let row (k : CmdKind) (wm : Bool) : EngCmd :=
        let c0 := { base k with dst := s.x r1, src := s.x r2, wm := wm, len := out r, span := s.vctx.vl * out r
                                index := (List.range s.vctx.vl).map fun i => s.vctx.get s.me r3 i }
        { c0 with units := s.vctx.vl * (r / c0.unitLen.1) }
      let fits (c : EngCmd) : Prop := 1 ≤ r ∧ r ≤ 65536 ∧ r % c.unitLen.1 = 0
      steps (.gath r1 r2 r3 queue b) (row .gath (b = 1)) (fits (row .gath (b = 1))) ∧
        steps (.scat r1 r2 r3 queue b) (row .scat false) (fits (row .scat false))))

/-- A waiting command enters its queue when an entry is free. The engine moves a unit of a copy: converted, with fill for a
clipped element, an overlapping source as it stood; a command that may not go on pauses with a fault record or ends with error
code 2. A unit lies where R250 to R253 put it: at its offset, at its box element's coordinates, in its row. A scaled convert reads or writes
its block's code (R261); an image is elided or expanded as a whole, a refused header ends the command (R262); bytes for the region are
gathered and go out as one beat for each block of 128 bytes (R266); a count above 1 goes on in the same way. The head command that has finished writes its completion value or error
word, arrives at its barrier, reports SRCB, moves its watermark and leaves; a mismatch is code 1 (R244, R250 to R252, R254, R256 to R259,
R261, R263 to R265, R267, R274), of a CRC-32C whose polynomial and bit order R263 gives. A
fence leaves when the older entries of its queues have. Completion waits while an earlier command has still to touch the bytes it writes
(R235); at a poisoned barrier there is no arrival (R402). The order of units and other choices inside the engine are the model's (log 53),
and so is that a step whose condition does not hold changes nothing (log 9). -/
def Obligations.EngineSteps : Prop :=
  ∀ (s : State) (core slot cl q i : Nat) (c : EngCmd), core < coreCount → slot < 4 → q < 8 → c.core < coreCount → c.slot < 4 →
    let es := s.queueOf cl q
    let th := s.thread c.core c.slot
    let go (t : State) : Prop := exec (.engineTransfer cl q i 1) s = .next t
    let leave (t : State) : Prop := exec (.engineComplete cl q) s = .next t
    let bad (a : Word) : Word := BitVec.ofNat 64 (2 ^ 63 + 2 ^ 57 + a.toNat % 2 ^ 52)
    let runs : Prop := (s.layer (cl / 20)).season ≠ .inReset ∧ (s.layer (cl / 20)).season ≠ .winter
    let off (k : Nat) : Word := BitVec.ofNat 64 k
    -- acceptance after a stall
    ((∀ j e, (s.thread core slot).wait ≠ .engineFull j e) → s.becomes (.engineAccept core slot) s) ∧
    ((s.thread core slot).wait = .engineFull q c → c.core = core → c.slot = slot →
      let full := s.queueOf (clusterOf core) q
      let h := th.chains.getD q {}
      let lost : Bool := c.st.chk != .none && c.st.cont && h.open_ != some c.st.chk
      (16 ≤ full.length → s.becomes (.engineAccept core slot) s) ∧
      (full.length < 16 → c.kind = .qfence ∧ c.mask ≠ 0 ∨ c.kind ≠ .qfence → ∃ t e, exec (.engineAccept core slot) s = .next t ∧
        t.queueOf (clusterOf core) q = full ++ [e] ∧ (t.thread core slot).wait = .none ∧ (t.thread core slot).pc = th.pc + 4 ∧
        (t.thread core slot).retired = th.retired + 1 ∧ e.stamp = s.steps ∧
        (c.kind = .qfence → e = { c with stamp := s.steps }) ∧
        (c.kind ≠ .qfence → (t.thread core slot).staging = th.staging.set! q {} ∧
          e.error = (if lost then some (off (2 ^ 63 + 3 * 2 ^ 56)) else c.error) ∧ e.wm = (c.wm && !lost) ∧
          { e with stamp := c.stamp, flip := c.flip, error := c.error, wm := c.wm } = c))) ∧
    -- transfer
    (((∀ e, es[i]? ≠ some e) ∨ (es[i]? = some c ∧ (¬runs ∨ c.kind = .qfence ∨ c.paused = true ∨ c.error ≠ none ∨
      ∃ e ∈ es.take i, e.kind = .qfence))) → ∀ n, s.becomes (.engineTransfer cl q i n) s) ∧
    (es[i]? = some c → runs → c.paused = false → c.error = none → (∀ e ∈ es.take i, e.kind ≠ .qfence) → c.kind ≠ .qfence →
      c.pos < c.units → clusterOf c.core = cl → ∀ t e, go t → (t.queueOf cl q)[i]? = some e → ∀ n,
      (e ≠ c → e.error = none → e.paused = false → e.pos < e.units →
        exec (.engineTransfer cl q i (n + 1)) s = exec (.engineTransfer cl q i n) t) ∧
      (e = c ∨ e.error ≠ none ∨ e.paused = true → s.becomes (.engineTransfer cl q i (n + 1)) t)) ∧
    (es[i]? = some c → runs → c.paused = false → c.error = none → (∀ e ∈ es.take i, e.kind ≠ .qfence) → c.kind ≠ .qfence →
      c.images = false → c.pos < c.units → clusterOf c.core = cl →
      let u := c.unitAt c.pos
      let scaled := decide (xfKind c.st.xf = 1) && xfScaled c.st.xf
      let narrows := scaledFmt (xfDst c.st.xf)
      (∀ s1 a, s.engPlaces c .load (cuts u.src u.n) = (s1, .bad a) → ∃ t, go t ∧
        (t.queueOf cl q)[i]? = some { c with error := some (bad a) } ∧ s.sameMemory t) ∧
      (∀ s1 f, s.engPlaces c .load (cuts u.src u.n) = (s1, .fault f) → ∃ t, go t ∧
        t.queueOf cl q = es.set i { c with paused := true } ∧ s.sameMemory t ∧
        ∃ r, (t.tower (towerOf c.core)).heldFaults = (s1.tower (towerOf c.core)).heldFaults ++ [r] ∧
          r.w0 = off (f.va % 2 ^ 52 + (if f.write then 2 ^ 52 else 0) + 2 ^ 56 + (if c.lvs then 2 ^ 57 else 0)) ∧ r.w3 = c.taskid ∧
          r.who = .engine cl q c.stamp) ∧
      (u.clip = false → scaled = false → ∀ s1 s2 p d, s.engPlaces c .load (cuts u.src u.n) = (s1, .ok [(p, u.n)]) →
        s1.engPlaces c .store (cuts u.dst u.m) = (s2, .ok [(d, u.m)]) → d.ro = false → Memory.wf s.mem = true →
        c.kind = .cpy ∨ p.dcls = false ∧ d.dcls = false →
        let src : List Byte := (List.range u.n).map fun k =>
          ((look c.seen (u.src + off k).toNat).orElse fun _ => look c.held (p.addr + k)).getD (s.byteKey p.key (p.addr + k))
        let conv := decide (xfKind c.st.xf = 1)
        let sw := memBits (xfSrc c.st.xf)
        let dw := memBits (xfDst c.st.xf)
        let cnt := 8 * u.n / sw
        let rs := (List.range cnt).map fun k => convertElem (xfSrc c.st.xf) (xfDst c.st.xf) .rne (leNat src / 2 ^ (sw * k) % 2 ^ sw)
        let plain : List Byte := if conv then leBytes u.m (rs.foldr (fun r acc => r.1 % 2 ^ dw + 2 ^ dw * acc) 0) else src
        let moved : List Byte := plain.mapIdx fun k v => if c.flip.any (fun f => f.1 == c.paid + k) then
          v ^^^ (1 <<< (c.flip.getD (0, 0)).2) else v
        let beyond := decide (c.kind = .cpy) && s2.rangeHas c.core c.asn c.src.toNat c.len d.addr u.m
        (conv = true → cnt * sw = 8 * u.n ∧ cnt * dw = 8 * u.m ∧ (c.kind ≠ .cpyt ∨ cnt = 1)) → plain.length = u.m →
        (d.win = .region → c.pos + 1 < c.units → ∃ t e, go t ∧ s.sameMemory t ∧ t.queueOf cl q = es.set i e ∧ e.pos = c.pos + 1 ∧
          e.out = c.out ++ (moved.mapIdx fun k b => ((u.dst + off k).toNat, b)) ∧ e.beats = c.beats ∧
          (t.tower (towerOf c.core)).gpend = (s.tower (towerOf c.core)).gpend) ∧
        (d.win = .region → c.pos + 1 = c.units → c.emitted = false → u.m ≠ 0 → (∀ o ∈ c.out, 0x30000000 ≤ o.1 ∧ o.1 < 0x32000000) →
          (∀ x ∈ es.take i, x.emitted = true ∨ x.error ≠ none ∨ x.units ≤ x.pos ∧ x.out = []) →
          let out := c.out ++ (moved.mapIdx fun k b => ((u.dst + off k).toNat, b))
          ∃ t e bs, go t ∧ s.sameMemory t ∧ t.queueOf cl q = es.set i e ∧ e.pos = c.units ∧ e.out = [] ∧ e.emitted = true ∧
            e.beats = bs.length ∧ (t.tower (towerOf c.core)).gpend = (s.tower (towerOf c.core)).gpend ++ bs ∧
            (bs.map GWrite.off).Pairwise (· < ·) ∧ (∀ a v, (a, v) ∈ out → ∃ b ∈ bs, b.off + 0x30000000 = a / 128 * 128) ∧
            ∀ b ∈ bs, b.core = c.core ∧ b.slot = c.slot ∧ b.engine = some q ∧ b.size = 128 ∧
              ∃ m data, b.op = .write m data ∧ m ≠ 0 ∧ ∀ k < 128,
                let a := b.off + 0x30000000 + k
                (bit m k = true ↔ ∃ v, (a, v) ∈ out) ∧
                ∀ v, (out.filter fun o => o.1 == a).getLast? = some (a, v) → fld data (8 * k) 8 = v.toNat) ∧
        (d.win ≠ .region → ∃ t e, go t ∧ t.bytesKey d.key d.addr u.m = moved ∧ s.sameOutside t d.key d.addr u.m ∧ t.queueOf cl q = es.set i e ∧
          e.pos = c.pos + 1 ∧ e.srcRead = c.srcRead + u.n ∧ e.paid = c.paid + u.m ∧ e.error = none ∧ e.paused = false ∧
          e.payload = (if c.st.chk = .none then [] else c.payload ++ moved) ∧
          (∀ a, look e.held a = if beyond = true ∧ d.addr ≤ a ∧ a < d.addr + u.m then
            some ((look c.held a).getD (s.byteKey d.key a)) else look c.held a) ∧
          bit (t.cluster cl).qsat q = (bit (s.cluster cl).qsat q || conv && rs.any fun r => bit r.2 5) ∧
          (c.wm = true → (∀ x ∈ es.take i, ¬(x.wm = true ∧ x.core = c.core ∧ x.slot = c.slot)) → c.out = [] → c.late = [] → c.beats = 0 →
            (t.thread c.core c.slot).wm.getD q 0 =
              c.dst + off ((c.pos + 1) * (if c.kind = .cpyt then c.len else c.unitLen.2))))) ∧
      (scaled = true → c.kind = .cpy → ∀ s1 s2 s3 p d k, s.engPlaces c .load (cuts u.src u.n) = (s1, .ok [(p, u.n)]) →
        s1.engPlaces c .store (cuts u.dst u.m) = (s2, .ok [(d, u.m)]) →
        s2.engPlaces { c with kind := .qfence } (if narrows then .store else .load) [(c.st.scaleAddr + off c.pos, 1)] = (s3, .ok [(k, 1)]) →
        d.win ≠ .region → d.ro = false → k.ro = false → k.dcls = false → c.flip = none → Memory.wf s.mem = true → k.key = d.key →
        k.addr < d.addr ∨ d.addr + u.m ≤ k.addr →
        (let wide (f : Nat) : Prop := f = 8 ∨ f = 0xA
         wide (xfSrc c.st.xf) ∧ xfDst c.st.xf ∈ [0, 7, 0xC, 0xD, 0xE, 0xF] ∨ wide (xfDst c.st.xf) ∧ xfSrc c.st.xf ∈ [0, 7, 0xC, 0xD, 0xE, 0xF]) →
        let src : List Byte := (List.range u.n).map fun j =>
          ((look c.seen (u.src + off j).toNat).orElse fun _ => look c.held (p.addr + j)).getD (s.byteKey p.key (p.addr + j))
        let sw := memBits (xfSrc c.st.xf)
        let dw := memBits (xfDst c.st.xf)
        let el (j : Nat) : Nat := leNat src / 2 ^ (sw * j) % 2 ^ sw
        let code := (s.byteKey k.key k.addr).toNat
        let amax := FP32.decode (amaxOf ((List.range 32).map fun j => if xfSrc c.st.xf = 8 then el j * 65536 else el j))
        let new := (scaleCode (xfDst c.st.xf) amax).1
        let res (j : Nat) : Nat := (if narrows then quantise (xfDst c.st.xf) new .rne (elemVal (xfSrc c.st.xf) (el j))
          else widenScaled (xfSrc c.st.xf) code (xfDst c.st.xf) .rne (el j)).1
        ∃ t, go t ∧ u.n = 4 * sw ∧ u.m = 4 * dw ∧
          (∀ j < 32, leNat (t.bytesKey d.key d.addr u.m) / 2 ^ (dw * j) % 2 ^ dw = res j % 2 ^ dw) ∧
          (t.byteKey k.key k.addr).toNat = (if narrows then new else code) ∧
          ∀ b, ¬(d.addr ≤ b ∧ b < d.addr + u.m) → b ≠ k.addr → t.byteKey d.key b = s.byteKey d.key b) ∧
      (u.clip = true → c.nofill = false → ∀ s1 s2 d, s.engPlaces c .load [] = (s1, .ok []) →
        s1.engPlaces c .store (cuts u.dst u.m) = (s2, .ok [(d, u.m)]) → d.win ≠ .region → d.ro = false → d.dcls = false →
        Memory.wf s.mem = true →
        ∃ t, go t ∧ t.bytesKey d.key d.addr u.m = leBytes u.m c.st.fill.toNat ∧ s.sameOutside t d.key d.addr u.m ∧
          ∃ e, t.queueOf cl q = es.set i e ∧ e.pos = c.pos + 1 ∧ e.srcRead = c.srcRead ∧ e.payload = c.payload)) ∧
    -- where a unit lies
    (c.images = false → ∀ n : Nat,
      let a := c.unitLen.1
      let b := c.unitLen.2
      let u := c.unitAt n
      (c.kind = .cpy → u.src = c.src + off (n * a) ∧ u.n = min a (c.len - n * a) ∧ u.dst = c.dst + off (n * b) ∧ u.m = b ∧ u.clip = false) ∧
      (let per := c.st.rowBytes.toNat / a
       let row (base : Word) : Word := base + off (c.index.getD (n / per) 0) * c.st.rowPitch
       (c.kind = .gath → u.src = row c.src + off (n % per * a) ∧ u.n = a ∧ u.dst = c.dst + off (n * b) ∧ u.m = b ∧ u.clip = false) ∧
       (c.kind = .scat → u.src = c.src + off (n * a) ∧ u.n = a ∧ u.dst = row c.dst + off (n % per * b) ∧ u.m = b ∧ u.clip = false)) ∧
      (c.kind = .cpyt → c.dims ≤ 4 →
        let box (k : Nat) : Nat := fld (c.layout.getD (4 + k) 0) 16 12
        let at_ (k : Nat) : Nat := n / ((List.range k).map box).foldl (· * ·) 1 % box k
        let clip := (List.range c.dims).any fun k => decide (fld (c.layout.getD (4 + k) 0) 0 16 ≤ at_ k)
        u.src = ((List.range c.dims).map fun k => off (at_ k) * BitVec.ofInt 64 (c.layout.getD k 0).toInt).foldl (· + ·) c.src ∧
        u.n = (if clip then 0 else 2 ^ fld (c.layout.getD 4 0) 28 2) ∧ u.clip = clip ∧ u.dst = c.dst + off (n * c.len) ∧
        u.m = if clip && c.nofill then 0 else c.len) ∧
      (c.kind ≠ .cpyt → xfKind c.st.xf ≠ 1 → a = b ∧ (a = 1 ∨ a = 8) ∧
        (a = 8 ↔ c.kind = .cpy ∧ c.len % 8 = 0 ∧ c.src.toNat % 8 = 0 ∧ c.dst.toNat % 8 = 0)) ∧
      (c.kind ≠ .cpyt → xfKind c.st.xf = 1 → ∃ k, a = k * memBits (xfSrc c.st.xf) / 8 ∧ b = k * memBits (xfDst c.st.xf) / 8 ∧
        (xfScaled c.st.xf = true → k = 32) ∧ (c.kind ≠ .cpy → xfScaled c.st.xf = false → k = if xfSrc c.st.xf = 0xF ∨ xfDst c.st.xf = 0xF then 2 else 1))) ∧
    -- images
    (es[i]? = some c → runs → c.paused = false → c.error = none → (∀ e ∈ es.take i, e.kind ≠ .qfence) → c.kind = .cpy → c.images = true →
      c.pos < c.units → clusterOf c.core = cl → c.held = [] → c.seen = [] → c.out = [] →
      let expand := decide (xfKind c.st.xf = 3)
      let src := c.src + off c.srcPos
      let dst := c.dst + off c.outPos
      ∀ s1 h, s.engPlaces c .load (cuts src 16) = (s1, .ok [(h, 16)]) →
        let w0 : Word := off (leNat (s.bytesKey h.key h.addr 8))
        let w1 : Word := off (leNat (s.bytesKey h.key (h.addr + 8) 8))
        let haar := bit w0 0
        let kept := (List.range 32).filter fun k => bit w1 k
        let row := 32 * memSize (fld w0 4 4)
        let size (elided : Bool) : Nat := 64 + (if elided && haar then kept.length else 32) * row
        (headerBad (w0 &&& ~~~((1 : Word) <<< 8)) w1 = true ∨ haar = true ∧ bit w0 8 ≠ expand → ∃ t, go t ∧ s.sameMemory t ∧
          (t.queueOf cl q)[i]? = some { c with error := some (bad src) }) ∧
        (headerBad (w0 &&& ~~~((1 : Word) <<< 8)) w1 = false → (haar = true → bit w0 8 = expand) → c.flip = none →
          ∀ s2 s3 p d, s1.engPlaces c .load (cuts src (size expand)) = (s2, .ok [(p, size expand)]) →
          s2.engPlaces c .store (cuts dst (size (!expand))) = (s3, .ok [(d, size (!expand))]) → p.addr = h.addr → p.key = h.key →
          d.win ≠ .region → d.ro = false → Memory.wf s.mem = true →
          let up (base : Word) (k : Nat) : Nat := k + (64 - (base + off k).toNat % 64) % 64
          let place (k : Nat) : Nat := (kept.takeWhile (· ≠ k)).length
          ∃ t e, go t ∧ s.sameOutside t d.key d.addr (size (!expand)) ∧ t.queueOf cl q = es.set i e ∧ e.pos = c.pos + 1 ∧
            e.srcRead = c.srcRead + size expand ∧
            e.srcPos = (if expand then up c.src (c.srcPos + size expand) else c.srcPos + size expand) ∧
            e.outPos = (if expand then c.outPos + size (!expand) else up c.dst (c.outPos + size (!expand))) ∧
            (let w0' : Word := off (leNat (t.bytesKey d.key d.addr 8))
             ∀ k < 64, bit w0' k = if k = 8 ∧ haar then !expand else bit w0 k) ∧
            t.bytesKey d.key (d.addr + 8) 56 = s.bytesKey p.key (p.addr + 8) 56 ∧
            (∀ k < 32, let r := t.bytesKey d.key (d.addr + 64 + k * row) row
              (haar = false → r = s.bytesKey p.key (p.addr + 64 + k * row) row) ∧
              (haar = true → expand = true →
                r = if bit w1 k then s.bytesKey p.key (p.addr + 64 + place k * row) row else List.replicate row 0)) ∧
            (haar = true → expand = false → ∀ k ∈ kept, t.bytesKey d.key (d.addr + 64 + place k * row) row =
              s.bytesKey p.key (p.addr + 64 + k * row) row))) ∧
    -- the CRC-32C
    (crc32c 0 [0x31, 0x32, 0x33, 0x34, 0x35, 0x36, 0x37, 0x38, 0x39] = 0xE3069283 ∧
      ∀ (seed : Half) (b : Byte) (bs : List Byte), crc32c seed [] = seed ∧ crc32c seed (b :: bs) = crc32c (crc32c seed [b]) bs ∧
        crc32c seed [b] = ~~~((List.range 8).foldl (fun (r : Half) _ => if r.getLsbD 0 then (r >>> 1) ^^^ 0x82F63B78 else r >>> 1)
          (~~~seed ^^^ b.setWidth 32))) ∧
    -- completion
    ((es = [] ∨ es.head? = some c ∧ (¬runs ∨ c.finished = false ∨ c.st.sigBar ≠ 0 ∧ s.checkerHolds c c.st.sigBar 16 true = true)) →
      s.becomes (.engineComplete cl q) s) ∧
    (∀ rest, es = c :: rest → runs → c.finished = true → (c.st.sigBar ≠ 0 → s.checkerHolds c c.st.sigBar 16 true = false) →
      clusterOf c.core = cl →
      let h := th.chains.getD q {}
      let begin_ : Half := if c.st.cont then h.running else c.st.seed
      let bs := (if c.st.cont then h.pending else []) ++ c.payload
      let sum : Half := match c.st.chk with
        | .crc => crc32c begin_ c.payload
        | _ => ((List.range ((bs.length + 3) / 4)).map fun k => BitVec.ofNat 32 (leNat ((bs.drop (4 * k)).take 4))).foldl (· + ·) begin_
      let wrong : Bool := c.error.isNone && c.st.chk != .none && c.st.verify && sum != c.st.expected
      let err : Option Word := if wrong then some (off (2 ^ 63 + 2 ^ 56 + sum.toNat)) else c.error
      let left (t : State) : Prop := (t.queueOf cl q).map (fun e => { e with wm := false }) = rest.map (fun e => { e with wm := false }) ∧
        (t.cluster cl).srcb.getD q 0 = BitVec.ofNat 32 c.srcRead ∧
        (err = none → t.queueOf cl q = rest ∧ (c.wm = true → (∀ e ∈ rest, ¬(e.wm = true ∧ e.core = c.core ∧ e.slot = c.slot)) →
          (t.thread c.core c.slot).wm.getD q 0 = c.dst + off c.span)) ∧
        (err ≠ none → c.st.chk = .none → c.wm = true → (∀ e ∈ rest, ¬(e.wm = true ∧ e.core = c.core ∧ e.slot = c.slot)) →
          err ≠ some (off (2 ^ 63 + 3 * 2 ^ 56)) → (t.thread c.core c.slot).wm.getD q 0 = c.dst ∧
            (t.thread c.core c.slot).rewound.getD q none = some { lo := c.dst.toNat, hi := c.dst.toNat + c.span })
      (c.st.sigAddr = 0 → c.st.sigBar = 0 → ∃ t, leave t ∧ left t ∧ s.sameMemory t) ∧
      (c.st.sigAddr ≠ 0 → c.noSig = false → c.st.sigBar = 0 → Memory.wf s.mem = true →
        ∀ s1 p, s.engPlaces { c with kind := .qfence, error := err } .store [(c.st.sigAddr, 8)] = (s1, .ok [(p, 8)]) → p.ro = false →
        ∃ t, leave t ∧ left t ∧ t.bytesKey p.key p.addr 8 = leBytes 8 (err.getD c.st.sigVal).toNat ∧ s.sameOutside t p.key p.addr 8) ∧
      (c.st.sigAddr = 0 → c.st.sigBar ≠ 0 → c.launch = none → Memory.wf s.mem = true →
        ∀ p, localPlace c.core true c.st.sigBar.toNat = some p → p.win ∈ [Window.clus, .other, .onsen] →
        let b := s.dword p.addr
        let e := err.isSome
        (s.poisoned p.addr 8 = true → ∃ t, leave t ∧ s.sameMemory t ∧ (t.queueOf cl q).length = rest.length) ∧
        (s.poisoned p.addr 8 = false → ∃ t, leave t ∧ left t ∧
          if fld b 0 16 = 0 then s.sameMemory t
          else if fld b 16 16 + 1 < fld b 0 16 then
            t.dword p.addr = BitVec.ofNat 64 ((if e then (b ||| (1 <<< 49)) else b).toNat + 2 ^ 16)
          else fld (t.dword p.addr) 0 16 = fld b 0 16 ∧ fld (t.dword p.addr) 16 16 = 0 ∧
            fld (t.dword p.addr) 32 16 = (fld b 32 16 + 1) % 65536 ∧ bit (t.dword p.addr) 49 = false ∧
            bit (t.dword p.addr) 50 = (e || bit b 49)))) ∧
    -- fences
    (let ready (e : EngCmd) : Prop := e.kind = .qfence ∧ ∀ j < 8, bit e.mask j = true → ∀ x ∈ s.queueOf cl j, e.stamp ≤ x.stamp
     ((∀ e ∈ es, ¬ready e) → s.becomes (.qfenceComplete cl q) s) ∧
     (es[i]? = some c → ready c → (∀ e ∈ es.take i, ¬ready e) → ∃ t, exec (.qfenceComplete cl q) s = .next t ∧
       t.queueOf cl q = es.eraseIdx i ∧ (∀ j, j ≠ q → t.queueOf cl j = s.queueOf cl j) ∧ (∀ n, n ≠ cl → t.cluster n = s.cluster n) ∧
       { t with clusters := s.clusters } = s))
/-! ### Lahar -/

/-- A host's enqueue puts its staged record into the ring, or sets OVF; before the queues open, and when tower 0 has stopped and the part is
without its host link, it is dropped, and while Lahar is frozen it waits. The oldest unchecked record is forwarded when its masks name only
the other tower, unless this tower runs alone (R371, R396, R398), refused for the first cause
of R370 that applies, with its count and its join object's status, ends at once at a count of 0, or takes the lowest free launch
slot and its pool. The requests of a launch take its pool's items in order and after them the end token. An event of a captured launch is
recorded in its buffer, which fills with OVF; in a replay it happens when the next record at its ordering point agrees with it, is held
when a later one does, and otherwise the launch is killed as diverged (R12, R40, R41, R366 to R371, R374, R378, R406 to R408). A bank
atomic and a heap operation of a task are one such event, an arrival at a barrier one, followed by its release when it is the last (R407).
Ordering points and records follow log 20, what a replay compares and holds log 58. The order over queues is the model's (log 57), what a
freeze holds its reading (log 23); enqueues before the queues open, log 42; when an object's data are loaded, log 75; a step whose
condition does not hold changes nothing, log 9. -/
def Obligations.LaunchRecords : Prop :=
  ∀ (s : State) (tw q : Nat), tw < 2 → q < 64 →
    let w := s.tower tw
    let qu (t : State) (j : Nat) : Queue := (t.tower tw).queues.getD j {}
    let ring (t : State) : List QEntry := (qu t q).ring
    let others (t : State) : Prop := ∀ j < 64, j ≠ q → qu t j = qu s j
    let same (e x : QEntry) : Bool := x.stamp == e.stamp && x.accepted.isNone
    -- enqueue
    (∀ last : Word,
      let asks (t : State) : Prop := exec (.hostEnqueue tw q last) s = .next t
      let r : List Word := ((w.staged.getD q (Vector.replicate 16 0)).set! 15 last).toList
      let new : QEntry := { record := r, asn := w.qas.getD q 0, stamp := s.steps }
      let linked : Prop := w.bootStep = 20 ∧ (s.tower 0).bootStep ≠ 21
      (¬linked → asks s) ∧
      (linked → w.lfrz = false → (ring s).length < 64 → ∃ t, asks t ∧ ring t = ring s ++ [new] ∧ others t) ∧
      (linked → w.lfrz = false → 64 ≤ (ring s).length → ∃ t, asks t ∧ ring t = ring s ∧ (qu t q).ovf = true ∧ others t) ∧
      (linked → w.lfrz = true → (∀ h ∈ w.held, h.1 ≠ q) → ∃ t, asks t ∧ ring t = ring s ∧ others t ∧
        (t.tower tw).held = w.held ++ [(q, w.qas.getD q 0, s.steps, r)]) ∧
      (linked → w.lfrz = true → (∃ h ∈ w.held, h.1 = q) → ∃ t, asks t ∧ ring t = ring s ∧ others t ∧
        (t.tower tw).held = w.held ∧ (qu t q).ovf = true)) ∧
    -- acceptance and refusal
    (let order := [8, 12, 1, 2, 3, 4, 11, 9, 10, 13, 5, 6, 7]
     let cause (x : QEntry) (c : Nat) : Prop :=
       let v (i : Nat) : Word := x.record.getD i 0
       let near (a : Word) : Prop := a ≠ 0 ∧ a.toNat < 2 ^ 32
       let obj := s.objOf tw (fld (v 0) 32 32)
       let gone (o : CodeObj) : Prop := o.purged = true ∨ o.portable = true ∧ o.signed = true ∧ o.sver < s.fuses
       let scratch := (max (fld (v 6) 32 32) 1 + 4095) / 4096 * 4096
       match c with
       | 8 => x.parent = none ∧ q % 8 = 7
       | 12 => fld (v 2) 43 5 ≠ 0 ∨ fld (v 2) 49 15 ≠ 0 ∨ fld (v 5) 30 34 ≠ 0 ∨ fld (v 6) 18 14 ≠ 0 ∨ fld (v 7) 0 12 ≠ 0
       | 1 => fld (v 2) 40 3 ≠ q / 8
       | 2 => fld (v 2) 32 8 = 0 ∨ fld (v 2) 36 4 ≠ 0
       | 3 => fld (v 6) 0 6 ∉ [0, 8, 16, 24, 32]
       | 4 => 8 < fld (v 6) 6 4 ∨ 64 < fld (v 6) 10 8
       | 11 => x.parent ≠ none ∧ (near (v 1) ∨ near (v 3))
       | 9 => ∀ o, obj = some o → ¬gone o ∧ o.entryAt (fld (v 0) 0 32) = false
       | 10 => ∃ o, obj = some o ∧ gone o
       | 13 => s.replayRefused tw x.asn x.record = true
       | 5 => ∀ n, ¬(n < coreCount ∧ towerOf n = tw ∧ s.present n = true ∧ bit (v 5) tw = true ∧ bit (v 5) (2 + layerOf n % 8) = true ∧
           bit (v 5) (10 + cluIdx n) = true ∧ bit (v 2) (32 + s.clsOf n) = true ∧ s.clsOf n < 8 ∧
           (if fld (v 6) 0 6 = 0 then 1 else fld (v 6) 0 6 / 8) ≤ pop4 (s.groupMask n) ∧ (fld (v 6) 6 4 = 0 ∨ s.clsOf n ≤ 1) ∧
           (s.core n).xb.toNat + scratch ≤ 0x80000)
       | 6 => v 4 ≠ 0xFFFFFFFFFFFFFFFF ∧ ∀ p, look w.pools (v 4).toNat = some p → p.launch ≠ none
       | _ => 4096 ≤ w.launches.length
     let why (x : QEntry) : Option Nat → Prop
       | none => ∀ c ∈ order, ¬cause x c
       | some c => c ∈ order ∧ cause x c ∧ ∀ d ∈ order.takeWhile (· ≠ c), ¬cause x d
     let checked (x : QEntry) (r0 : List QEntry) (t : State) : Prop :=
       let v (i : Nat) : Word := x.record.getD i 0
       others t ∧
       (why x none → fld (v 2) 0 32 = 0 → ring t = r0.filter (!same x ·) ∧ (t.tower tw).launches = w.launches ∧
         (t.tower tw).pools = w.pools ∧ s.sameMemory t) ∧
       let ob := s.objOf tw (fld (v 0) 32 32)
       (why x none → fld (v 2) 0 32 ≠ 0 → (∃ o a, ob = some o ∧ s.dataWaits tw x.asn o = some a) → ring t = r0 ∧
         (t.tower tw).launches = w.launches ∧ s.sameMemory t) ∧
       (why x none → fld (v 2) 0 32 ≠ 0 → (∀ o, ob = some o → s.dataWaits tw x.asn o = none) → ∃ slot l, slot < 4096 ∧ look w.launches slot = none ∧
         (∀ j < slot, look w.launches j ≠ none) ∧ look (t.tower tw).launches slot = some l ∧
         (∀ j, j ≠ slot → look (t.tower tw).launches j = look w.launches j) ∧ l.record = x.record ∧ l.queue = q ∧ l.asn = x.asn ∧
         l.count = fld (v 2) 0 32 ∧ l.next = 0 ∧ l.dispatched = 0 ∧ l.retired = 0 ∧ l.saved = 0 ∧ l.removed = [] ∧
         (bit (v 2) 48 = false → l.capture = none ∧ ((∀ o, ob = some o → x.asn ∈ o.spaces) → s.sameMemory t) ∧
           ∀ o, ob = some o → (s.placeData tw x.asn o).sameMemory t) ∧
         ring t = r0.map (fun y => if same x y then { y with accepted := some slot } else y) ∧
         (t.tower tw).pools = w.pools.map fun p =>
           if p.1 = (v 4).toNat then (p.1, { p.2 with cursor := 0, launch := some slot }) else p) ∧
       (∀ c, why x (some c) → ring t = r0.filter (!same x ·) ∧ (qu t q).refs = min ((qu s q).refs + 1) 0xFFFF ∧ (qu t q).cause = c ∧
         (t.tower tw).launches = w.launches ∧ (t.tower tw).pools = w.pools ∧ (v 3 = 0 → s.sameMemory t) ∧
         ∀ p, v 3 ≠ 0 → s.joinAt tw x.asn (v 3) p → t.joinWord p 0 = 0 ∧
           t.joinWord p 8 = s.joinWord p 8 ||| (if c = 9 then 12 else if c = 10 then 20 else 4) ∧ t.joinWord p 16 = s.joinWord p 16 ∧
           s.sameOutside t p.key p.addr 16)
     let there (x : QEntry) : Prop := bit (x.record.getD 5 0) tw = false ∧ bit (x.record.getD 5 0) (1 - tw) = true
     (w.lfrz = true → s.becomes (.launchAccept tw) s) ∧
     ((∀ j < 64, ∀ x ∈ (qu s j).ring, x.accepted ≠ none) → s.becomes (.launchAccept tw) s) ∧
     (∀ e, w.lfrz = false → (ring s).find? (·.accepted.isNone) = some e →
       (∀ j < 64, j ≠ q → ∀ x ∈ (qu s j).ring, x.accepted = none → e.stamp < x.stamp) →
       ∃ t, exec (.launchAccept tw) s = .next t ∧ (¬there e ∨ s.alone tw = true → checked e (ring s) t) ∧
         (there e → s.alone tw = false → ring t = (ring s).filter (!same e ·) ∧ others t ∧
           (t.tower (1 - tw)).forwarded = (s.tower (1 - tw)).forwarded ++ [(q, e)])) ∧
     (∀ e rest, w.forwarded = (q, e) :: rest →
       (w.lfrz = true ∨ w.bootStep ≠ 20 ∨ 64 ≤ (ring s).length → s.becomes (.forwardedRecordArrival tw) s) ∧
       (w.lfrz = false → w.bootStep = 20 → (ring s).length < 64 → ∃ t, exec (.forwardedRecordArrival tw) s = .next t ∧ (t.tower tw).forwarded = rest ∧
         checked { e with stamp := s.steps } (ring s ++ [{ e with stamp := s.steps }]) t))) ∧
    -- capture and replay
    (∀ (slot : Nat) (l : Launch) (e : Event), look w.launches slot = some l →
      let goes (t : State) : Prop := s.event tw slot e = (t, true)
      (l.capture = none → goes s) ∧
      (∀ c, l.capture = some c →
        let at_ := c.base + 64 + 32 * c.used
        let size := 1 + e.beat.length / 32
        let seq := c.seen e.cls e.place
        let keeps (t : State) (c1 : Capture) : Prop :=
          ∀ j, look (t.tower tw).launches j = if j = slot then some { l with capture := some c1 } else look w.launches j
        let counts (c1 : Capture) (n : Nat) : Prop := c1 = { c with used := c.used + n, seqs := c1.seqs } ∧
          ∀ k p, c1.seen k p = if k = e.cls ∧ p = e.place then seq + 1 else c.seen k p
        let mem (t u : State) : Prop := { t with towers := s.towers } = { u with towers := s.towers }
        (c.replay = false → c.ovf = true → goes s) ∧
        (c.replay = false → c.ovf = false → c.size < 64 + 32 * (c.used + size) → ∀ p, s.calderaPlace tw l.asn (c.base + 8) .store = .ok p →
          ∃ t, goes t ∧ keeps t { c with ovf := true } ∧ mem t (s.writeTo p (leBytes 8 1))) ∧
        (c.replay = false → c.ovf = false → 64 + 32 * (c.used + 1) ≤ c.size → e.beat = [] → ∀ p u,
          s.calderaPlace tw l.asn at_ .store = .ok p →
          let s1 := s.writeTo p (leBytes 8 (e.kind + 256 * e.core) ++ leBytes 8 seq ++ leBytes 8 e.v0.toNat ++ leBytes 8 e.v1.toNat)
          s1.calderaPlace tw l.asn c.base .store = .ok u →
          ∃ t c1, goes t ∧ keeps t c1 ∧ counts c1 1 ∧ mem t (s1.writeTo u (leBytes 8 (c.used + 1)))) ∧
        (c.replay = true → e.kind = 6 → goes s) ∧
        (c.replay = true → e.kind ≠ 6 →
          let n := (s.bufRead tw l.asn c.base 8).getD 0
          let here := (s.bufRecords tw l.asn c.base n n 0).filter fun r => r.kind != 6 && r.point s == (e.cls, e.place)
          let fits (r : CapRec) : Prop := r.kind = e.kind ∧ r.core = e.core ∧
            if e.kind = 5 then r.beat = e.beat
            else if e.kind = 4 then r.v0 = e.v0 ∧ r.v1 = e.v1
            else r.v0 = e.v0 ∧ fld r.v1 0 32 = fld e.v1 0 32
          (∀ r rest, here.drop seq = r :: rest → fits r → ∃ t c1, goes t ∧ keeps t c1 ∧ counts c1 0 ∧ mem t s) ∧
          -- what a work-pool request can agree with before it is answered
          let like (r : CapRec) : Prop := if e.kind = 3 then r.kind = 3 ∧ r.core = e.core ∧ fld r.v1 0 32 = fld e.v1 0 32 else fits r
          let later : Prop := ∃ r rest, here.drop seq = r :: rest ∧ ¬like r ∧ ∃ x ∈ rest, like x
          (later → s.event tw slot e = (s, false)) ∧
          (¬later → (∀ r rest, here.drop seq = r :: rest → ¬fits r) →
            s.event tw slot e = (if w.lfrz then s else s.killLaunch tw slot 0x20 none, false))))) ∧
    -- the events of a captured task's instructions
    (∀ (rd rs1 rs2 : BitVec 5) (scope : BitVec 3) (ord : BitVec 2) (half : BitVec 1) (i : TaskInfo), s.sound → s.me.task = some i →
      s.me.occ ≠ .message → Memory.wf s.mem = true → towerOf s.cur = tw →
      let ev (kind cls place : Nat) (v0 v1 : Word) : Event :=
        { kind := kind, core := coreId s.cur, cls := cls, place := place, v0 := v0, v1 := v1 }
      let off (k : Nat) : Word := BitVec.ofNat 64 k
      let runs (i1 : Instr) (r : State × Bool) (done : State → Prop) : Prop := ∃ t, exec i1 s = .next t ∧
        if r.2 then done t else t = if r.1.me.wait.isRetiring then r.1 else r.1.putMe { r.1.me with wait := .stalled }
      let noted (u t : State) : Prop := (t.tower tw).launches = (u.tower tw).launches
      (∀ p s1, let n := if half = 1 then 4 else 8
        (bit ord 1 = true → s.releaseWaits scope.toNat = false) → s.check (s.x rs1) n .atomic 0 storeWindows = (.val p, s1) →
        (bit ord 1 = true → p.sa = true → s1.releaseWaits (max scope.toNat 5) = false) → s.myCluster.ckpts = [] →
        let r := s1.event tw i.launch (ev 2 1 (s1.bankPoint p.addr) (off p.addr) s.me.taskid)
        ∀ i1 ∈ [Instr.aadd rd rs1 rs2 scope ord half, .aand rd rs1 rs2 scope ord half, .aor rd rs1 rs2 scope ord half,
            .axor rd rs1 rs2 scope ord half, .amin rd rs1 rs2 scope ord half, .amax rd rs1 rs2 scope ord half,
            .aminu rd rs1 rs2 scope ord half, .amaxu rd rs1 rs2 scope ord half, .aswap rd rs1 rs2 scope ord half,
            .acas rd rs1 rs2 scope ord half, .afadd rd rs1 rs2 scope ord half],
          match physKind p.addr with
          | .onsen _ | .cluster _ | .priv _ => runs i1 r fun t => noted r.1 t ∧
              ∀ b, ¬(p.addr ≤ b ∧ b < p.addr + n) → t.byteKey p.key b = r.1.byteKey p.key b
          | _ => ∃ t, exec i1 s = .next t ∧ noted s1 t) ∧
      (∀ p s1, s.check (s.x rs1) 16 .atomic 0 loadWindows = (.val p, s1) → p.win ∈ [Window.clus, .other, .onsen] →
        s1.releaseWaits (homeScope s.cur p.addr) = false →
        let c := s1.implicitCommit
        let b := s.dword p.addr
        let at_ (phase : Nat) : Event := ev 4 3 p.addr (off p.addr) (off (phase % 2 ^ 16))
        let r := c.event tw i.launch (at_ (fld b 32 16))
        fld b 0 16 ≠ 0 → runs (.barr rd rs1) r fun t =>
          if fld b 16 16 + 1 < fld b 0 16 then noted r.1 t
          else ∃ u, r.1.changed u p.addr 8 ∧ noted (u.event tw i.launch (at_ (fld b 32 16 + 1))).1 t) ∧
      (∀ p s1, s.check (s.x rs1) 64 .atomic 0 loadWindows = (.val p, s1) → p.win = .onsen → s.poison = [] →
        let c := s1.implicitCommit
        let v (k : Nat) : Word := s.dword (p.addr + 8 * k)
        let cap := fld (v 0) 32 32
        let r := c.event tw i.launch (ev 2 1 (c.bankPoint p.addr) (off p.addr) s.me.taskid)
        fld (v 0) 0 32 ≤ cap → cap ≠ 0 → cap ≤ 65536 → fld (v 1) 1 63 = 0 → (∀ k < 6, v (k + 2) = 0) →
        (s.x rs1).toNat + 64 + 16 * cap ≤ 0x30000000 →
        runs (.pqpop rd rs1 rs2) r (noted r.1) ∧ (s1.releaseWaits 3 = false → runs (.pqpush rd rs1 rs2) r (noted r.1)))) ∧
    -- work pools
    (∀ r rest, w.wqry = r :: rest → r.slot < 4 →
      (w.lfrz = true → s.becomes (.wqryAnswer tw) s) ∧
      (w.lfrz = false → (∀ l, look w.launches r.launch = some l → l.capture = none) → Memory.wf s.mem = true → hbmEnd ≤ r.addr →
        let pool := w.pools.find? fun p => p.2.launch == some r.launch
        let th := s.thread r.core r.slot
        let stays : Prop := th.bindStamp = r.stamp ∧ th.occ = .task ∧ ∀ j, th.wait ≠ .retiring .killed j
        let answers (t : State) (v : Word) : Prop := (stays → t.dword r.addr = v ∧ ∀ b, ¬(r.addr ≤ b ∧ b < r.addr + 8) → t.byte b = s.byte b) ∧
          (¬stays → s.sameMemory t)
        ∃ t, exec (.wqryAnswer tw) s = .next t ∧ (t.tower tw).wqry = rest ∧
          ((pool = none ∨ ∃ i p, pool = some (i, p) ∧ p.rows * p.cols ≤ p.cursor) →
            answers t 0xFFFFFFFFFFFFFFFF ∧ (t.tower tw).pools = w.pools) ∧
          (∀ i p, pool = some (i, p) → p.cursor < p.rows * p.cols → p.rows < 65536 → p.cols < 65536 → p.rows * p.cols ≤ 65535 → 1 ≤ p.w →
            let n := p.cursor
            let band := n / (p.w * p.cols)
            let inside := n % (p.w * p.cols)
            let h := min p.w (p.rows - band * p.w)
            answers t (BitVec.ofNat 64 (inside / h + (band * p.w + inside % h) * 2 ^ 16 + n * 2 ^ 32)) ∧
            (t.tower tw).pools = w.pools.map fun x => if x.1 = i then (x.1, { x.2 with cursor := x.2.cursor + 1 }) else x)))

/-- TASK_DISPATCH grants by R13 the head of one queue, placed by R15 on the first eligible core of the scan and reserved there,
its record on its way; a delivered record enters the inbox and wakes the layer. A core binds by R20 the oldest message of the
best channel to its lowest open slot, where the task starts as R22 says, unless a channel-31 message can be taken (R21). A head that has
waited longer than the delay sends the best candidate of R35 a discard or save message; a reservation whose head no longer waits is
returned (R13 to R20, R22, R26, R35, R42, R292, R296). A replay binds a task to the slot of its recorded run, and waits for it (R408).
Reservations of a pre-emption are as log 57 reads them, their messages as log 40, recorded slots as log 58; where the channel search starts
at a priority at which nothing has been bound (log 74), the private area's bytes (log 60), a tile record's need of an array (log 89), and
that a step whose condition does not hold changes nothing (log 9) are the model's choices. -/
def Obligations.TaskPlacement : Prop :=
  ∀ (s : State) (tw q core : Nat), tw < 2 → q < 64 → core < coreCount →
    let w := s.tower tw
    let c := s.core core
    let queue (t : State) : Queue := (t.tower tw).queues.getD q {}
    let woken (t : State) (n : Nat) : Prop := (t.layer (layerOf n)).season =
      match (s.layer (layerOf n)).season with | .autumn => .summer | .winter => .spring | x => x
    -- placement
    (∀ (r : List Word) (level base : Nat), (∀ v ∈ c.resv, v.queue ≠ some q) →
      let v (i : Nat) : Word := r.getD i 0
      let groups := if fld (v 6) 0 6 = 0 then 1 else fld (v 6) 0 6 / 8
      let scratch := (max (fld (v 6) 32 32) 1 + 4095) / 4096 * 4096
      let fits (b : Nat) : Prop := b % 4096 = 0 ∧ c.xb.toNat ≤ b ∧ b + scratch ≤ 0x80000 ∧
        ∀ u ∈ s.usedRanges core, ¬(u.2 ≠ 0 ∧ b < u.1 + u.2 ∧ u.1 < b + scratch)
      (s.eligible tw q r level core = some base ↔
        towerOf core = tw ∧ s.present core = true ∧ s.takesWork core = true ∧ bit (v 5) tw = true ∧
        bit (v 5) (2 + layerOf core % 8) = true ∧ bit (v 5) (10 + cluIdx core) = true ∧ s.clsOf core < 8 ∧
        bit (v 2) (32 + s.clsOf core) = true ∧ groups ≤ pop4 (s.groupMask core) ∧ (fld (v 6) 6 4 = 0 ∨ s.clsOf core ≤ 1) ∧
        (∃ b ∈ w.binding, b.1 = (core, fld (v 0) 32 32, fld (v 0) 0 32, level)) ∧
        (c.resv.filter fun x => x.slot.isNone).length < ((List.range 4).filter fun k =>
          (s.thread core k).occ == .free && c.resv.all fun x => x.slot != some k).length ∧
        groups ≤ pop4 (unheld (s.groupMask core) c.lpart) - (c.resv.map Resv.groups).foldl (· + ·) 0 ∧
        s.usedTiles core + fld (v 6) 6 4 ≤ 8 ∧ fits base ∧ ∀ b, base < b → ¬fits b)) ∧
    (∀ l i back n base, s.placement tw q = some (l, i, back, n, base) →
      s.headOf tw q = some (l, i, back) ∧ s.eligible tw q l.record i.level n = some base ∧
      (l.capture = none → ∀ m, m < coreCount → towerOf m = tw → s.eligible tw q l.record i.level m ≠ none →
        (n + 1280 - l.scan % 1280) % 1280 ≤ (m + 1280 - l.scan % 1280) % 1280)) ∧
    (∀ l i back, s.headOf tw q = some (l, i, back) → l.capture = none →
      (∃ m, m < coreCount ∧ towerOf m = tw ∧ s.eligible tw q l.record i.level m ≠ none) → s.placement tw q ≠ none) ∧
    ((queue s).returned = [] → ∀ e rest slot l idx, (queue s).ring = e :: rest → e.accepted = some slot →
      look w.launches slot = some l → l.nextIndex = some idx → ∃ i, s.headOf tw q = some (l, i, false) ∧ i.index = idx ∧
        i.launch = slot ∧ i.words = [BitVec.ofNat 64 (idx + l.count * 2 ^ 32),
          BitVec.ofNat 64 (fld (l.record.getD 1 0) 0 52 + slot * 2 ^ 52)] ++ (List.range 6).map fun j => l.record.getD (8 + j) 0) ∧
    (∀ i rest, (queue s).returned = i :: rest → s.headOf tw q = (look w.launches i.launch).map fun l => (l, i, true)) ∧
    -- dispatch
    (let P (x : Nat) : Prop := s.placement tw x ≠ none
     let stamp (x : Nat) : Nat := ((s.headOf tw x).map fun h => h.2.1.stamp).getD 0
     let far (k x : Nat) : Nat := (x % 8 + 7 - w.rr.getD k 7) % 8
     (w.lfrz = true ∨ (∀ x < 64, ¬P x) → s.becomes (.taskDispatch tw) s) ∧
     (∀ k < 8, w.lfrz = false → w.rr.getD k 7 < 8 → (∃ x, x / 8 = k ∧ P x) → (∀ x < 64, k < x / 8 → ¬P x) →
       let aged : Prop := 32 ≤ w.age.getD k 0 ∧ ∃ x < 8 * k, P x
       (aged → q < 8 * k ∧ ∀ x < 8 * k, P x → stamp q < stamp x ∨ stamp q = stamp x ∧ q ≤ x) →
       (¬aged → q / 8 = k ∧ ∀ x, x / 8 = k → P x → far k q ≤ far k x) →
       ∀ l i back n base, s.placement tw q = some (l, i, back, n, base) → ∃ t, exec (.taskDispatch tw) s = .next t ∧
         (t.tower tw).age = (if aged then w.age.set! k 0 else w.age.set! k (min (w.age.getD k 0 + 1) 32)) ∧
         (t.tower tw).rr = (if aged then w.rr else w.rr.set! k (q % 8)) ∧
         (∃ m, (t.core n).net = (s.core n).net ++ [m] ∧ m.words = i.words ∧ m.task = some { i with pbase := base } ∧
           ∃ b ∈ w.binding, b.1 = (n, fld (l.record.getD 0 0) 32 32, fld (l.record.getD 0 0) 0 32, i.level) ∧ m.chan = b.2) ∧
         (∃ v ∈ (t.core n).resv, v.slot = none ∧ v.groups = i.groups ∧ v.tiles = i.tiles ∧ v.pbase = base ∧ v.psize = i.psize ∧
           v.queue = none ∧ ∀ x ∈ (t.core n).resv, x = v ∨ x ∈ (s.core n).resv ∧ ¬(x.queue = some q ∧ x.head = some (i.launch, i.index))) ∧
         (∀ m, { t.core m with resv := (s.core m).resv, net := (s.core m).net } = s.core m ∧
           (m ≠ n → (t.core m).net = (s.core m).net ∧ ∀ x ∈ (t.core m).resv, x ∈ (s.core m).resv) ∧
           (∀ x ∈ (s.core m).resv, x.queue = none ∨ x.head = none → x ∈ (t.core m).resv) ∧
           (towerOf m = tw → ∀ x ∈ (t.core m).resv, ∀ k h, x.queue = some k → x.head = some h → t.waiting tw k h = true)) ∧ s.sameMemory t ∧
         (∃ l', look (t.tower tw).launches i.launch = some l' ∧ l'.scan = (n + 1) % 1280 ∧ l'.retired = l.retired ∧
           l'.next = (if back then l.next else i.index + 1) ∧ l'.dispatched = (if back then l.dispatched else l.dispatched + 1) ∧
           (queue t).ring = (if back = false ∧ l'.nextIndex = none then (queue s).ring.drop 1 else (queue s).ring)) ∧
         (queue t).returned = if back then (queue s).returned.drop 1 else (queue s).returned)) ∧
    -- arrival
    (∀ m j, c.net[j]? = some m → m.chan ≠ 31 → (∀ x ∈ c.net.take j, x.chan = 31) →
      (∀ i l, m.task = some i → look (s.tower (towerOf core)).launches i.launch = some l → l.capture = none) →
      let asks (t : State) : Prop := exec (.taskRecordArrival core) s = .next t
      let room : Prop := c.inbox.length < 64 ∧ (s.layer (layerOf core)).season ≠ .inReset
      (¬room → asks s) ∧
      (room → ∃ t, asks t ∧ t.core core = { c with inbox := c.inbox ++ [m], net := c.net.eraseIdx j } ∧ woken t core ∧
        (∀ n, n ≠ core → t.core n = s.core n) ∧ { t with cores := s.cores, layers := s.layers } = s)) ∧
    -- binding
    (let runs (h : Nat) : Prop := h < 31 ∧ bit (c.hent.getD h 0) 36 = true ∧ bit (c.hent.getD h 0) 35 = false ∧ ∃ m ∈ c.inbox, m.chan = h
     let prio (h : Nat) : Nat := fld (c.hent.getD h 0) 32 3
     let awake : Prop := (s.layer (layerOf core)).season ∈ [Season.summer, .autumn] ∨
       (s.layer (layerOf core)).season = .spring ∧ (s.layer (layerOf core)).powered = true
     let open_ (k : Nat) : Prop := k < 4 ∧ (s.thread core k).occ = .free ∧ ∀ x ∈ c.resv, x.slot ≠ some k
     let asks (t : State) : Prop := exec (.channelBind core) s = .next t
     let first : Prop := ∃ m ∈ c.inbox, m.chan = 31 ∧ s.takenAs core m ≠ .wait
     let goes (h : Nat) (m : Msg) (i : TaskInfo) : Prop := runs h ∧
       (∀ x, runs x → prio x ≤ prio h ∧ (prio x = prio h →
         let next := match c.lastChan.getD (prio h) none with | some l => (l + 1) % 31 | none => 0
         (h + 31 - next) % 31 ≤ (x + 31 - next) % 31)) ∧
       c.inbox.find? (fun x => x.chan == h) = some m ∧ m.task = some i
     (¬awake ∨ first ∨ (∀ k, ¬open_ k) ∨ (∀ h, ¬runs h) → asks s) ∧
     (∀ h j m i, awake → ¬first → goes h m i → s.recordedSlot core i = some j → ¬open_ j → asks s) ∧
     (∀ h k m i, awake → ¬first → open_ k → goes h m i →
       (match s.recordedSlot core i with | some j => k = j | none => ∀ j < k, ¬open_ j) →
       let all := unheld (s.groupMask core) c.lpart
       let home := s.tower (towerOf core)
       let free := (List.range 232).filter fun j => !home.leases.any fun l => l.1 == j + 8
       let g := min i.lease (min 64 free.length)
       let at_ := privBase core + i.pbase
       ∃ t, asks t ∧ woken t core ∧
         (let word (j : Nat) : Word := i.words.getD j 0
          let start (r : Fin 32) : Word :=
            if r.val = 1 then BitVec.ofNat 64 (fld (word 0) 0 32) else if r.val = 2 then BitVec.ofNat 64 (fld (word 0) 32 32)
            else if r.val = 3 then BitVec.ofNat 64 (fld (word 1) 0 52) else if 4 ≤ r.val ∧ r.val ≤ 9 then word (r.val - 2)
            else if r.val = 30 then BitVec.ofNat 64 (i.pbase + i.psize) else 0
          let pc : Word := BitVec.ofNat 64 (fld (c.hent.getD h 0) 0 32)
          t.thread core k = { occ := .task, pc := pc, cameFrom := pc - 4, x := Vector.ofFn start, prio := prio h, savep := i.savep
                              taskid := BitVec.ofNat 64 (i.launch * 2 ^ 32 + i.index % 2 ^ 32), ctxid := BitVec.ofNat 64 k, glease := g
                              task := some { i with chan := some h }, bindStamp := s.steps, since := some s.steps
                              oclaim := (s.thread core k).oclaim }) ∧
         (∀ n j : Nat, j < 4 → ¬(n = core ∧ j = k) → t.thread n j = s.thread n j) ∧
         (t.core core).inbox = c.inbox.erase m ∧
         (t.core core).resv = c.resv.filter (fun x => !(x.slot.isNone && x.pbase == i.pbase)) ∧
         (t.core core).lastChan = c.lastChan.set! (prio h) (some h) ∧
         (∀ j < 4, (force (t.core core).lpart k).testBit j =
           (all.testBit j && decide (((List.range j).filter fun x => all.testBit x).length < i.groups))) ∧
         pendg (t.core core).lpart k = force (t.core core).lpart k ∧
         (∀ j < 4, j ≠ k → force (t.core core).lpart j = force c.lpart j ∧ pendg (t.core core).lpart j = pendg c.lpart j) ∧
         fld (t.core core).lpart 32 32 = fld c.lpart 32 32 ∧
         (∃ new, (t.tower (towerOf core)).leases = home.leases ++ new ∧ new.length = g ∧ ∀ x ∈ new, x.2 = (core, k) ∧
           8 ≤ x.1 ∧ x.1 ≤ 239 ∧ ∀ l ∈ home.leases, l.1 ≠ x.1) ∧
         (∀ b, at_ ≤ b → b < at_ + i.psize → t.byte b = Config.entryByte s.steps b) ∧
         (∀ b, ¬(at_ ≤ b ∧ b < at_ + i.psize) → t.byte b = s.byte b))) ∧
    -- pre-emption
    (∀ l i back, s.headOf tw q = some (l, i, back) →
      let asks (t : State) : Prop := exec (.preemptDelayExpiry tw q) s = .next t
      let due : Prop := w.lfrz = false ∧ w.pdly ≠ 0 ∧ w.pdly < Config.cyclesTo s.steps - Config.cyclesTo (queue s).since ∧
        s.placement tw q = none ∧ ∀ p ∈ w.preempts, ¬(p.1 = q ∧ s.waiting tw q p.2.2.2 = true)
      let level (n k : Nat) : Nat := ((s.thread n k).task.map TaskInfo.level).getD 0
      let cand (n k : Nat) : Prop := towerOf n = tw ∧ k < 4 ∧ (s.thread n k).occ = .task ∧ (∀ e j, (s.thread n k).wait ≠ .retiring e j) ∧
        (∃ j, (s.thread n k).task = some j ∧ ((s.thread n k).post = true → j.savep ≠ 0)) ∧ level n k < i.level ∧
        s.wouldFit tw q l.record i.level n k = true
      let after (n k m j : Nat) : Prop := level n k < level m j ∨ level n k = level m j ∧
        ((s.thread n k).post = false ∧ (s.thread m j).post = true ∨ (s.thread n k).post = (s.thread m j).post ∧
          (s.thread m j).bindStamp < (s.thread n k).bindStamp)
      (¬due ∨ (∀ n k, ¬cand n k) → asks s) ∧
      (∀ n k, due → cand n k → (∀ m j, cand m j → (m, j) ≠ (n, k) → after n k m j) → ∃ t, asks t ∧
        (∃ m, (t.core n).net = (s.core n).net ++ [m] ∧ m.chan = 31 ∧ fld (m.words.getD 0 0) 0 4 = k ∧ fld (m.words.getD 0 0) 4 4 = 1 ∧
          m.target = some (s.thread n k).bindStamp) ∧ (t.tower tw).preempts = (q, n, k, i.launch, i.index) :: w.preempts ∧
        (∀ m j : Nat, j < 4 → t.thread m j = s.thread m j) ∧ s.sameMemory t))

/-! ### Ends and waits -/

/-- TASK_RETIRE waits for the thread's commands, stack-broadcast writes and slices. A discarded task is rolled back and its
record returns to its queue; a task that ends commits, or, faulted or killed before its commit, is rolled back, withdraws its registrations,
updates its join object
(status 1 faulted, 2 killed, the first failure, the counter), frees leases, lanes, units and slot, and ends its launch when it
is the last (R32 to R34, R38, R43, R62, R268, R276, R300, R374). The waits of KILL, WAITA, BWAIT, JOINW and YIELD end on their
conditions and limits (R272, R275, R283 to R285). A frozen Lahar (log 23), limits in cycles (log 7), failed join updates (log 49), and
that a step whose condition does not hold changes nothing (log 9), follow the model's readings. -/
def Obligations.EndsAndWaits : Prop :=
  ∀ (s : State) (core slot : Nat), core < coreCount → slot < 4 →
    let tw := towerOf core
    let w := s.tower tw
    let th := s.thread core slot
    let u := s.as core slot
    let retires (t : State) : Prop := exec (.taskRetire core slot) s = .next t
    let cl := s.cluster (clusterOf core)
    let busy : Prop := (∃ j : Fin 8, ∃ c ∈ cl.queues[j], c.core = core ∧ c.slot = slot) ∨
      (∃ g ∈ w.gpend, g.core = core ∧ g.slot = slot) ∨ ∃ x ∈ (s.core core).slices, x.slot = slot
    let freed (t : State) : Prop :=
      t.thread core slot = { oclaim := th.oclaim, bindStamp := th.bindStamp } ∧
      (∀ n k : Nat, k < 4 → ¬(n = core ∧ k = slot) → t.thread n k = s.thread n k) ∧
      (t.tower tw).leases = w.leases.filter (fun l => l.2 != (core, slot)) ∧
      force (t.core core).lpart slot = 0 ∧ pendg (t.core core).lpart slot = 0 ∧
      (∀ j < 4, j ≠ slot → force (t.core core).lpart j = force (s.core core).lpart j) ∧
      ((∀ p ∈ w.preempts, ¬(p.2.1 = core ∧ p.2.2.1 = slot)) → (t.core core).resv.length ≤ (s.core core).resv.length) ∧
      (∀ q h, w.preempts.filter (fun p => p.2.1 == core && p.2.2.1 == slot) = [(q, core, slot, h)] → s.waiting tw q h = true →
        ∃ v ∈ (t.core core).resv, v.queue = some q ∧ v.head = some h ∧ v.groups = pop4 (force (s.core core).lpart slot)) ∧
      (t.layer (layerOf core)).busy = true
    let given (t : State) : Prop := ∀ j < 12, (t.core core).ownerByte j =
      if (s.core core).ownerByte j = 128 + fld th.ctxid 0 7 then 0 else (s.core core).ownerByte j
    let ended (t : State) (slot : Nat) : Prop := ∀ l, look w.launches slot = some l →
      (l.retired + 1 < l.count → look (t.tower tw).launches slot = some { l with retired := l.retired + 1 }) ∧
      (l.count ≤ l.retired + 1 → (w.launches.map Prod.fst).Nodup → look (t.tower tw).launches slot = none ∧
        ∀ p ∈ (t.tower tw).pools, p.2.launch ≠ some slot)
    let mine (e : LogEntry) : Bool := e.core == core && e.slot == slot
    -- retirement
    (w.lfrz = true ∨ (∀ e j, th.wait ≠ .retiring e j) ∨ (∃ e, th.wait = .retiring e none ∧ busy) ∨
      (∃ e j, th.wait = .retiring e (some j) ∧ j.waiting = true) → retires s) ∧
    (∀ i, w.lfrz = false → ¬busy → th.occ = .task → th.task = some i → th.wait = .retiring .discarded none → th.post = false →
      th.regs = [] → i.queue < 64 → ∃ t, retires t ∧ freed t ∧ given t ∧ (∀ b, t.byte b = (s.rollback core slot).byte b) ∧
        ((t.tower tw).queues.getD i.queue {}).returned = (w.queues.getD i.queue {}).returned ++ [i] ∧
        (t.tower tw).launches = w.launches) ∧
    (∀ i e, w.lfrz = false → ¬busy → th.occ = .task → th.task = some i → th.wait = .retiring e none → e ≠ .discarded →
      -- memory when the task's log is settled: as it is, or rolled back
      let s0 := if e = .done ∨ th.post = true then s else s.rollback core slot
      (th.regs = [] → i.join = 0 → ∃ t, retires t ∧ freed t ∧ given t ∧ ended t i.launch ∧ s0.sameMemory t ∧
        (t.cluster (clusterOf core)).log = if th.post then cl.log else cl.log.filter (!mine ·)) ∧
      (∀ p, th.regs = [] → i.join ≠ 0 → s0.joinAt tw i.asn i.join p → ∃ t, retires t ∧ freed t ∧ given t ∧ ended t i.launch ∧
        t.joinWord p 0 = s0.joinWord p 0 - 1 ∧
        t.joinWord p 8 = s0.joinWord p 8 ||| (match e with | .faulted => 1 | .killed => 2 | _ => 0) ∧
        t.joinWord p 16 = (if e ≠ .done ∧ s0.joinWord p 16 = 0xFFFFFFFFFFFFFFFF then th.taskid else s0.joinWord p 16) ∧
        s0.sameOutside t p.key p.addr 24) ∧
      (∀ a p, th.regs = [a] → i.join = 0 → localPlace core false a = some p → p.win ∈ [Window.clus, .other, .onsen] →
        Memory.wf s0.mem = true → ∃ t, retires t ∧ freed t ∧ ended t i.launch ∧ t.dword p.addr = s0.dword p.addr ||| (1 <<< 48) ∧
          fld (t.dword (p.addr + 8)) 0 16 = (fld (s0.dword (p.addr + 8)) 0 16 + 65535) % 65536 ∧
          fld (t.dword (p.addr + 8)) 16 48 = fld (s0.dword (p.addr + 8)) 16 48 ∧
          ∀ b, ¬(p.addr ≤ b ∧ b < p.addr + 16) → t.byte b = s0.byte b)) ∧
    (∀ e, w.lfrz = false → ¬busy → th.occ = .message → th.wait = .retiring e none →
      (th.resume = none → ∃ t, retires t ∧ freed t ∧ s.sameMemory t ∧ (t.tower tw).launches = w.launches) ∧
      (∀ c sv, th.resume = some c → w.saved.find? (fun v => v.ctx == c && v.sent == some (core, slot)) = some sv → sv.regs = [] →
        (∀ l, look w.launches sv.info.launch = some l → l.join = 0) → ∃ t, retires t ∧ freed t ∧ sv ∉ (t.tower tw).saved)) ∧
    -- the waits of synchronisation
    (let back (t : State) : State := t.as core slot
     let asks (i : Instr) (t : State) : Prop := exec i s = .next t ∧ t.cur = s.cur ∧ t.curSlot = s.curSlot
     let beyond (limit : Option Nat) : Prop := ∃ d, limit = some d ∧ d ≤ Config.cyclesTo s.steps
     ((∀ rd a m v d, th.wait ≠ .waita rd a m v d) → s.becomes (.waitaWake core slot) s ∧ s.becomes (.waitaTimeout core slot) s) ∧
     (∀ rd a m v limit p s1, th.wait = .waita rd a m v limit → u.check a 8 .load 0 loadWindows = (.val p, s1) →
       let word : Word := BitVec.ofNat 64 (leNat (s.bytesKey p.key p.addr 8))
       (∃ t, asks (.waitaWake core slot) t ∧ if (word ^^^ v) &&& m ≠ 0 then s1.wrote (back t) rd word
         else s1.onlyMe (back t) ∧ (back t).me = th) ∧
       (¬beyond limit → s.becomes (.waitaTimeout core slot) s) ∧
       (beyond limit → ∃ t, asks (.waitaTimeout core slot) t ∧ s1.wrote (back t) rd word)) ∧
     ((∀ rd a k d, th.wait ≠ .bwait rd a k d) → s.becomes (.bwaitWake core slot) s ∧ s.becomes (.bwaitTimeout core slot) s) ∧
     (∀ rd a k limit p s1, th.wait = .bwait rd a k limit → u.check a 16 .load 0 loadWindows = (.val p, s1) →
       p.win ∈ [Window.clus, .other, .onsen] →
       let b := s.dword p.addr
       let d := (fld b 32 16 + 65536 - k % 65536) % 65536
       let status : Option Nat := if bit b 48 then some 1 else if 2 ≤ d then some 2 else if d = 1 then some (if bit b 50 then 3 else 0)
         else if bit b 49 then some 3 else none
       let out (t : State) (n : Nat) : Prop := s1.wrote (back t) rd (BitVec.ofNat 64 (n + fld b 32 16 * 2 ^ 32))
       (32768 ≤ d → th.level = .T → ∃ t, asks (.bwaitWake core slot) t ∧
         s1.trapped (back t) { cause := 0x10, eval := a, eval2 := 1 }) ∧
       (d < 32768 → ∃ t, asks (.bwaitWake core slot) t ∧ match status with
         | some n => out t n
         | none => s1.onlyMe (back t) ∧ (back t).me = th) ∧
       (¬beyond limit → s.becomes (.bwaitTimeout core slot) s) ∧
       (d < 32768 → beyond limit → ∃ t, asks (.bwaitTimeout core slot) t ∧ out t (status.getD 4))) ∧
     ((∀ rd a, th.wait ≠ .joinw rd a) → s.becomes (.joinwWake core slot) s) ∧
     (∀ rd a p s1, th.wait = .joinw rd a → u.check a 32 .load 0 globWindow = (.val p, s1) → ∃ t, asks (.joinwWake core slot) t ∧
       if leNat (s.bytesKey p.key p.addr 8) = 0 then s1.wrote (back t) rd (BitVec.ofNat 64 (leNat (s.bytesKey p.key (p.addr + 8) 8)))
       else s1.onlyMe (back t) ∧ (back t).me = th) ∧
     ((∀ l d, th.wait ≠ .yield l d) → s.becomes (.yieldEnd core slot) s) ∧
     (∀ l d, th.wait = .yield l d →
       let left : Prop := ∃ j ∈ l, j < 4 ∧ j ≠ slot ∧ (s.thread core j).occ ≠ .free ∧ (s.thread core j).wait = .none
       (left → Config.cyclesTo s.steps < d → s.becomes (.yieldEnd core slot) s) ∧
       (¬left ∨ d ≤ Config.cyclesTo s.steps → ∃ t, asks (.yieldEnd core slot) t ∧ u.onlyMe (back t) ∧
         (back t).me = { th with wait := .none })) ∧
     ((∀ rd n l j, th.wait ≠ .kill rd n l j) → s.becomes (.killDone core slot) s) ∧
     (∀ rd n l jobs, th.wait = .kill rd n l jobs →
       let left : Prop := (∃ h ∈ l, (s.thread h.1 h.2.1).occ ≠ .free ∧ (s.thread h.1 h.2.1).bindStamp = h.2.2) ∨
         ∃ j ∈ jobs, look (s.tower (j % 2)).jobs (j / 2) ≠ none
       (left → s.becomes (.killDone core slot) s) ∧
       (¬left → ∃ t, asks (.killDone core slot) t ∧ u.wrote (back t) rd (BitVec.ofNat 64 n))))

/-- A channel-31 message of a reserved KIND is dropped, another enters the inbox. The core takes a message by the cases of R309:
it binds at level S with words 0 to 3 in the S bank, waits, discards a pre-commit task for KIND 1, or traps the thread with
cause 0x16. A thread that waits for its slices first loses those that have not started, SSTART naming the first of them; the started ones
retire before the trap (R192). Lahar resumes a saved context where R312 allows it, with its reservation. The watchdog, whose counter gives
the cycles since the last retirement without those of a suspension, traps with cause 0x13 and
abandons a wait, but waits for KILL, GAMO and started slices; a message waits for a watchdog trap that is due (R17, R19, R21, R192, R306,
R308 to R310, R312). A masked HENT31, a message without
a target, and the resume on another core follow the model's readings (logs 25, 40, 41), and so do the restart element that a trap puts into
ESTART (log 14) and that a step whose condition does not hold changes nothing (log 9). -/
def Obligations.SupervisorMessages : Prop :=
  ∀ (s : State) (core slot : Nat), core < coreCount → slot < 4 →
    let tw := towerOf core
    let w := s.tower tw
    let c := s.core core
    let th := s.thread core slot
    let still (t : State) : Prop := ∀ n k : Nat, k < 4 → ¬(n = core ∧ k = slot) → t.thread n k = s.thread n k
    -- arrival
    (∀ msg : List Word,
      let kind := fld (msg.getD 0 0) 4 4
      let asks (t : State) : Prop := exec (.supervisorMessageArrival core msg) s = .next t
      (msg ≠ [] → (kind = 0 ∨ 3 < kind) → ∃ t, asks t ∧ { t with layers := s.layers } = s) ∧
      (msg ≠ [] → 1 ≤ kind → kind ≤ 3 → c.inbox.length < 64 → (s.layer (layerOf core)).season ≠ .inReset → ∃ t m, asks t ∧
        t.core core = { c with inbox := c.inbox ++ [m] } ∧ m.chan = 31 ∧ m.words = (List.range 8).map (fun i => msg.getD i 0) ∧
        m.task = none ∧ m.ctx = none ∧ (∀ n, n ≠ core → t.core n = s.core n) ∧
        (t.layer (layerOf core)).season = match (s.layer (layerOf core)).season with
          | .autumn => .summer | .winter => .spring | x => x)) ∧
    -- taking
    (∀ (m : Msg) (l r : List Msg), c.inbox = l ++ m :: r → m ∉ l → (∀ x ∈ l, x.chan ≠ 31) → m.chan = 31 → fld (m.words.getD 0 0) 0 2 = slot →
      let word (i : Nat) : Word := m.words.getD i 0
      let kind := fld (word 0) 4 4
      let asks (t : State) : Prop := exec (.supervisorMessageTake core) s = .next t
      let taken (t : State) : Prop := (t.core core).inbox = l ++ r
      let gone : Prop := ∃ b, m.target = some b ∧ (th.bindStamp ≠ b ∨ th.occ ≠ .task)
      let mine := c.resv.filter fun x => x.slot == some slot
      let due := (c.resv.filter fun x => x.slot.isNone).length
      let frees := ((List.range 4).filter fun k => k ≠ slot ∧ (s.thread core k).occ = .free).length
      let ready : Prop := (mine ≠ [] ∧ m.ctx ≠ none ∨ mine = [] ∧ due ≤ frees) ∧ bit (c.hent.getD 31 0) 36 = true ∧
        bit (c.hent.getD 31 0) 35 = false ∧ ((s.layer (layerOf core)).season ∈ [Season.summer, .autumn] ∨
          (s.layer (layerOf core)).season = .spring ∧ (s.layer (layerOf core)).powered = true)
      let others : Prop := ∀ x ∈ r, x.chan ≠ 31
      (kind = 1 → gone → ∃ t, asks t ∧ taken t ∧ still t ∧ t.thread core slot = th) ∧
      (¬(kind = 1 ∧ gone) →
        (th.occ = .free → ¬ready → others → asks s) ∧
        (th.occ ≠ .free → th.level = .S → others → asks s) ∧
        (th.occ = .free → ready → ∃ t, asks t ∧ taken t ∧ still t ∧
          let pc : Word := BitVec.ofNat 64 (fld (c.hent.getD 31 0) 0 32)
          t.thread core slot = { occ := .message, level := .S, pc := pc, cameFrom := pc - 4, prio := 7, resume := m.ctx
                                 sx := Vector.ofFn fun i => word i, ctxid := BitVec.ofNat 64 slot, bindStamp := s.steps, oclaim := th.oclaim
                                 since := some s.steps } ∧
          (t.core core).resv = c.resv.filter (fun x => x.slot != some slot)) ∧
        (th.occ ≠ .free → th.watchdog ≠ none → others → asks s) ∧
        (th.occ ≠ .free → th.level = .T → th.watchdog = none → (∀ e j, th.wait = .retiring e j → e = .done ∧ j = none) →
          (∀ rd n a b, th.wait ≠ .kill rd n a b) → (∀ rd v, th.wait ≠ .gamo rd v) →
          let own := c.slices.filter fun x => x.slot == slot
          (kind = 1 → th.post = false → ∃ t, asks t ∧ taken t ∧ still t ∧ (t.thread core slot).wait = .retiring .discarded none ∧
            { t.thread core slot with wait := th.wait, watchdog := th.watchdog } = th) ∧
          (¬(kind = 1 ∧ th.post = false) → th.wait = .slices →
            (∀ x ∈ own, x.started = true ∨ x.released = true) → others → asks s) ∧
          (∀ pre x post, ¬(kind = 1 ∧ th.post = false) → th.wait = .slices → own = pre ++ x :: post → (∀ y ∈ pre, y.started = true) →
            x.started = false → x.released = false → ∃ t, asks t ∧ still t ∧ (t.core core).inbox = c.inbox ∧
            (t.core core).slices = c.slices.filter (fun y => !(y.slot == slot && !y.started)) ∧
            t.thread core slot = { th with sstart := BitVec.ofNat 64 x.num
                                           wait := if (own.any fun y => y.started && !y.released) then .slices else .none }) ∧
          (¬(kind = 1 ∧ th.post = false) → th.wait ≠ .slices → (∀ e j, th.wait ≠ .retiring e j) → own ≠ [] → others → asks s) ∧
          (¬(kind = 1 ∧ th.post = false) → th.wait ≠ .slices → (th.wait = .retiring .done none ∨ own = []) → ∃ t, asks t ∧ taken t ∧ still t ∧
            let z := t.thread core slot
            z.level = .S ∧ z.pc = c.evec ∧ z.ecause = 0x16 ∧ z.eval = word 0 ∧ z.eval2 = word 1 ∧ z.epc = th.pc ∧ bit z.estat 1 = true ∧
              bit z.estat 2 = (th.occ == .task && !th.post) ∧ z.wait = .none ∧ z.x = th.x ∧ z.sx = th.sx ∧
              z.estart = (match th.restart with | some i => BitVec.ofNat 64 i | none => th.estart))) ∧
        (th.occ ≠ .free → th.level = .T → (∃ rd n a b, th.wait = .kill rd n a b) ∨ (∃ rd v, th.wait = .gamo rd v) → others → asks s))) ∧
    -- resumption
    (∀ (i : Nat) (sv : Saved), w.saved[i]? = some sv →
      let asks (t : State) : Prop := exec (.resumeSend tw i core slot) s = .next t
      let res := (s.resOf tw sv).1
      let saved := (s.resOf tw sv).2
      let size := sv.info.psize
      ∀ l, look w.launches sv.info.launch = some l →
      let may : Prop := w.lfrz = false ∧ sv.sent = none ∧ s.present core = true ∧ s.takesWork core = true ∧
        (if res = 0 then (recSelects l.record tw core = true ∧ bit (l.record.getD 2 0) (32 + s.clsOf core) = true ∧ s.clsOf core < 8 ∧
            s.sameCode sv l core = true) else core = sv.core) ∧
        sv.groups ≤ pop4 (s.groupMask core) ∧ (res = 0 ∧ saved = 0 ∨ s.clsOf core ≤ 1) ∧
        th.occ = .free ∧ (∀ x ∈ c.resv, x.slot ≠ some slot) ∧
        (c.resv.filter fun x => x.slot.isNone).length < ((List.range 4).filter fun k =>
          (s.thread core k).occ = .free ∧ ∀ x ∈ c.resv, x.slot ≠ some k).length ∧
        sv.groups ≤ pop4 (unheld (s.groupMask core) c.lpart) - (c.resv.map Resv.groups).foldl (· + ·) 0 ∧
        c.xb.toNat ≤ sv.info.pbase ∧ sv.info.pbase + size ≤ 0x80000 ∧
        ∀ x ∈ s.usedRanges core, ¬(size ≠ 0 ∧ x.2 ≠ 0 ∧ sv.info.pbase < x.1 + x.2 ∧ x.1 < sv.info.pbase + size)
      (¬may → asks s) ∧
      (may → ∃ t, asks t ∧ (t.tower tw).saved[i]? = some { sv with sent := some (core, slot) } ∧
        (∃ m, (t.core core).net = c.net ++ [m] ∧ m.chan = 31 ∧ m.ctx = some sv.ctx ∧ fld (m.words.getD 0 0) 0 4 = slot ∧
          fld (m.words.getD 0 0) 4 4 = 2 ∧ m.words.getD 1 0 = sv.block) ∧
        (∃ v, (t.core core).resv = c.resv ++ [v] ∧ v.slot = some slot ∧ v.groups = sv.groups ∧ v.pbase = sv.info.pbase ∧ v.psize = size) ∧
        (∀ n k : Nat, k < 4 → t.thread n k = s.thread n k))) ∧
    -- the watchdog
    (∀ cycles : Word,
      let asks (t : State) : Prop := exec (.watchdogExpire core slot cycles) s = .next t
      let passed : Nat := match th.since with | some f => Config.cyclesTo s.steps - Config.cyclesTo f | none => 0
      let due : Prop := w.wdog ≠ 0 ∧ w.wdog ≤ cycles.toNat ∧ th.occ ≠ .free ∧ th.level = .T ∧
        cycles.toNat = min (th.counted + passed) (2 ^ 64 - 1)
      let own := c.slices.filter fun x => x.slot == slot
      (¬due ∨ (∃ f, th.wait = .suspended f) ∨ (∃ e j, th.wait = .retiring e (some j)) ∨ (∃ e, th.wait = .retiring e none ∧ e ≠ .done) → asks s) ∧
      (due → th.wait = .retiring .done none → s.leaveWaits core slot = false → asks s) ∧
      (due → th.wait = .slices → ∃ t, asks t ∧ still t ∧
        (t.core core).slices = c.slices.filter (fun y => !(y.slot == slot && !y.started)) ∧
        { t.thread core slot with wait := th.wait, sstart := th.sstart } = { th with watchdog := some cycles } ∧
        (∀ pre x post, own = pre ++ x :: post → (∀ y ∈ pre, y.started = true) → x.started = false →
          (t.thread core slot).sstart = BitVec.ofNat 64 x.num ∧
          (t.thread core slot).wait = if (own.any fun y => y.started && !y.released) then .slices else .none)) ∧
      (due → (∃ rd n a b, th.wait = .kill rd n a b) ∨ (∃ rd v, th.wait = .gamo rd v) → ∃ t, asks t ∧ still t ∧
        t.thread core slot = { th with watchdog := some cycles }) ∧
      (due → (∀ f, th.wait ≠ .suspended f) → (∀ rd n a b, th.wait ≠ .kill rd n a b) → (∀ rd v, th.wait ≠ .gamo rd v) → th.wait ≠ .slices →
        (∀ e j, th.wait ≠ .retiring e j) → own ≠ [] → ∃ t, asks t ∧ still t ∧ t.thread core slot = { th with watchdog := some cycles }) ∧
      (due → (∀ f, th.wait ≠ .suspended f) → (∀ rd n a b, th.wait ≠ .kill rd n a b) → (∀ rd v, th.wait ≠ .gamo rd v) → th.wait ≠ .slices →
        (∀ e j, th.wait = .retiring e j → e = .done ∧ j = none ∧ s.leaveWaits core slot = true) →
        ((∀ e j, th.wait ≠ .retiring e j) → own = []) → ∃ t, asks t ∧ still t ∧
        let z := t.thread core slot
        z.level = .S ∧ z.pc = c.evec ∧ z.ecause = 0x13 ∧ z.eval = 0 ∧ z.eval2 = cycles ∧ z.epc = th.pc ∧ bit z.estat 1 = false ∧
          z.wait = .none ∧ z.x = th.x ∧ z.estart = (match th.restart with | some i => BitVec.ofNat 64 i | none => th.estart)))

/-! ### Driver and firmware -/

/-- A fault record enters its ring with its sequence number; an answer that names it frees its requester or delivers the
failure. TINV drops the cached entries it covers; KSEL loads and erases keys, the older write to a key first, and sets TLOST
where R391 ignores it. LFRZ, snapshots, BRETRY, the code-heap registers and FCLR; the fields of the control block that a write
changes; core registers that a CSR write and the window share (R9, R25, R58 to R60, R259, R303, R321, R325, R369, R372 to R375,
R379, R385 to R388, R391, R398, R401, R409). A frozen tower's enqueues and layer resets are made at the end of the freeze. Writers of
each register, what firmware's writes change, key order, the snapshot's bytes, join answers and peer descriptors follow the model's
readings (logs 29, 39, 42, 49, 56), and so do the failed translation of an ordered VAMO (log 43), the layer resets that wait for the end of
a freeze (log 23), and that a step whose condition does not hold changes nothing (log 9). -/
def Obligations.ControlBlock : Prop :=
  ∀ (s : State) (tw : Nat) (v : Word), tw < 2 →
    let w := s.tower tw
    let only (t : State) (x : Tower) : Prop := t.tower tw = x ∧ (∀ n, n ≠ tw → t.tower n = s.tower n) ∧ { t with towers := s.towers } = s
    let sets (i : Instr) (x : Tower) : Prop := ∃ t, exec i s = .next t ∧ only t x
    let next := (w.fqtail + 1) % 32768
    -- the fault queue
    (w.heldFaults = [] ∨ next = w.fqhead → s.becomes (.faultRecordWrite tw) s) ∧
    (∀ r rest, w.heldFaults = r :: rest → next ≠ w.fqhead → ∃ t r1, exec (.faultRecordWrite tw) s = .next t ∧
      look (t.tower tw).faults w.fqtail = some r1 ∧ (t.tower tw).fqtail = next ∧ (t.tower tw).heldFaults = rest ∧
      r1.w0 = r.w0 ∧ r1.w2 = r.w2 ∧ r1.w3 = r.w3 ∧ r1.who = r.who ∧ fld r1.w1 0 32 = fld r.w1 0 32 ∧
      fld r1.w1 32 32 = w.fseq % 2 ^ 32 ∧ (t.tower tw).fseq = w.fseq + 1 ∧
      (∀ i, i ≠ w.fqtail → look (t.tower tw).faults i = look w.faults i) ∧
      t.msix = (if w.fqtail = w.fqhead then [(tw, s.steps)] else []) ++ s.msix) ∧
    (∃ t, exec (.fqheadWrite tw v) s = .next t ∧ (t.tower tw) = { w with fqhead := fld v 0 15 } ∧
      t.msix = (if w.fqtail = fld v 0 15 then [] else [(tw, s.steps)]) ++ s.msix) ∧
    (let idx := fld v 0 15
     let answers (t : State) : Prop := exec (.fqansWrite tw v) s = .next t
     ((∀ r, look w.faults idx = some r → r.answered = true ∨ r.seq ≠ fld v 32 32) → answers s) ∧
     (∀ r, look w.faults idx = some r → r.answered = false → r.seq = fld v 32 32 →
       let done (t : State) : Prop := (look (t.tower tw).faults idx).map FaultRec.answered = some true
       (∀ n k f, r.who = .thread n k → k < 4 → n < coreCount → (s.thread n k).wait = .suspended f →
         (bit v 16 = false → ∃ t, answers t ∧ done t ∧ t.thread n k = { s.thread n k with wait := .none, since := some s.steps }) ∧
         (bit v 16 = true → (s.thread n k).level = .T → ∃ t, answers t ∧ done t ∧
           let z := t.thread n k
           z.level = .S ∧ z.pc = (s.core n).evec ∧ z.ecause = (if f.vamo then 0xD else 7) ∧ z.epc = (s.thread n k).pc ∧
             z.eval = BitVec.ofNat 64 f.va ∧ z.eval2 = (if f.vamo then 7 else 0) ∧ bit z.estat 3 = true ∧ bit z.estat 4 = f.write ∧
             fld z.estat 5 3 = f.strm % 8 ∧ z.wait = .none ∧ z.x = (s.thread n k).x)) ∧
       (∀ cl q stamp i c, r.who = .engine cl q stamp → q < 8 → (s.queueOf cl q)[i]? = some c → c.stamp = stamp → c.paused = true →
         (∀ e ∈ (s.queueOf cl q).take i, e.stamp ≠ stamp) → bit v 16 = false → ∃ t, answers t ∧ done t ∧
           t.queueOf cl q = (s.queueOf cl q).set i { c with paused := false }))) ∧
    -- invalidation
    sets (.tinvWrite tw v) (if fld v 60 2 = 3 ∨ w.tinv ≠ none then { w with tlost := true }
      else { w with tinv := some (fld v 60 2, fld v 52 8, fld v 16 36) }) ∧
    (w.tinv = none → s.becomes (.tinvComplete tw) s) ∧
    (∀ scope asn vpn, w.tinv = some (scope, asn, vpn) → ∃ t, exec (.tinvComplete tw) s = .next t ∧
      let covers (a base size : Nat) : Bool := scope != 0 && scope != 1 || a == asn && (scope == 1 ||
        decide (base ≤ vpn * 65536 ∧ vpn * 65536 < base + size))
      let kept (es : List TlbEntry) : List TlbEntry := es.filter fun e => !covers e.asn e.base e.size
      t.tower tw = { w with tinv := none, tables := w.tables.filter fun e => !covers e.asn e.base e.size } ∧
      (∀ n, n ≠ tw → t.tower n = s.tower n) ∧
      (∀ n, t.cluster n = if n / 160 = tw then
          { s.cluster n with tlb := kept (s.cluster n).tlb, coreTlb := (s.cluster n).coreTlb.map kept }
        else s.cluster n) ∧
      { t with clusters := s.clusters, towers := s.towers } = s) ∧
    -- keys
    (let kid := fld v 0 10
     let lost : Prop := kid = 0 ∨ bit v 16 = true ∧ bit v 17 = true ∨ w.kop ≠ none
     let taken (k : Option (BitVec 512)) : Tower := if lost then { w with tlost := true }
       else { w with ksel := fld (v &&& 0x303FF) 0 18, key := 0, kstamp := s.steps, kop := some (kid, k) }
     (bit v 16 = true → sets (.keyLoad tw v) (taken (some w.key))) ∧ (bit v 16 = false → s.becomes (.keyLoad tw v) s) ∧
     (bit v 17 = true → (lost ∨ bit v 16 = false) → sets (.keyErase tw v) (taken none)) ∧
     (bit v 17 = false → s.becomes (.keyErase tw v) s)) ∧
    (w.kop = none → s.becomes (.keyOperationDone tw) s) ∧
    (∀ kid k, w.kop = some (kid, k) →
      let first : Prop := ∃ k2, (s.tower (1 - tw)).kop = some (kid, k2) ∧ (s.tower (1 - tw)).kstamp < w.kstamp
      (first → s.becomes (.keyOperationDone tw) s) ∧
      (¬first → ∃ t, exec (.keyOperationDone tw) s = .next t ∧ t.tower tw = { w with kop := none } ∧ look t.keys kid = k ∧
        (∀ j, j ≠ kid → look t.keys j = look s.keys j) ∧ { t with towers := s.towers, keys := s.keys } = s)) ∧
    -- freeze and snapshot
    (bit v 0 = true → sets (.lfrzWrite tw v) { w with lfrz := true }) ∧
    (bit v 0 = false → (w.held = [] → w.heldResets = [] → sets (.lfrzWrite tw v) { w with lfrz := false }) ∧
      (∀ q asn at_ r, w.held = [(q, asn, at_, r)] → w.heldResets = [] → q < 64 → (w.queues.getD q {}).ring.length < 64 →
        ∃ t, exec (.lfrzWrite tw v) s = .next t ∧ (t.tower tw).lfrz = false ∧ (t.tower tw).held = [] ∧
          ((t.tower tw).queues.getD q {}).ring = (w.queues.getD q {}).ring ++ [{ record := r, asn := asn, stamp := at_ }]) ∧
      ∀ gl, w.held = [] → w.heldResets = [gl] → gl / 8 = tw → ∃ u, u.tower tw = { w with lfrz := false, heldResets := [] } ∧
        (∀ n, n ≠ tw → u.tower n = s.tower n) ∧ u.layer gl = { s.layer gl with lrst := false } ∧
        (∀ n, n ≠ gl → u.layer n = s.layer n) ∧ { u with towers := s.towers, layers := s.layers } = s ∧
        exec (.lfrzWrite tw v) s = exec (.lrstWrite tw (BitVec.ofNat 64 (2 ^ (gl % 8)))) u) ∧
    sets (.snapshotGo tw v) (if w.snapGo then w else { w with snapc := fld v 0 12, snapGo := bit v 12 }) ∧
    (let n := coreOfId w.snapc
     let quiet : Prop := (s.core n).slices = [] ∧ ∀ k < 4, (s.thread n k).wait ≠ .slices ∧ (∀ rd c a b, (s.thread n k).wait ≠ .kill rd c a b) ∧
       ∀ rd x, (s.thread n k).wait ≠ .gamo rd x
     (w.snapGo = false ∨ ¬quiet → s.becomes (.snapshotDone tw) s) ∧
     (w.snapGo = true → quiet → ∃ t, exec (.snapshotDone tw) s = .next t ∧ only t { w with snapGo := false, snap := (t.tower tw).snap } ∧
       let img (o len : Nat) : Nat := leNat ((List.range len).map fun i => memGet (t.tower tw).snap (o + i))
       let up : Prop := (s.layer (layerOf n)).season ≠ .winter ∧ (s.layer (layerOf n)).season ≠ .inReset
       img 0x8000 8 = (s.core n).lpart.toNat % 2 ^ 44 &&& (if s.clsOf n = 1 ∨ s.clsOf n = 3 then 0x30F33333333 else 0xFFFFFFFFFFF) ∧
       img 0x8008 8 = (s.core n).town.toNat ∧ img 0x8010 8 = (s.core n).lown.toNat ∧ img 0x8018 8 = (s.core n).xb.toNat ∧
       img 0x8020 8 = (s.core n).ovh.toNat ∧ img 0x8028 8 = (s.core n).evec.toNat ∧ img 0x8130 8 = 0 ∧
       ∀ k < 4, let th := s.thread n k
         let b := 0x2000 * k
         img b 8 = (1 + fld th.ctxid 0 7 * 2 ^ 16 + s.lanesOf n k * 2 ^ 32 + th.prio * 2 ^ 40) % 2 ^ 64 ∧
         (¬up ∨ th.occ = .free → img (b + 0x38) 8 = 0 ∧ img (b + 0x140) 0x1EC0 = 0 ∧
           ∀ r : Fin 32, img (b + 0x40 + 8 * r) 8 = if r = 0 then 0 else th.x[r].toNat) ∧
         (up → th.occ ≠ .free → img (b + 0x38) 1 = (match th.wait with
             | .suspended _ => 4
             | _ => if th.level = .S then 3 else if th.post then 2 else 1) ∧ img (b + 0x140) 8 = th.pc.toNat ∧
           (∀ r : Fin 32, img (b + 0x40 + 8 * r) 8 = if r = 0 ∨ th.occ = .message then 0 else th.x[r].toNat) ∧
           (th.level = .S → (∀ j : Fin 4, img (b + 0x1E0 + 8 * j) 8 = th.sx[j].toNat) ∧ img (b + 0x380) 8 = th.epc.toNat ∧
             img (b + 0x388) 8 = th.ecause.toNat)))) ∧
    -- further registers of the control block
    sets (.bretryWrite tw v) { w with bretry := bit v 0, boot := { w.boot with retry := w.boot.retry || bit v 0 } } ∧
    sets (.codeHeapWrite tw v) (if ∃ o ∈ w.objects, ∃ f ∈ o.funcs, f.place ≠ none then w
      else { w with chb := fld v 12 7, stbn := max (fld v 20 6) 1 }) ∧
    (∃ t, exec (.fclrWrite tw) s = .next t ∧
      (∀ n, t.cluster n = if n / 160 = tw then { s.cluster n with cflags := 0 } else s.cluster n) ∧
      (∀ n, t.layer n = if n / 8 = tw then { s.layer n with lflags := 0 } else s.layer n) ∧
      { t with clusters := s.clusters, layers := s.layers } = s) ∧
    (let at_ (fw : Bool) (o : Nat) : Instr := .registerWrite tw fw (BitVec.ofNat 64 o) v
     let link : Prop := (s.tower 0).bootStep ≠ 21
     (∀ fw o, o < 2 ^ 64 → o % 8 ≠ 0 → s.becomes (at_ fw o) s) ∧ (¬link → ∀ o, s.becomes (at_ false o) s) ∧
     (∀ o, o < 0x1000 ∨ 0x2000 ≤ o ∧ o < 0x10000 ∨ 0x12200 ≤ o ∧ o < 2 ^ 32 → s.becomes (at_ false o) s) ∧
     s.becomes (at_ false 0x1000) s ∧ s.becomes (at_ false 0x1038) s ∧ s.becomes (at_ false 0x1040) s ∧
     -- what only firmware may write
     sets (at_ true 0x18) { w with otherPresent := bit v 1 } ∧
     sets (at_ true 0x1000) { w with wdog := fld v 0 48 } ∧ sets (at_ true 0x1038) { w with injen := bit v 0 } ∧
     (bit v 0 = true → exec (at_ true 0x1040) s = exec (.fclrWrite tw) s) ∧ (bit v 0 = false → s.becomes (at_ true 0x1040) s) ∧
     sets (at_ true 0x1048) { w with fqtail := fld v 0 15 } ∧ sets (at_ true 0x300048) { w with widle := fld v 0 32 } ∧
     (∃ t, exec (at_ true 0x2208) s = .next t ∧ { t with layers := s.layers } = s ∧
       (∀ l < 8, t.layer (8 * tw + l) = { s.layer (8 * tw + l) with fenced := bit v l }) ∧ ∀ g, g / 8 ≠ tw → t.layer g = s.layer g) ∧
     (∀ q < 64, ∃ t, exec (at_ true (0x12000 + 8 * q)) s = .next t ∧ (t.tower tw).queues.getD q {} =
       { w.queues.getD q {} with refs := fld v 8 16, cause := fld v 24 8, ovf := bit v 32 }) ∧
     (∀ i < 9, sets (at_ true (0x300400 + 8 * i)) { w with counters := w.counters.set! i v }) ∧
     (∀ i < 0x80000, sets (at_ true (0x400000 + 8 * i)) { w with maps := put w.maps (8 * i) v } ∧
       ∀ t, exec (at_ true (0x400000 + 8 * i)) s = .next t → t.windowRead tw (0x400000 + 8 * i) = v) ∧
     (∀ i < 256, sets (at_ true (0x14000 + 8 * i)) { w with leases := (w.leases.filter fun l => l.1 != i) ++
       (if bit v 0 then [(i, coreOfId (fld v 1 12), fld v 13 2)] else []) }) ∧
     (∀ fw, fw = true ∨ link → exec (at_ fw 0x1008) s = exec (.codeHeapWrite tw v) s ∧ exec (at_ fw 0x1018) s = exec (.lfrzWrite tw v) s ∧
       exec (at_ fw 0x1020) s = exec (.snapshotGo tw v) s ∧ exec (at_ fw 0x1028) s = exec (.lrstWrite tw v) s ∧
       exec (at_ fw 0x1050) s = exec (.fqheadWrite tw v) s ∧ exec (at_ fw 0x1058) s = exec (.fqansWrite tw v) s ∧
       exec (at_ fw 0x1060) s = exec (.tinvWrite tw v) s ∧ exec (at_ fw 0x1078) s = exec (.bretryWrite tw v) s ∧
       (bit v 16 = true → exec (at_ fw 0x1070) s = exec (.keyLoad tw v) s) ∧
       (bit v 17 = true → exec (at_ fw 0x1070) s = exec (.keyErase tw v) s) ∧
       sets (at_ fw 0x1010) { w with pdly := fld v 0 32 } ∧ sets (at_ fw 0x1030) { w with aperr := w.aperr && !bit v 0 } ∧
       sets (at_ fw 0x1068) { w with tlost := w.tlost && !bit v 1 } ∧
       (∀ i < 8, sets (at_ fw (0x1100 + 8 * i)) { w with key := putFld w.key (64 * i) 64 v.toNat }) ∧
       (∀ i < 8, ∃ t, exec (at_ fw (0x1300 + 8 * i)) s = .next t ∧ ∀ q < 64, (t.tower tw).qas.getD q 0 =
         if 8 * i ≤ q ∧ q < 8 * i + 7 then fld v (8 * (q - 8 * i)) 8 else w.qas.getD q 0) ∧
       (∀ i < 128, ∃ t, exec (at_ fw (0x1400 + 8 * i)) s = .next t ∧ ∀ g, look (t.tower tw).hkey g =
         if 4 * i ≤ g ∧ g < 4 * i + 4 then some (fld v (16 * (g - 4 * i)) 10) else look w.hkey g) ∧
       (∀ a < 256, ∃ t, exec (at_ fw (0x1800 + 8 * a)) s = .next t ∧ ∀ b, look (t.tower tw).asd b =
         if b = a then some (v &&& 0x03FF_FFFF_FFFF_0001#64) else look w.asd b) ∧
       (∀ q i, q < 64 → i < 15 → ∃ t, exec (at_ fw (0x10000 + 128 * q + 8 * i)) s = .next t ∧
         (t.tower tw).staged.getD q (Vector.replicate 16 0) = (w.staged.getD q (Vector.replicate 16 0)).set! i v) ∧
       (link → ∀ q < 64, exec (at_ fw (0x10078 + 128 * q)) s = exec (.hostEnqueue tw q v) s) ∧
       (∀ i < 64, ∃ t, exec (at_ fw (0x100000000 + 8 * i)) s = .next t ∧ ∀ j, look (t.tower tw).peers j =
         if j = i then (if bit v 0 then some (fld v 1 10, fld v 40 8 * 2 ^ 40) else none) else look w.peers j)) ∧
     (link → ∀ q < 64, ∃ t, exec (at_ false (0x12000 + 8 * q)) s = .next t ∧ (t.tower tw).queues.getD q {} =
       { w.queues.getD q {} with ovf := (w.queues.getD q {}).ovf && !bit v 32 })) ∧
    (∃ t, exec (.firmwareMailboxRequest tw 0 v) s = .next t ∧ only { t with msix := s.msix } { w with widle := fld v 0 32 } ∧
      t.msix = (3, s.steps) :: s.msix) ∧
    s.becomes (.firmwareMailboxRequest tw 1 v) { s with pkg := fld v 0 10, msix := (3, s.steps) :: s.msix } ∧
    -- core registers
    (∀ n k q : Nat, n < coreCount → k < 4 → q < 8 →
      let c := s.core n
      let core (i : Instr) (x : Core) : Prop := ∃ t, exec i s = .next t ∧ t.core n = x ∧ (∀ m, m ≠ n → t.core m = s.core m) ∧ s.coresOnly t
      core (.bkeyWrite n v) { c with bkey := v } ∧
      ((s.tower (towerOf n)).injen = false → s.becomes (.einjWrite n v) s) ∧
      ((s.tower (towerOf n)).injen = true → core (.einjWrite n v) { c with einj := v &&& 0xFFFFFF7F }) ∧
      (∃ t, exec (.lpartWrite n v) s = .next t ∧ t.core n = { c with lpart := (t.core n).lpart } ∧ s.coresOnly t ∧
        ∀ i < 64, bit (t.core n).lpart i = if 16 ≤ i ∧ i < 44 ∧ bit (lpartBits (s.groupMask n)) i = true then bit v i else bit c.lpart i) ∧
      (∀ l, c.zeroing ≠ [] → s.becomes (.ownerWrite n l v) s) ∧
      (c.zeroing = [] → core (.ownerWrite n false v) { c with town := v } ∧
        core (.ownerWrite n true v) { c with lown := v &&& 0xFFFFFFFF }) ∧
      (let busy : Prop := ∃ e ∈ s.queueOf (clusterOf n) q, e.wm = true ∧ e.core = n ∧ e.slot = k
       (busy → s.becomes (.wmWrite n k q v) s) ∧
       (¬busy → ∃ t, exec (.wmWrite n k q v) s = .next t ∧ s.coresOnly t ∧ t.thread n k = { s.thread n k with
         wm := (s.thread n k).wm.set! q v, rewound := (s.thread n k).rewound.set! q none })) ∧
      (let unit := fld v 0 4
       let before := if unit < 12 then c.ownerByte unit else 0
       let act : Prop := unit < 12 ∧ (bit v 15 = true ∧ 128 ≤ before ∧ before - 128 = fld v 16 7 ∨ bit v 15 = false ∧ before < 128)
       (unit ∈ c.zeroing → s.becomes (.oclaimWrite n k v) s) ∧
       (unit ∉ c.zeroing → ∃ t, exec (.oclaimWrite n k v) s = .next t ∧ s.coresOnly t ∧
         (t.thread n k).oclaim = BitVec.ofNat 64 (before + if act then 256 else 0) ∧
         ∀ x < 12, (t.core n).ownerByte x = if act ∧ x = unit then 128 + fld v 8 7 else c.ownerByte x)))

/-- Seasons: a Summer layer falls to Autumn after 4,096 idle cycles and, empty for WIDLE microseconds, to Winter; Spring ends,
and a stale replica is current again, with the copy of the base mirror. The power manager reports, halves a duty over a limit
and undoes it. A reset of a layer, a tower or the package clears what R376 says and keeps the rest. Each boot step writes its
marks, takes the path of R398 and leaves what R396 says, the tests of a bring-up giving each core its class. A lost port is a machine
check when it is the last (R241, R296, R373, R374, R376, R377, R390, R394, R396 to R401, R409). What a package and a tower reset keep
beyond R376 is the model's (logs 2, 77). Defects, boot paths, the power manager and layer resets beyond the rules follow logs 6, 35, 36
and 37; durations log 7; a layer reset under a freeze log 23; that a step whose condition does not hold changes nothing log 9. -/
def Obligations.PowerAndReset : Prop :=
  ∀ (s : State) (tw gl : Nat), tw < 2 → gl < 16 →
    let w := s.tower tw
    let l := s.layer gl
    let layer (t : State) (x : Layer) : Prop := t.layer gl = x ∧ ∀ n, n ≠ gl → t.layer n = s.layer n
    let awake : Prop := l.season = .summer ∨ l.season = .autumn
    let sole : Prop := (s.cores.map Prod.fst).Nodup ∧ (s.clusters.map Prod.fst).Nodup
    let empty (g : Nat) : Prop := (∀ n, layerOf n = g → (s.core n).inbox = [] ∧ ∀ k < 4, (s.thread n k).occ = .free) ∧
      ∀ c, c / 20 = g → ∀ j : Fin 8, (s.cluster c).queues[j] = []
    let noJobs : Prop := ∀ x < 2, ∀ p ∈ (s.tower x).jobs, p.2.power ≠ some gl
    let warm : Prop := ∀ c ∈ (s.tower (gl / 8)).coldStubs, layerOf c ≠ gl
    let alone : Prop := noJobs ∧ warm ∧ ∀ n k : Nat, k < 4 → ∀ how j, (s.thread n k).wait = .retiring how (some j) → j.power ≠ some gl
    let rep := layerAperture gl + 0x30000000
    let mirror := mirrorBase (gl / 8)
    -- seasons
    (s.layerEmpty gl = true → empty gl) ∧ (sole → empty gl → s.layerEmpty gl = true) ∧
    (let due : Prop := l.season = .summer ∧ 4096 ≤ Config.cyclesTo s.steps - Config.cyclesTo l.lastIssue
     (¬due → s.becomes (.autumnEntry gl) s) ∧
     (due → ∃ t, exec (.autumnEntry gl) s = .next t ∧ layer t { l with season := .autumn } ∧ { t with layers := s.layers } = s)) ∧
    (let home := s.tower (gl / 8)
     let due : Prop := awake ∧ home.widle ≠ 0 ∧ home.widle ≤ l.idle ∧ s.layerEmpty gl = true
     (¬due → s.becomes (.winterEntry gl) s) ∧
     (due → ∃ t, exec (.winterEntry gl) s = .next t ∧ layer t { l with season := .winter, powered := false, idle := 0 } ∧
       t.tower (gl / 8) = { home with leases := home.leases.filter fun x => layerOf x.2.1 != gl } ∧ s.sameMemory t ∧
       ∀ n, t.core n = s.core n)) ∧
    (l.season ≠ .spring → s.becomes (.powerUpDone gl) s) ∧
    (l.season = .spring → alone → ∃ t, exec (.powerUpDone gl) s = .next t ∧ layer t { l with powered := true } ∧
      { t with layers := s.layers } = s) ∧
    -- what waited for power goes on
    (∀ n k how j, sole → l.season = .spring → noJobs → warm → k < 4 → n < coreCount → (s.thread n k).wait = .retiring how (some j) →
      j.power = some gl → ∃ t, exec (.powerUpDone gl) s = .next t ∧ layer t { l with powered := true } ∧
        t.thread n k = { s.thread n k with wait := .retiring how (some j.ready) } ∧ s.sameMemory t) ∧
    (∀ n, let home := s.tower (gl / 8)
      l.season = .spring → noJobs → (∀ n k : Nat, k < 4 → ∀ how j, (s.thread n k).wait = .retiring how (some j) → j.power ≠ some gl) →
      home.coldStubs = [n] → layerOf n = gl → n < coreCount → Memory.wf s.mem = true → (home.allFuncs.map Func.stub).Nodup →
      home.chb * 4096 + 4096 * home.stbn ≤ 0x80000 → (∀ f ∈ home.allFuncs, f.stub < 1024 * home.stbn) →
      ∃ t, exec (.powerUpDone gl) s = .next t ∧ (t.tower (gl / 8)).coldStubs = [] ∧
        ∀ f ∈ home.allFuncs, t.bytes (privBase n + home.chb * 4096 + 4 * f.stub) 4 = leBytes 4 (home.stubWord n f)) ∧
    (let copies (t : State) : Prop := (∀ o < 0x2000000, t.byte (rep + o) = s.byte (mirror + o)) ∧
       (∀ b, ¬(rep ≤ b ∧ b < rep + 0x2000000) → t.byte b = s.byte b) ∧
       (∀ n k : Nat, k < 4 → (layerOf n ≠ gl ∨ ∀ rd v, (s.thread n k).wait ≠ .gamo rd (some v)) → t.thread n k = s.thread n k) ∧
       (∀ (n k : Nat) (rd : BitVec 5) (v : Word), k < 4 → n < coreCount → layerOf n = gl →
         (s.thread n k).wait = .gamo rd (some v) → (t.thread n k).wait = .none ∧ (t.thread n k).getX rd = (if rd = 0 then 0 else v) ∧
         (t.thread n k).pc = (s.thread n k).pc + 4)
     let clean : Prop := Memory.wf s.mem = true ∧ ∀ b, (rep ≤ b ∧ b < rep + 0x2000000 ∨ mirror ≤ b ∧ b < mirror + 0x2000000) →
       freshAt s.fresh b = none
     (¬(l.season = .spring ∧ l.powered = true) → s.becomes (.springEnd gl) s) ∧
     (l.season = .spring → l.powered = true → clean → alone → ∃ t, exec (.springEnd gl) s = .next t ∧ copies t ∧
       layer t { l with season := .summer, stale := false, idle := 0, lrst := (s.tower (gl / 8)).heldResets.contains gl }) ∧
     (¬(l.stale = true ∧ awake) → s.becomes (.replicaResyncEnd gl) s) ∧
     (l.stale = true → awake → clean → ∃ t, exec (.replicaResyncEnd gl) s = .next t ∧ copies t ∧ layer t { l with stale := false } ∧
       let counts (u : State) (i : Fin 9) : Word := (u.tower (gl / 8)).counters[i]
       (counts t 4).toNat = min ((counts s 4).toNat + 1) (2 ^ 64 - 1) ∧ ∀ i, i ≠ 4 → counts t i = counts s i)) ∧
    -- power
    (∀ est : List Nat, est.length = 8 →
      let at_ (t : State) (i : Nat) : Layer := t.layer (8 * tw + i)
      let sum := est.foldl (· + ·) 0
      let beyond : Prop := 12000 < sum ∨ ∃ e ∈ est, 1800 < e
      let below : Prop := 10 * sum < 9 * 12000 ∧ ∀ e ∈ est, 10 * e < 9 * 1800
      let passed (i : Nat) (x : Layer) : Layer :=
        let k := match x.season with | .autumn => 1 | .winter => 2 | .spring => 3 | _ => 0
        { x with lpwr := BitVec.ofNat 16 (est.getD i 0), busy := false
                 sres := if x.season = .inReset then x.sres else x.sres.set! k (x.sres.getD k 0 + 1), idle := (at_ s i).idle }
      let noted (t : State) : Prop := (t.tower tw).tpwr = sum % 2 ^ 16 ∧ (∀ n, n / 8 ≠ tw → t.layer n = s.layer n) ∧
        ∀ i < 8, (at_ t i).busy = false ∧ (at_ t i).idle =
          if w.bootStep = 20 ∧ ((at_ s i).season = .summer ∨ (at_ s i).season = .autumn) ∧ s.layerEmpty (8 * tw + i) = true ∧
            (at_ s i).busy = false then (at_ s i).idle + 1 else 0
      ∃ t, exec (.powerManagerTick tw est) s = .next t ∧ noted t ∧
        (¬beyond → ¬below ∨ w.plow < 9 → (t.tower tw).plow = (if below then w.plow + 1 else 0) ∧ (t.tower tw).psteps = w.psteps ∧
          ∀ i < 8, { at_ t i with idle := (at_ s i).idle } = passed i (at_ s i)) ∧
        (below → 9 ≤ w.plow → ∀ i rest, w.psteps = (1, i) :: rest → i < 8 → (t.tower tw).psteps = rest ∧
          (at_ t i).duty = (at_ s i).duty - 1) ∧
        (beyond → ∀ i < 8, (at_ s i).duty < 3 → (∀ j < 8, (at_ s j).duty < 3 → est.getD j 0 < est.getD i 0 ∨
            est.getD j 0 = est.getD i 0 ∧ i ≤ j) → (t.tower tw).plow = 0 ∧ (t.tower tw).psteps = (1, i) :: w.psteps ∧
          (at_ t i).duty = (at_ s i).duty + 1 ∧ ∀ j < 8, j ≠ i → (at_ t j).duty = (at_ s j).duty)) ∧
    -- resets
    (let v : Word := BitVec.ofNat 64 (2 ^ (gl % 8))
     let tl := gl / 8
     (l.season = .inReset ∨ l.lrst = true → s.becomes (.lrstWrite tl v) s) ∧
     (l.season ≠ .inReset → l.lrst = false → (s.tower tl).lfrz = true → ∃ t, exec (.lrstWrite tl v) s = .next t ∧
       layer t { l with lrst := true } ∧ t.tower tl = { s.tower tl with heldResets := (s.tower tl).heldResets ++ [gl] } ∧
       (∀ n, n ≠ tl → t.tower n = s.tower n) ∧ { t with towers := s.towers, layers := s.layers } = s) ∧
     (l.season ≠ .inReset → l.lrst = false → (s.tower tl).lfrz = false → s.fresh = [] → Memory.wf s.mem = true →
      ∃ t, exec (.lrstWrite tl v) s = .next t ∧
       (∀ n, layerOf n = gl → t.core n = {}) ∧ (∀ c, c / 20 = gl → t.cluster c = {}) ∧
       (∀ b, layerAperture gl ≤ b → b < layerAperture gl + 2 ^ 32 → t.byte b = 0) ∧
       (t.layer gl).season = .spring ∧ (t.layer gl).powered = false ∧ (t.layer gl).lrst = true ∧
       (∀ x ∈ (t.tower tl).leases, layerOf x.2.1 ≠ gl) ∧ (∀ g ∈ (t.tower tl).gpend, layerOf g.core ≠ gl) ∧
       (sole → (∀ n, layerOf n = gl → (s.core n).inbox = [] ∧ (s.core n).net = [] ∧ ∀ k < 4, (s.thread n k).occ ≠ .task) →
         (∀ x ∈ (s.tower tl).saved, layerOf x.core ≠ gl) → (∀ n, layerOf n ≠ gl → t.core n = s.core n) ∧
         (∀ b, ¬(layerAperture gl ≤ b ∧ b < layerAperture gl + 2 ^ 32) → t.byte b = s.byte b) ∧
         (t.tower tl).launches = (s.tower tl).launches) ∧
       (∀ n k i, sole → layerOf n = gl → k < 4 → (s.thread n k).occ = .task → (s.thread n k).task = some i → i.join = 0 →
         (∀ e j, (s.thread n k).wait ≠ .retiring e j) → (∀ m, layerOf m = gl → (s.core m).inbox = [] ∧ (s.core m).net = [] ∧
           ∀ j < 4, ¬(m = n ∧ j = k) → (s.thread m j).occ ≠ .task) → (∀ x ∈ (s.tower tl).saved, layerOf x.core ≠ gl) →
         ∀ x, look (s.tower tl).launches i.launch = some x → x.retired + 1 < x.count →
           look (t.tower tl).launches i.launch = some { x with retired := x.retired + 1 }))) ∧
    let cut (x : Tower) : BootRecord :=
      let b := x.boot
      let n := x.bootStep
      if 1 ≤ n ∧ n < 20 then { b with
        last := n, steps := b.steps.set! n { b.steps.getD n {} with beg := b.boot, btime := Config.beginTime s.steps } } else b
    (Memory.wf s.mem = true → ∃ t, exec (.towerReset tw) s = .next t ∧
      t.tower tw = { boot := cut w, counters := w.counters, mchecks := w.mchecks, mseq := w.mseq } ∧
      t.harvest = s.harvest.filter (fun p => towerOf p.1 != tw) ∧ t.defects = s.defects ∧
      (∀ n, towerOf n = tw → t.core n = {}) ∧ (∀ c, c / 160 = tw → t.cluster c = {}) ∧
      (∀ g, g / 8 = tw → t.layer g = { resetStep := s.steps }) ∧
      (∀ n, towerOf n ≠ tw → t.core n = s.core n) ∧ (∀ c, c / 160 ≠ tw → t.cluster c = s.cluster c) ∧
      (∀ g, g / 8 ≠ tw → t.layer g = s.layer g) ∧ (∀ n, n ≠ tw → t.tower n = s.tower n) ∧
      (∀ b < hbmEnd, t.mem.find? (fun c => c.1 == b) = s.mem.find? (fun c => c.1 == b)) ∧ t.keys = s.keys ∧ t.fuses = s.fuses) ∧
    (∃ t, exec .packageReset s = .next t ∧ (∀ n, t.core n = {}) ∧ (∀ n, t.cluster n = {}) ∧
      (∀ g < 16, t.layer g = { resetStep := s.steps }) ∧ (∀ n < 2, t.tower n = { boot := cut (s.tower n) }) ∧
      (∀ b < hostBase, Memory.wf s.mem = true → t.byte b = 0) ∧ t.keys = [] ∧ t.key0 = s.key0 + 1 ∧ t.poison = [] ∧
      t.fuses = s.fuses ∧ t.rootHash = s.rootHash ∧ t.harvest = [] ∧ t.defects = s.defects) ∧
    -- boot
    (∀ (ok : Bool) (time : BitVec 32),
      let n := w.bootStep
      let asks (t : State) : Prop := exec (.bootStep tw ok time) s = .next t
      let b : Half := if n = 0 then w.boot.boot + 1 else w.boot.boot
      let e := w.boot.steps.getD n {}
      let failed : Prop := b ≠ 0 ∧ e.beg = b - 1 ∧ (e.endb ≠ b - 1 ∨ e.fail = true)
      let optional : Prop := n ∈ [14, 16, 18]
      let other : Prop := n ∈ [1, 3, 6, 7, 8, 9, 10, 11, 12, 13, 17]
      let path : Option Nat :=
        if n = 15 ∧ tw = 1 then some 1 else if w.boot.retry then some 0
        else if failed ∧ e.path = 0 ∧ optional then some 1 else if failed ∧ e.path = 0 ∧ other then some 2
        else if failed ∧ ¬(optional ∧ e.path = 1) then none
        else if e.path = 1 ∨ e.path = 2 then some e.path else some 0
      (20 ≤ n → asks s) ∧
      (n < 20 → ∃ t, asks t ∧
        let x := t.tower tw
        let f := x.boot.steps.getD n {}
        x.boot.boot = b ∧ x.boot.last = n ∧ f.beg = b ∧ f.btime = time ∧ f.endb = b ∧ x.boot.retry = (w.boot.retry && n != 19) ∧
        (∀ j < 20, j ≠ n → x.boot.steps.getD j {} = w.boot.steps.getD j {}) ∧
        (path = none → f.fail = true ∧ x.bootStep = 21 ∧ (t.tower (1 - tw)).otherPresent = false ∧ x.boot.up = (n != 0 && w.boot.up)) ∧
        (∀ p, path = some p →
          let good : Prop := p = 1 ∨ ok = true ∧ (n = 1 → s.imageAccepted (Config.firmwareImage tw (if p = 2 then 1 else 0)) = true)
          f.path = p ∧
          (good → f.fail = false ∧ x.bootStep = n + 1 ∧
            (6 ≤ n → n ≤ 13 → let y := t.layer (8 * tw + (n - 6))
              f.detail = (if p = 2 then BitVec.ofNat 64 (2 ^ (n - 6)) else 0) ∧
              if p = 2 then y.fenced = true ∧ y.season = .inReset ∧ t.harvest = s.harvest
              else y.fenced = false ∧ y.season = .summer ∧ ∀ c, look t.harvest c =
                if layerOf c = 8 * tw + (n - 6) then (look s.defects c).map fun d =>
                  ⟨(if d.array then 2 else 0) + (if d.lowLanes || d.highLanes then 1 else 0), !(d.lowLanes && d.highLanes)⟩
                else look s.harvest c) ∧
            (n = 14 → x.otherPresent = (p == 0 && (s.tower (1 - tw)).bootStep != 21)) ∧
            (n = 16 → x.ports = if p = 0 then 15 else 0) ∧
            (n = 18 → t.fuses = if p = 0 then max s.fuses (min 64 (rdNat (s.bootImage tw) 9 1)) else s.fuses) ∧
            (n ≠ 18 → t.fuses = s.fuses) ∧ (n = 19 → x.boot.up = true)) ∧
          (¬good → f.fail = true ∧ t.fuses = s.fuses ∧ (optional → x.bootStep = n + 1) ∧
            (¬optional → x.bootStep = 21 ∧ (t.tower (1 - tw)).otherPresent = false))))) ∧
    -- ports
    (∀ p < 4, (bit w.ports p = false → s.becomes (.ualinkPortDown tw p) s) ∧
      (bit w.ports p = true → ∃ t, exec (.ualinkPortDown tw p) s = .next t ∧
        (∀ j < 4, bit (t.tower tw).ports j = (bit w.ports j && j != p)) ∧
        ((∃ j < 4, j ≠ p ∧ bit w.ports j = true) → (t.tower tw).mchecks = w.mchecks) ∧
        ((∀ j < 4, j ≠ p → bit w.ports j = false) → ∃ m, (t.tower tw).mchecks = (m :: w.mchecks).take 4096 ∧ m.src = 9)) ∧
      ∃ t, exec (.ualinkPortUp tw p) s = .next t ∧ (∀ j < 4, bit (t.tower tw).ports j = (bit w.ports j || j == p)) ∧
        t.tower tw = { w with ports := (t.tower tw).ports })

/-- Host accesses to HBM read and write under the key of their GiB and fail on an unloaded key or poison; accesses to an
aperture obey R362, a dropped write sets APERR, a refused read aborts, and a layer that is down is woken and waited for; peer
packages read, write and do atomics while a port is up. The loader admits objects and binds an entry to the lowest unbound
channel, or refuses its launch, and loads an object's data at their linked addresses when it accepts a record; the translator takes a
handler's request and answers with code and stub in place, 1 or 2 (R18,
R296, R332 to R336, R341, R342, R347 to R349, R362 to R365, R378, R389, R390, R398, R402, R405, R409). How a peer's access is laid out
is the model's (log 30), and so is the place of native code (log 27) and when a record counts as with the loader (log 74). Failed host
accesses, the object format, evictions, translations, data and the refusal of a record already dispatched follow logs 26, 28, 33, 34, 38,
75, 76 and 88; admission under a freeze log 23, hosts of a stopped tower logs 42 and 77, a step whose condition does not hold, which
changes nothing, log 9. -/
def Obligations.OutsideAndCode : Prop :=
  ∀ (s : State) (core slot tw : Nat), core < coreCount → slot < 4 → tw < 2 → Memory.wf s.mem = true →
    let w := s.tower tw
    let home := towerOf core
    let v := s.tower home
    let replies (t : State) (r : Option (List Byte)) : Prop := t.hostReply = r ∧ { t with hostReply := s.hostReply, layers := s.layers } = s
    let link : Prop := (s.tower 0).bootStep ≠ 21
    -- HBM from the host
    (∀ (address : Word) (data : List Byte) (length : Nat) (atomic : Bool),
      let a := address.toNat
      let n := if data = [] then length else data.length
      let asks (t : State) : Prop := exec (.hostMemAccess address data length atomic) s = .next t
      let kid := (look (s.tower (a / 2 ^ 38)).hkey (a / 2 ^ 30)).getD 0
      (hbmEnd < a + n ∨ ¬link → asks s) ∧
      (a + n ≤ hbmEnd → link → s.keyOf kid = none → asks { s with hostReply := none }) ∧
      (∀ key, a + n ≤ hbmEnd → link → s.keyOf kid = some key →
        ((data = [] ∨ atomic = true) → s.poisoned a n = true → asks { s with hostReply := none }) ∧
        (data = [] → s.poisoned a n = false → asks { s with hostReply := some (s.bytesKey key a n) }) ∧
        (data ≠ [] → (atomic = true → s.poisoned a n = false) → ∃ t, asks t ∧ t.bytesKey key a n = data ∧ s.sameOutside t key a n ∧
          t.hostReply = some (if atomic then s.bytesKey key a n else []) ∧
          (∀ b, a ≤ b → b < a + n → b / 65536 ∈ t.hostTouched) ∧ (∀ r ∈ s.hostTouched, r ∈ t.hostTouched) ∧
          ∀ m, t.core m = s.core m))) ∧
    -- apertures, from the host and from peers
    (let okay (write : Bool) (b : Nat) : Prop := match physKind b with
       | .hbm | .onsen _ | .cluster _ => True
       | .replica _ | .mirror _ => write = false
       | .priv n => privBase n + (s.core n).xb.toNat ≤ b
       | .peer _ | .host | .unmapped => False
     let dead (b n : Nat) : Prop := s.poisoned b n = true ∨ ∃ g, (physKind b = .replica g ∧ (s.tower (g / 8)).regionPoison = true) ∨
       physKind b = .mirror g ∧ (s.tower g).regionPoison = true
     let aperr (t : State) (b : Nat) : Prop := let x := (b - apertures) / 2 ^ 36 % 2
       t.tower x = { s.tower x with aperr := true } ∧ { t with towers := s.towers, layers := s.layers } = s
     (∀ (offset : Word) (data : List Byte) (length : Nat),
       let a := apertures + offset.toNat
       let n := if data = [] then length else data.length
       let asks (t : State) : Prop := exec (.hostApertureAccess offset data length) s = .next t
       let all (write : Bool) : Prop := ∀ i < n, okay write (a + i)
       (0x2000000000 < offset.toNat + n ∨ ¬link → asks s) ∧
       (offset.toNat + n ≤ 0x2000000000 → link →
         (s.outsideWaits a = true → ∃ t, asks t ∧ { t with layers := s.layers } = s) ∧
         (s.outsideWaits a = false →
           (data = [] → ¬all false → ∃ t, asks t ∧ replies t none) ∧
           (data ≠ [] → ¬all true → ∃ t, asks t ∧ aperr t a) ∧
           (data = [] → all false → dead a n → ∃ t, asks t ∧ replies t none) ∧
           (data = [] → all false → ¬dead a n → ∃ t, asks t ∧ replies t (some (s.bytes a n))) ∧
           (data ≠ [] → all true → ∃ t, asks t ∧ t.bytes a n = data ∧ t.hostReply = some [] ∧
             ∀ b, ¬(a ≤ b ∧ b < a + n) → t.byte b = s.byte b)))) ∧
     (∀ (address operand expected : Word) (kind : Nat),
       let a := address.toNat
       let asks (t : State) : Prop := exec (.ualinkPeerAccess address kind operand expected) s = .next t
       let key : KeyVal := .random s.key0
       let shown : Prop := match physKind a with
         | .onsen _ | .replica _ | .cluster _ | .priv _ | .mirror _ => True
         | .hbm | .peer _ | .host | .unmapped => False
       let old := leNat (s.bytesKey key a 8)
       let x := BitVec.ofNat 64 old
       let new : Nat := match kind with
         | 1 => operand.toNat
         | 2 => (x + operand).toNat
         | 3 => (x &&& operand).toNat
         | 4 => (x ||| operand).toNat
         | 5 => (x ^^^ operand).toNat
         | 6 => if operand.toInt < x.toInt then operand.toNat else old
         | 7 => if operand.toNat < old then operand.toNat else old
         | 8 => if x.toInt < operand.toInt then operand.toNat else old
         | 9 => if old < operand.toNat then operand.toNat else old
         | 10 => operand.toNat
         | 11 => if x = expected then operand.toNat else old
         | _ => (fAdd FP64 .rne old operand.toNat).1
       (((s.tower 0).ports = 0 ∧ (s.tower 1).ports = 0 ∨ a % 8 ≠ 0 ∨ 12 < kind) → asks s) ∧
       (¬((s.tower 0).ports = 0 ∧ (s.tower 1).ports = 0) → a % 8 = 0 → kind ≤ 12 → s.outsideWaits a = false →
         (kind = 0 ∨ ¬shown → ¬okay (kind != 0) a → ∃ t, asks t ∧ replies t none) ∧
         (kind = 1 → shown → ¬okay true a → ∃ t, asks t ∧ aperr t a) ∧
         (2 ≤ kind → shown → ¬okay true a → ∃ t, asks t ∧ t.hostReply = none ∧ aperr { t with hostReply := s.hostReply } a) ∧
         (kind ≠ 1 → okay (kind != 0) a → dead a 8 → ∃ t, asks t ∧ replies t none) ∧
         (kind = 0 → okay false a → ¬dead a 8 → ∃ t, asks t ∧ replies t (some (leBytes 8 old))) ∧
         (kind ≠ 0 → okay true a → (kind = 1 ∨ ¬dead a 8) → ∃ t, asks t ∧ t.bytesKey key a 8 = leBytes 8 new ∧
           s.sameOutside t key a 8 ∧ t.hostReply = some (if kind = 1 then [] else leBytes 8 old))))) ∧
    -- admission
    (∀ image : List Word,
      let img := image.flatMap fun x => leBytes 8 x.toNat
      let asks (t : State) : Prop := exec (.objectAdmit tw image) s = .next t
      (elfHeaderOk img = false → asks s) ∧ (s.admission tw img = .refused → asks s) ∧ (w.lfrz = true → asks s) ∧
      (∀ o, s.admission tw img = .version o → w.lfrz = false → o.purged = true ∧ o.portable = true ∧ o.sver < s.fuses ∧ ∃ t, asks t ∧
        t.tower tw = { w with objects := w.objects ++ [o] }) ∧
      (∀ o ps, s.admission tw img = .ok o ps → w.lfrz = false → o.purged = false ∧ (o.portable = true → s.fuses ≤ o.sver) ∧
        (o.portable = false → o.base + o.text.length ≤ w.chb * 4096) ∧ (∀ x ∈ w.objects, x.id ≠ o.id) ∧ ∃ t, asks t ∧
        (t.tower tw).objects = w.objects ++ [o] ∧ (∀ p ∈ ps, look w.pools p.1 = none) ∧
        (∀ j, (∀ p ∈ ps, p.1 ≠ j) → look (t.tower tw).pools j = look w.pools j) ∧ (o.funcs = [] → s.sameMemory t) ∧
        -- only stubs are written
        ((∀ x ∈ (w.objects ++ [o]).flatMap CodeObj.funcs, x.stub < 1024 * w.stbn) → ∀ b,
          (∀ n, ¬(privBase n + 4096 * w.chb ≤ b ∧ b < privBase n + 4096 * (w.chb + w.stbn))) → t.byte b = s.byte b))) ∧
    -- the loader
    (∀ obj entry level : Nat,
      let key := (core, obj, entry, level)
      let asks (t : State) : Prop := exec (.loaderBind core obj entry level) s = .next t
      let hent (t : State) (h : Nat) : Word := (t.core core).hent.getD h 0
      let bound (t : State) (h a : Nat) : Prop := hent t h = BitVec.ofNat 64 (a % 2 ^ 32 + level * 2 ^ 32 + 2 ^ 36) ∧
        (key, h) ∈ (t.tower home).binding ∧ (∀ b ∈ (t.tower home).binding, b.1.1 = core → b.2 = h → b.1 = key) ∧
        ∀ j, j ≠ h → hent t j = hent s j
      let counted (t : State) (q c : Nat) : Prop :=
        ((t.tower home).queues.getD q {}).cause = c ∧ ((t.tower home).queues.getD q {}).refs = min ((v.queues.getD q {}).refs + 1) 0xFFFF
      let passed (l : Launch) : Bool := (l.loading && l.next == 0) || !(v.binding.any fun b =>
        b.1.2 == (recObj l.record, recEntry l.record, l.queue / 8) && s.present b.1.1 && recSelects l.record home b.1.1 &&
          (recClass l.record).testBit (s.clsOf b.1.1))
      ((s.present core = false ∨ ∃ b ∈ v.binding, b.1 = key) → asks s) ∧
      (s.present core = true → (∀ b ∈ v.binding, b.1 ≠ key) → s.mayBind core = false → asks (s.wake (layerOf core))) ∧
      (∀ sl l o h, s.present core = true → (∀ b ∈ v.binding, b.1 ≠ key) → s.mayBind core = true → v.launches.find? (fun p =>
          recObj p.2.record == obj && recEntry p.2.record == entry && p.2.queue / 8 == level && recSelects p.2.record home core &&
            (recClass p.2.record).testBit (s.clsOf core) && passed p.2) = some (sl, l) →
        v.objects.find? (fun x => x.id == obj) = some o → h < 31 → bit (hent s h) 36 = false → (∀ j < h, bit (hent s j) 36 = true) →
        ((o.purged = true ∨ o.portable = true ∧ o.signed = true ∧ o.sver < s.fuses) → l.next = 0 → l.removed = [] →
          v.lfrz = false → l.queue < 64 → l.join = 0 → ∃ t, asks t ∧ look (t.tower home).launches sl = none ∧ counted t l.queue 10) ∧
        (o.purged = true → (l.next ≠ 0 ∨ l.removed ≠ []) → v.lfrz = false → l.queue < 64 → look v.launches sl = some l → l.join = 0 →
          ∃ t, asks t ∧ counted t l.queue 10) ∧
        (o.purged = false → o.portable = false → o.clus = [] → 4 ≤ o.base →
          (o.base + o.text.length + 4095) / 4096 * 4096 ≤ (s.core core).xb.toNat →
          core ∉ o.cores → ∃ t, asks t ∧ bound t h (o.base + entry) ∧ t.bytes (privBase core + o.base) o.text.length = o.text ∧
            t.bytes (privBase core) 4 = leBytes 4 0xA0000004 ∧
            (∀ b, ¬(privBase core ≤ b ∧ b < privBase core + 4) →
              ¬(privBase core + o.base ≤ b ∧ b < privBase core + o.base + o.text.length) → t.byte b = s.byte b) ∧
            ∀ x, look v.launches sl = some x → look (t.tower home).launches sl = some { x with loading := true }) ∧
        (o.purged = false → o.portable = true → s.belowFuses o = false →
          ∀ f, o.funcs.find? (fun f => f.entry && f.off == entry) = some f →
          (∀ p, f.place = some p → (s.core core).xb.toNat < p + f.size → asks s) ∧
          ∀ s1 a, s.placeFunc home core o f (s.heapPlace home (s.core core).xb.toNat f.size) = .placed s1 a → ∃ t, asks t ∧ bound t h a))) ∧
    -- data
    (∀ (o : CodeObj) (asn : Nat),
      (asn ∈ o.spaces → s.placeData tw asn o = s) ∧
      ∀ a bs, asn ∉ o.spaces → o.data = [(a, bs)] → bs ≠ [] → a % 4096 + bs.length ≤ 4096 →
        let t := s.placeData tw asn o
        (s.loaderPlace tw asn a = none → s.sameMemory t) ∧
        ∀ p, s.loaderPlace tw asn a = some p → (p.ro = true → s.sameMemory t) ∧
          (p.ro = false → t.bytesKey p.key p.addr bs.length = bs ∧ s.sameOutside t p.key p.addr bs.length)) ∧
    (∀ asn va p, s.loaderPlace tw asn va = some p ↔ 2 ^ 32 ≤ va ∧ va < 2 ^ 52 ∧ ∃ e b, s.walk tw asn va = .leaf e ∧
      s.locate tw (ptePA e.leaf + (va - e.base)) = some b ∧ p = { win := .glob, addr := b, key := .random s.key0, ro := s.readOnly b }) ∧
    -- the translator
    (let ring (o : Nat) : Word := BitVec.ofNat 64 (leNat (s.bytesKey (.random s.key0) (Config.requestRing core slot + o) 8))
     let g := fld (ring 0) 0 16
     let good : Prop := ring 8 = 0xFFFFFFFFFFFFFFFE ∧ fld (ring 0) 16 2 = slot ∧ fld (ring 0) 18 12 = coreId core ∧ g < 1024 * v.stbn ∧
       ∀ r ∈ v.requests, ¬(r.core = core ∧ r.slot = slot)
     (¬good → s.becomes (.translationRequest core slot) s) ∧
     (good → ∃ t, exec (.translationRequest core slot) s = .next t ∧ (t.tower home).requests = v.requests ++
       [{ core := core, slot := slot, stub := g, taskid := (s.thread core slot).taskid
          launch := (s.thread core slot).task.map TaskInfo.launch }] ∧ s.sameMemory t ∧ ∀ n, t.core n = s.core n)) ∧
    (∀ reply place : Nat,
      let asks (t : State) : Prop := exec (.translationReply tw reply place) s = .next t
      (w.requests = [] → asks s) ∧
      (∀ r rest, w.requests = r :: rest →
        let at_ := Config.requestRing r.core r.slot + 8
        let tells (t : State) (n : Nat) : Prop := t.bytesKey (.random s.key0) at_ 8 = leBytes 8 n ∧ (t.tower tw).requests = rest
        (w.funcAt r.stub = none → reply = 1 → w.lfrz = false → r.launch = none → ∃ t, asks t ∧ tells t 1 ∧ s.sameOutside t (.random s.key0) at_ 8) ∧
        (∀ o f, w.funcAt r.stub = some (o, f) →
          (o.purged = true → reply = 2 → ∃ t, asks t ∧ tells t 2) ∧
          (o.purged = true → reply ≠ 2 → rest = [] → asks s) ∧
          -- a request that cannot have this reply holds up none behind it
          (∀ r2, o.purged = true → reply = 1 → rest = [r2] → w.funcAt r2.stub = none → w.lfrz = false → r2.launch = none → ∃ t, asks t ∧
            t.bytesKey (.random s.key0) (Config.requestRing r2.core r2.slot + 8) 8 = leBytes 8 1 ∧
            (t.tower tw).requests = [r]) ∧
          (o.purged = false → s.belowFuses o = false → f.place = none → reply = 0 → o.clus = [] →
            s.heapFree tw (s.core r.core).xb.toNat place f.size = true → r.core < coreCount → s.powerWaits (privBase r.core) = false →
            at_ + 8 ≤ hbmEnd →
            (∀ x ∈ w.objects.flatMap CodeObj.funcs, x.stub < 1024 * w.stbn) →
            ((w.objects.flatMap CodeObj.funcs).map Func.stub).Nodup → (∀ x ∈ w.objects, x.purged = false) →
            ∀ code, s.translate tw (s.clsOf r.core) o f place = some code → code.length = f.size →
            let stub := w.chb * 4096 + 4 * f.stub
            ∃ t, asks t ∧ tells t 0 ∧ t.bytes (privBase r.core + place) f.size = code ∧
              t.bytes (privBase r.core + stub) 4 =
                leBytes 4 (0x84000000 + ((((place : Int) - stub) / 4) % 2 ^ 21).toNat)))))
end

