-- ==== Sys2Proof/Laws/State.lean ====
section
/-!
SUPPORT. What each update of the state leaves alone: one lemma per field and update.
-/
namespace Sys2Proof.Machine

variable (s : State)

@[simp] theorem State.putCore_clusters (n : Nat) (c : Core) : (s.putCore n c).clusters = s.clusters := rfl
@[simp] theorem State.putCore_layers (n : Nat) (c : Core) : (s.putCore n c).layers = s.layers := rfl
@[simp] theorem State.putCore_towers (n : Nat) (c : Core) : (s.putCore n c).towers = s.towers := rfl
@[simp] theorem State.putCore_mem (n : Nat) (c : Core) : (s.putCore n c).mem = s.mem := rfl
@[simp] theorem State.putCore_fresh (n : Nat) (c : Core) : (s.putCore n c).fresh = s.fresh := rfl
@[simp] theorem State.putCore_poison (n : Nat) (c : Core) : (s.putCore n c).poison = s.poison := rfl
@[simp] theorem State.putCore_keys (n : Nat) (c : Core) : (s.putCore n c).keys = s.keys := rfl
@[simp] theorem State.putCore_key0 (n : Nat) (c : Core) : (s.putCore n c).key0 = s.key0 := rfl
@[simp] theorem State.putCore_blockKey (n : Nat) (c : Core) : (s.putCore n c).blockKey = s.blockKey := rfl
@[simp] theorem State.putCore_hostTouched (n : Nat) (c : Core) : (s.putCore n c).hostTouched = s.hostTouched := rfl
@[simp] theorem State.putCore_harvest (n : Nat) (c : Core) : (s.putCore n c).harvest = s.harvest := rfl
@[simp] theorem State.putCore_defects (n : Nat) (c : Core) : (s.putCore n c).defects = s.defects := rfl
@[simp] theorem State.putCore_fuses (n : Nat) (c : Core) : (s.putCore n c).fuses = s.fuses := rfl
@[simp] theorem State.putCore_rootHash (n : Nat) (c : Core) : (s.putCore n c).rootHash = s.rootHash := rfl
@[simp] theorem State.putCore_pkg (n : Nat) (c : Core) : (s.putCore n c).pkg = s.pkg := rfl
@[simp] theorem State.putCore_msix (n : Nat) (c : Core) : (s.putCore n c).msix = s.msix := rfl
@[simp] theorem State.putCore_hostReply (n : Nat) (c : Core) : (s.putCore n c).hostReply = s.hostReply := rfl
@[simp] theorem State.putCore_agenda (n : Nat) (c : Core) : (s.putCore n c).agenda = s.agenda := rfl
@[simp] theorem State.putCore_cur (n : Nat) (c : Core) : (s.putCore n c).cur = s.cur := rfl
@[simp] theorem State.putCore_curSlot (n : Nat) (c : Core) : (s.putCore n c).curSlot = s.curSlot := rfl
@[simp] theorem State.putCore_steps (n : Nat) (c : Core) : (s.putCore n c).steps = s.steps := rfl

@[simp] theorem State.putCluster_cores (n : Nat) (c : Cluster) : (s.putCluster n c).cores = s.cores := rfl
@[simp] theorem State.putCluster_layers (n : Nat) (c : Cluster) : (s.putCluster n c).layers = s.layers := rfl
@[simp] theorem State.putCluster_towers (n : Nat) (c : Cluster) : (s.putCluster n c).towers = s.towers := rfl
@[simp] theorem State.putCluster_mem (n : Nat) (c : Cluster) : (s.putCluster n c).mem = s.mem := rfl
@[simp] theorem State.putCluster_fresh (n : Nat) (c : Cluster) : (s.putCluster n c).fresh = s.fresh := rfl
@[simp] theorem State.putCluster_poison (n : Nat) (c : Cluster) : (s.putCluster n c).poison = s.poison := rfl
@[simp] theorem State.putCluster_keys (n : Nat) (c : Cluster) : (s.putCluster n c).keys = s.keys := rfl
@[simp] theorem State.putCluster_key0 (n : Nat) (c : Cluster) : (s.putCluster n c).key0 = s.key0 := rfl
@[simp] theorem State.putCluster_blockKey (n : Nat) (c : Cluster) : (s.putCluster n c).blockKey = s.blockKey := rfl
@[simp] theorem State.putCluster_hostTouched (n : Nat) (c : Cluster) : (s.putCluster n c).hostTouched = s.hostTouched := rfl
@[simp] theorem State.putCluster_harvest (n : Nat) (c : Cluster) : (s.putCluster n c).harvest = s.harvest := rfl
@[simp] theorem State.putCluster_defects (n : Nat) (c : Cluster) : (s.putCluster n c).defects = s.defects := rfl
@[simp] theorem State.putCluster_fuses (n : Nat) (c : Cluster) : (s.putCluster n c).fuses = s.fuses := rfl
@[simp] theorem State.putCluster_rootHash (n : Nat) (c : Cluster) : (s.putCluster n c).rootHash = s.rootHash := rfl
@[simp] theorem State.putCluster_pkg (n : Nat) (c : Cluster) : (s.putCluster n c).pkg = s.pkg := rfl
@[simp] theorem State.putCluster_msix (n : Nat) (c : Cluster) : (s.putCluster n c).msix = s.msix := rfl
@[simp] theorem State.putCluster_hostReply (n : Nat) (c : Cluster) : (s.putCluster n c).hostReply = s.hostReply := rfl
@[simp] theorem State.putCluster_agenda (n : Nat) (c : Cluster) : (s.putCluster n c).agenda = s.agenda := rfl
@[simp] theorem State.putCluster_cur (n : Nat) (c : Cluster) : (s.putCluster n c).cur = s.cur := rfl
@[simp] theorem State.putCluster_curSlot (n : Nat) (c : Cluster) : (s.putCluster n c).curSlot = s.curSlot := rfl
@[simp] theorem State.putCluster_steps (n : Nat) (c : Cluster) : (s.putCluster n c).steps = s.steps := rfl

@[simp] theorem State.putLayer_cores (n : Nat) (l : Layer) : (s.putLayer n l).cores = s.cores := rfl
@[simp] theorem State.putLayer_clusters (n : Nat) (l : Layer) : (s.putLayer n l).clusters = s.clusters := rfl
@[simp] theorem State.putLayer_towers (n : Nat) (l : Layer) : (s.putLayer n l).towers = s.towers := rfl
@[simp] theorem State.putLayer_mem (n : Nat) (l : Layer) : (s.putLayer n l).mem = s.mem := rfl
@[simp] theorem State.putLayer_fresh (n : Nat) (l : Layer) : (s.putLayer n l).fresh = s.fresh := rfl
@[simp] theorem State.putLayer_poison (n : Nat) (l : Layer) : (s.putLayer n l).poison = s.poison := rfl
@[simp] theorem State.putLayer_keys (n : Nat) (l : Layer) : (s.putLayer n l).keys = s.keys := rfl
@[simp] theorem State.putLayer_key0 (n : Nat) (l : Layer) : (s.putLayer n l).key0 = s.key0 := rfl
@[simp] theorem State.putLayer_blockKey (n : Nat) (l : Layer) : (s.putLayer n l).blockKey = s.blockKey := rfl
@[simp] theorem State.putLayer_hostTouched (n : Nat) (l : Layer) : (s.putLayer n l).hostTouched = s.hostTouched := rfl
@[simp] theorem State.putLayer_harvest (n : Nat) (l : Layer) : (s.putLayer n l).harvest = s.harvest := rfl
@[simp] theorem State.putLayer_defects (n : Nat) (l : Layer) : (s.putLayer n l).defects = s.defects := rfl
@[simp] theorem State.putLayer_fuses (n : Nat) (l : Layer) : (s.putLayer n l).fuses = s.fuses := rfl
@[simp] theorem State.putLayer_rootHash (n : Nat) (l : Layer) : (s.putLayer n l).rootHash = s.rootHash := rfl
@[simp] theorem State.putLayer_pkg (n : Nat) (l : Layer) : (s.putLayer n l).pkg = s.pkg := rfl
@[simp] theorem State.putLayer_msix (n : Nat) (l : Layer) : (s.putLayer n l).msix = s.msix := rfl
@[simp] theorem State.putLayer_hostReply (n : Nat) (l : Layer) : (s.putLayer n l).hostReply = s.hostReply := rfl
@[simp] theorem State.putLayer_agenda (n : Nat) (l : Layer) : (s.putLayer n l).agenda = s.agenda := rfl
@[simp] theorem State.putLayer_cur (n : Nat) (l : Layer) : (s.putLayer n l).cur = s.cur := rfl
@[simp] theorem State.putLayer_curSlot (n : Nat) (l : Layer) : (s.putLayer n l).curSlot = s.curSlot := rfl
@[simp] theorem State.putLayer_steps (n : Nat) (l : Layer) : (s.putLayer n l).steps = s.steps := rfl

@[simp] theorem State.putTower_cores (n : Nat) (t : Tower) : (s.putTower n t).cores = s.cores := rfl
@[simp] theorem State.putTower_clusters (n : Nat) (t : Tower) : (s.putTower n t).clusters = s.clusters := rfl
@[simp] theorem State.putTower_layers (n : Nat) (t : Tower) : (s.putTower n t).layers = s.layers := rfl
@[simp] theorem State.putTower_mem (n : Nat) (t : Tower) : (s.putTower n t).mem = s.mem := rfl
@[simp] theorem State.putTower_fresh (n : Nat) (t : Tower) : (s.putTower n t).fresh = s.fresh := rfl
@[simp] theorem State.putTower_poison (n : Nat) (t : Tower) : (s.putTower n t).poison = s.poison := rfl
@[simp] theorem State.putTower_keys (n : Nat) (t : Tower) : (s.putTower n t).keys = s.keys := rfl
@[simp] theorem State.putTower_key0 (n : Nat) (t : Tower) : (s.putTower n t).key0 = s.key0 := rfl
@[simp] theorem State.putTower_blockKey (n : Nat) (t : Tower) : (s.putTower n t).blockKey = s.blockKey := rfl
@[simp] theorem State.putTower_hostTouched (n : Nat) (t : Tower) : (s.putTower n t).hostTouched = s.hostTouched := rfl
@[simp] theorem State.putTower_harvest (n : Nat) (t : Tower) : (s.putTower n t).harvest = s.harvest := rfl
@[simp] theorem State.putTower_defects (n : Nat) (t : Tower) : (s.putTower n t).defects = s.defects := rfl
@[simp] theorem State.putTower_fuses (n : Nat) (t : Tower) : (s.putTower n t).fuses = s.fuses := rfl
@[simp] theorem State.putTower_rootHash (n : Nat) (t : Tower) : (s.putTower n t).rootHash = s.rootHash := rfl
@[simp] theorem State.putTower_pkg (n : Nat) (t : Tower) : (s.putTower n t).pkg = s.pkg := rfl
@[simp] theorem State.putTower_msix (n : Nat) (t : Tower) : (s.putTower n t).msix = s.msix := rfl
@[simp] theorem State.putTower_hostReply (n : Nat) (t : Tower) : (s.putTower n t).hostReply = s.hostReply := rfl
@[simp] theorem State.putTower_agenda (n : Nat) (t : Tower) : (s.putTower n t).agenda = s.agenda := rfl
@[simp] theorem State.putTower_cur (n : Nat) (t : Tower) : (s.putTower n t).cur = s.cur := rfl
@[simp] theorem State.putTower_curSlot (n : Nat) (t : Tower) : (s.putTower n t).curSlot = s.curSlot := rfl
@[simp] theorem State.putTower_steps (n : Nat) (t : Tower) : (s.putTower n t).steps = s.steps := rfl

@[simp] theorem State.modCore_clusters (n : Nat) (f : Core → Core) : (s.modCore n f).clusters = s.clusters := rfl
@[simp] theorem State.modCore_layers (n : Nat) (f : Core → Core) : (s.modCore n f).layers = s.layers := rfl
@[simp] theorem State.modCore_towers (n : Nat) (f : Core → Core) : (s.modCore n f).towers = s.towers := rfl
@[simp] theorem State.modCore_mem (n : Nat) (f : Core → Core) : (s.modCore n f).mem = s.mem := rfl
@[simp] theorem State.modCore_fresh (n : Nat) (f : Core → Core) : (s.modCore n f).fresh = s.fresh := rfl
@[simp] theorem State.modCore_poison (n : Nat) (f : Core → Core) : (s.modCore n f).poison = s.poison := rfl
@[simp] theorem State.modCore_keys (n : Nat) (f : Core → Core) : (s.modCore n f).keys = s.keys := rfl
@[simp] theorem State.modCore_key0 (n : Nat) (f : Core → Core) : (s.modCore n f).key0 = s.key0 := rfl
@[simp] theorem State.modCore_blockKey (n : Nat) (f : Core → Core) : (s.modCore n f).blockKey = s.blockKey := rfl
@[simp] theorem State.modCore_hostTouched (n : Nat) (f : Core → Core) : (s.modCore n f).hostTouched = s.hostTouched := rfl
@[simp] theorem State.modCore_harvest (n : Nat) (f : Core → Core) : (s.modCore n f).harvest = s.harvest := rfl
@[simp] theorem State.modCore_defects (n : Nat) (f : Core → Core) : (s.modCore n f).defects = s.defects := rfl
@[simp] theorem State.modCore_fuses (n : Nat) (f : Core → Core) : (s.modCore n f).fuses = s.fuses := rfl
@[simp] theorem State.modCore_rootHash (n : Nat) (f : Core → Core) : (s.modCore n f).rootHash = s.rootHash := rfl
@[simp] theorem State.modCore_pkg (n : Nat) (f : Core → Core) : (s.modCore n f).pkg = s.pkg := rfl
@[simp] theorem State.modCore_msix (n : Nat) (f : Core → Core) : (s.modCore n f).msix = s.msix := rfl
@[simp] theorem State.modCore_hostReply (n : Nat) (f : Core → Core) : (s.modCore n f).hostReply = s.hostReply := rfl
@[simp] theorem State.modCore_agenda (n : Nat) (f : Core → Core) : (s.modCore n f).agenda = s.agenda := rfl
@[simp] theorem State.modCore_cur (n : Nat) (f : Core → Core) : (s.modCore n f).cur = s.cur := rfl
@[simp] theorem State.modCore_curSlot (n : Nat) (f : Core → Core) : (s.modCore n f).curSlot = s.curSlot := rfl
@[simp] theorem State.modCore_steps (n : Nat) (f : Core → Core) : (s.modCore n f).steps = s.steps := rfl

@[simp] theorem State.modCluster_cores (n : Nat) (f : Cluster → Cluster) : (s.modCluster n f).cores = s.cores := rfl
@[simp] theorem State.modCluster_layers (n : Nat) (f : Cluster → Cluster) : (s.modCluster n f).layers = s.layers := rfl
@[simp] theorem State.modCluster_towers (n : Nat) (f : Cluster → Cluster) : (s.modCluster n f).towers = s.towers := rfl
@[simp] theorem State.modCluster_mem (n : Nat) (f : Cluster → Cluster) : (s.modCluster n f).mem = s.mem := rfl
@[simp] theorem State.modCluster_fresh (n : Nat) (f : Cluster → Cluster) : (s.modCluster n f).fresh = s.fresh := rfl
@[simp] theorem State.modCluster_poison (n : Nat) (f : Cluster → Cluster) : (s.modCluster n f).poison = s.poison := rfl
@[simp] theorem State.modCluster_keys (n : Nat) (f : Cluster → Cluster) : (s.modCluster n f).keys = s.keys := rfl
@[simp] theorem State.modCluster_key0 (n : Nat) (f : Cluster → Cluster) : (s.modCluster n f).key0 = s.key0 := rfl
@[simp] theorem State.modCluster_blockKey (n : Nat) (f : Cluster → Cluster) : (s.modCluster n f).blockKey = s.blockKey := rfl
@[simp] theorem State.modCluster_hostTouched (n : Nat) (f : Cluster → Cluster) : (s.modCluster n f).hostTouched = s.hostTouched := rfl
@[simp] theorem State.modCluster_harvest (n : Nat) (f : Cluster → Cluster) : (s.modCluster n f).harvest = s.harvest := rfl
@[simp] theorem State.modCluster_defects (n : Nat) (f : Cluster → Cluster) : (s.modCluster n f).defects = s.defects := rfl
@[simp] theorem State.modCluster_fuses (n : Nat) (f : Cluster → Cluster) : (s.modCluster n f).fuses = s.fuses := rfl
@[simp] theorem State.modCluster_rootHash (n : Nat) (f : Cluster → Cluster) : (s.modCluster n f).rootHash = s.rootHash := rfl
@[simp] theorem State.modCluster_pkg (n : Nat) (f : Cluster → Cluster) : (s.modCluster n f).pkg = s.pkg := rfl
@[simp] theorem State.modCluster_msix (n : Nat) (f : Cluster → Cluster) : (s.modCluster n f).msix = s.msix := rfl
@[simp] theorem State.modCluster_hostReply (n : Nat) (f : Cluster → Cluster) : (s.modCluster n f).hostReply = s.hostReply := rfl
@[simp] theorem State.modCluster_agenda (n : Nat) (f : Cluster → Cluster) : (s.modCluster n f).agenda = s.agenda := rfl
@[simp] theorem State.modCluster_cur (n : Nat) (f : Cluster → Cluster) : (s.modCluster n f).cur = s.cur := rfl
@[simp] theorem State.modCluster_curSlot (n : Nat) (f : Cluster → Cluster) : (s.modCluster n f).curSlot = s.curSlot := rfl
@[simp] theorem State.modCluster_steps (n : Nat) (f : Cluster → Cluster) : (s.modCluster n f).steps = s.steps := rfl

@[simp] theorem State.modLayer_cores (n : Nat) (f : Layer → Layer) : (s.modLayer n f).cores = s.cores := rfl
@[simp] theorem State.modLayer_clusters (n : Nat) (f : Layer → Layer) : (s.modLayer n f).clusters = s.clusters := rfl
@[simp] theorem State.modLayer_towers (n : Nat) (f : Layer → Layer) : (s.modLayer n f).towers = s.towers := rfl
@[simp] theorem State.modLayer_mem (n : Nat) (f : Layer → Layer) : (s.modLayer n f).mem = s.mem := rfl
@[simp] theorem State.modLayer_fresh (n : Nat) (f : Layer → Layer) : (s.modLayer n f).fresh = s.fresh := rfl
@[simp] theorem State.modLayer_poison (n : Nat) (f : Layer → Layer) : (s.modLayer n f).poison = s.poison := rfl
@[simp] theorem State.modLayer_keys (n : Nat) (f : Layer → Layer) : (s.modLayer n f).keys = s.keys := rfl
@[simp] theorem State.modLayer_key0 (n : Nat) (f : Layer → Layer) : (s.modLayer n f).key0 = s.key0 := rfl
@[simp] theorem State.modLayer_blockKey (n : Nat) (f : Layer → Layer) : (s.modLayer n f).blockKey = s.blockKey := rfl
@[simp] theorem State.modLayer_hostTouched (n : Nat) (f : Layer → Layer) : (s.modLayer n f).hostTouched = s.hostTouched := rfl
@[simp] theorem State.modLayer_harvest (n : Nat) (f : Layer → Layer) : (s.modLayer n f).harvest = s.harvest := rfl
@[simp] theorem State.modLayer_defects (n : Nat) (f : Layer → Layer) : (s.modLayer n f).defects = s.defects := rfl
@[simp] theorem State.modLayer_fuses (n : Nat) (f : Layer → Layer) : (s.modLayer n f).fuses = s.fuses := rfl
@[simp] theorem State.modLayer_rootHash (n : Nat) (f : Layer → Layer) : (s.modLayer n f).rootHash = s.rootHash := rfl
@[simp] theorem State.modLayer_pkg (n : Nat) (f : Layer → Layer) : (s.modLayer n f).pkg = s.pkg := rfl
@[simp] theorem State.modLayer_msix (n : Nat) (f : Layer → Layer) : (s.modLayer n f).msix = s.msix := rfl
@[simp] theorem State.modLayer_hostReply (n : Nat) (f : Layer → Layer) : (s.modLayer n f).hostReply = s.hostReply := rfl
@[simp] theorem State.modLayer_agenda (n : Nat) (f : Layer → Layer) : (s.modLayer n f).agenda = s.agenda := rfl
@[simp] theorem State.modLayer_cur (n : Nat) (f : Layer → Layer) : (s.modLayer n f).cur = s.cur := rfl
@[simp] theorem State.modLayer_curSlot (n : Nat) (f : Layer → Layer) : (s.modLayer n f).curSlot = s.curSlot := rfl
@[simp] theorem State.modLayer_steps (n : Nat) (f : Layer → Layer) : (s.modLayer n f).steps = s.steps := rfl

@[simp] theorem State.modTower_cores (n : Nat) (f : Tower → Tower) : (s.modTower n f).cores = s.cores := rfl
@[simp] theorem State.modTower_clusters (n : Nat) (f : Tower → Tower) : (s.modTower n f).clusters = s.clusters := rfl
@[simp] theorem State.modTower_layers (n : Nat) (f : Tower → Tower) : (s.modTower n f).layers = s.layers := rfl
@[simp] theorem State.modTower_mem (n : Nat) (f : Tower → Tower) : (s.modTower n f).mem = s.mem := rfl
@[simp] theorem State.modTower_fresh (n : Nat) (f : Tower → Tower) : (s.modTower n f).fresh = s.fresh := rfl
@[simp] theorem State.modTower_poison (n : Nat) (f : Tower → Tower) : (s.modTower n f).poison = s.poison := rfl
@[simp] theorem State.modTower_keys (n : Nat) (f : Tower → Tower) : (s.modTower n f).keys = s.keys := rfl
@[simp] theorem State.modTower_key0 (n : Nat) (f : Tower → Tower) : (s.modTower n f).key0 = s.key0 := rfl
@[simp] theorem State.modTower_blockKey (n : Nat) (f : Tower → Tower) : (s.modTower n f).blockKey = s.blockKey := rfl
@[simp] theorem State.modTower_hostTouched (n : Nat) (f : Tower → Tower) : (s.modTower n f).hostTouched = s.hostTouched := rfl
@[simp] theorem State.modTower_harvest (n : Nat) (f : Tower → Tower) : (s.modTower n f).harvest = s.harvest := rfl
@[simp] theorem State.modTower_defects (n : Nat) (f : Tower → Tower) : (s.modTower n f).defects = s.defects := rfl
@[simp] theorem State.modTower_fuses (n : Nat) (f : Tower → Tower) : (s.modTower n f).fuses = s.fuses := rfl
@[simp] theorem State.modTower_rootHash (n : Nat) (f : Tower → Tower) : (s.modTower n f).rootHash = s.rootHash := rfl
@[simp] theorem State.modTower_pkg (n : Nat) (f : Tower → Tower) : (s.modTower n f).pkg = s.pkg := rfl
@[simp] theorem State.modTower_msix (n : Nat) (f : Tower → Tower) : (s.modTower n f).msix = s.msix := rfl
@[simp] theorem State.modTower_hostReply (n : Nat) (f : Tower → Tower) : (s.modTower n f).hostReply = s.hostReply := rfl
@[simp] theorem State.modTower_agenda (n : Nat) (f : Tower → Tower) : (s.modTower n f).agenda = s.agenda := rfl
@[simp] theorem State.modTower_cur (n : Nat) (f : Tower → Tower) : (s.modTower n f).cur = s.cur := rfl
@[simp] theorem State.modTower_curSlot (n : Nat) (f : Tower → Tower) : (s.modTower n f).curSlot = s.curSlot := rfl
@[simp] theorem State.modTower_steps (n : Nat) (f : Tower → Tower) : (s.modTower n f).steps = s.steps := rfl

@[simp] theorem State.putThread_clusters (n k : Nat) (t : Thread) : (s.putThread n k t).clusters = s.clusters := rfl
@[simp] theorem State.putThread_layers (n k : Nat) (t : Thread) : (s.putThread n k t).layers = s.layers := rfl
@[simp] theorem State.putThread_towers (n k : Nat) (t : Thread) : (s.putThread n k t).towers = s.towers := rfl
@[simp] theorem State.putThread_mem (n k : Nat) (t : Thread) : (s.putThread n k t).mem = s.mem := rfl
@[simp] theorem State.putThread_fresh (n k : Nat) (t : Thread) : (s.putThread n k t).fresh = s.fresh := rfl
@[simp] theorem State.putThread_poison (n k : Nat) (t : Thread) : (s.putThread n k t).poison = s.poison := rfl
@[simp] theorem State.putThread_keys (n k : Nat) (t : Thread) : (s.putThread n k t).keys = s.keys := rfl
@[simp] theorem State.putThread_key0 (n k : Nat) (t : Thread) : (s.putThread n k t).key0 = s.key0 := rfl
@[simp] theorem State.putThread_blockKey (n k : Nat) (t : Thread) : (s.putThread n k t).blockKey = s.blockKey := rfl
@[simp] theorem State.putThread_hostTouched (n k : Nat) (t : Thread) : (s.putThread n k t).hostTouched = s.hostTouched := rfl
@[simp] theorem State.putThread_harvest (n k : Nat) (t : Thread) : (s.putThread n k t).harvest = s.harvest := rfl
@[simp] theorem State.putThread_defects (n k : Nat) (t : Thread) : (s.putThread n k t).defects = s.defects := rfl
@[simp] theorem State.putThread_fuses (n k : Nat) (t : Thread) : (s.putThread n k t).fuses = s.fuses := rfl
@[simp] theorem State.putThread_rootHash (n k : Nat) (t : Thread) : (s.putThread n k t).rootHash = s.rootHash := rfl
@[simp] theorem State.putThread_pkg (n k : Nat) (t : Thread) : (s.putThread n k t).pkg = s.pkg := rfl
@[simp] theorem State.putThread_msix (n k : Nat) (t : Thread) : (s.putThread n k t).msix = s.msix := rfl
@[simp] theorem State.putThread_hostReply (n k : Nat) (t : Thread) : (s.putThread n k t).hostReply = s.hostReply := rfl
@[simp] theorem State.putThread_agenda (n k : Nat) (t : Thread) : (s.putThread n k t).agenda = s.agenda := rfl
@[simp] theorem State.putThread_cur (n k : Nat) (t : Thread) : (s.putThread n k t).cur = s.cur := rfl
@[simp] theorem State.putThread_curSlot (n k : Nat) (t : Thread) : (s.putThread n k t).curSlot = s.curSlot := rfl
@[simp] theorem State.putThread_steps (n k : Nat) (t : Thread) : (s.putThread n k t).steps = s.steps := rfl

@[simp] theorem State.modThread_clusters (n k : Nat) (f : Thread → Thread) : (s.modThread n k f).clusters = s.clusters := rfl
@[simp] theorem State.modThread_layers (n k : Nat) (f : Thread → Thread) : (s.modThread n k f).layers = s.layers := rfl
@[simp] theorem State.modThread_towers (n k : Nat) (f : Thread → Thread) : (s.modThread n k f).towers = s.towers := rfl
@[simp] theorem State.modThread_mem (n k : Nat) (f : Thread → Thread) : (s.modThread n k f).mem = s.mem := rfl
@[simp] theorem State.modThread_fresh (n k : Nat) (f : Thread → Thread) : (s.modThread n k f).fresh = s.fresh := rfl
@[simp] theorem State.modThread_poison (n k : Nat) (f : Thread → Thread) : (s.modThread n k f).poison = s.poison := rfl
@[simp] theorem State.modThread_keys (n k : Nat) (f : Thread → Thread) : (s.modThread n k f).keys = s.keys := rfl
@[simp] theorem State.modThread_key0 (n k : Nat) (f : Thread → Thread) : (s.modThread n k f).key0 = s.key0 := rfl
@[simp] theorem State.modThread_blockKey (n k : Nat) (f : Thread → Thread) : (s.modThread n k f).blockKey = s.blockKey := rfl
@[simp] theorem State.modThread_hostTouched (n k : Nat) (f : Thread → Thread) : (s.modThread n k f).hostTouched = s.hostTouched := rfl
@[simp] theorem State.modThread_harvest (n k : Nat) (f : Thread → Thread) : (s.modThread n k f).harvest = s.harvest := rfl
@[simp] theorem State.modThread_defects (n k : Nat) (f : Thread → Thread) : (s.modThread n k f).defects = s.defects := rfl
@[simp] theorem State.modThread_fuses (n k : Nat) (f : Thread → Thread) : (s.modThread n k f).fuses = s.fuses := rfl
@[simp] theorem State.modThread_rootHash (n k : Nat) (f : Thread → Thread) : (s.modThread n k f).rootHash = s.rootHash := rfl
@[simp] theorem State.modThread_pkg (n k : Nat) (f : Thread → Thread) : (s.modThread n k f).pkg = s.pkg := rfl
@[simp] theorem State.modThread_msix (n k : Nat) (f : Thread → Thread) : (s.modThread n k f).msix = s.msix := rfl
@[simp] theorem State.modThread_hostReply (n k : Nat) (f : Thread → Thread) : (s.modThread n k f).hostReply = s.hostReply := rfl
@[simp] theorem State.modThread_agenda (n k : Nat) (f : Thread → Thread) : (s.modThread n k f).agenda = s.agenda := rfl
@[simp] theorem State.modThread_cur (n k : Nat) (f : Thread → Thread) : (s.modThread n k f).cur = s.cur := rfl
@[simp] theorem State.modThread_curSlot (n k : Nat) (f : Thread → Thread) : (s.modThread n k f).curSlot = s.curSlot := rfl
@[simp] theorem State.modThread_steps (n k : Nat) (f : Thread → Thread) : (s.modThread n k f).steps = s.steps := rfl

@[simp] theorem State.putMe_clusters (t : Thread) : (s.putMe t).clusters = s.clusters := rfl
@[simp] theorem State.putMe_layers (t : Thread) : (s.putMe t).layers = s.layers := rfl
@[simp] theorem State.putMe_towers (t : Thread) : (s.putMe t).towers = s.towers := rfl
@[simp] theorem State.putMe_mem (t : Thread) : (s.putMe t).mem = s.mem := rfl
@[simp] theorem State.putMe_fresh (t : Thread) : (s.putMe t).fresh = s.fresh := rfl
@[simp] theorem State.putMe_poison (t : Thread) : (s.putMe t).poison = s.poison := rfl
@[simp] theorem State.putMe_keys (t : Thread) : (s.putMe t).keys = s.keys := rfl
@[simp] theorem State.putMe_key0 (t : Thread) : (s.putMe t).key0 = s.key0 := rfl
@[simp] theorem State.putMe_blockKey (t : Thread) : (s.putMe t).blockKey = s.blockKey := rfl
@[simp] theorem State.putMe_hostTouched (t : Thread) : (s.putMe t).hostTouched = s.hostTouched := rfl
@[simp] theorem State.putMe_harvest (t : Thread) : (s.putMe t).harvest = s.harvest := rfl
@[simp] theorem State.putMe_defects (t : Thread) : (s.putMe t).defects = s.defects := rfl
@[simp] theorem State.putMe_fuses (t : Thread) : (s.putMe t).fuses = s.fuses := rfl
@[simp] theorem State.putMe_rootHash (t : Thread) : (s.putMe t).rootHash = s.rootHash := rfl
@[simp] theorem State.putMe_pkg (t : Thread) : (s.putMe t).pkg = s.pkg := rfl
@[simp] theorem State.putMe_msix (t : Thread) : (s.putMe t).msix = s.msix := rfl
@[simp] theorem State.putMe_hostReply (t : Thread) : (s.putMe t).hostReply = s.hostReply := rfl
@[simp] theorem State.putMe_agenda (t : Thread) : (s.putMe t).agenda = s.agenda := rfl
@[simp] theorem State.putMe_cur (t : Thread) : (s.putMe t).cur = s.cur := rfl
@[simp] theorem State.putMe_curSlot (t : Thread) : (s.putMe t).curSlot = s.curSlot := rfl
@[simp] theorem State.putMe_steps (t : Thread) : (s.putMe t).steps = s.steps := rfl

@[simp] theorem State.modMe_clusters (f : Thread → Thread) : (s.modMe f).clusters = s.clusters := rfl
@[simp] theorem State.modMe_layers (f : Thread → Thread) : (s.modMe f).layers = s.layers := rfl
@[simp] theorem State.modMe_towers (f : Thread → Thread) : (s.modMe f).towers = s.towers := rfl
@[simp] theorem State.modMe_mem (f : Thread → Thread) : (s.modMe f).mem = s.mem := rfl
@[simp] theorem State.modMe_fresh (f : Thread → Thread) : (s.modMe f).fresh = s.fresh := rfl
@[simp] theorem State.modMe_poison (f : Thread → Thread) : (s.modMe f).poison = s.poison := rfl
@[simp] theorem State.modMe_keys (f : Thread → Thread) : (s.modMe f).keys = s.keys := rfl
@[simp] theorem State.modMe_key0 (f : Thread → Thread) : (s.modMe f).key0 = s.key0 := rfl
@[simp] theorem State.modMe_blockKey (f : Thread → Thread) : (s.modMe f).blockKey = s.blockKey := rfl
@[simp] theorem State.modMe_hostTouched (f : Thread → Thread) : (s.modMe f).hostTouched = s.hostTouched := rfl
@[simp] theorem State.modMe_harvest (f : Thread → Thread) : (s.modMe f).harvest = s.harvest := rfl
@[simp] theorem State.modMe_defects (f : Thread → Thread) : (s.modMe f).defects = s.defects := rfl
@[simp] theorem State.modMe_fuses (f : Thread → Thread) : (s.modMe f).fuses = s.fuses := rfl
@[simp] theorem State.modMe_rootHash (f : Thread → Thread) : (s.modMe f).rootHash = s.rootHash := rfl
@[simp] theorem State.modMe_pkg (f : Thread → Thread) : (s.modMe f).pkg = s.pkg := rfl
@[simp] theorem State.modMe_msix (f : Thread → Thread) : (s.modMe f).msix = s.msix := rfl
@[simp] theorem State.modMe_hostReply (f : Thread → Thread) : (s.modMe f).hostReply = s.hostReply := rfl
@[simp] theorem State.modMe_agenda (f : Thread → Thread) : (s.modMe f).agenda = s.agenda := rfl
@[simp] theorem State.modMe_cur (f : Thread → Thread) : (s.modMe f).cur = s.cur := rfl
@[simp] theorem State.modMe_curSlot (f : Thread → Thread) : (s.modMe f).curSlot = s.curSlot := rfl
@[simp] theorem State.modMe_steps (f : Thread → Thread) : (s.modMe f).steps = s.steps := rfl

@[simp] theorem State.modMyCore_clusters (f : Core → Core) : (s.modMyCore f).clusters = s.clusters := rfl
@[simp] theorem State.modMyCore_layers (f : Core → Core) : (s.modMyCore f).layers = s.layers := rfl
@[simp] theorem State.modMyCore_towers (f : Core → Core) : (s.modMyCore f).towers = s.towers := rfl
@[simp] theorem State.modMyCore_mem (f : Core → Core) : (s.modMyCore f).mem = s.mem := rfl
@[simp] theorem State.modMyCore_fresh (f : Core → Core) : (s.modMyCore f).fresh = s.fresh := rfl
@[simp] theorem State.modMyCore_poison (f : Core → Core) : (s.modMyCore f).poison = s.poison := rfl
@[simp] theorem State.modMyCore_keys (f : Core → Core) : (s.modMyCore f).keys = s.keys := rfl
@[simp] theorem State.modMyCore_key0 (f : Core → Core) : (s.modMyCore f).key0 = s.key0 := rfl
@[simp] theorem State.modMyCore_blockKey (f : Core → Core) : (s.modMyCore f).blockKey = s.blockKey := rfl
@[simp] theorem State.modMyCore_hostTouched (f : Core → Core) : (s.modMyCore f).hostTouched = s.hostTouched := rfl
@[simp] theorem State.modMyCore_harvest (f : Core → Core) : (s.modMyCore f).harvest = s.harvest := rfl
@[simp] theorem State.modMyCore_defects (f : Core → Core) : (s.modMyCore f).defects = s.defects := rfl
@[simp] theorem State.modMyCore_fuses (f : Core → Core) : (s.modMyCore f).fuses = s.fuses := rfl
@[simp] theorem State.modMyCore_rootHash (f : Core → Core) : (s.modMyCore f).rootHash = s.rootHash := rfl
@[simp] theorem State.modMyCore_pkg (f : Core → Core) : (s.modMyCore f).pkg = s.pkg := rfl
@[simp] theorem State.modMyCore_msix (f : Core → Core) : (s.modMyCore f).msix = s.msix := rfl
@[simp] theorem State.modMyCore_hostReply (f : Core → Core) : (s.modMyCore f).hostReply = s.hostReply := rfl
@[simp] theorem State.modMyCore_agenda (f : Core → Core) : (s.modMyCore f).agenda = s.agenda := rfl
@[simp] theorem State.modMyCore_cur (f : Core → Core) : (s.modMyCore f).cur = s.cur := rfl
@[simp] theorem State.modMyCore_curSlot (f : Core → Core) : (s.modMyCore f).curSlot = s.curSlot := rfl
@[simp] theorem State.modMyCore_steps (f : Core → Core) : (s.modMyCore f).steps = s.steps := rfl

@[simp] theorem State.setX_clusters (r : BitVec 5) (v : Word) : (s.setX r v).clusters = s.clusters := rfl
@[simp] theorem State.setX_layers (r : BitVec 5) (v : Word) : (s.setX r v).layers = s.layers := rfl
@[simp] theorem State.setX_towers (r : BitVec 5) (v : Word) : (s.setX r v).towers = s.towers := rfl
@[simp] theorem State.setX_mem (r : BitVec 5) (v : Word) : (s.setX r v).mem = s.mem := rfl
@[simp] theorem State.setX_fresh (r : BitVec 5) (v : Word) : (s.setX r v).fresh = s.fresh := rfl
@[simp] theorem State.setX_poison (r : BitVec 5) (v : Word) : (s.setX r v).poison = s.poison := rfl
@[simp] theorem State.setX_keys (r : BitVec 5) (v : Word) : (s.setX r v).keys = s.keys := rfl
@[simp] theorem State.setX_key0 (r : BitVec 5) (v : Word) : (s.setX r v).key0 = s.key0 := rfl
@[simp] theorem State.setX_blockKey (r : BitVec 5) (v : Word) : (s.setX r v).blockKey = s.blockKey := rfl
@[simp] theorem State.setX_hostTouched (r : BitVec 5) (v : Word) : (s.setX r v).hostTouched = s.hostTouched := rfl
@[simp] theorem State.setX_harvest (r : BitVec 5) (v : Word) : (s.setX r v).harvest = s.harvest := rfl
@[simp] theorem State.setX_defects (r : BitVec 5) (v : Word) : (s.setX r v).defects = s.defects := rfl
@[simp] theorem State.setX_fuses (r : BitVec 5) (v : Word) : (s.setX r v).fuses = s.fuses := rfl
@[simp] theorem State.setX_rootHash (r : BitVec 5) (v : Word) : (s.setX r v).rootHash = s.rootHash := rfl
@[simp] theorem State.setX_pkg (r : BitVec 5) (v : Word) : (s.setX r v).pkg = s.pkg := rfl
@[simp] theorem State.setX_msix (r : BitVec 5) (v : Word) : (s.setX r v).msix = s.msix := rfl
@[simp] theorem State.setX_hostReply (r : BitVec 5) (v : Word) : (s.setX r v).hostReply = s.hostReply := rfl
@[simp] theorem State.setX_agenda (r : BitVec 5) (v : Word) : (s.setX r v).agenda = s.agenda := rfl
@[simp] theorem State.setX_cur (r : BitVec 5) (v : Word) : (s.setX r v).cur = s.cur := rfl
@[simp] theorem State.setX_curSlot (r : BitVec 5) (v : Word) : (s.setX r v).curSlot = s.curSlot := rfl
@[simp] theorem State.setX_steps (r : BitVec 5) (v : Word) : (s.setX r v).steps = s.steps := rfl

@[simp] theorem State.setByte_cores (a : Nat) (v : Byte) : (s.setByte a v).cores = s.cores := rfl
@[simp] theorem State.setByte_clusters (a : Nat) (v : Byte) : (s.setByte a v).clusters = s.clusters := rfl
@[simp] theorem State.setByte_layers (a : Nat) (v : Byte) : (s.setByte a v).layers = s.layers := rfl
@[simp] theorem State.setByte_towers (a : Nat) (v : Byte) : (s.setByte a v).towers = s.towers := rfl
@[simp] theorem State.setByte_poison (a : Nat) (v : Byte) : (s.setByte a v).poison = s.poison := rfl
@[simp] theorem State.setByte_keys (a : Nat) (v : Byte) : (s.setByte a v).keys = s.keys := rfl
@[simp] theorem State.setByte_key0 (a : Nat) (v : Byte) : (s.setByte a v).key0 = s.key0 := rfl
@[simp] theorem State.setByte_blockKey (a : Nat) (v : Byte) : (s.setByte a v).blockKey = s.blockKey := rfl
@[simp] theorem State.setByte_hostTouched (a : Nat) (v : Byte) : (s.setByte a v).hostTouched = s.hostTouched := rfl
@[simp] theorem State.setByte_harvest (a : Nat) (v : Byte) : (s.setByte a v).harvest = s.harvest := rfl
@[simp] theorem State.setByte_defects (a : Nat) (v : Byte) : (s.setByte a v).defects = s.defects := rfl
@[simp] theorem State.setByte_fuses (a : Nat) (v : Byte) : (s.setByte a v).fuses = s.fuses := rfl
@[simp] theorem State.setByte_rootHash (a : Nat) (v : Byte) : (s.setByte a v).rootHash = s.rootHash := rfl
@[simp] theorem State.setByte_pkg (a : Nat) (v : Byte) : (s.setByte a v).pkg = s.pkg := rfl
@[simp] theorem State.setByte_msix (a : Nat) (v : Byte) : (s.setByte a v).msix = s.msix := rfl
@[simp] theorem State.setByte_hostReply (a : Nat) (v : Byte) : (s.setByte a v).hostReply = s.hostReply := rfl
@[simp] theorem State.setByte_agenda (a : Nat) (v : Byte) : (s.setByte a v).agenda = s.agenda := rfl
@[simp] theorem State.setByte_cur (a : Nat) (v : Byte) : (s.setByte a v).cur = s.cur := rfl
@[simp] theorem State.setByte_curSlot (a : Nat) (v : Byte) : (s.setByte a v).curSlot = s.curSlot := rfl
@[simp] theorem State.setByte_steps (a : Nat) (v : Byte) : (s.setByte a v).steps = s.steps := rfl

@[simp] theorem State.as_cores (n k : Nat) : (s.as n k).cores = s.cores := rfl
@[simp] theorem State.as_clusters (n k : Nat) : (s.as n k).clusters = s.clusters := rfl
@[simp] theorem State.as_layers (n k : Nat) : (s.as n k).layers = s.layers := rfl
@[simp] theorem State.as_towers (n k : Nat) : (s.as n k).towers = s.towers := rfl
@[simp] theorem State.as_mem (n k : Nat) : (s.as n k).mem = s.mem := rfl
@[simp] theorem State.as_fresh (n k : Nat) : (s.as n k).fresh = s.fresh := rfl
@[simp] theorem State.as_poison (n k : Nat) : (s.as n k).poison = s.poison := rfl
@[simp] theorem State.as_keys (n k : Nat) : (s.as n k).keys = s.keys := rfl
@[simp] theorem State.as_key0 (n k : Nat) : (s.as n k).key0 = s.key0 := rfl
@[simp] theorem State.as_blockKey (n k : Nat) : (s.as n k).blockKey = s.blockKey := rfl
@[simp] theorem State.as_hostTouched (n k : Nat) : (s.as n k).hostTouched = s.hostTouched := rfl
@[simp] theorem State.as_harvest (n k : Nat) : (s.as n k).harvest = s.harvest := rfl
@[simp] theorem State.as_defects (n k : Nat) : (s.as n k).defects = s.defects := rfl
@[simp] theorem State.as_fuses (n k : Nat) : (s.as n k).fuses = s.fuses := rfl
@[simp] theorem State.as_rootHash (n k : Nat) : (s.as n k).rootHash = s.rootHash := rfl
@[simp] theorem State.as_pkg (n k : Nat) : (s.as n k).pkg = s.pkg := rfl
@[simp] theorem State.as_msix (n k : Nat) : (s.as n k).msix = s.msix := rfl
@[simp] theorem State.as_hostReply (n k : Nat) : (s.as n k).hostReply = s.hostReply := rfl
@[simp] theorem State.as_agenda (n k : Nat) : (s.as n k).agenda = s.agenda := rfl
@[simp] theorem State.as_steps (n k : Nat) : (s.as n k).steps = s.steps := rfl

@[simp] theorem State.tick_cores : (s.tick).cores = s.cores := rfl
@[simp] theorem State.tick_clusters : (s.tick).clusters = s.clusters := rfl
@[simp] theorem State.tick_layers : (s.tick).layers = s.layers := rfl
@[simp] theorem State.tick_towers : (s.tick).towers = s.towers := rfl
@[simp] theorem State.tick_mem : (s.tick).mem = s.mem := rfl
@[simp] theorem State.tick_fresh : (s.tick).fresh = s.fresh := rfl
@[simp] theorem State.tick_poison : (s.tick).poison = s.poison := rfl
@[simp] theorem State.tick_keys : (s.tick).keys = s.keys := rfl
@[simp] theorem State.tick_key0 : (s.tick).key0 = s.key0 := rfl
@[simp] theorem State.tick_blockKey : (s.tick).blockKey = s.blockKey := rfl
@[simp] theorem State.tick_hostTouched : (s.tick).hostTouched = s.hostTouched := rfl
@[simp] theorem State.tick_harvest : (s.tick).harvest = s.harvest := rfl
@[simp] theorem State.tick_defects : (s.tick).defects = s.defects := rfl
@[simp] theorem State.tick_fuses : (s.tick).fuses = s.fuses := rfl
@[simp] theorem State.tick_rootHash : (s.tick).rootHash = s.rootHash := rfl
@[simp] theorem State.tick_pkg : (s.tick).pkg = s.pkg := rfl
@[simp] theorem State.tick_msix : (s.tick).msix = s.msix := rfl
@[simp] theorem State.tick_hostReply : (s.tick).hostReply = s.hostReply := rfl
@[simp] theorem State.tick_agenda : (s.tick).agenda = s.agenda := rfl
@[simp] theorem State.tick_cur : (s.tick).cur = s.cur := rfl
@[simp] theorem State.tick_curSlot : (s.tick).curSlot = s.curSlot := rfl

@[simp] theorem State.count_cores (tw i : Nat) : (s.count tw i).cores = s.cores := rfl
@[simp] theorem State.count_clusters (tw i : Nat) : (s.count tw i).clusters = s.clusters := rfl
@[simp] theorem State.count_layers (tw i : Nat) : (s.count tw i).layers = s.layers := rfl
@[simp] theorem State.count_mem (tw i : Nat) : (s.count tw i).mem = s.mem := rfl
@[simp] theorem State.count_fresh (tw i : Nat) : (s.count tw i).fresh = s.fresh := rfl
@[simp] theorem State.count_poison (tw i : Nat) : (s.count tw i).poison = s.poison := rfl
@[simp] theorem State.count_keys (tw i : Nat) : (s.count tw i).keys = s.keys := rfl
@[simp] theorem State.count_key0 (tw i : Nat) : (s.count tw i).key0 = s.key0 := rfl
@[simp] theorem State.count_blockKey (tw i : Nat) : (s.count tw i).blockKey = s.blockKey := rfl
@[simp] theorem State.count_hostTouched (tw i : Nat) : (s.count tw i).hostTouched = s.hostTouched := rfl
@[simp] theorem State.count_harvest (tw i : Nat) : (s.count tw i).harvest = s.harvest := rfl
@[simp] theorem State.count_defects (tw i : Nat) : (s.count tw i).defects = s.defects := rfl
@[simp] theorem State.count_fuses (tw i : Nat) : (s.count tw i).fuses = s.fuses := rfl
@[simp] theorem State.count_rootHash (tw i : Nat) : (s.count tw i).rootHash = s.rootHash := rfl
@[simp] theorem State.count_pkg (tw i : Nat) : (s.count tw i).pkg = s.pkg := rfl
@[simp] theorem State.count_msix (tw i : Nat) : (s.count tw i).msix = s.msix := rfl
@[simp] theorem State.count_hostReply (tw i : Nat) : (s.count tw i).hostReply = s.hostReply := rfl
@[simp] theorem State.count_agenda (tw i : Nat) : (s.count tw i).agenda = s.agenda := rfl
@[simp] theorem State.count_cur (tw i : Nat) : (s.count tw i).cur = s.cur := rfl
@[simp] theorem State.count_curSlot (tw i : Nat) : (s.count tw i).curSlot = s.curSlot := rfl
@[simp] theorem State.count_steps (tw i : Nat) : (s.count tw i).steps = s.steps := rfl

@[simp] theorem State.interrupt_cores (v : Nat) : (s.interrupt v).cores = s.cores := rfl
@[simp] theorem State.interrupt_clusters (v : Nat) : (s.interrupt v).clusters = s.clusters := rfl
@[simp] theorem State.interrupt_layers (v : Nat) : (s.interrupt v).layers = s.layers := rfl
@[simp] theorem State.interrupt_towers (v : Nat) : (s.interrupt v).towers = s.towers := rfl
@[simp] theorem State.interrupt_mem (v : Nat) : (s.interrupt v).mem = s.mem := rfl
@[simp] theorem State.interrupt_fresh (v : Nat) : (s.interrupt v).fresh = s.fresh := rfl
@[simp] theorem State.interrupt_poison (v : Nat) : (s.interrupt v).poison = s.poison := rfl
@[simp] theorem State.interrupt_keys (v : Nat) : (s.interrupt v).keys = s.keys := rfl
@[simp] theorem State.interrupt_key0 (v : Nat) : (s.interrupt v).key0 = s.key0 := rfl
@[simp] theorem State.interrupt_blockKey (v : Nat) : (s.interrupt v).blockKey = s.blockKey := rfl
@[simp] theorem State.interrupt_hostTouched (v : Nat) : (s.interrupt v).hostTouched = s.hostTouched := rfl
@[simp] theorem State.interrupt_harvest (v : Nat) : (s.interrupt v).harvest = s.harvest := rfl
@[simp] theorem State.interrupt_defects (v : Nat) : (s.interrupt v).defects = s.defects := rfl
@[simp] theorem State.interrupt_fuses (v : Nat) : (s.interrupt v).fuses = s.fuses := rfl
@[simp] theorem State.interrupt_rootHash (v : Nat) : (s.interrupt v).rootHash = s.rootHash := rfl
@[simp] theorem State.interrupt_pkg (v : Nat) : (s.interrupt v).pkg = s.pkg := rfl
@[simp] theorem State.interrupt_hostReply (v : Nat) : (s.interrupt v).hostReply = s.hostReply := rfl
@[simp] theorem State.interrupt_agenda (v : Nat) : (s.interrupt v).agenda = s.agenda := rfl
@[simp] theorem State.interrupt_cur (v : Nat) : (s.interrupt v).cur = s.cur := rfl
@[simp] theorem State.interrupt_curSlot (v : Nat) : (s.interrupt v).curSlot = s.curSlot := rfl
@[simp] theorem State.interrupt_steps (v : Nat) : (s.interrupt v).steps = s.steps := rfl

@[simp] theorem State.jump_clusters (p : Word) : (s.jump p).clusters = s.clusters := rfl
@[simp] theorem State.jump_layers (p : Word) : (s.jump p).layers = s.layers := rfl
@[simp] theorem State.jump_towers (p : Word) : (s.jump p).towers = s.towers := rfl
@[simp] theorem State.jump_mem (p : Word) : (s.jump p).mem = s.mem := rfl
@[simp] theorem State.jump_fresh (p : Word) : (s.jump p).fresh = s.fresh := rfl
@[simp] theorem State.jump_poison (p : Word) : (s.jump p).poison = s.poison := rfl
@[simp] theorem State.jump_keys (p : Word) : (s.jump p).keys = s.keys := rfl
@[simp] theorem State.jump_key0 (p : Word) : (s.jump p).key0 = s.key0 := rfl
@[simp] theorem State.jump_blockKey (p : Word) : (s.jump p).blockKey = s.blockKey := rfl
@[simp] theorem State.jump_hostTouched (p : Word) : (s.jump p).hostTouched = s.hostTouched := rfl
@[simp] theorem State.jump_harvest (p : Word) : (s.jump p).harvest = s.harvest := rfl
@[simp] theorem State.jump_defects (p : Word) : (s.jump p).defects = s.defects := rfl
@[simp] theorem State.jump_fuses (p : Word) : (s.jump p).fuses = s.fuses := rfl
@[simp] theorem State.jump_rootHash (p : Word) : (s.jump p).rootHash = s.rootHash := rfl
@[simp] theorem State.jump_pkg (p : Word) : (s.jump p).pkg = s.pkg := rfl
@[simp] theorem State.jump_msix (p : Word) : (s.jump p).msix = s.msix := rfl
@[simp] theorem State.jump_hostReply (p : Word) : (s.jump p).hostReply = s.hostReply := rfl
@[simp] theorem State.jump_agenda (p : Word) : (s.jump p).agenda = s.agenda := rfl
@[simp] theorem State.jump_cur (p : Word) : (s.jump p).cur = s.cur := rfl
@[simp] theorem State.jump_curSlot (p : Word) : (s.jump p).curSlot = s.curSlot := rfl
@[simp] theorem State.jump_steps (p : Word) : (s.jump p).steps = s.steps := rfl

@[simp] theorem State.retire_clusters : (s.retire).clusters = s.clusters := rfl
@[simp] theorem State.retire_layers : (s.retire).layers = s.layers := rfl
@[simp] theorem State.retire_towers : (s.retire).towers = s.towers := rfl
@[simp] theorem State.retire_mem : (s.retire).mem = s.mem := rfl
@[simp] theorem State.retire_fresh : (s.retire).fresh = s.fresh := rfl
@[simp] theorem State.retire_poison : (s.retire).poison = s.poison := rfl
@[simp] theorem State.retire_keys : (s.retire).keys = s.keys := rfl
@[simp] theorem State.retire_key0 : (s.retire).key0 = s.key0 := rfl
@[simp] theorem State.retire_blockKey : (s.retire).blockKey = s.blockKey := rfl
@[simp] theorem State.retire_hostTouched : (s.retire).hostTouched = s.hostTouched := rfl
@[simp] theorem State.retire_harvest : (s.retire).harvest = s.harvest := rfl
@[simp] theorem State.retire_defects : (s.retire).defects = s.defects := rfl
@[simp] theorem State.retire_fuses : (s.retire).fuses = s.fuses := rfl
@[simp] theorem State.retire_rootHash : (s.retire).rootHash = s.rootHash := rfl
@[simp] theorem State.retire_pkg : (s.retire).pkg = s.pkg := rfl
@[simp] theorem State.retire_msix : (s.retire).msix = s.msix := rfl
@[simp] theorem State.retire_hostReply : (s.retire).hostReply = s.hostReply := rfl
@[simp] theorem State.retire_agenda : (s.retire).agenda = s.agenda := rfl
@[simp] theorem State.retire_cur : (s.retire).cur = s.cur := rfl
@[simp] theorem State.retire_curSlot : (s.retire).curSlot = s.curSlot := rfl
@[simp] theorem State.retire_steps : (s.retire).steps = s.steps := rfl

@[simp] theorem State.trapReturn_clusters : (s.trapReturn).clusters = s.clusters := rfl
@[simp] theorem State.trapReturn_layers : (s.trapReturn).layers = s.layers := rfl
@[simp] theorem State.trapReturn_towers : (s.trapReturn).towers = s.towers := rfl
@[simp] theorem State.trapReturn_mem : (s.trapReturn).mem = s.mem := rfl
@[simp] theorem State.trapReturn_fresh : (s.trapReturn).fresh = s.fresh := rfl
@[simp] theorem State.trapReturn_poison : (s.trapReturn).poison = s.poison := rfl
@[simp] theorem State.trapReturn_keys : (s.trapReturn).keys = s.keys := rfl
@[simp] theorem State.trapReturn_key0 : (s.trapReturn).key0 = s.key0 := rfl
@[simp] theorem State.trapReturn_blockKey : (s.trapReturn).blockKey = s.blockKey := rfl
@[simp] theorem State.trapReturn_hostTouched : (s.trapReturn).hostTouched = s.hostTouched := rfl
@[simp] theorem State.trapReturn_harvest : (s.trapReturn).harvest = s.harvest := rfl
@[simp] theorem State.trapReturn_defects : (s.trapReturn).defects = s.defects := rfl
@[simp] theorem State.trapReturn_fuses : (s.trapReturn).fuses = s.fuses := rfl
@[simp] theorem State.trapReturn_rootHash : (s.trapReturn).rootHash = s.rootHash := rfl
@[simp] theorem State.trapReturn_pkg : (s.trapReturn).pkg = s.pkg := rfl
@[simp] theorem State.trapReturn_msix : (s.trapReturn).msix = s.msix := rfl
@[simp] theorem State.trapReturn_hostReply : (s.trapReturn).hostReply = s.hostReply := rfl
@[simp] theorem State.trapReturn_agenda : (s.trapReturn).agenda = s.agenda := rfl
@[simp] theorem State.trapReturn_cur : (s.trapReturn).cur = s.cur := rfl
@[simp] theorem State.trapReturn_curSlot : (s.trapReturn).curSlot = s.curSlot := rfl
@[simp] theorem State.trapReturn_steps : (s.trapReturn).steps = s.steps := rfl

@[simp] theorem State.result_clusters (r : BitVec 5) (v : Word) : (s.result r v).clusters = s.clusters := rfl
@[simp] theorem State.result_layers (r : BitVec 5) (v : Word) : (s.result r v).layers = s.layers := rfl
@[simp] theorem State.result_towers (r : BitVec 5) (v : Word) : (s.result r v).towers = s.towers := rfl
@[simp] theorem State.result_mem (r : BitVec 5) (v : Word) : (s.result r v).mem = s.mem := rfl
@[simp] theorem State.result_fresh (r : BitVec 5) (v : Word) : (s.result r v).fresh = s.fresh := rfl
@[simp] theorem State.result_poison (r : BitVec 5) (v : Word) : (s.result r v).poison = s.poison := rfl
@[simp] theorem State.result_keys (r : BitVec 5) (v : Word) : (s.result r v).keys = s.keys := rfl
@[simp] theorem State.result_key0 (r : BitVec 5) (v : Word) : (s.result r v).key0 = s.key0 := rfl
@[simp] theorem State.result_blockKey (r : BitVec 5) (v : Word) : (s.result r v).blockKey = s.blockKey := rfl
@[simp] theorem State.result_hostTouched (r : BitVec 5) (v : Word) : (s.result r v).hostTouched = s.hostTouched := rfl
@[simp] theorem State.result_harvest (r : BitVec 5) (v : Word) : (s.result r v).harvest = s.harvest := rfl
@[simp] theorem State.result_defects (r : BitVec 5) (v : Word) : (s.result r v).defects = s.defects := rfl
@[simp] theorem State.result_fuses (r : BitVec 5) (v : Word) : (s.result r v).fuses = s.fuses := rfl
@[simp] theorem State.result_rootHash (r : BitVec 5) (v : Word) : (s.result r v).rootHash = s.rootHash := rfl
@[simp] theorem State.result_pkg (r : BitVec 5) (v : Word) : (s.result r v).pkg = s.pkg := rfl
@[simp] theorem State.result_msix (r : BitVec 5) (v : Word) : (s.result r v).msix = s.msix := rfl
@[simp] theorem State.result_hostReply (r : BitVec 5) (v : Word) : (s.result r v).hostReply = s.hostReply := rfl
@[simp] theorem State.result_agenda (r : BitVec 5) (v : Word) : (s.result r v).agenda = s.agenda := rfl
@[simp] theorem State.result_cur (r : BitVec 5) (v : Word) : (s.result r v).cur = s.cur := rfl
@[simp] theorem State.result_curSlot (r : BitVec 5) (v : Word) : (s.result r v).curSlot = s.curSlot := rfl
@[simp] theorem State.result_steps (r : BitVec 5) (v : Word) : (s.result r v).steps = s.steps := rfl

variable (t : Thread)

@[simp] theorem Thread.setV_occ (n : Nat) (v : VReg) : (t.setV n v).occ = t.occ := rfl
@[simp] theorem Thread.setV_level (n : Nat) (v : VReg) : (t.setV n v).level = t.level := rfl
@[simp] theorem Thread.setV_pc (n : Nat) (v : VReg) : (t.setV n v).pc = t.pc := rfl
@[simp] theorem Thread.setV_cameFrom (n : Nat) (v : VReg) : (t.setV n v).cameFrom = t.cameFrom := rfl
@[simp] theorem Thread.setV_x (n : Nat) (v : VReg) : (t.setV n v).x = t.x := rfl
@[simp] theorem Thread.setV_sx (n : Nat) (v : VReg) : (t.setV n v).sx = t.sx := rfl
@[simp] theorem Thread.setV_vtag (n : Nat) (v : VReg) : (t.setV n v).vtag = t.vtag := rfl
@[simp] theorem Thread.setV_m (n : Nat) (v : VReg) : (t.setV n v).m = t.m := rfl
@[simp] theorem Thread.setV_mlive (n : Nat) (v : VReg) : (t.setV n v).mlive = t.mlive := rfl
@[simp] theorem Thread.setV_q (n : Nat) (v : VReg) : (t.setV n v).q = t.q := rfl
@[simp] theorem Thread.setV_h (n : Nat) (v : VReg) : (t.setV n v).h = t.h := rfl
@[simp] theorem Thread.setV_fcsr (n : Nat) (v : VReg) : (t.setV n v).fcsr = t.fcsr := rfl
@[simp] theorem Thread.setV_vtype (n : Nat) (v : VReg) : (t.setV n v).vtype = t.vtype := rfl
@[simp] theorem Thread.setV_vl (n : Nat) (v : VReg) : (t.setV n v).vl = t.vl := rfl
@[simp] theorem Thread.setV_estart (n : Nat) (v : VReg) : (t.setV n v).estart = t.estart := rfl
@[simp] theorem Thread.setV_sstart (n : Nat) (v : VReg) : (t.setV n v).sstart = t.sstart := rfl
@[simp] theorem Thread.setV_spset (n : Nat) (v : VReg) : (t.setV n v).spset = t.spset := rfl
@[simp] theorem Thread.setV_dctl (n : Nat) (v : VReg) : (t.setV n v).dctl = t.dctl := rfl
@[simp] theorem Thread.setV_vfill (n : Nat) (v : VReg) : (t.setV n v).vfill = t.vfill := rfl
@[simp] theorem Thread.setV_retired (n : Nat) (v : VReg) : (t.setV n v).retired = t.retired := rfl
@[simp] theorem Thread.setV_wm (n : Nat) (v : VReg) : (t.setV n v).wm = t.wm := rfl
@[simp] theorem Thread.setV_taskid (n : Nat) (v : VReg) : (t.setV n v).taskid = t.taskid := rfl
@[simp] theorem Thread.setV_glease (n : Nat) (v : VReg) : (t.setV n v).glease = t.glease := rfl
@[simp] theorem Thread.setV_ecause (n : Nat) (v : VReg) : (t.setV n v).ecause = t.ecause := rfl
@[simp] theorem Thread.setV_epc (n : Nat) (v : VReg) : (t.setV n v).epc = t.epc := rfl
@[simp] theorem Thread.setV_eval (n : Nat) (v : VReg) : (t.setV n v).eval = t.eval := rfl
@[simp] theorem Thread.setV_eval2 (n : Nat) (v : VReg) : (t.setV n v).eval2 = t.eval2 := rfl
@[simp] theorem Thread.setV_estat (n : Nat) (v : VReg) : (t.setV n v).estat = t.estat := rfl
@[simp] theorem Thread.setV_savep (n : Nat) (v : VReg) : (t.setV n v).savep = t.savep := rfl
@[simp] theorem Thread.setV_ctxid (n : Nat) (v : VReg) : (t.setV n v).ctxid = t.ctxid := rfl
@[simp] theorem Thread.setV_oclaim (n : Nat) (v : VReg) : (t.setV n v).oclaim = t.oclaim := rfl
@[simp] theorem Thread.setV_prio (n : Nat) (v : VReg) : (t.setV n v).prio = t.prio := rfl
@[simp] theorem Thread.setV_post (n : Nat) (v : VReg) : (t.setV n v).post = t.post := rfl
@[simp] theorem Thread.setV_task (n : Nat) (v : VReg) : (t.setV n v).task = t.task := rfl
@[simp] theorem Thread.setV_resume (n : Nat) (v : VReg) : (t.setV n v).resume = t.resume := rfl
@[simp] theorem Thread.setV_staging (n : Nat) (v : VReg) : (t.setV n v).staging = t.staging := rfl
@[simp] theorem Thread.setV_chains (n : Nat) (v : VReg) : (t.setV n v).chains = t.chains := rfl
@[simp] theorem Thread.setV_rewound (n : Nat) (v : VReg) : (t.setV n v).rewound = t.rewound := rfl
@[simp] theorem Thread.setV_regs (n : Nat) (v : VReg) : (t.setV n v).regs = t.regs := rfl
@[simp] theorem Thread.setV_wait (n : Nat) (v : VReg) : (t.setV n v).wait = t.wait := rfl
@[simp] theorem Thread.setV_restart (n : Nat) (v : VReg) : (t.setV n v).restart = t.restart := rfl
@[simp] theorem Thread.setV_watchdog (n : Nat) (v : VReg) : (t.setV n v).watchdog = t.watchdog := rfl
@[simp] theorem Thread.setV_bindStamp (n : Nat) (v : VReg) : (t.setV n v).bindStamp = t.bindStamp := rfl
@[simp] theorem Thread.setV_counted (n : Nat) (v : VReg) : (t.setV n v).counted = t.counted := rfl
@[simp] theorem Thread.setV_since (n : Nat) (v : VReg) : (t.setV n v).since = t.since := rfl

@[simp] theorem Thread.setTag_occ (n : Nat) (g : Word) : (t.setTag n g).occ = t.occ := rfl
@[simp] theorem Thread.setTag_level (n : Nat) (g : Word) : (t.setTag n g).level = t.level := rfl
@[simp] theorem Thread.setTag_pc (n : Nat) (g : Word) : (t.setTag n g).pc = t.pc := rfl
@[simp] theorem Thread.setTag_cameFrom (n : Nat) (g : Word) : (t.setTag n g).cameFrom = t.cameFrom := rfl
@[simp] theorem Thread.setTag_x (n : Nat) (g : Word) : (t.setTag n g).x = t.x := rfl
@[simp] theorem Thread.setTag_sx (n : Nat) (g : Word) : (t.setTag n g).sx = t.sx := rfl
@[simp] theorem Thread.setTag_v (n : Nat) (g : Word) : (t.setTag n g).v = t.v := rfl
@[simp] theorem Thread.setTag_vlive (n : Nat) (g : Word) : (t.setTag n g).vlive = t.vlive := rfl
@[simp] theorem Thread.setTag_m (n : Nat) (g : Word) : (t.setTag n g).m = t.m := rfl
@[simp] theorem Thread.setTag_mlive (n : Nat) (g : Word) : (t.setTag n g).mlive = t.mlive := rfl
@[simp] theorem Thread.setTag_q (n : Nat) (g : Word) : (t.setTag n g).q = t.q := rfl
@[simp] theorem Thread.setTag_h (n : Nat) (g : Word) : (t.setTag n g).h = t.h := rfl
@[simp] theorem Thread.setTag_fcsr (n : Nat) (g : Word) : (t.setTag n g).fcsr = t.fcsr := rfl
@[simp] theorem Thread.setTag_vtype (n : Nat) (g : Word) : (t.setTag n g).vtype = t.vtype := rfl
@[simp] theorem Thread.setTag_vl (n : Nat) (g : Word) : (t.setTag n g).vl = t.vl := rfl
@[simp] theorem Thread.setTag_estart (n : Nat) (g : Word) : (t.setTag n g).estart = t.estart := rfl
@[simp] theorem Thread.setTag_sstart (n : Nat) (g : Word) : (t.setTag n g).sstart = t.sstart := rfl
@[simp] theorem Thread.setTag_spset (n : Nat) (g : Word) : (t.setTag n g).spset = t.spset := rfl
@[simp] theorem Thread.setTag_dctl (n : Nat) (g : Word) : (t.setTag n g).dctl = t.dctl := rfl
@[simp] theorem Thread.setTag_vfill (n : Nat) (g : Word) : (t.setTag n g).vfill = t.vfill := rfl
@[simp] theorem Thread.setTag_retired (n : Nat) (g : Word) : (t.setTag n g).retired = t.retired := rfl
@[simp] theorem Thread.setTag_wm (n : Nat) (g : Word) : (t.setTag n g).wm = t.wm := rfl
@[simp] theorem Thread.setTag_taskid (n : Nat) (g : Word) : (t.setTag n g).taskid = t.taskid := rfl
@[simp] theorem Thread.setTag_glease (n : Nat) (g : Word) : (t.setTag n g).glease = t.glease := rfl
@[simp] theorem Thread.setTag_ecause (n : Nat) (g : Word) : (t.setTag n g).ecause = t.ecause := rfl
@[simp] theorem Thread.setTag_epc (n : Nat) (g : Word) : (t.setTag n g).epc = t.epc := rfl
@[simp] theorem Thread.setTag_eval (n : Nat) (g : Word) : (t.setTag n g).eval = t.eval := rfl
@[simp] theorem Thread.setTag_eval2 (n : Nat) (g : Word) : (t.setTag n g).eval2 = t.eval2 := rfl
@[simp] theorem Thread.setTag_estat (n : Nat) (g : Word) : (t.setTag n g).estat = t.estat := rfl
@[simp] theorem Thread.setTag_savep (n : Nat) (g : Word) : (t.setTag n g).savep = t.savep := rfl
@[simp] theorem Thread.setTag_ctxid (n : Nat) (g : Word) : (t.setTag n g).ctxid = t.ctxid := rfl
@[simp] theorem Thread.setTag_oclaim (n : Nat) (g : Word) : (t.setTag n g).oclaim = t.oclaim := rfl
@[simp] theorem Thread.setTag_prio (n : Nat) (g : Word) : (t.setTag n g).prio = t.prio := rfl
@[simp] theorem Thread.setTag_post (n : Nat) (g : Word) : (t.setTag n g).post = t.post := rfl
@[simp] theorem Thread.setTag_task (n : Nat) (g : Word) : (t.setTag n g).task = t.task := rfl
@[simp] theorem Thread.setTag_resume (n : Nat) (g : Word) : (t.setTag n g).resume = t.resume := rfl
@[simp] theorem Thread.setTag_staging (n : Nat) (g : Word) : (t.setTag n g).staging = t.staging := rfl
@[simp] theorem Thread.setTag_chains (n : Nat) (g : Word) : (t.setTag n g).chains = t.chains := rfl
@[simp] theorem Thread.setTag_rewound (n : Nat) (g : Word) : (t.setTag n g).rewound = t.rewound := rfl
@[simp] theorem Thread.setTag_regs (n : Nat) (g : Word) : (t.setTag n g).regs = t.regs := rfl
@[simp] theorem Thread.setTag_wait (n : Nat) (g : Word) : (t.setTag n g).wait = t.wait := rfl
@[simp] theorem Thread.setTag_restart (n : Nat) (g : Word) : (t.setTag n g).restart = t.restart := rfl
@[simp] theorem Thread.setTag_watchdog (n : Nat) (g : Word) : (t.setTag n g).watchdog = t.watchdog := rfl
@[simp] theorem Thread.setTag_regErr (n : Nat) (g : Word) : (t.setTag n g).regErr = t.regErr := rfl
@[simp] theorem Thread.setTag_bindStamp (n : Nat) (g : Word) : (t.setTag n g).bindStamp = t.bindStamp := rfl
@[simp] theorem Thread.setTag_counted (n : Nat) (g : Word) : (t.setTag n g).counted = t.counted := rfl
@[simp] theorem Thread.setTag_since (n : Nat) (g : Word) : (t.setTag n g).since = t.since := rfl

@[simp] theorem Thread.setM_occ (n : Nat) (v : VReg) : (t.setM n v).occ = t.occ := rfl
@[simp] theorem Thread.setM_level (n : Nat) (v : VReg) : (t.setM n v).level = t.level := rfl
@[simp] theorem Thread.setM_pc (n : Nat) (v : VReg) : (t.setM n v).pc = t.pc := rfl
@[simp] theorem Thread.setM_cameFrom (n : Nat) (v : VReg) : (t.setM n v).cameFrom = t.cameFrom := rfl
@[simp] theorem Thread.setM_x (n : Nat) (v : VReg) : (t.setM n v).x = t.x := rfl
@[simp] theorem Thread.setM_sx (n : Nat) (v : VReg) : (t.setM n v).sx = t.sx := rfl
@[simp] theorem Thread.setM_v (n : Nat) (v : VReg) : (t.setM n v).v = t.v := rfl
@[simp] theorem Thread.setM_vtag (n : Nat) (v : VReg) : (t.setM n v).vtag = t.vtag := rfl
@[simp] theorem Thread.setM_vlive (n : Nat) (v : VReg) : (t.setM n v).vlive = t.vlive := rfl
@[simp] theorem Thread.setM_q (n : Nat) (v : VReg) : (t.setM n v).q = t.q := rfl
@[simp] theorem Thread.setM_h (n : Nat) (v : VReg) : (t.setM n v).h = t.h := rfl
@[simp] theorem Thread.setM_fcsr (n : Nat) (v : VReg) : (t.setM n v).fcsr = t.fcsr := rfl
@[simp] theorem Thread.setM_vtype (n : Nat) (v : VReg) : (t.setM n v).vtype = t.vtype := rfl
@[simp] theorem Thread.setM_vl (n : Nat) (v : VReg) : (t.setM n v).vl = t.vl := rfl
@[simp] theorem Thread.setM_estart (n : Nat) (v : VReg) : (t.setM n v).estart = t.estart := rfl
@[simp] theorem Thread.setM_sstart (n : Nat) (v : VReg) : (t.setM n v).sstart = t.sstart := rfl
@[simp] theorem Thread.setM_spset (n : Nat) (v : VReg) : (t.setM n v).spset = t.spset := rfl
@[simp] theorem Thread.setM_dctl (n : Nat) (v : VReg) : (t.setM n v).dctl = t.dctl := rfl
@[simp] theorem Thread.setM_vfill (n : Nat) (v : VReg) : (t.setM n v).vfill = t.vfill := rfl
@[simp] theorem Thread.setM_retired (n : Nat) (v : VReg) : (t.setM n v).retired = t.retired := rfl
@[simp] theorem Thread.setM_wm (n : Nat) (v : VReg) : (t.setM n v).wm = t.wm := rfl
@[simp] theorem Thread.setM_taskid (n : Nat) (v : VReg) : (t.setM n v).taskid = t.taskid := rfl
@[simp] theorem Thread.setM_glease (n : Nat) (v : VReg) : (t.setM n v).glease = t.glease := rfl
@[simp] theorem Thread.setM_ecause (n : Nat) (v : VReg) : (t.setM n v).ecause = t.ecause := rfl
@[simp] theorem Thread.setM_epc (n : Nat) (v : VReg) : (t.setM n v).epc = t.epc := rfl
@[simp] theorem Thread.setM_eval (n : Nat) (v : VReg) : (t.setM n v).eval = t.eval := rfl
@[simp] theorem Thread.setM_eval2 (n : Nat) (v : VReg) : (t.setM n v).eval2 = t.eval2 := rfl
@[simp] theorem Thread.setM_estat (n : Nat) (v : VReg) : (t.setM n v).estat = t.estat := rfl
@[simp] theorem Thread.setM_savep (n : Nat) (v : VReg) : (t.setM n v).savep = t.savep := rfl
@[simp] theorem Thread.setM_ctxid (n : Nat) (v : VReg) : (t.setM n v).ctxid = t.ctxid := rfl
@[simp] theorem Thread.setM_oclaim (n : Nat) (v : VReg) : (t.setM n v).oclaim = t.oclaim := rfl
@[simp] theorem Thread.setM_prio (n : Nat) (v : VReg) : (t.setM n v).prio = t.prio := rfl
@[simp] theorem Thread.setM_post (n : Nat) (v : VReg) : (t.setM n v).post = t.post := rfl
@[simp] theorem Thread.setM_task (n : Nat) (v : VReg) : (t.setM n v).task = t.task := rfl
@[simp] theorem Thread.setM_resume (n : Nat) (v : VReg) : (t.setM n v).resume = t.resume := rfl
@[simp] theorem Thread.setM_staging (n : Nat) (v : VReg) : (t.setM n v).staging = t.staging := rfl
@[simp] theorem Thread.setM_chains (n : Nat) (v : VReg) : (t.setM n v).chains = t.chains := rfl
@[simp] theorem Thread.setM_rewound (n : Nat) (v : VReg) : (t.setM n v).rewound = t.rewound := rfl
@[simp] theorem Thread.setM_regs (n : Nat) (v : VReg) : (t.setM n v).regs = t.regs := rfl
@[simp] theorem Thread.setM_wait (n : Nat) (v : VReg) : (t.setM n v).wait = t.wait := rfl
@[simp] theorem Thread.setM_restart (n : Nat) (v : VReg) : (t.setM n v).restart = t.restart := rfl
@[simp] theorem Thread.setM_watchdog (n : Nat) (v : VReg) : (t.setM n v).watchdog = t.watchdog := rfl
@[simp] theorem Thread.setM_bindStamp (n : Nat) (v : VReg) : (t.setM n v).bindStamp = t.bindStamp := rfl
@[simp] theorem Thread.setM_counted (n : Nat) (v : VReg) : (t.setM n v).counted = t.counted := rfl
@[simp] theorem Thread.setM_since (n : Nat) (v : VReg) : (t.setM n v).since = t.since := rfl

@[simp] theorem Thread.setQ_occ (n : Nat) (v : BitVec 512) : (t.setQ n v).occ = t.occ := rfl
@[simp] theorem Thread.setQ_level (n : Nat) (v : BitVec 512) : (t.setQ n v).level = t.level := rfl
@[simp] theorem Thread.setQ_pc (n : Nat) (v : BitVec 512) : (t.setQ n v).pc = t.pc := rfl
@[simp] theorem Thread.setQ_cameFrom (n : Nat) (v : BitVec 512) : (t.setQ n v).cameFrom = t.cameFrom := rfl
@[simp] theorem Thread.setQ_x (n : Nat) (v : BitVec 512) : (t.setQ n v).x = t.x := rfl
@[simp] theorem Thread.setQ_sx (n : Nat) (v : BitVec 512) : (t.setQ n v).sx = t.sx := rfl
@[simp] theorem Thread.setQ_v (n : Nat) (v : BitVec 512) : (t.setQ n v).v = t.v := rfl
@[simp] theorem Thread.setQ_vtag (n : Nat) (v : BitVec 512) : (t.setQ n v).vtag = t.vtag := rfl
@[simp] theorem Thread.setQ_vlive (n : Nat) (v : BitVec 512) : (t.setQ n v).vlive = t.vlive := rfl
@[simp] theorem Thread.setQ_m (n : Nat) (v : BitVec 512) : (t.setQ n v).m = t.m := rfl
@[simp] theorem Thread.setQ_mlive (n : Nat) (v : BitVec 512) : (t.setQ n v).mlive = t.mlive := rfl
@[simp] theorem Thread.setQ_h (n : Nat) (v : BitVec 512) : (t.setQ n v).h = t.h := rfl
@[simp] theorem Thread.setQ_fcsr (n : Nat) (v : BitVec 512) : (t.setQ n v).fcsr = t.fcsr := rfl
@[simp] theorem Thread.setQ_vtype (n : Nat) (v : BitVec 512) : (t.setQ n v).vtype = t.vtype := rfl
@[simp] theorem Thread.setQ_vl (n : Nat) (v : BitVec 512) : (t.setQ n v).vl = t.vl := rfl
@[simp] theorem Thread.setQ_estart (n : Nat) (v : BitVec 512) : (t.setQ n v).estart = t.estart := rfl
@[simp] theorem Thread.setQ_sstart (n : Nat) (v : BitVec 512) : (t.setQ n v).sstart = t.sstart := rfl
@[simp] theorem Thread.setQ_spset (n : Nat) (v : BitVec 512) : (t.setQ n v).spset = t.spset := rfl
@[simp] theorem Thread.setQ_dctl (n : Nat) (v : BitVec 512) : (t.setQ n v).dctl = t.dctl := rfl
@[simp] theorem Thread.setQ_vfill (n : Nat) (v : BitVec 512) : (t.setQ n v).vfill = t.vfill := rfl
@[simp] theorem Thread.setQ_retired (n : Nat) (v : BitVec 512) : (t.setQ n v).retired = t.retired := rfl
@[simp] theorem Thread.setQ_wm (n : Nat) (v : BitVec 512) : (t.setQ n v).wm = t.wm := rfl
@[simp] theorem Thread.setQ_taskid (n : Nat) (v : BitVec 512) : (t.setQ n v).taskid = t.taskid := rfl
@[simp] theorem Thread.setQ_glease (n : Nat) (v : BitVec 512) : (t.setQ n v).glease = t.glease := rfl
@[simp] theorem Thread.setQ_ecause (n : Nat) (v : BitVec 512) : (t.setQ n v).ecause = t.ecause := rfl
@[simp] theorem Thread.setQ_epc (n : Nat) (v : BitVec 512) : (t.setQ n v).epc = t.epc := rfl
@[simp] theorem Thread.setQ_eval (n : Nat) (v : BitVec 512) : (t.setQ n v).eval = t.eval := rfl
@[simp] theorem Thread.setQ_eval2 (n : Nat) (v : BitVec 512) : (t.setQ n v).eval2 = t.eval2 := rfl
@[simp] theorem Thread.setQ_estat (n : Nat) (v : BitVec 512) : (t.setQ n v).estat = t.estat := rfl
@[simp] theorem Thread.setQ_savep (n : Nat) (v : BitVec 512) : (t.setQ n v).savep = t.savep := rfl
@[simp] theorem Thread.setQ_ctxid (n : Nat) (v : BitVec 512) : (t.setQ n v).ctxid = t.ctxid := rfl
@[simp] theorem Thread.setQ_oclaim (n : Nat) (v : BitVec 512) : (t.setQ n v).oclaim = t.oclaim := rfl
@[simp] theorem Thread.setQ_prio (n : Nat) (v : BitVec 512) : (t.setQ n v).prio = t.prio := rfl
@[simp] theorem Thread.setQ_post (n : Nat) (v : BitVec 512) : (t.setQ n v).post = t.post := rfl
@[simp] theorem Thread.setQ_task (n : Nat) (v : BitVec 512) : (t.setQ n v).task = t.task := rfl
@[simp] theorem Thread.setQ_resume (n : Nat) (v : BitVec 512) : (t.setQ n v).resume = t.resume := rfl
@[simp] theorem Thread.setQ_staging (n : Nat) (v : BitVec 512) : (t.setQ n v).staging = t.staging := rfl
@[simp] theorem Thread.setQ_chains (n : Nat) (v : BitVec 512) : (t.setQ n v).chains = t.chains := rfl
@[simp] theorem Thread.setQ_rewound (n : Nat) (v : BitVec 512) : (t.setQ n v).rewound = t.rewound := rfl
@[simp] theorem Thread.setQ_regs (n : Nat) (v : BitVec 512) : (t.setQ n v).regs = t.regs := rfl
@[simp] theorem Thread.setQ_wait (n : Nat) (v : BitVec 512) : (t.setQ n v).wait = t.wait := rfl
@[simp] theorem Thread.setQ_restart (n : Nat) (v : BitVec 512) : (t.setQ n v).restart = t.restart := rfl
@[simp] theorem Thread.setQ_watchdog (n : Nat) (v : BitVec 512) : (t.setQ n v).watchdog = t.watchdog := rfl
@[simp] theorem Thread.setQ_bindStamp (n : Nat) (v : BitVec 512) : (t.setQ n v).bindStamp = t.bindStamp := rfl
@[simp] theorem Thread.setQ_counted (n : Nat) (v : BitVec 512) : (t.setQ n v).counted = t.counted := rfl
@[simp] theorem Thread.setQ_since (n : Nat) (v : BitVec 512) : (t.setQ n v).since = t.since := rfl

@[simp] theorem Thread.setH_occ (n : Nat) (v : BitVec 128) : (t.setH n v).occ = t.occ := rfl
@[simp] theorem Thread.setH_level (n : Nat) (v : BitVec 128) : (t.setH n v).level = t.level := rfl
@[simp] theorem Thread.setH_pc (n : Nat) (v : BitVec 128) : (t.setH n v).pc = t.pc := rfl
@[simp] theorem Thread.setH_cameFrom (n : Nat) (v : BitVec 128) : (t.setH n v).cameFrom = t.cameFrom := rfl
@[simp] theorem Thread.setH_x (n : Nat) (v : BitVec 128) : (t.setH n v).x = t.x := rfl
@[simp] theorem Thread.setH_sx (n : Nat) (v : BitVec 128) : (t.setH n v).sx = t.sx := rfl
@[simp] theorem Thread.setH_v (n : Nat) (v : BitVec 128) : (t.setH n v).v = t.v := rfl
@[simp] theorem Thread.setH_vtag (n : Nat) (v : BitVec 128) : (t.setH n v).vtag = t.vtag := rfl
@[simp] theorem Thread.setH_vlive (n : Nat) (v : BitVec 128) : (t.setH n v).vlive = t.vlive := rfl
@[simp] theorem Thread.setH_m (n : Nat) (v : BitVec 128) : (t.setH n v).m = t.m := rfl
@[simp] theorem Thread.setH_mlive (n : Nat) (v : BitVec 128) : (t.setH n v).mlive = t.mlive := rfl
@[simp] theorem Thread.setH_q (n : Nat) (v : BitVec 128) : (t.setH n v).q = t.q := rfl
@[simp] theorem Thread.setH_fcsr (n : Nat) (v : BitVec 128) : (t.setH n v).fcsr = t.fcsr := rfl
@[simp] theorem Thread.setH_vtype (n : Nat) (v : BitVec 128) : (t.setH n v).vtype = t.vtype := rfl
@[simp] theorem Thread.setH_vl (n : Nat) (v : BitVec 128) : (t.setH n v).vl = t.vl := rfl
@[simp] theorem Thread.setH_estart (n : Nat) (v : BitVec 128) : (t.setH n v).estart = t.estart := rfl
@[simp] theorem Thread.setH_sstart (n : Nat) (v : BitVec 128) : (t.setH n v).sstart = t.sstart := rfl
@[simp] theorem Thread.setH_spset (n : Nat) (v : BitVec 128) : (t.setH n v).spset = t.spset := rfl
@[simp] theorem Thread.setH_dctl (n : Nat) (v : BitVec 128) : (t.setH n v).dctl = t.dctl := rfl
@[simp] theorem Thread.setH_vfill (n : Nat) (v : BitVec 128) : (t.setH n v).vfill = t.vfill := rfl
@[simp] theorem Thread.setH_retired (n : Nat) (v : BitVec 128) : (t.setH n v).retired = t.retired := rfl
@[simp] theorem Thread.setH_wm (n : Nat) (v : BitVec 128) : (t.setH n v).wm = t.wm := rfl
@[simp] theorem Thread.setH_taskid (n : Nat) (v : BitVec 128) : (t.setH n v).taskid = t.taskid := rfl
@[simp] theorem Thread.setH_glease (n : Nat) (v : BitVec 128) : (t.setH n v).glease = t.glease := rfl
@[simp] theorem Thread.setH_ecause (n : Nat) (v : BitVec 128) : (t.setH n v).ecause = t.ecause := rfl
@[simp] theorem Thread.setH_epc (n : Nat) (v : BitVec 128) : (t.setH n v).epc = t.epc := rfl
@[simp] theorem Thread.setH_eval (n : Nat) (v : BitVec 128) : (t.setH n v).eval = t.eval := rfl
@[simp] theorem Thread.setH_eval2 (n : Nat) (v : BitVec 128) : (t.setH n v).eval2 = t.eval2 := rfl
@[simp] theorem Thread.setH_estat (n : Nat) (v : BitVec 128) : (t.setH n v).estat = t.estat := rfl
@[simp] theorem Thread.setH_savep (n : Nat) (v : BitVec 128) : (t.setH n v).savep = t.savep := rfl
@[simp] theorem Thread.setH_ctxid (n : Nat) (v : BitVec 128) : (t.setH n v).ctxid = t.ctxid := rfl
@[simp] theorem Thread.setH_oclaim (n : Nat) (v : BitVec 128) : (t.setH n v).oclaim = t.oclaim := rfl
@[simp] theorem Thread.setH_prio (n : Nat) (v : BitVec 128) : (t.setH n v).prio = t.prio := rfl
@[simp] theorem Thread.setH_post (n : Nat) (v : BitVec 128) : (t.setH n v).post = t.post := rfl
@[simp] theorem Thread.setH_task (n : Nat) (v : BitVec 128) : (t.setH n v).task = t.task := rfl
@[simp] theorem Thread.setH_resume (n : Nat) (v : BitVec 128) : (t.setH n v).resume = t.resume := rfl
@[simp] theorem Thread.setH_staging (n : Nat) (v : BitVec 128) : (t.setH n v).staging = t.staging := rfl
@[simp] theorem Thread.setH_chains (n : Nat) (v : BitVec 128) : (t.setH n v).chains = t.chains := rfl
@[simp] theorem Thread.setH_rewound (n : Nat) (v : BitVec 128) : (t.setH n v).rewound = t.rewound := rfl
@[simp] theorem Thread.setH_regs (n : Nat) (v : BitVec 128) : (t.setH n v).regs = t.regs := rfl
@[simp] theorem Thread.setH_wait (n : Nat) (v : BitVec 128) : (t.setH n v).wait = t.wait := rfl
@[simp] theorem Thread.setH_restart (n : Nat) (v : BitVec 128) : (t.setH n v).restart = t.restart := rfl
@[simp] theorem Thread.setH_watchdog (n : Nat) (v : BitVec 128) : (t.setH n v).watchdog = t.watchdog := rfl
@[simp] theorem Thread.setH_bindStamp (n : Nat) (v : BitVec 128) : (t.setH n v).bindStamp = t.bindStamp := rfl
@[simp] theorem Thread.setH_counted (n : Nat) (v : BitVec 128) : (t.setH n v).counted = t.counted := rfl
@[simp] theorem Thread.setH_since (n : Nat) (v : BitVec 128) : (t.setH n v).since = t.since := rfl

@[simp] theorem Thread.releaseV_occ (n : Nat) : (t.releaseV n).occ = t.occ := rfl
@[simp] theorem Thread.releaseV_level (n : Nat) : (t.releaseV n).level = t.level := rfl
@[simp] theorem Thread.releaseV_pc (n : Nat) : (t.releaseV n).pc = t.pc := rfl
@[simp] theorem Thread.releaseV_cameFrom (n : Nat) : (t.releaseV n).cameFrom = t.cameFrom := rfl
@[simp] theorem Thread.releaseV_x (n : Nat) : (t.releaseV n).x = t.x := rfl
@[simp] theorem Thread.releaseV_sx (n : Nat) : (t.releaseV n).sx = t.sx := rfl
@[simp] theorem Thread.releaseV_m (n : Nat) : (t.releaseV n).m = t.m := rfl
@[simp] theorem Thread.releaseV_mlive (n : Nat) : (t.releaseV n).mlive = t.mlive := rfl
@[simp] theorem Thread.releaseV_q (n : Nat) : (t.releaseV n).q = t.q := rfl
@[simp] theorem Thread.releaseV_h (n : Nat) : (t.releaseV n).h = t.h := rfl
@[simp] theorem Thread.releaseV_fcsr (n : Nat) : (t.releaseV n).fcsr = t.fcsr := rfl
@[simp] theorem Thread.releaseV_vtype (n : Nat) : (t.releaseV n).vtype = t.vtype := rfl
@[simp] theorem Thread.releaseV_vl (n : Nat) : (t.releaseV n).vl = t.vl := rfl
@[simp] theorem Thread.releaseV_estart (n : Nat) : (t.releaseV n).estart = t.estart := rfl
@[simp] theorem Thread.releaseV_sstart (n : Nat) : (t.releaseV n).sstart = t.sstart := rfl
@[simp] theorem Thread.releaseV_spset (n : Nat) : (t.releaseV n).spset = t.spset := rfl
@[simp] theorem Thread.releaseV_dctl (n : Nat) : (t.releaseV n).dctl = t.dctl := rfl
@[simp] theorem Thread.releaseV_vfill (n : Nat) : (t.releaseV n).vfill = t.vfill := rfl
@[simp] theorem Thread.releaseV_retired (n : Nat) : (t.releaseV n).retired = t.retired := rfl
@[simp] theorem Thread.releaseV_wm (n : Nat) : (t.releaseV n).wm = t.wm := rfl
@[simp] theorem Thread.releaseV_taskid (n : Nat) : (t.releaseV n).taskid = t.taskid := rfl
@[simp] theorem Thread.releaseV_glease (n : Nat) : (t.releaseV n).glease = t.glease := rfl
@[simp] theorem Thread.releaseV_ecause (n : Nat) : (t.releaseV n).ecause = t.ecause := rfl
@[simp] theorem Thread.releaseV_epc (n : Nat) : (t.releaseV n).epc = t.epc := rfl
@[simp] theorem Thread.releaseV_eval (n : Nat) : (t.releaseV n).eval = t.eval := rfl
@[simp] theorem Thread.releaseV_eval2 (n : Nat) : (t.releaseV n).eval2 = t.eval2 := rfl
@[simp] theorem Thread.releaseV_estat (n : Nat) : (t.releaseV n).estat = t.estat := rfl
@[simp] theorem Thread.releaseV_savep (n : Nat) : (t.releaseV n).savep = t.savep := rfl
@[simp] theorem Thread.releaseV_ctxid (n : Nat) : (t.releaseV n).ctxid = t.ctxid := rfl
@[simp] theorem Thread.releaseV_oclaim (n : Nat) : (t.releaseV n).oclaim = t.oclaim := rfl
@[simp] theorem Thread.releaseV_prio (n : Nat) : (t.releaseV n).prio = t.prio := rfl
@[simp] theorem Thread.releaseV_post (n : Nat) : (t.releaseV n).post = t.post := rfl
@[simp] theorem Thread.releaseV_task (n : Nat) : (t.releaseV n).task = t.task := rfl
@[simp] theorem Thread.releaseV_resume (n : Nat) : (t.releaseV n).resume = t.resume := rfl
@[simp] theorem Thread.releaseV_staging (n : Nat) : (t.releaseV n).staging = t.staging := rfl
@[simp] theorem Thread.releaseV_chains (n : Nat) : (t.releaseV n).chains = t.chains := rfl
@[simp] theorem Thread.releaseV_rewound (n : Nat) : (t.releaseV n).rewound = t.rewound := rfl
@[simp] theorem Thread.releaseV_regs (n : Nat) : (t.releaseV n).regs = t.regs := rfl
@[simp] theorem Thread.releaseV_wait (n : Nat) : (t.releaseV n).wait = t.wait := rfl
@[simp] theorem Thread.releaseV_restart (n : Nat) : (t.releaseV n).restart = t.restart := rfl
@[simp] theorem Thread.releaseV_watchdog (n : Nat) : (t.releaseV n).watchdog = t.watchdog := rfl
@[simp] theorem Thread.releaseV_bindStamp (n : Nat) : (t.releaseV n).bindStamp = t.bindStamp := rfl
@[simp] theorem Thread.releaseV_counted (n : Nat) : (t.releaseV n).counted = t.counted := rfl
@[simp] theorem Thread.releaseV_since (n : Nat) : (t.releaseV n).since = t.since := rfl

@[simp] theorem Thread.releaseM_occ (n : Nat) : (t.releaseM n).occ = t.occ := rfl
@[simp] theorem Thread.releaseM_level (n : Nat) : (t.releaseM n).level = t.level := rfl
@[simp] theorem Thread.releaseM_pc (n : Nat) : (t.releaseM n).pc = t.pc := rfl
@[simp] theorem Thread.releaseM_cameFrom (n : Nat) : (t.releaseM n).cameFrom = t.cameFrom := rfl
@[simp] theorem Thread.releaseM_x (n : Nat) : (t.releaseM n).x = t.x := rfl
@[simp] theorem Thread.releaseM_sx (n : Nat) : (t.releaseM n).sx = t.sx := rfl
@[simp] theorem Thread.releaseM_v (n : Nat) : (t.releaseM n).v = t.v := rfl
@[simp] theorem Thread.releaseM_vtag (n : Nat) : (t.releaseM n).vtag = t.vtag := rfl
@[simp] theorem Thread.releaseM_vlive (n : Nat) : (t.releaseM n).vlive = t.vlive := rfl
@[simp] theorem Thread.releaseM_q (n : Nat) : (t.releaseM n).q = t.q := rfl
@[simp] theorem Thread.releaseM_h (n : Nat) : (t.releaseM n).h = t.h := rfl
@[simp] theorem Thread.releaseM_fcsr (n : Nat) : (t.releaseM n).fcsr = t.fcsr := rfl
@[simp] theorem Thread.releaseM_vtype (n : Nat) : (t.releaseM n).vtype = t.vtype := rfl
@[simp] theorem Thread.releaseM_vl (n : Nat) : (t.releaseM n).vl = t.vl := rfl
@[simp] theorem Thread.releaseM_estart (n : Nat) : (t.releaseM n).estart = t.estart := rfl
@[simp] theorem Thread.releaseM_sstart (n : Nat) : (t.releaseM n).sstart = t.sstart := rfl
@[simp] theorem Thread.releaseM_spset (n : Nat) : (t.releaseM n).spset = t.spset := rfl
@[simp] theorem Thread.releaseM_dctl (n : Nat) : (t.releaseM n).dctl = t.dctl := rfl
@[simp] theorem Thread.releaseM_vfill (n : Nat) : (t.releaseM n).vfill = t.vfill := rfl
@[simp] theorem Thread.releaseM_retired (n : Nat) : (t.releaseM n).retired = t.retired := rfl
@[simp] theorem Thread.releaseM_wm (n : Nat) : (t.releaseM n).wm = t.wm := rfl
@[simp] theorem Thread.releaseM_taskid (n : Nat) : (t.releaseM n).taskid = t.taskid := rfl
@[simp] theorem Thread.releaseM_glease (n : Nat) : (t.releaseM n).glease = t.glease := rfl
@[simp] theorem Thread.releaseM_ecause (n : Nat) : (t.releaseM n).ecause = t.ecause := rfl
@[simp] theorem Thread.releaseM_epc (n : Nat) : (t.releaseM n).epc = t.epc := rfl
@[simp] theorem Thread.releaseM_eval (n : Nat) : (t.releaseM n).eval = t.eval := rfl
@[simp] theorem Thread.releaseM_eval2 (n : Nat) : (t.releaseM n).eval2 = t.eval2 := rfl
@[simp] theorem Thread.releaseM_estat (n : Nat) : (t.releaseM n).estat = t.estat := rfl
@[simp] theorem Thread.releaseM_savep (n : Nat) : (t.releaseM n).savep = t.savep := rfl
@[simp] theorem Thread.releaseM_ctxid (n : Nat) : (t.releaseM n).ctxid = t.ctxid := rfl
@[simp] theorem Thread.releaseM_oclaim (n : Nat) : (t.releaseM n).oclaim = t.oclaim := rfl
@[simp] theorem Thread.releaseM_prio (n : Nat) : (t.releaseM n).prio = t.prio := rfl
@[simp] theorem Thread.releaseM_post (n : Nat) : (t.releaseM n).post = t.post := rfl
@[simp] theorem Thread.releaseM_task (n : Nat) : (t.releaseM n).task = t.task := rfl
@[simp] theorem Thread.releaseM_resume (n : Nat) : (t.releaseM n).resume = t.resume := rfl
@[simp] theorem Thread.releaseM_staging (n : Nat) : (t.releaseM n).staging = t.staging := rfl
@[simp] theorem Thread.releaseM_chains (n : Nat) : (t.releaseM n).chains = t.chains := rfl
@[simp] theorem Thread.releaseM_rewound (n : Nat) : (t.releaseM n).rewound = t.rewound := rfl
@[simp] theorem Thread.releaseM_regs (n : Nat) : (t.releaseM n).regs = t.regs := rfl
@[simp] theorem Thread.releaseM_wait (n : Nat) : (t.releaseM n).wait = t.wait := rfl
@[simp] theorem Thread.releaseM_restart (n : Nat) : (t.releaseM n).restart = t.restart := rfl
@[simp] theorem Thread.releaseM_watchdog (n : Nat) : (t.releaseM n).watchdog = t.watchdog := rfl
@[simp] theorem Thread.releaseM_bindStamp (n : Nat) : (t.releaseM n).bindStamp = t.bindStamp := rfl
@[simp] theorem Thread.releaseM_counted (n : Nat) : (t.releaseM n).counted = t.counted := rfl
@[simp] theorem Thread.releaseM_since (n : Nat) : (t.releaseM n).since = t.since := rfl

@[simp] theorem Thread.keepLanes_occ (l : Nat) : (t.keepLanes l).occ = t.occ := rfl
@[simp] theorem Thread.keepLanes_level (l : Nat) : (t.keepLanes l).level = t.level := rfl
@[simp] theorem Thread.keepLanes_pc (l : Nat) : (t.keepLanes l).pc = t.pc := rfl
@[simp] theorem Thread.keepLanes_cameFrom (l : Nat) : (t.keepLanes l).cameFrom = t.cameFrom := rfl
@[simp] theorem Thread.keepLanes_x (l : Nat) : (t.keepLanes l).x = t.x := rfl
@[simp] theorem Thread.keepLanes_sx (l : Nat) : (t.keepLanes l).sx = t.sx := rfl
@[simp] theorem Thread.keepLanes_vtag (l : Nat) : (t.keepLanes l).vtag = t.vtag := rfl
@[simp] theorem Thread.keepLanes_vlive (l : Nat) : (t.keepLanes l).vlive = t.vlive := rfl
@[simp] theorem Thread.keepLanes_mlive (l : Nat) : (t.keepLanes l).mlive = t.mlive := rfl
@[simp] theorem Thread.keepLanes_q (l : Nat) : (t.keepLanes l).q = t.q := rfl
@[simp] theorem Thread.keepLanes_h (l : Nat) : (t.keepLanes l).h = t.h := rfl
@[simp] theorem Thread.keepLanes_fcsr (l : Nat) : (t.keepLanes l).fcsr = t.fcsr := rfl
@[simp] theorem Thread.keepLanes_vtype (l : Nat) : (t.keepLanes l).vtype = t.vtype := rfl
@[simp] theorem Thread.keepLanes_vl (l : Nat) : (t.keepLanes l).vl = t.vl := rfl
@[simp] theorem Thread.keepLanes_estart (l : Nat) : (t.keepLanes l).estart = t.estart := rfl
@[simp] theorem Thread.keepLanes_sstart (l : Nat) : (t.keepLanes l).sstart = t.sstart := rfl
@[simp] theorem Thread.keepLanes_spset (l : Nat) : (t.keepLanes l).spset = t.spset := rfl
@[simp] theorem Thread.keepLanes_dctl (l : Nat) : (t.keepLanes l).dctl = t.dctl := rfl
@[simp] theorem Thread.keepLanes_vfill (l : Nat) : (t.keepLanes l).vfill = t.vfill := rfl
@[simp] theorem Thread.keepLanes_retired (l : Nat) : (t.keepLanes l).retired = t.retired := rfl
@[simp] theorem Thread.keepLanes_wm (l : Nat) : (t.keepLanes l).wm = t.wm := rfl
@[simp] theorem Thread.keepLanes_taskid (l : Nat) : (t.keepLanes l).taskid = t.taskid := rfl
@[simp] theorem Thread.keepLanes_glease (l : Nat) : (t.keepLanes l).glease = t.glease := rfl
@[simp] theorem Thread.keepLanes_ecause (l : Nat) : (t.keepLanes l).ecause = t.ecause := rfl
@[simp] theorem Thread.keepLanes_epc (l : Nat) : (t.keepLanes l).epc = t.epc := rfl
@[simp] theorem Thread.keepLanes_eval (l : Nat) : (t.keepLanes l).eval = t.eval := rfl
@[simp] theorem Thread.keepLanes_eval2 (l : Nat) : (t.keepLanes l).eval2 = t.eval2 := rfl
@[simp] theorem Thread.keepLanes_estat (l : Nat) : (t.keepLanes l).estat = t.estat := rfl
@[simp] theorem Thread.keepLanes_savep (l : Nat) : (t.keepLanes l).savep = t.savep := rfl
@[simp] theorem Thread.keepLanes_ctxid (l : Nat) : (t.keepLanes l).ctxid = t.ctxid := rfl
@[simp] theorem Thread.keepLanes_oclaim (l : Nat) : (t.keepLanes l).oclaim = t.oclaim := rfl
@[simp] theorem Thread.keepLanes_prio (l : Nat) : (t.keepLanes l).prio = t.prio := rfl
@[simp] theorem Thread.keepLanes_post (l : Nat) : (t.keepLanes l).post = t.post := rfl
@[simp] theorem Thread.keepLanes_task (l : Nat) : (t.keepLanes l).task = t.task := rfl
@[simp] theorem Thread.keepLanes_resume (l : Nat) : (t.keepLanes l).resume = t.resume := rfl
@[simp] theorem Thread.keepLanes_staging (l : Nat) : (t.keepLanes l).staging = t.staging := rfl
@[simp] theorem Thread.keepLanes_chains (l : Nat) : (t.keepLanes l).chains = t.chains := rfl
@[simp] theorem Thread.keepLanes_rewound (l : Nat) : (t.keepLanes l).rewound = t.rewound := rfl
@[simp] theorem Thread.keepLanes_regs (l : Nat) : (t.keepLanes l).regs = t.regs := rfl
@[simp] theorem Thread.keepLanes_wait (l : Nat) : (t.keepLanes l).wait = t.wait := rfl
@[simp] theorem Thread.keepLanes_restart (l : Nat) : (t.keepLanes l).restart = t.restart := rfl
@[simp] theorem Thread.keepLanes_watchdog (l : Nat) : (t.keepLanes l).watchdog = t.watchdog := rfl
@[simp] theorem Thread.keepLanes_regErr (l : Nat) : (t.keepLanes l).regErr = t.regErr := rfl
@[simp] theorem Thread.keepLanes_bindStamp (l : Nat) : (t.keepLanes l).bindStamp = t.bindStamp := rfl
@[simp] theorem Thread.keepLanes_counted (l : Nat) : (t.keepLanes l).counted = t.counted := rfl
@[simp] theorem Thread.keepLanes_since (l : Nat) : (t.keepLanes l).since = t.since := rfl

@[simp] theorem Thread.setX_occ (r : BitVec 5) (v : Word) : (t.setX r v).occ = t.occ := by
  simp only [Thread.setX]; split <;> first | rfl | (split <;> rfl)
@[simp] theorem Thread.setX_level (r : BitVec 5) (v : Word) : (t.setX r v).level = t.level := by
  simp only [Thread.setX]; split <;> first | rfl | (split <;> rfl)
@[simp] theorem Thread.setX_pc (r : BitVec 5) (v : Word) : (t.setX r v).pc = t.pc := by
  simp only [Thread.setX]; split <;> first | rfl | (split <;> rfl)
@[simp] theorem Thread.setX_cameFrom (r : BitVec 5) (v : Word) : (t.setX r v).cameFrom = t.cameFrom := by
  simp only [Thread.setX]; split <;> first | rfl | (split <;> rfl)
@[simp] theorem Thread.setX_v (r : BitVec 5) (v : Word) : (t.setX r v).v = t.v := by
  simp only [Thread.setX]; split <;> first | rfl | (split <;> rfl)
@[simp] theorem Thread.setX_vtag (r : BitVec 5) (v : Word) : (t.setX r v).vtag = t.vtag := by
  simp only [Thread.setX]; split <;> first | rfl | (split <;> rfl)
@[simp] theorem Thread.setX_vlive (r : BitVec 5) (v : Word) : (t.setX r v).vlive = t.vlive := by
  simp only [Thread.setX]; split <;> first | rfl | (split <;> rfl)
@[simp] theorem Thread.setX_m (r : BitVec 5) (v : Word) : (t.setX r v).m = t.m := by
  simp only [Thread.setX]; split <;> first | rfl | (split <;> rfl)
@[simp] theorem Thread.setX_mlive (r : BitVec 5) (v : Word) : (t.setX r v).mlive = t.mlive := by
  simp only [Thread.setX]; split <;> first | rfl | (split <;> rfl)
@[simp] theorem Thread.setX_q (r : BitVec 5) (v : Word) : (t.setX r v).q = t.q := by
  simp only [Thread.setX]; split <;> first | rfl | (split <;> rfl)
@[simp] theorem Thread.setX_h (r : BitVec 5) (v : Word) : (t.setX r v).h = t.h := by
  simp only [Thread.setX]; split <;> first | rfl | (split <;> rfl)
@[simp] theorem Thread.setX_fcsr (r : BitVec 5) (v : Word) : (t.setX r v).fcsr = t.fcsr := by
  simp only [Thread.setX]; split <;> first | rfl | (split <;> rfl)
@[simp] theorem Thread.setX_vtype (r : BitVec 5) (v : Word) : (t.setX r v).vtype = t.vtype := by
  simp only [Thread.setX]; split <;> first | rfl | (split <;> rfl)
@[simp] theorem Thread.setX_vl (r : BitVec 5) (v : Word) : (t.setX r v).vl = t.vl := by
  simp only [Thread.setX]; split <;> first | rfl | (split <;> rfl)
@[simp] theorem Thread.setX_estart (r : BitVec 5) (v : Word) : (t.setX r v).estart = t.estart := by
  simp only [Thread.setX]; split <;> first | rfl | (split <;> rfl)
@[simp] theorem Thread.setX_sstart (r : BitVec 5) (v : Word) : (t.setX r v).sstart = t.sstart := by
  simp only [Thread.setX]; split <;> first | rfl | (split <;> rfl)
@[simp] theorem Thread.setX_spset (r : BitVec 5) (v : Word) : (t.setX r v).spset = t.spset := by
  simp only [Thread.setX]; split <;> first | rfl | (split <;> rfl)
@[simp] theorem Thread.setX_dctl (r : BitVec 5) (v : Word) : (t.setX r v).dctl = t.dctl := by
  simp only [Thread.setX]; split <;> first | rfl | (split <;> rfl)
@[simp] theorem Thread.setX_vfill (r : BitVec 5) (v : Word) : (t.setX r v).vfill = t.vfill := by
  simp only [Thread.setX]; split <;> first | rfl | (split <;> rfl)
@[simp] theorem Thread.setX_retired (r : BitVec 5) (v : Word) : (t.setX r v).retired = t.retired := by
  simp only [Thread.setX]; split <;> first | rfl | (split <;> rfl)
@[simp] theorem Thread.setX_wm (r : BitVec 5) (v : Word) : (t.setX r v).wm = t.wm := by
  simp only [Thread.setX]; split <;> first | rfl | (split <;> rfl)
@[simp] theorem Thread.setX_taskid (r : BitVec 5) (v : Word) : (t.setX r v).taskid = t.taskid := by
  simp only [Thread.setX]; split <;> first | rfl | (split <;> rfl)
@[simp] theorem Thread.setX_glease (r : BitVec 5) (v : Word) : (t.setX r v).glease = t.glease := by
  simp only [Thread.setX]; split <;> first | rfl | (split <;> rfl)
@[simp] theorem Thread.setX_ecause (r : BitVec 5) (v : Word) : (t.setX r v).ecause = t.ecause := by
  simp only [Thread.setX]; split <;> first | rfl | (split <;> rfl)
@[simp] theorem Thread.setX_epc (r : BitVec 5) (v : Word) : (t.setX r v).epc = t.epc := by
  simp only [Thread.setX]; split <;> first | rfl | (split <;> rfl)
@[simp] theorem Thread.setX_eval (r : BitVec 5) (v : Word) : (t.setX r v).eval = t.eval := by
  simp only [Thread.setX]; split <;> first | rfl | (split <;> rfl)
@[simp] theorem Thread.setX_eval2 (r : BitVec 5) (v : Word) : (t.setX r v).eval2 = t.eval2 := by
  simp only [Thread.setX]; split <;> first | rfl | (split <;> rfl)
@[simp] theorem Thread.setX_estat (r : BitVec 5) (v : Word) : (t.setX r v).estat = t.estat := by
  simp only [Thread.setX]; split <;> first | rfl | (split <;> rfl)
@[simp] theorem Thread.setX_savep (r : BitVec 5) (v : Word) : (t.setX r v).savep = t.savep := by
  simp only [Thread.setX]; split <;> first | rfl | (split <;> rfl)
@[simp] theorem Thread.setX_ctxid (r : BitVec 5) (v : Word) : (t.setX r v).ctxid = t.ctxid := by
  simp only [Thread.setX]; split <;> first | rfl | (split <;> rfl)
@[simp] theorem Thread.setX_oclaim (r : BitVec 5) (v : Word) : (t.setX r v).oclaim = t.oclaim := by
  simp only [Thread.setX]; split <;> first | rfl | (split <;> rfl)
@[simp] theorem Thread.setX_prio (r : BitVec 5) (v : Word) : (t.setX r v).prio = t.prio := by
  simp only [Thread.setX]; split <;> first | rfl | (split <;> rfl)
@[simp] theorem Thread.setX_post (r : BitVec 5) (v : Word) : (t.setX r v).post = t.post := by
  simp only [Thread.setX]; split <;> first | rfl | (split <;> rfl)
@[simp] theorem Thread.setX_task (r : BitVec 5) (v : Word) : (t.setX r v).task = t.task := by
  simp only [Thread.setX]; split <;> first | rfl | (split <;> rfl)
@[simp] theorem Thread.setX_resume (r : BitVec 5) (v : Word) : (t.setX r v).resume = t.resume := by
  simp only [Thread.setX]; split <;> first | rfl | (split <;> rfl)
@[simp] theorem Thread.setX_staging (r : BitVec 5) (v : Word) : (t.setX r v).staging = t.staging := by
  simp only [Thread.setX]; split <;> first | rfl | (split <;> rfl)
@[simp] theorem Thread.setX_chains (r : BitVec 5) (v : Word) : (t.setX r v).chains = t.chains := by
  simp only [Thread.setX]; split <;> first | rfl | (split <;> rfl)
@[simp] theorem Thread.setX_rewound (r : BitVec 5) (v : Word) : (t.setX r v).rewound = t.rewound := by
  simp only [Thread.setX]; split <;> first | rfl | (split <;> rfl)
@[simp] theorem Thread.setX_regs (r : BitVec 5) (v : Word) : (t.setX r v).regs = t.regs := by
  simp only [Thread.setX]; split <;> first | rfl | (split <;> rfl)
@[simp] theorem Thread.setX_wait (r : BitVec 5) (v : Word) : (t.setX r v).wait = t.wait := by
  simp only [Thread.setX]; split <;> first | rfl | (split <;> rfl)
@[simp] theorem Thread.setX_restart (r : BitVec 5) (v : Word) : (t.setX r v).restart = t.restart := by
  simp only [Thread.setX]; split <;> first | rfl | (split <;> rfl)
@[simp] theorem Thread.setX_watchdog (r : BitVec 5) (v : Word) : (t.setX r v).watchdog = t.watchdog := by
  simp only [Thread.setX]; split <;> first | rfl | (split <;> rfl)
@[simp] theorem Thread.setX_bindStamp (r : BitVec 5) (v : Word) : (t.setX r v).bindStamp = t.bindStamp := by
  simp only [Thread.setX]; split <;> first | rfl | (split <;> rfl)
@[simp] theorem Thread.setX_counted (r : BitVec 5) (v : Word) : (t.setX r v).counted = t.counted := by
  simp only [Thread.setX]; split <;> first | rfl | (split <;> rfl)
@[simp] theorem Thread.setX_since (r : BitVec 5) (v : Word) : (t.setX r v).since = t.since := by
  simp only [Thread.setX]; split <;> first | rfl | (split <;> rfl)

/-! ### Units of the array, written as a whole -/

variable (c : Core)

@[simp] theorem Core.putTag_threads (u : Nat) (g : Word) : (c.putTag u g).threads = c.threads := rfl
@[simp] theorem Core.putTag_xb (u : Nat) (g : Word) : (c.putTag u g).xb = c.xb := rfl
@[simp] theorem Core.putTag_ovh (u : Nat) (g : Word) : (c.putTag u g).ovh = c.ovh := rfl
@[simp] theorem Core.putTag_evec (u : Nat) (g : Word) : (c.putTag u g).evec = c.evec := rfl
@[simp] theorem Core.putTag_lpart (u : Nat) (g : Word) : (c.putTag u g).lpart = c.lpart := rfl
@[simp] theorem Core.putTag_town (u : Nat) (g : Word) : (c.putTag u g).town = c.town := rfl
@[simp] theorem Core.putTag_lown (u : Nat) (g : Word) : (c.putTag u g).lown = c.lown := rfl
@[simp] theorem Core.putTag_bkey (u : Nat) (g : Word) : (c.putTag u g).bkey = c.bkey := rfl
@[simp] theorem Core.putTag_einj (u : Nat) (g : Word) : (c.putTag u g).einj = c.einj := rfl
@[simp] theorem Core.putTag_hent (u : Nat) (g : Word) : (c.putTag u g).hent = c.hent := rfl
@[simp] theorem Core.putTag_inbox (u : Nat) (g : Word) : (c.putTag u g).inbox = c.inbox := rfl
@[simp] theorem Core.putTag_net (u : Nat) (g : Word) : (c.putTag u g).net = c.net := rfl
@[simp] theorem Core.putTag_lastChan (u : Nat) (g : Word) : (c.putTag u g).lastChan = c.lastChan := rfl
@[simp] theorem Core.putTag_chanUse (u : Nat) (g : Word) : (c.putTag u g).chanUse = c.chanUse := rfl
@[simp] theorem Core.putTag_acc (u : Nat) (g : Word) : (c.putTag u g).acc = c.acc := rfl
@[simp] theorem Core.putTag_latch (u : Nat) (g : Word) : (c.putTag u g).latch = c.latch := rfl
@[simp] theorem Core.putTag_zeroing (u : Nat) (g : Word) : (c.putTag u g).zeroing = c.zeroing := rfl
@[simp] theorem Core.putTag_ready (u : Nat) (g : Word) : (c.putTag u g).ready = c.ready := rfl
@[simp] theorem Core.putTag_lastIssued (u : Nat) (g : Word) : (c.putTag u g).lastIssued = c.lastIssued := rfl
@[simp] theorem Core.putTag_slices (u : Nat) (g : Word) : (c.putTag u g).slices = c.slices := rfl
@[simp] theorem Core.putTag_resv (u : Nat) (g : Word) : (c.putTag u g).resv = c.resv := rfl

@[simp] theorem Core.endUnitMarks_threads (u : Nat) : (c.endUnitMarks u).threads = c.threads := rfl
@[simp] theorem Core.endUnitMarks_xb (u : Nat) : (c.endUnitMarks u).xb = c.xb := rfl
@[simp] theorem Core.endUnitMarks_ovh (u : Nat) : (c.endUnitMarks u).ovh = c.ovh := rfl
@[simp] theorem Core.endUnitMarks_evec (u : Nat) : (c.endUnitMarks u).evec = c.evec := rfl
@[simp] theorem Core.endUnitMarks_lpart (u : Nat) : (c.endUnitMarks u).lpart = c.lpart := rfl
@[simp] theorem Core.endUnitMarks_town (u : Nat) : (c.endUnitMarks u).town = c.town := rfl
@[simp] theorem Core.endUnitMarks_lown (u : Nat) : (c.endUnitMarks u).lown = c.lown := rfl
@[simp] theorem Core.endUnitMarks_bkey (u : Nat) : (c.endUnitMarks u).bkey = c.bkey := rfl
@[simp] theorem Core.endUnitMarks_einj (u : Nat) : (c.endUnitMarks u).einj = c.einj := rfl
@[simp] theorem Core.endUnitMarks_hent (u : Nat) : (c.endUnitMarks u).hent = c.hent := rfl
@[simp] theorem Core.endUnitMarks_inbox (u : Nat) : (c.endUnitMarks u).inbox = c.inbox := rfl
@[simp] theorem Core.endUnitMarks_net (u : Nat) : (c.endUnitMarks u).net = c.net := rfl
@[simp] theorem Core.endUnitMarks_lastChan (u : Nat) : (c.endUnitMarks u).lastChan = c.lastChan := rfl
@[simp] theorem Core.endUnitMarks_chanUse (u : Nat) : (c.endUnitMarks u).chanUse = c.chanUse := rfl
@[simp] theorem Core.endUnitMarks_acc (u : Nat) : (c.endUnitMarks u).acc = c.acc := rfl
@[simp] theorem Core.endUnitMarks_ttag (u : Nat) : (c.endUnitMarks u).ttag = c.ttag := rfl
@[simp] theorem Core.endUnitMarks_latch (u : Nat) : (c.endUnitMarks u).latch = c.latch := rfl
@[simp] theorem Core.endUnitMarks_zeroing (u : Nat) : (c.endUnitMarks u).zeroing = c.zeroing := rfl
@[simp] theorem Core.endUnitMarks_ready (u : Nat) : (c.endUnitMarks u).ready = c.ready := rfl
@[simp] theorem Core.endUnitMarks_lastIssued (u : Nat) : (c.endUnitMarks u).lastIssued = c.lastIssued := rfl
@[simp] theorem Core.endUnitMarks_slices (u : Nat) : (c.endUnitMarks u).slices = c.slices := rfl
@[simp] theorem Core.endUnitMarks_resv (u : Nat) : (c.endUnitMarks u).resv = c.resv := rfl

@[simp] theorem Core.putTile_threads (u : Nat) (r : Vector VReg 32) (g : Word) : (c.putTile u r g).threads = c.threads := rfl
@[simp] theorem Core.putTile_xb (u : Nat) (r : Vector VReg 32) (g : Word) : (c.putTile u r g).xb = c.xb := rfl
@[simp] theorem Core.putTile_ovh (u : Nat) (r : Vector VReg 32) (g : Word) : (c.putTile u r g).ovh = c.ovh := rfl
@[simp] theorem Core.putTile_evec (u : Nat) (r : Vector VReg 32) (g : Word) : (c.putTile u r g).evec = c.evec := rfl
@[simp] theorem Core.putTile_lpart (u : Nat) (r : Vector VReg 32) (g : Word) : (c.putTile u r g).lpart = c.lpart := rfl
@[simp] theorem Core.putTile_town (u : Nat) (r : Vector VReg 32) (g : Word) : (c.putTile u r g).town = c.town := rfl
@[simp] theorem Core.putTile_lown (u : Nat) (r : Vector VReg 32) (g : Word) : (c.putTile u r g).lown = c.lown := rfl
@[simp] theorem Core.putTile_bkey (u : Nat) (r : Vector VReg 32) (g : Word) : (c.putTile u r g).bkey = c.bkey := rfl
@[simp] theorem Core.putTile_einj (u : Nat) (r : Vector VReg 32) (g : Word) : (c.putTile u r g).einj = c.einj := rfl
@[simp] theorem Core.putTile_hent (u : Nat) (r : Vector VReg 32) (g : Word) : (c.putTile u r g).hent = c.hent := rfl
@[simp] theorem Core.putTile_inbox (u : Nat) (r : Vector VReg 32) (g : Word) : (c.putTile u r g).inbox = c.inbox := rfl
@[simp] theorem Core.putTile_net (u : Nat) (r : Vector VReg 32) (g : Word) : (c.putTile u r g).net = c.net := rfl
@[simp] theorem Core.putTile_lastChan (u : Nat) (r : Vector VReg 32) (g : Word) : (c.putTile u r g).lastChan = c.lastChan := rfl
@[simp] theorem Core.putTile_chanUse (u : Nat) (r : Vector VReg 32) (g : Word) : (c.putTile u r g).chanUse = c.chanUse := rfl
@[simp] theorem Core.putTile_latch (u : Nat) (r : Vector VReg 32) (g : Word) : (c.putTile u r g).latch = c.latch := rfl
@[simp] theorem Core.putTile_zeroing (u : Nat) (r : Vector VReg 32) (g : Word) : (c.putTile u r g).zeroing = c.zeroing := rfl
@[simp] theorem Core.putTile_ready (u : Nat) (r : Vector VReg 32) (g : Word) : (c.putTile u r g).ready = c.ready := rfl
@[simp] theorem Core.putTile_lastIssued (u : Nat) (r : Vector VReg 32) (g : Word) : (c.putTile u r g).lastIssued = c.lastIssued := rfl
@[simp] theorem Core.putTile_slices (u : Nat) (r : Vector VReg 32) (g : Word) : (c.putTile u r g).slices = c.slices := rfl
@[simp] theorem Core.putTile_resv (u : Nat) (r : Vector VReg 32) (g : Word) : (c.putTile u r g).resv = c.resv := rfl

@[simp] theorem Core.putLatch_threads (u : Nat) (l : Latch) : (c.putLatch u l).threads = c.threads := rfl
@[simp] theorem Core.putLatch_xb (u : Nat) (l : Latch) : (c.putLatch u l).xb = c.xb := rfl
@[simp] theorem Core.putLatch_ovh (u : Nat) (l : Latch) : (c.putLatch u l).ovh = c.ovh := rfl
@[simp] theorem Core.putLatch_evec (u : Nat) (l : Latch) : (c.putLatch u l).evec = c.evec := rfl
@[simp] theorem Core.putLatch_lpart (u : Nat) (l : Latch) : (c.putLatch u l).lpart = c.lpart := rfl
@[simp] theorem Core.putLatch_town (u : Nat) (l : Latch) : (c.putLatch u l).town = c.town := rfl
@[simp] theorem Core.putLatch_lown (u : Nat) (l : Latch) : (c.putLatch u l).lown = c.lown := rfl
@[simp] theorem Core.putLatch_bkey (u : Nat) (l : Latch) : (c.putLatch u l).bkey = c.bkey := rfl
@[simp] theorem Core.putLatch_einj (u : Nat) (l : Latch) : (c.putLatch u l).einj = c.einj := rfl
@[simp] theorem Core.putLatch_hent (u : Nat) (l : Latch) : (c.putLatch u l).hent = c.hent := rfl
@[simp] theorem Core.putLatch_inbox (u : Nat) (l : Latch) : (c.putLatch u l).inbox = c.inbox := rfl
@[simp] theorem Core.putLatch_net (u : Nat) (l : Latch) : (c.putLatch u l).net = c.net := rfl
@[simp] theorem Core.putLatch_lastChan (u : Nat) (l : Latch) : (c.putLatch u l).lastChan = c.lastChan := rfl
@[simp] theorem Core.putLatch_chanUse (u : Nat) (l : Latch) : (c.putLatch u l).chanUse = c.chanUse := rfl
@[simp] theorem Core.putLatch_acc (u : Nat) (l : Latch) : (c.putLatch u l).acc = c.acc := rfl
@[simp] theorem Core.putLatch_ttag (u : Nat) (l : Latch) : (c.putLatch u l).ttag = c.ttag := rfl
@[simp] theorem Core.putLatch_zeroing (u : Nat) (l : Latch) : (c.putLatch u l).zeroing = c.zeroing := rfl
@[simp] theorem Core.putLatch_ready (u : Nat) (l : Latch) : (c.putLatch u l).ready = c.ready := rfl
@[simp] theorem Core.putLatch_lastIssued (u : Nat) (l : Latch) : (c.putLatch u l).lastIssued = c.lastIssued := rfl
@[simp] theorem Core.putLatch_slices (u : Nat) (l : Latch) : (c.putLatch u l).slices = c.slices := rfl
@[simp] theorem Core.putLatch_resv (u : Nat) (l : Latch) : (c.putLatch u l).resv = c.resv := rfl

end Sys2Proof.Machine
end

