-- ==== Sys2Proof/Laws/Agents.lean ====
section
/-!
SUPPORT. Reading what an update wrote: the sparse maps, cores, clusters, layers, towers and threads.
-/
namespace Sys2Proof.Machine

theorem look_put_same {α : Type} (m : List (Nat × α)) (n : Nat) (v : α) : look (put m n v) n = some v := by
  induction m with
  | nil => simp [put, look]
  | cons p r ih =>
    obtain ⟨k, w⟩ := p
    simp only [put]
    split
    · simp [look]
    · split
      · simp [look]
      · simp [look, *]

theorem look_put_other {α : Type} (m : List (Nat × α)) {n k : Nat} (v : α) (h : k ≠ n) :
    look (put m n v) k = look m k := by
  induction m with
  | nil => simp [put, look, Ne.symm h]
  | cons p r ih =>
    obtain ⟨j, w⟩ := p
    simp only [put]
    split
    · rename_i e; subst e; simp [look, Ne.symm h]
    · split
      · simp [look, Ne.symm h]
      · simp [look, ih]

theorem look_put {α : Type} (m : List (Nat × α)) (n k : Nat) (v : α) :
    look (put m n v) k = if k = n then some v else look m k := by
  split
  · rename_i h; subst h; exact look_put_same m k v
  · exact look_put_other m v (by assumption)

/-! ### Agents -/

theorem State.core_putCore (s : State) (n k : Nat) (c : Core) :
    (s.putCore n c).core k = if k = n then c else s.core k := by
  simp only [State.core, State.putCore, look_put]; split <;> rfl
@[simp] theorem State.core_putCore_same (s : State) (n : Nat) (c : Core) : (s.putCore n c).core n = c := by
  simp [State.core_putCore]
theorem State.cluster_putCluster (s : State) (n k : Nat) (c : Cluster) :
    (s.putCluster n c).cluster k = if k = n then c else s.cluster k := by
  simp only [State.cluster, State.putCluster, look_put]; split <;> rfl
@[simp] theorem State.cluster_putCluster_same (s : State) (n : Nat) (c : Cluster) : (s.putCluster n c).cluster n = c := by
  simp [State.cluster_putCluster]
theorem State.layer_putLayer (s : State) (n k : Nat) (l : Layer) :
    (s.putLayer n l).layer k = if k = n then l else s.layer k := by
  simp only [State.layer, State.putLayer, look_put]; split <;> rfl
@[simp] theorem State.layer_putLayer_same (s : State) (n : Nat) (l : Layer) : (s.putLayer n l).layer n = l := by
  simp [State.layer_putLayer]
theorem State.tower_putTower (s : State) (n k : Nat) (t : Tower) :
    (s.putTower n t).tower k = if k = n then t else s.tower k := by
  simp only [State.tower, State.putTower, look_put]; split <;> rfl
@[simp] theorem State.tower_putTower_same (s : State) (n : Nat) (t : Tower) : (s.putTower n t).tower n = t := by
  simp [State.tower_putTower]

/-- Agents of one kind read the same through an update of another kind. -/
theorem State.core_congr {s t : State} (h : t.cores = s.cores) (n : Nat) : t.core n = s.core n := by simp [State.core, h]
theorem State.cluster_congr {s t : State} (h : t.clusters = s.clusters) (n : Nat) : t.cluster n = s.cluster n := by
  simp [State.cluster, h]
theorem State.layer_congr {s t : State} (h : t.layers = s.layers) (n : Nat) : t.layer n = s.layer n := by
  simp [State.layer, h]
theorem State.tower_congr {s t : State} (h : t.towers = s.towers) (n : Nat) : t.tower n = s.tower n := by
  simp [State.tower, h]
theorem State.thread_congr {s t : State} (h : t.cores = s.cores) (n k : Nat) : t.thread n k = s.thread n k := by
  simp [State.thread, State.core, h]

@[simp] theorem State.core_putCluster (s : State) (n k : Nat) (c : Cluster) : (s.putCluster n c).core k = s.core k := rfl
@[simp] theorem State.core_putLayer (s : State) (n k : Nat) (l : Layer) : (s.putLayer n l).core k = s.core k := rfl
@[simp] theorem State.core_putTower (s : State) (n k : Nat) (t : Tower) : (s.putTower n t).core k = s.core k := rfl
@[simp] theorem State.cluster_putCore (s : State) (n k : Nat) (c : Core) : (s.putCore n c).cluster k = s.cluster k := rfl
@[simp] theorem State.cluster_putLayer (s : State) (n k : Nat) (l : Layer) : (s.putLayer n l).cluster k = s.cluster k := rfl
@[simp] theorem State.cluster_putTower (s : State) (n k : Nat) (t : Tower) : (s.putTower n t).cluster k = s.cluster k := rfl
@[simp] theorem State.layer_putCore (s : State) (n k : Nat) (c : Core) : (s.putCore n c).layer k = s.layer k := rfl
@[simp] theorem State.layer_putCluster (s : State) (n k : Nat) (c : Cluster) : (s.putCluster n c).layer k = s.layer k := rfl
@[simp] theorem State.layer_putTower (s : State) (n k : Nat) (t : Tower) : (s.putTower n t).layer k = s.layer k := rfl
@[simp] theorem State.tower_putCore (s : State) (n k : Nat) (c : Core) : (s.putCore n c).tower k = s.tower k := rfl
@[simp] theorem State.tower_putCluster (s : State) (n k : Nat) (c : Cluster) : (s.putCluster n c).tower k = s.tower k := rfl
@[simp] theorem State.tower_putLayer (s : State) (n k : Nat) (l : Layer) : (s.putLayer n l).tower k = s.tower k := rfl

/-! ### Threads -/

theorem State.core_putThread (s : State) (n k : Nat) (t : Thread) (j : Nat) :
    (s.putThread n k t).core j =
      if j = n then { s.core n with threads := (s.core n).threads.setIfInBounds k t } else s.core j := by
  simp only [State.putThread, State.modCore, State.core_putCore]

theorem State.thread_putThread (s : State) {n k : Nat} (t : Thread) (hk : k < 4) (m j : Nat) :
    (s.putThread n k t).thread m j = if m = n ∧ j = k then t else s.thread m j := by
  simp only [State.thread, State.core_putThread]
  by_cases hm : m = n
  · subst hm
    by_cases hj : j = k
    · subst hj; simp [Vector.getD, hk]
    · have : ¬ k = j := fun h => hj h.symm
      simp [hj, Vector.getD, this]
  · simp [hm]

@[simp] theorem State.thread_putThread_same (s : State) {n k : Nat} (t : Thread) (hk : k < 4) :
    (s.putThread n k t).thread n k = t := by simp [State.thread_putThread s t hk]

theorem State.me_eq (s : State) : s.me = s.thread s.cur s.curSlot := rfl
@[simp] theorem State.me_putMe (s : State) (t : Thread) : (s.putMe t).me = t := by
  simp [State.me, State.putMe, State.thread_putThread s t s.curSlot.isLt]
@[simp] theorem State.me_modMe (s : State) (f : Thread → Thread) : (s.modMe f).me = f s.me := by
  simp [State.modMe]


/-- A change of the current thread leaves every other core and every other slot alone. -/
theorem State.core_putMe_other (s : State) (t : Thread) {n : Nat} (h : n ≠ s.cur) : (s.putMe t).core n = s.core n := by
  simp [State.putMe, State.core_putThread, h]
theorem State.myCore_putMe (s : State) (t : Thread) :
    (s.putMe t).myCore = { s.myCore with threads := s.myCore.threads.setIfInBounds s.curSlot t } := by
  simp [State.myCore, State.putMe, State.core_putThread]
theorem State.thread_putMe_other (s : State) (t : Thread) {n k : Nat} (h : ¬(n = s.cur ∧ k = s.curSlot)) :
    (s.putMe t).thread n k = s.thread n k := by
  simp [State.putMe, State.thread_putThread s t s.curSlot.isLt, h]

end Sys2Proof.Machine
end

