-- ==== Sys2Proof/Laws/Registers.lean ====
section
/-!
SUPPORT. What the operations on the current thread do: register writes, the ends of an instruction, traps and their return.
-/
namespace Sys2Proof.Machine

/-! ### Frames of the current thread -/

theorem State.onlyMe_putMe (s : State) (t : Thread) : s.onlyMe (s.putMe t) := by
  refine ⟨rfl, fun n h => s.core_putMe_other t h, fun k h => s.thread_putMe_other t ?_, ?_⟩
  · rintro ⟨-, e⟩; exact h (Fin.ext e)
  · rw [show (s.putMe t).myCore = _ from s.myCore_putMe t]

theorem State.onlyMe_modMe (s : State) (f : Thread → Thread) : s.onlyMe (s.modMe f) := s.onlyMe_putMe _

/-! ### Scalar registers (R45, R298) -/

theorem Thread.getX_zero (t : Thread) : t.getX 0 = 0 := by simp [Thread.getX]

theorem Thread.getX_setX_same (t : Thread) (r : BitVec 5) (v : Word) :
    (t.setX r v).getX r = if r = 0 then 0 else v := by
  by_cases h : r = 0
  · simp [h, Thread.getX]
  · have hr : r.toNat < 32 := r.isLt
    simp only [Thread.setX, h, if_false]
    by_cases hs : t.level = .S ∧ 28 ≤ r.toNat
    · have : r.toNat - 28 < 4 := by omega
      simp [hs, Thread.getX, Vector.getD, this]; exact fun e => absurd e h
    · simp [hs, Thread.getX, Vector.getD, hr]; exact fun e => absurd e h

theorem Thread.getX_setX_other (t : Thread) {r q : BitVec 5} (v : Word) (hq : q ≠ r) :
    (t.setX r v).getX q = t.getX q := by
  have hn : r.toNat ≠ q.toNat := fun e => hq (BitVec.eq_of_toNat_eq e.symm)
  by_cases h : r = 0
  · simp [Thread.setX, h]
  · simp only [Thread.setX, h, if_false]
    by_cases hs : t.level = .S ∧ 28 ≤ r.toNat
    · simp only [hs, and_self, if_true]
      by_cases h0 : q = 0
      · simp [Thread.getX, h0]
      · by_cases h2 : 28 ≤ q.toNat
        · have : ¬ r.toNat - 28 = q.toNat - 28 := by omega
          simp [Thread.getX, hs, h2, Vector.getD, this]
        · simp [Thread.getX, h2]
    · simp only [hs, if_false]
      by_cases h0 : q = 0
      · simp [Thread.getX, h0]
      · simp [Thread.getX, Vector.getD, hn]

theorem Thread.setX_regErr (t : Thread) (r : BitVec 5) (v : Word) : ∀ e ∈ (t.setX r v).regErr, e ∈ t.regErr := by
  intro e
  simp only [Thread.setX]
  split
  · exact id
  · split <;> exact fun h => (List.mem_filter.mp h).1

@[simp] theorem State.x_setX_same (s : State) (r : BitVec 5) (v : Word) : (s.setX r v).x r = if r = 0 then 0 else v := by
  simp [State.x, State.setX, Thread.getX_setX_same]
theorem State.x_setX_other (s : State) {r q : BitVec 5} (v : Word) (h : q ≠ r) : (s.setX r v).x q = s.x q := by
  simp [State.x, State.setX, Thread.getX_setX_other _ v h]

/-! ### Ends of an instruction -/

theorem State.putMe_twice (s : State) (t u : Thread) : (s.putMe t).putMe u = s.putMe u := by
  simp only [State.putMe, State.putThread, State.modCore, State.putCore, State.core]
  have : ∀ (m : List (Nat × Core)) n (a b : Core), put (put m n a) n b = put m n b := by
    intro m n a b
    induction m with
    | nil => simp [put]
    | cons p r ih =>
      obtain ⟨k, w⟩ := p
      simp only [put]
      split
      · simp [put]
      · split
        · simp [put]
        · simp [put, *]
  simp only [this, look_put_same, Option.getD_some]
  congr 3
  ext i hi
  simp only [Vector.getElem_setIfInBounds]
  split <;> rfl

theorem State.result_eq (s : State) (rd : BitVec 5) (v : Word) :
    s.result rd v = s.putMe
      { s.me.setX rd v with cameFrom := s.me.pc, pc := s.me.pc + 4, retired := s.me.retired + 1, wait := .none, counted := 0
                            since := some s.steps } := by
  simp only [State.result, State.retire, State.setX, State.modMe, State.me_putMe, State.putMe_twice,
    Thread.setX_pc, Thread.setX_retired, State.putMe_steps]

theorem Thread.getX_congr {t u : Thread} (hx : t.x = u.x) (hs : t.sx = u.sx) (hl : t.level = u.level) (r : BitVec 5) :
    t.getX r = u.getX r := by simp [Thread.getX, hx, hs, hl]

/-- What writing a result and retiring does, whole. -/
theorem State.wrote_result (s : State) (rd : BitVec 5) (v : Word) : s.wrote (s.result rd v) rd v := by
  rw [State.result_eq]
  refine ⟨s.onlyMe_putMe _, ⟨?_, fun r h => ?_, fun h => ?_, fun h r hr => ?_⟩, ⟨?_, ?_, ?_, ?_, ?_, ?_⟩, ?_, ?_⟩
  · rw [State.x, State.me_putMe]
    exact (Thread.getX_congr (u := s.me.setX rd v) rfl rfl rfl rd).trans (Thread.getX_setX_same _ _ _)
  · rw [State.x, State.me_putMe]
    exact (Thread.getX_congr (u := s.me.setX rd v) rfl rfl rfl r).trans (Thread.getX_setX_other _ _ h)
  · simp only [State.me_putMe, Thread.setX]; split
    · rfl
    · rw [if_neg (by simp [h])]
  · simp only [State.me_putMe, Thread.setX]; split
    · rfl
    · split
      · rfl
      · rename_i h2
        have : ¬ rd.toNat = r := by simp [h] at h2; omega
        simp [Vector.getD, this]
  all_goals rw [State.me_putMe]
  · simp only [Thread.setX]; split
    · rfl
    · split <;> rfl
  · exact Thread.setX_regErr s.me rd v

theorem State.gives_of {s : State} {i : Instr} {rd : BitVec 5} {v : Word} (h : exec i s = .next (s.result rd v)) :
    s.gives i rd v := ⟨_, h, s.wrote_result rd v⟩

theorem State.moved_jump (s : State) (p : Word) : s.moved (s.jump p) p := by
  refine ⟨s.onlyMe_modMe _, fun r => ?_, ⟨?_, ?_, ?_, ?_, ?_, ?_⟩, ?_⟩ <;> simp [State.jump, State.x, Thread.getX]
theorem State.moved_retire (s : State) : s.moved s.retire (s.me.pc + 4) := by
  refine ⟨s.onlyMe_modMe _, fun r => ?_, ⟨?_, ?_, ?_, ?_, ?_, ?_⟩, ?_⟩ <;> simp [State.retire, State.x, Thread.getX]

/-- The storage of a register stands in the current core, or is one of the three CSRs shared beyond it. -/
theorem RegRef.home_cases (r : RegRef) (n : Nat) :
    r.home n = none ∨ r.home n = some n ∨ ∃ c ∈ [0x050, 0x051, 0x061], r = ⟨3, c⟩ := by
  obtain ⟨kind, num⟩ := r
  simp only [RegRef.home, csrHome]
  split
  · simp
  split
  · subst kind
    by_cases h1 : num = 0x050
    · exact .inr (.inr ⟨0x050, by simp, by rw [h1]⟩)
    by_cases h2 : num = 0x051
    · exact .inr (.inr ⟨0x051, by simp, by rw [h2]⟩)
    by_cases h3 : num = 0x061
    · exact .inr (.inr ⟨0x061, by simp, by rw [h3]⟩)
    rw [if_neg h1, if_neg h2, if_neg h3]
    split <;> simp
  · simp

/-- Without errors, no register that an instruction names has a mark. -/
theorem State.marksOf_sound {s : State} (h : s.sound) (r : RegRef) : s.marksOf r = [] := by
  obtain ⟨h1, h2, h3⟩ := h
  rcases r.home_cases s.cur with e | e | ⟨c, hc, rfl⟩
  · simp [State.marksOf, e, h1]
  · simp only [State.marksOf, e]
    rw [show (s.core s.cur).unitErr = [] from h2]; rfl
  · exact h3 c hc

theorem State.guard_sound {s : State} (h : s.sound) (refs : List RegRef) (e : State) : s.guard refs e = e := by
  have marks (r : RegRef) : s.marksOf r = [] := State.marksOf_sound h r
  have err : s.regError refs = none := by simp [State.regError, marks, beyondRepair]
  have soft : s.softMarks refs = [] := by simp [State.softMarks, marks]
  simp [State.guard, State.repair, err, soft]

/-- A stall leaves everything but the wait. -/
theorem State.stalled_stall (s : State) : s.stalled s.stall := ⟨s.onlyMe_modMe _, s.me_modMe _⟩

theorem State.waits_of {s : State} {i : Instr} (h : exec i s = .next s.stall) : s.waits i := ⟨_, h, s.stalled_stall⟩

/-! ### Traps (R297, R299, R301) -/

theorem State.trap_eq {s : State} (h : s.me.level = .T) (tr : Trap) :
    s.trap tr = s.putMe
      { s.me with
        ecause := BitVec.ofNat 64 tr.cause, epc := s.me.pc, eval := tr.eval, eval2 := tr.eval2
        estat := estatOf tr (s.me.occ = .task && !s.me.post)
        level := .S, pc := (if tr.cause = 9 then s.myCore.ovh else s.myCore.evec)
        cameFrom := (if tr.cause = 9 then s.myCore.ovh else s.myCore.evec) - 4, wait := .none, watchdog := none } := by
  simp only [State.trap, State.trapAt, show s.thread s.cur s.curSlot = s.me from rfl, h]
  rfl

/-- What a trap at level T does, whole. -/
theorem State.trapped_trap {s : State} (h : s.me.level = .T) (tr : Trap) : s.trapped (s.trap tr) tr := by
  rw [State.trap_eq h]
  exact ⟨s.onlyMe_putMe _, by simp, by simp, by simp, by simp, by simp, by simp, by simp, by simp⟩

theorem State.traps_of {s : State} {i : Instr} {tr : Trap} (hl : s.me.level = .T) (h : exec i s = .next (s.trap tr)) :
    s.traps i tr := ⟨_, h, State.trapped_trap hl tr⟩

/-! ### CSR writes (R9) -/

/-- A write that a CSR ignores changes nothing. -/
theorem State.putCsr_ignored {s : State} {n : Nat} (v : Word) (h : s.csrTakes n = false) : s.putCsr n v = s := by
  simp [State.putCsr, h]

/-- A write of a CSR without errors that takes it is the write of its value. -/
theorem State.putCsr_sound {s : State} (hs : s.sound) {n : Nat} (v : Word) (h : s.csrTakes n = true) :
    s.putCsr n v = s.writeCsr n v := by
  simp [State.putCsr, h, State.marksOf_sound hs]

end Sys2Proof.Machine
end

