-- ==== Sys2Proof/Laws/Memory.lean ====
section
/-!
SUPPORT. Byte memory: the canonical form is kept by every operation, a read after a write gives the written byte, and a write
leaves every other byte alone.
-/
namespace Sys2Proof.Machine

/-! ### The canonical list of cells -/

/-- Every address of a list lies at or above a bound. -/
def above (n : Nat) (m : List Host.Cell) : Prop := ∀ c ∈ m, n ≤ c.1

theorem wf_cons {a : Nat} {v : Byte} {r : List Host.Cell} :
    Memory.wf ((a, v) :: r) = true ↔ v ≠ unlisted ∧ above (a + 1) r ∧ Memory.wf r = true := by
  induction r generalizing a v with
  | nil => simp [Memory.wf, above]
  | cons p q ih =>
    obtain ⟨b, w⟩ := p
    have e : Memory.wf ((a, v) :: (b, w) :: q) = true ↔ v ≠ unlisted ∧ a < b ∧ Memory.wf ((b, w) :: q) = true := by
      rw [Memory.wf]; simp [Bool.and_assoc]
    rw [e, ih]
    constructor
    · rintro ⟨h1, h2, h3, h4, h5⟩
      refine ⟨h1, ?_, h3, h4, h5⟩
      intro c hc
      rcases List.mem_cons.mp hc with rfl | hc
      · exact h2
      · have := h4 c hc; omega
    · rintro ⟨h1, h2, h3, h4, h5⟩
      exact ⟨h1, h2 (b, w) (by simp), h3, h4, h5⟩

theorem memGet_above {m : List Host.Cell} {a : Nat} (h : above (a + 1) m) : memGet m a = unlisted := by
  cases m with
  | nil => rfl
  | cons p r =>
    obtain ⟨b, w⟩ := p
    have hb : a + 1 ≤ b := h (b, w) (by simp)
    rw [memGet, if_neg (by omega), if_pos (by omega)]

theorem above_memPut {m : List Host.Cell} {n a : Nat} {v : Byte} (h : above n m) (ha : n ≤ a) : above n (memPut m a v) := by
  induction m with
  | nil =>
    rw [memPut]; split
    · exact h
    · intro c hc; simp at hc; subst hc; exact ha
  | cons p r ih =>
    obtain ⟨b, w⟩ := p
    have hr : above n r := fun c hc => h c (by simp [hc])
    have hb : n ≤ b := h (b, w) (by simp)
    rw [memPut]
    split
    · split
      · exact hr
      · intro c hc; rcases List.mem_cons.mp hc with rfl | hc
        · exact ha
        · exact hr c hc
    · split
      · split
        · exact h
        · intro c hc; rcases List.mem_cons.mp hc with rfl | hc
          · exact ha
          · exact h c hc
      · intro c hc; rcases List.mem_cons.mp hc with rfl | hc
        · exact hb
        · exact ih hr c hc

/-- Writing one byte keeps the canonical form. -/
theorem memPut_wf {m : List Host.Cell} (h : Memory.wf m = true) (a : Nat) (v : Byte) : Memory.wf (memPut m a v) = true := by
  induction m with
  | nil =>
    rw [memPut]; split
    · rfl
    · rw [wf_cons]; exact ⟨by assumption, fun c hc => by simp at hc, rfl⟩
  | cons p r ih =>
    obtain ⟨b, w⟩ := p
    obtain ⟨h1, h2, h3⟩ := wf_cons.mp h
    rw [memPut]
    split
    · rename_i e; subst e
      split
      · exact h3
      · rw [wf_cons]; exact ⟨by assumption, h2, h3⟩
    · split
      · split
        · exact h
        · rw [wf_cons]
          refine ⟨by assumption, fun c hc => ?_, h⟩
          rcases List.mem_cons.mp hc with rfl | hc
          · show a + 1 ≤ b; omega
          · have := h2 c hc; omega
      · rw [wf_cons]; exact ⟨h1, above_memPut h2 (by omega), ih h3⟩

/-- A read after a write to the same address gives the byte written. -/
theorem memGet_memPut_same {m : List Host.Cell} (h : Memory.wf m = true) (a : Nat) (v : Byte) :
    memGet (memPut m a v) a = v := by
  induction m with
  | nil =>
    rw [memPut]; split
    · simp [memGet, *]
    · simp [memGet]
  | cons p r ih =>
    obtain ⟨b, w⟩ := p
    obtain ⟨-, h2, h3⟩ := wf_cons.mp h
    rw [memPut]
    split
    · rename_i e; subst e
      split
      · rename_i e; subst e; exact memGet_above h2
      · simp [memGet]
    · split
      · split
        · rename_i e; subst e; rw [memGet, if_neg (by omega), if_pos (by omega)]
        · simp [memGet]
      · rw [memGet, if_neg (by omega), if_neg (by omega)]; exact ih h3

/-- A write leaves every other address alone. -/
theorem memGet_memPut_other {m : List Host.Cell} (h : Memory.wf m = true) {a b : Nat} (v : Byte) (hb : b ≠ a) :
    memGet (memPut m a v) b = memGet m b := by
  induction m with
  | nil =>
    rw [memPut]; split
    · rfl
    · simp [memGet, Ne.symm hb]
  | cons p r ih =>
    obtain ⟨k, w⟩ := p
    obtain ⟨-, h2, h3⟩ := wf_cons.mp h
    rw [memPut]
    split
    · rename_i e; subst e
      split
      · rw [memGet, if_neg (Ne.symm hb)]
        split
        · exact memGet_above fun c hc => by have := h2 c hc; omega
        · rfl
      · simp only [memGet, if_neg (Ne.symm hb)]
    · split
      · split
        · rfl
        · rw [memGet, if_neg (Ne.symm hb)]
          split
          · rw [memGet, if_neg (by omega), if_pos (by omega)]
          · rfl
      · simp only [memGet]
        split
        · rfl
        · split
          · rfl
          · exact ih h3

/-- Dropping cells keeps the canonical form. -/
theorem filter_wf {m : List Host.Cell} (h : Memory.wf m = true) (p : Host.Cell → Bool) : Memory.wf (m.filter p) = true := by
  induction m with
  | nil => rfl
  | cons c r ih =>
    obtain ⟨b, w⟩ := c
    obtain ⟨h1, h2, h3⟩ := wf_cons.mp h
    rw [List.filter_cons]
    split
    · rw [wf_cons]; exact ⟨h1, fun c hc => h2 c (List.mem_filter.mp hc).1, ih h3⟩
    · exact ih h3

theorem foldl_wf {α : Type} (f : List Host.Cell → α → List Host.Cell)
    (hf : ∀ m a, Memory.wf m = true → Memory.wf (f m a) = true) (l : List α) {m : List Host.Cell}
    (h : Memory.wf m = true) : Memory.wf (l.foldl f m) = true := by
  induction l generalizing m with
  | nil => exact h
  | cons a r ih => exact ih (hf m a h)

/-! ### Undefined intervals -/

theorem freshAt_cut_same (f : List (Nat × Nat × Nat)) (a : Nat) : freshAt (freshCut f a) a = none := by
  induction f with
  | nil => rfl
  | cons p r ih =>
    obtain ⟨lo, len, st⟩ := p
    rw [freshCut]
    split
    · rw [freshAt, if_neg (by omega), freshAt, if_neg (by omega)]; exact ih
    · rw [freshAt, if_neg (by assumption)]; exact ih

theorem freshAt_cut_other (f : List (Nat × Nat × Nat)) {a b : Nat} (h : b ≠ a) :
    freshAt (freshCut f a) b = freshAt f b := by
  induction f with
  | nil => rfl
  | cons p r ih =>
    obtain ⟨lo, len, st⟩ := p
    rw [freshCut]
    split
    · rw [freshAt, freshAt, freshAt]
      by_cases h1 : lo ≤ b ∧ b < lo + len
      · by_cases h2 : b < a
        · rw [if_pos (by omega), if_pos h1]
        · rw [if_neg (by omega), if_pos (by omega), if_pos h1]
      · rw [if_neg (by omega), if_neg (by omega), if_neg h1]; exact ih
    · rw [freshAt, freshAt]; split
      · rfl
      · exact ih

/-! ### Bytes of the state -/

theorem State.byte_setByte {s : State} (h : Memory.wf s.mem = true) (a b : Nat) (v : Byte) :
    (s.setByte a v).byte b = if b = a then v else s.byte b := by
  by_cases e : b = a
  · subst e; simp [State.byte, State.setByte, freshAt_cut_same, memGet_memPut_same h]
  · simp [State.byte, State.setByte, freshAt_cut_other _ e, memGet_memPut_other h v e, e]

theorem State.setByte_wf {s : State} (h : Memory.wf s.mem = true) (a : Nat) (v : Byte) :
    Memory.wf (s.setByte a v).mem = true := memPut_wf h a v

theorem State.setBytes_wf {s : State} (h : Memory.wf s.mem = true) (a : Nat) (bs : List Byte) :
    Memory.wf (s.setBytes a bs).mem = true := by
  induction bs generalizing s a with
  | nil => exact h
  | cons v r ih => exact ih (State.setByte_wf h a v) (a + 1)

/-- What a run of bytes written reads as: the byte written inside it, the old one outside. -/
theorem State.byte_setBytes {s : State} (h : Memory.wf s.mem = true) (a : Nat) (bs : List Byte) (b : Nat) :
    (s.setBytes a bs).byte b = if a ≤ b ∧ b < a + bs.length then bs.getD (b - a) 0 else s.byte b := by
  induction bs generalizing s a with
  | nil => rw [if_neg (by simp), State.setBytes]
  | cons v r ih =>
    rw [State.setBytes, ih (State.setByte_wf h a v), State.byte_setByte h]
    simp only [List.length_cons]
    by_cases h1 : a + 1 ≤ b ∧ b < a + 1 + r.length
    · rw [if_pos h1, if_pos (by omega), show b - a = (b - (a + 1)) + 1 by omega]; simp
    · rw [if_neg h1]
      by_cases h2 : b = a
      · subst h2; simp
      · rw [if_neg h2, if_neg (by omega)]

theorem State.bytes_setBytes {s : State} (h : Memory.wf s.mem = true) (a : Nat) (bs : List Byte) :
    (s.setBytes a bs).bytes a bs.length = bs := by
  apply List.ext_getElem
  · simp [State.bytes]
  · intro i h1 h2
    simp only [State.bytes, List.getElem_map, List.getElem_range]
    rw [State.byte_setBytes h, if_pos (by simp [State.bytes] at h1; omega)]
    simp [List.getD, h2]

/-! ### Little-endian numbers -/

@[simp] theorem length_leBytes (n v : Nat) : (leBytes n v).length = n := by
  induction n generalizing v with
  | zero => rfl
  | succ n ih => simp [leBytes, ih]

theorem leNat_leBytes (n v : Nat) : leNat (leBytes n v) = v % 256 ^ n := by
  induction n generalizing v with
  | zero => simp [leBytes, leNat, Nat.mod_one]
  | succ n ih =>
    rw [leBytes, leNat, ih, Nat.pow_succ, Nat.mul_comm (256 ^ n) 256, Nat.mod_mul]
    simp

theorem leNat_lt (bs : List Byte) : leNat bs < 256 ^ bs.length := by
  induction bs with
  | nil => simp [leNat]
  | cons b r ih =>
    have := b.isLt
    rw [leNat, List.length_cons, Nat.pow_succ]; omega

/-- A doubleword written reads back. -/
theorem State.dword_setDword {s : State} (h : Memory.wf s.mem = true) (a : Nat) (v : Word) : (s.setDword a v).dword a = v := by
  have e := State.bytes_setBytes h a (leBytes 8 v.toNat)
  rw [length_leBytes] at e
  apply BitVec.eq_of_toNat_eq
  rw [State.dword, State.setDword, e, leNat_leBytes]
  have := v.isLt
  simpa using this

/-! ### Fields of other kinds through a byte write -/

theorem State.setBytes_blockKey (s : State) (a : Nat) (bs : List Byte) : (s.setBytes a bs).blockKey = s.blockKey := by
  induction bs generalizing s a with
  | nil => rfl
  | cons v r ih => exact (ih _ _).trans rfl

theorem State.setBytes_others (s : State) (a : Nat) (bs : List Byte) :
    { s.setBytes a bs with mem := s.mem, fresh := s.fresh } = s := by
  induction bs generalizing s a with
  | nil => rfl
  | cons v r ih =>
    have := ih (s.setByte a v) (a + 1)
    rw [State.setBytes]
    calc _ = { { (s.setByte a v).setBytes (a + 1) r with mem := (s.setByte a v).mem, fresh := (s.setByte a v).fresh } with
                mem := s.mem, fresh := s.fresh } := rfl
      _ = _ := by rw [this]; rfl

/-! ### A whole doubleword of a scratchpad or Onsen (R402) -/

@[simp] theorem State.putWord_poison (s : State) (a : Nat) (v : Word) : (s.putWord a v).poison = s.poison.filter (· != a) := rfl

theorem State.putWord_others (s : State) (a : Nat) (v : Word) :
    { s.putWord a v with mem := s.mem, fresh := s.fresh, poison := s.poison } = s := by
  have := s.setBytes_others a (leBytes 8 v.toNat)
  calc _ = { { s.setBytes a (leBytes 8 v.toNat) with mem := s.mem, fresh := s.fresh } with poison := s.poison } := rfl
    _ = _ := by rw [this]

/-- A word written reads back. -/
theorem State.dword_putWord {s : State} (h : Memory.wf s.mem = true) (a : Nat) (v : Word) : (s.putWord a v).dword a = v :=
  (rfl : (s.putWord a v).dword a = (s.setDword a v).dword a).trans (State.dword_setDword h a v)

end Sys2Proof.Machine
end

