-- ==== Sys2Proof/Laws/Access.lean ====
section
/-!
SUPPORT. What a write under a key, a commit and a suspension can do: bytes and block keys after them, and what they leave.
-/
namespace Sys2Proof.Machine

/-! ### Bytes under a key (R389, R390) -/

/-- A byte under a key depends on its block's tag and the bytes of its block. -/
theorem State.byteKey_congr {s t : State} {key : KeyVal} {a : Nat} (hk : look t.blockKey (a / 64) = look s.blockKey (a / 64))
    (hb : ∀ x, x / 64 = a / 64 → t.byte x = s.byte x) : t.byteKey key a = s.byteKey key a := by
  have hbs : t.bytes (a / 64 * 64) 64 = s.bytes (a / 64 * 64) 64 := by
    refine List.map_congr_left fun i hi => hb _ ?_
    have := List.mem_range.mp hi; omega
  unfold State.byteKey
  rw [hk, hb a rfl, hbs]

/-- A byte whose block carries the key, or no tag, or lies outside HBM, reads as it is held. -/
theorem State.byteKey_of_tag {s : State} {key : KeyVal} {a : Nat}
    (h : a < hbmEnd → look s.blockKey (a / 64) = some key ∨ look s.blockKey (a / 64) = none) : s.byteKey key a = s.byte a := by
  unfold State.byteKey
  split
  · rename_i ha
    rcases h ha with h | h <;> simp [h]
  · rfl

/-! ### Bringing blocks under a key -/

/-- What bringing a block under a key comes to: nothing, a tag alone, or the bytes read under the key with the tag. -/
theorem State.rekey_cases (s : State) (key : KeyVal) (u : Nat) :
    (s.rekey key u = s ∧ (u < hbmEnd → look s.blockKey (u / 64) = some key)) ∨
    (u < hbmEnd ∧ look s.blockKey (u / 64) = none ∧ s.rekey key u = { s with blockKey := put s.blockKey (u / 64) key }) ∨
    (u < hbmEnd ∧ ∃ l, l.length = 64 ∧ (∀ i < 64, l.getD i 0 = s.byteKey key (u / 64 * 64 + i)) ∧
      s.rekey key u = { s.setBytes (u / 64 * 64) l with blockKey := put s.blockKey (u / 64) key }) := by
  by_cases hu : u < hbmEnd
  · cases hk : look s.blockKey (u / 64) with
    | none => exact .inr (.inl ⟨hu, rfl, by simp only [State.rekey, if_pos hu, hk]⟩)
    | some k =>
      by_cases e : k = key
      · exact .inl ⟨by simp only [State.rekey, if_pos hu, hk, if_pos e], fun _ => by rw [e]⟩
      · refine .inr (.inr ⟨hu, s.bytesKey key (u / 64 * 64) 64, ?_, fun i hi => ?_, by simp only [State.rekey, if_pos hu, hk, if_neg e]⟩)
        · rw [State.bytesKey, List.length_map, List.length_range]
        · rw [List.getD_eq_getElem?_getD, State.bytesKey, List.getElem?_map, List.getElem?_range hi, Option.map_some, Option.getD_some]
  · exact .inl ⟨by simp only [State.rekey, if_neg hu], fun h => absurd h hu⟩

theorem State.rekey_wf {s : State} (h : Memory.wf s.mem = true) (key : KeyVal) (u : Nat) : Memory.wf (s.rekey key u).mem = true := by
  rcases State.rekey_cases s key u with ⟨e, -⟩ | ⟨-, -, e⟩ | ⟨-, l, -, -, e⟩ <;> rw [e]
  · exact h
  · exact h
  · exact State.setBytes_wf h _ _

/-- Every byte reads under the key as before. -/
theorem State.rekey_byteKey {s : State} (h : Memory.wf s.mem = true) (key : KeyVal) (u x : Nat) :
    (s.rekey key u).byteKey key x = s.byteKey key x := by
  rcases State.rekey_cases s key u with ⟨e, -⟩ | ⟨-, hk, e⟩ | ⟨-, l, hlen, hl, e⟩
  · rw [e]
  · rw [e]
    by_cases hx : x / 64 = u / 64
    · rw [State.byteKey_of_tag fun _ => .inl (by rw [hx]; exact look_put_same _ _ _), State.byteKey_of_tag fun _ => .inr (by rw [hx]; exact hk)]
      rfl
    · exact State.byteKey_congr (look_put_other _ _ hx) fun y _ => rfl
  · have hbyte : ∀ y, (s.rekey key u).byte y = if u / 64 * 64 ≤ y ∧ y < u / 64 * 64 + 64 then l.getD (y - u / 64 * 64) 0 else s.byte y := by
      intro y
      have hb := State.byte_setBytes h (u / 64 * 64) l y
      rw [hlen] at hb
      rw [e]
      exact hb
    have ht : (s.rekey key u).blockKey = put s.blockKey (u / 64) key := by rw [e]
    by_cases hx : x / 64 = u / 64
    · rw [State.byteKey_of_tag fun _ => .inl (by rw [ht, hx]; exact look_put_same _ _ _), hbyte, if_pos (by omega)]
      rw [hl _ (by omega)]
      congr 1; omega
    · refine State.byteKey_congr (by rw [ht]; exact look_put_other _ _ hx) fun y hy => ?_
      rw [hbyte, if_neg (by omega)]

/-- The tags afterwards: the block's own is the key; a block under the key stays so. -/
theorem State.rekey_tag (s : State) (key : KeyVal) {u : Nat} (h : u < hbmEnd) : look (s.rekey key u).blockKey (u / 64) = some key := by
  rcases State.rekey_cases s key u with ⟨e, hk⟩ | ⟨-, -, e⟩ | ⟨-, l, -, -, e⟩ <;> rw [e]
  · exact hk h
  · exact look_put_same _ _ _
  · exact look_put_same _ _ _

theorem State.rekey_tag_kept {s : State} {key : KeyVal} {b : Nat} (u : Nat) (h : look s.blockKey b = some key) :
    look (s.rekey key u).blockKey b = some key := by
  by_cases hb : b = u / 64
  · by_cases hu : u < hbmEnd
    · rw [hb]; exact State.rekey_tag s key hu
    · simp only [State.rekey, if_neg hu]; exact h
  · rcases State.rekey_cases s key u with ⟨e, -⟩ | ⟨-, -, e⟩ | ⟨-, l, -, -, e⟩ <;> rw [e]
    · exact h
    · exact (look_put_other _ _ hb).trans h
    · exact (look_put_other _ _ hb).trans h

/-- Beside memory and tags nothing changes. -/
theorem State.rekey_others (s : State) (key : KeyVal) (u : Nat) :
    { s.rekey key u with mem := s.mem, fresh := s.fresh, blockKey := s.blockKey } = s := by
  rcases State.rekey_cases s key u with ⟨e, -⟩ | ⟨-, -, e⟩ | ⟨-, l, -, -, e⟩ <;> rw [e]
  exact congrArg (fun t : State => { t with blockKey := s.blockKey }) (State.setBytes_others s _ l)

/-- Blocks brought under a key one after another: memory stays canonical, bytes under the key stay, their tags are the key. -/
theorem State.rekeys {s : State} (h : Memory.wf s.mem = true) (key : KeyVal) (l : List Nat) :
    let t := l.foldl (fun st u => st.rekey key u) s
    Memory.wf t.mem = true ∧ (∀ x, t.byteKey key x = s.byteKey key x) ∧
      (∀ b, look s.blockKey b = some key → look t.blockKey b = some key) ∧ ∀ u ∈ l, u < hbmEnd → look t.blockKey (u / 64) = some key := by
  induction l generalizing s with
  | nil => exact ⟨h, fun _ => rfl, fun _ hb => hb, fun _ hu => absurd hu List.not_mem_nil⟩
  | cons v r ih =>
    obtain ⟨h1, h2, h3, h4⟩ := ih (State.rekey_wf h key v)
    refine ⟨h1, fun x => (h2 x).trans (State.rekey_byteKey h key v x), fun b hb => h3 b (State.rekey_tag_kept v hb), fun u hu hl => ?_⟩
    rcases List.mem_cons.mp hu with e | e
    · subst e; exact h3 _ (State.rekey_tag s key hl)
    · exact h4 u e hl

/-! ### A write under a key -/

/-- The units of a range that hold one of its bytes. -/
theorem mem_unitsOf {a n x u : Nat} (h1 : a ≤ x) (h2 : x < a + n) : x / u * u ∈ unitsOf a n u := by
  unfold unitsOf
  rw [if_neg (by omega)]
  have h3 : a / u ≤ x / u := Nat.div_le_div_right h1
  have h4 : x / u ≤ (a + n - 1) / u := Nat.div_le_div_right (by omega)
  refine List.mem_map.mpr ⟨x / u - a / u, List.mem_range.mpr (by omega), ?_⟩
  rw [Nat.add_sub_cancel' h3]

/-- The memory of a write is that of its bytes put over the blocks brought under the key. -/
theorem State.write_bytes {s : State} (h : Memory.wf s.mem = true) (key : KeyVal) (a : Nat) (bs : List Byte) (b : Nat) :
    (s.write key a bs).byteKey key b = if a ≤ b ∧ b < a + bs.length then bs.getD (b - a) 0 else s.byteKey key b := by
  obtain ⟨h1, h2, -, h4⟩ := State.rekeys h key (unitsOf a bs.length 64)
  generalize hs1 : (unitsOf a bs.length 64).foldl (fun st u => st.rekey key u) s = s1 at h1 h2 h4
  have hw : (s.write key a bs).byteKey key b = (s1.setBytes a bs).byteKey key b := by
    unfold State.write
    rw [hs1]
    dsimp only
    split
    · rfl
    · exact State.byteKey_congr rfl fun _ _ => rfl
  have hk : ∀ c, look (s1.setBytes a bs).blockKey c = look s1.blockKey c := fun c => by rw [State.setBytes_blockKey]
  rw [hw]
  by_cases hb : a ≤ b ∧ b < a + bs.length
  · rw [if_pos hb, State.byteKey_of_tag fun hl => .inl ?_, State.byte_setBytes h1, if_pos hb]
    have hm : b / 64 * 64 / 64 = b / 64 := by omega
    rw [hk, ← hm]
    exact h4 _ (mem_unitsOf hb.1 hb.2) (by omega)
  · rw [if_neg hb, ← h2]
    by_cases ht : b < hbmEnd → look s1.blockKey (b / 64) = some key ∨ look s1.blockKey (b / 64) = none
    · rw [State.byteKey_of_tag (by rw [hk]; exact ht), State.byteKey_of_tag ht, State.byte_setBytes h1, if_neg hb]
    · refine State.byteKey_congr (hk _) fun x hx => ?_
      rw [State.byte_setBytes h1, if_neg fun hr => ht fun hl => .inl ?_]
      have hm : x / 64 * 64 / 64 = b / 64 := by omega
      rw [← hm]
      exact h4 _ (mem_unitsOf hr.1 hr.2) (by omega)

theorem State.write_wf {s : State} (h : Memory.wf s.mem = true) (key : KeyVal) (a : Nat) (bs : List Byte) :
    Memory.wf (s.write key a bs).mem = true := by
  obtain ⟨h1, -⟩ := State.rekeys h key (unitsOf a bs.length 64)
  unfold State.write
  dsimp only
  split
  · exact State.setBytes_wf h1 a bs
  · exact State.setBytes_wf h1 a bs

/-- What is written reads back under the key. -/
theorem State.bytesKey_write {s : State} (h : Memory.wf s.mem = true) (key : KeyVal) (a : Nat) (bs : List Byte) :
    (s.write key a bs).bytesKey key a bs.length = bs := by
  apply List.ext_getElem
  · simp [State.bytesKey]
  · intro i hi1 hi2
    simp only [State.bytesKey, List.getElem_map, List.getElem_range]
    rw [State.write_bytes h, if_pos (by omega)]
    simp [List.getD, hi2]

/-- Everything but memory, poison and block keys is as before. -/
theorem State.write_others (s : State) (key : KeyVal) (a : Nat) (bs : List Byte) :
    { s.write key a bs with mem := s.mem, fresh := s.fresh, poison := s.poison, blockKey := s.blockKey } = s := by
  have hr : ∀ (l : List Nat) (t : State), { t with mem := s.mem, fresh := s.fresh, blockKey := s.blockKey } = s →
      { l.foldl (fun st u => st.rekey key u) t with mem := s.mem, fresh := s.fresh, blockKey := s.blockKey } = s := by
    intro l
    induction l with
    | nil => intro t ht; exact ht
    | cons u r ih =>
      intro t ht
      refine ih _ (Eq.trans ?_ ht)
      exact congrArg (fun x : State => { x with mem := s.mem, fresh := s.fresh, blockKey := s.blockKey }) (State.rekey_others t key u)
  have h1 := hr (unitsOf a bs.length 64) s rfl
  generalize hs1 : (unitsOf a bs.length 64).foldl (fun st u => st.rekey key u) s = s1 at h1
  have h2 : { s1.setBytes a bs with mem := s.mem, fresh := s.fresh, blockKey := s.blockKey } = s := by
    refine Eq.trans ?_ h1
    exact congrArg (fun x : State => { x with mem := s.mem, fresh := s.fresh, blockKey := s.blockKey }) (State.setBytes_others s1 a bs)
  have h3 := congrArg (fun x : State => { x with poison := s.poison }) h2
  unfold State.write
  rw [hs1]
  dsimp only
  split
  · exact h3
  · exact h3

/-! ### Commit and suspension -/

/-- A commit leaves memory as it is (R32). -/
theorem State.commitAt_memory (s : State) (n k : Nat) : s.sameMemory (s.commitAt n k) := ⟨rfl, rfl, rfl, rfl, rfl, rfl⟩

theorem State.implicitCommit_memory (s : State) : s.sameMemory s.implicitCommit := by
  unfold State.implicitCommit
  split
  · exact s.commitAt_memory _ _
  · exact ⟨rfl, rfl, rfl, rfl, rfl, rfl⟩

/-- Beside the cores and the clusters a commit changes nothing, and no thread but the one that commits (R31, R32). -/
theorem State.implicitCommit_others (s : State) : { s.implicitCommit with cores := s.cores, clusters := s.clusters } = s := by
  unfold State.implicitCommit
  split <;> rfl

theorem State.implicitCommit_thread (s : State) {n k : Nat} (h : ¬(n = s.cur ∧ k = s.curSlot)) :
    s.implicitCommit.thread n k = s.thread n k := by
  unfold State.implicitCommit
  split
  · unfold State.commitAt State.modThread
    rw [State.thread_putThread _ _ (Fin.isLt _), if_neg fun e => h e]
    exact State.thread_congr rfl _ _
  · rfl

/-- A suspended access leaves memory as it is (R303). -/
theorem State.suspend_memory (s : State) (f : FaultRef) : s.sameMemory (s.suspend f) := ⟨rfl, rfl, rfl, rfl, rfl, rfl⟩

end Sys2Proof.Machine
end

