-- ==== Sys2Proof/Laws/Issue.lean ====
section
/-!
SUPPORT. What the beginning of an issue does: a layer in Autumn wakes, its latest issue is noted, yielding threads see the issue.
-/
namespace Sys2Proof.Machine

theorem State.wake_cores (s : State) (gl : Nat) : (s.wake gl).cores = s.cores := by
  unfold State.wake; split <;> rfl

/-- A thread that does not yield is as it was after another has issued, and its core's own registers are too. -/
theorem State.noteIssue_thread (s : State) (n k m j : Nat) (hj : j < 4)
    (h : ∀ o l, (s.thread m j).wait ≠ .yield o l) : (s.noteIssue n k).thread m j = s.thread m j := by
  unfold State.noteIssue
  split
  · simp only [State.modCore, State.thread, State.core_putCore]
    split
    · rename_i e; subst e
      have h' : ∀ o l, ((s.core m).threads[j]).wait ≠ .yield o l := by
        intro o l; have := h o l; simpa [State.thread, Vector.getD, hj] using this
      simp only [Vector.getD, Vector.toArray_map, Array.getD, Array.size_map, Vector.size_toArray, hj, dif_pos,
        Array.getInternal_eq_getElem, Array.getElem_map, Vector.getElem_toArray]
    · rfl
  · rfl

theorem State.noteIssue_core (s : State) (n k m : Nat) :
    { (s.noteIssue n k).core m with threads := (s.core m).threads } = s.core m := by
  unfold State.noteIssue
  split
  · simp only [State.modCore, State.core_putCore]
    split
    · rename_i e; subst e; rfl
    · rfl
  · rfl

theorem State.noteIssue_coresOnly (s : State) (n k : Nat) : s.coresOnly (s.noteIssue n k) := by
  unfold State.noteIssue State.coresOnly; split <;> rfl

theorem State.wake_others (s : State) (gl : Nat) : { s.wake gl with layers := s.layers } = s := by
  unfold State.wake; split <;> rfl

/-- The state in which an issue is noted: a layer in Autumn is awake, and its latest issue is this one. -/
theorem State.beginIssue_eq (s : State) : ∃ X : State, X.cores = s.cores ∧ { X with layers := s.layers } = s ∧
    s.beginIssue = (X.noteIssue s.cur s.curSlot).modMyCore fun o =>
      { o with ready := o.ready.setIfInBounds s.curSlot none
               lastIssued := o.lastIssued.setIfInBounds (issueIndex (classOf (s.wordAt s.cur s.me.pc)) s.me.prio) (some s.curSlot) } :=
  ⟨(s.wake (layerOf s.cur)).modLayer (layerOf s.cur) fun l => { l with lastIssue := s.steps }, State.wake_cores s _,
    State.wake_others s _, rfl⟩

/-- Beside layers and cores nothing of the state changes. -/
theorem State.beginIssue_others (s : State) : { s.beginIssue with cores := s.cores, layers := s.layers } = s := by
  obtain ⟨X, hc, hX, e⟩ := s.beginIssue_eq
  have h := X.noteIssue_coresOnly s.cur s.curSlot
  unfold State.coresOnly at h
  rw [e]
  calc { (X.noteIssue s.cur s.curSlot).modMyCore _ with cores := s.cores, layers := s.layers }
      = { ({ X.noteIssue s.cur s.curSlot with cores := X.cores } : State) with layers := s.layers } := by rw [hc]; rfl
    _ = { X with layers := s.layers } := by rw [h]
    _ = s := hX

theorem State.beginIssue_cur (s : State) : s.beginIssue.cur = s.cur := by
  have h := congrArg State.cur s.beginIssue_others; exact h
theorem State.beginIssue_curSlot (s : State) : s.beginIssue.curSlot = s.curSlot := by
  have h := congrArg State.curSlot s.beginIssue_others; exact h

/-- A core's registers for the choice of the next thread are no thread's. -/
theorem State.thread_modMyCore {s : State} {f : Core → Core} (h : ∀ c, (f c).threads = c.threads) (m j : Nat) :
    (s.modMyCore f).thread m j = s.thread m j := by
  simp only [State.modMyCore, State.modCore, State.thread, State.core_putCore]
  split
  · rename_i e; subst e; rw [h]
  · rfl

theorem State.beginIssue_thread (s : State) (m j : Nat) (hj : j < 4) (h : ∀ o l, (s.thread m j).wait ≠ .yield o l) :
    s.beginIssue.thread m j = s.thread m j := by
  obtain ⟨X, hc, -, e⟩ := s.beginIssue_eq
  have w : X.thread m j = s.thread m j := by simp [State.thread, State.core, hc]
  rw [e]
  refine (State.thread_modMyCore ?_ m j).trans ?_
  · intro c; rfl
  · rw [State.noteIssue_thread _ _ _ _ _ hj, w]
    intro o l; rw [w]; exact h o l

/-- The thread that issues is as it was. -/
theorem State.beginIssue_me {s : State} (h : s.me.wait = .none ∨ s.me.wait = .stalled) : s.beginIssue.me = s.me := by
  have : s.beginIssue.me = s.beginIssue.thread s.cur s.curSlot := by
    rw [State.me, State.beginIssue_cur, State.beginIssue_curSlot]
  rw [this]
  exact s.beginIssue_thread _ _ s.curSlot.isLt fun o l e => by
    rw [show s.thread s.cur s.curSlot = s.me from rfl] at e
    rw [e] at h
    rcases h with h | h <;> cases h

/-- The core's own registers are as they were, but for its notes on whose turn it is. -/
theorem State.beginIssue_core (s : State) (m : Nat) :
    { s.beginIssue.core m with threads := (s.core m).threads, ready := (s.core m).ready, lastIssued := (s.core m).lastIssued }
      = s.core m := by
  obtain ⟨X, hc, -, e⟩ := s.beginIssue_eq
  have w : X.core m = s.core m := by simp [State.core, hc]
  have h := State.noteIssue_core X s.cur s.curSlot m
  rw [w] at h
  have k (c : Core) (hc : { c with threads := (s.core m).threads } = s.core m) (r l) :
      ({ c with threads := (s.core m).threads, ready := (s.core m).ready, lastIssued := (s.core m).lastIssued } : Core) = s.core m ∧
      ({ { c with ready := r, lastIssued := l } with
          threads := (s.core m).threads, ready := (s.core m).ready, lastIssued := (s.core m).lastIssued } : Core) = s.core m := by
    rw [← hc]; exact ⟨rfl, rfl⟩
  rw [e]
  simp only [State.modMyCore, State.modCore, State.core_putCore]
  split
  · rename_i q; subst q; exact (k _ h _ _).2
  · exact (k _ h (s.core m).ready (s.core m).lastIssued).1

end Sys2Proof.Machine
end

