-- ==== Sys2Proof/Laws/PerInstr.lean ====
section
/-!
SUPPORT. The encoding of every instruction: `RoundTrip` says that decoding an encoded well-formed instruction gives it back.
-/
namespace Sys2Proof

/-! ### Fields of a word -/

theorem field_ofNat {n lo k : Nat} {v : BitVec k} (hn : n < 4294967296) (h : n / 2 ^ lo % 2 ^ k = v.toNat) :
    (BitVec.ofNat 32 n).extractLsb' lo k = v := by
  apply BitVec.eq_of_toNat_eq
  rw [BitVec.extractLsb'_toNat, Nat.shiftRight_eq_div_pow, BitVec.toNat_ofNat, Nat.mod_eq_of_lt hn, h]

theorem field_toNat {n lo k c : Nat} (hn : n < 4294967296) (h : n / 2 ^ lo % 2 ^ k = c) :
    ((BitVec.ofNat 32 n).extractLsb' lo k).toNat = c := by
  rw [BitVec.extractLsb'_toNat, Nat.shiftRight_eq_div_pow, BitVec.toNat_ofNat, Nat.mod_eq_of_lt hn, h]

theorem decodeWord_of_raw {w : Half} {i : Instr} (h : decodeRaw w = .instr i) (hw : i.wf = true) :
    decodeWord w = .instr i := by simp [decodeWord, h, checkFields, hw]

/-! ### The arms of the decoder -/

theorem decodeRaw_01 {w : Half} (h : (w.extractLsb' 26 6).toNat = 1) : decodeRaw w = decode01 w := by
  unfold decodeRaw; rw [h]; rfl
theorem decodeRaw_08 {w : Half} (h : (w.extractLsb' 26 6).toNat = 8) : decodeRaw w = decode08 w := by
  unfold decodeRaw; rw [h]; rfl
theorem decodeRaw_0B {w : Half} (h : (w.extractLsb' 26 6).toNat = 11) : decodeRaw w = decode0B w := by
  unfold decodeRaw; rw [h]; rfl
theorem decodeRaw_25 {w : Half} (h : (w.extractLsb' 26 6).toNat = 37) : decodeRaw w = decode25 w := by
  unfold decodeRaw; rw [h]; rfl
theorem decodeRaw_26 {w : Half} (h : (w.extractLsb' 26 6).toNat = 38) : decodeRaw w = decode26 w := by
  unfold decodeRaw; rw [h]; rfl
theorem decodeRaw_27 {w : Half} (h : (w.extractLsb' 26 6).toNat = 39) : decodeRaw w = decode27 w := by
  unfold decodeRaw; rw [h]; rfl
theorem decodeRaw_28 {w : Half} (h : (w.extractLsb' 26 6).toNat = 40) : decodeRaw w = decode28 w := by
  unfold decodeRaw; rw [h]; rfl
theorem decodeRaw_29 {w : Half} (h : (w.extractLsb' 26 6).toNat = 41) : decodeRaw w = decode29 w := by
  unfold decodeRaw; rw [h]; rfl
theorem decodeRaw_2A {w : Half} (h : (w.extractLsb' 26 6).toNat = 42) : decodeRaw w = decode2A w := by
  unfold decodeRaw; rw [h]; rfl
theorem decodeRaw_2B {w : Half} (h : (w.extractLsb' 26 6).toNat = 43) : decodeRaw w = decode2B w := by
  unfold decodeRaw; rw [h]; rfl
theorem decodeRaw_2C {w : Half} (h : (w.extractLsb' 26 6).toNat = 44) : decodeRaw w = decode2C w := by
  unfold decodeRaw; rw [h]; rfl
theorem decodeRaw_2D {w : Half} (h : (w.extractLsb' 26 6).toNat = 45) : decodeRaw w = decode2D w := by
  unfold decodeRaw; rw [h]; rfl
theorem decodeRaw_2E {w : Half} (h : (w.extractLsb' 26 6).toNat = 46) : decodeRaw w = decode2E w := by
  unfold decodeRaw; rw [h]; rfl
theorem decodeRaw_2F {w : Half} (h : (w.extractLsb' 26 6).toNat = 47) : decodeRaw w = decode2F w := by
  unfold decodeRaw; rw [h]; rfl
theorem decodeRaw_36 {w : Half} (h : (w.extractLsb' 26 6).toNat = 54) : decodeRaw w = decode36 w := by
  unfold decodeRaw; rw [h]; rfl
theorem decodeRaw_37 {w : Half} (h : (w.extractLsb' 26 6).toNat = 55) : decodeRaw w = decode37 w := by
  unfold decodeRaw; rw [h]; rfl
theorem decodeRaw_38 {w : Half} (h : (w.extractLsb' 26 6).toNat = 56) : decodeRaw w = decode38 w := by
  unfold decodeRaw; rw [h]; rfl
theorem decodeRaw_39 {w : Half} (h : (w.extractLsb' 26 6).toNat = 57) : decodeRaw w = decode39 w := by
  unfold decodeRaw; rw [h]; rfl
theorem decodeRaw_3A {w : Half} (h : (w.extractLsb' 26 6).toNat = 58) : decodeRaw w = decode3A w := by
  unfold decodeRaw; rw [h]; rfl

theorem decode01_add {w : Half} (h0 : (w.extractLsb' 0 11).toNat = 0) :
    decode01 w = .instr (.add (w.extractLsb' 21 5) (w.extractLsb' 16 5) (w.extractLsb' 11 5)) := by
  unfold decode01; rw [h0]; rfl
theorem decode01_sub {w : Half} (h0 : (w.extractLsb' 0 11).toNat = 1) :
    decode01 w = .instr (.sub (w.extractLsb' 21 5) (w.extractLsb' 16 5) (w.extractLsb' 11 5)) := by
  unfold decode01; rw [h0]; rfl
theorem decode01_and {w : Half} (h0 : (w.extractLsb' 0 11).toNat = 2) :
    decode01 w = .instr (.and (w.extractLsb' 21 5) (w.extractLsb' 16 5) (w.extractLsb' 11 5)) := by
  unfold decode01; rw [h0]; rfl
theorem decode01_or {w : Half} (h0 : (w.extractLsb' 0 11).toNat = 3) :
    decode01 w = .instr (.or (w.extractLsb' 21 5) (w.extractLsb' 16 5) (w.extractLsb' 11 5)) := by
  unfold decode01; rw [h0]; rfl
theorem decode01_xor {w : Half} (h0 : (w.extractLsb' 0 11).toNat = 4) :
    decode01 w = .instr (.xor (w.extractLsb' 21 5) (w.extractLsb' 16 5) (w.extractLsb' 11 5)) := by
  unfold decode01; rw [h0]; rfl
theorem decode01_andn {w : Half} (h0 : (w.extractLsb' 0 11).toNat = 5) :
    decode01 w = .instr (.andn (w.extractLsb' 21 5) (w.extractLsb' 16 5) (w.extractLsb' 11 5)) := by
  unfold decode01; rw [h0]; rfl
theorem decode01_sll {w : Half} (h0 : (w.extractLsb' 0 11).toNat = 6) :
    decode01 w = .instr (.sll (w.extractLsb' 21 5) (w.extractLsb' 16 5) (w.extractLsb' 11 5)) := by
  unfold decode01; rw [h0]; rfl
theorem decode01_srl {w : Half} (h0 : (w.extractLsb' 0 11).toNat = 7) :
    decode01 w = .instr (.srl (w.extractLsb' 21 5) (w.extractLsb' 16 5) (w.extractLsb' 11 5)) := by
  unfold decode01; rw [h0]; rfl
theorem decode01_sra {w : Half} (h0 : (w.extractLsb' 0 11).toNat = 8) :
    decode01 w = .instr (.sra (w.extractLsb' 21 5) (w.extractLsb' 16 5) (w.extractLsb' 11 5)) := by
  unfold decode01; rw [h0]; rfl
theorem decode01_ror {w : Half} (h0 : (w.extractLsb' 0 11).toNat = 9) :
    decode01 w = .instr (.ror (w.extractLsb' 21 5) (w.extractLsb' 16 5) (w.extractLsb' 11 5)) := by
  unfold decode01; rw [h0]; rfl
theorem decode01_slt {w : Half} (h0 : (w.extractLsb' 0 11).toNat = 10) :
    decode01 w = .instr (.slt (w.extractLsb' 21 5) (w.extractLsb' 16 5) (w.extractLsb' 11 5)) := by
  unfold decode01; rw [h0]; rfl
theorem decode01_sltu {w : Half} (h0 : (w.extractLsb' 0 11).toNat = 11) :
    decode01 w = .instr (.sltu (w.extractLsb' 21 5) (w.extractLsb' 16 5) (w.extractLsb' 11 5)) := by
  unfold decode01; rw [h0]; rfl
theorem decode01_min {w : Half} (h0 : (w.extractLsb' 0 11).toNat = 12) :
    decode01 w = .instr (.min (w.extractLsb' 21 5) (w.extractLsb' 16 5) (w.extractLsb' 11 5)) := by
  unfold decode01; rw [h0]; rfl
theorem decode01_max {w : Half} (h0 : (w.extractLsb' 0 11).toNat = 13) :
    decode01 w = .instr (.max (w.extractLsb' 21 5) (w.extractLsb' 16 5) (w.extractLsb' 11 5)) := by
  unfold decode01; rw [h0]; rfl
theorem decode01_minu {w : Half} (h0 : (w.extractLsb' 0 11).toNat = 14) :
    decode01 w = .instr (.minu (w.extractLsb' 21 5) (w.extractLsb' 16 5) (w.extractLsb' 11 5)) := by
  unfold decode01; rw [h0]; rfl
theorem decode01_maxu {w : Half} (h0 : (w.extractLsb' 0 11).toNat = 15) :
    decode01 w = .instr (.maxu (w.extractLsb' 21 5) (w.extractLsb' 16 5) (w.extractLsb' 11 5)) := by
  unfold decode01; rw [h0]; rfl
theorem decode01_mul {w : Half} (h0 : (w.extractLsb' 0 11).toNat = 16) :
    decode01 w = .instr (.mul (w.extractLsb' 21 5) (w.extractLsb' 16 5) (w.extractLsb' 11 5)) := by
  unfold decode01; rw [h0]; rfl
theorem decode01_mulh {w : Half} (h0 : (w.extractLsb' 0 11).toNat = 17) :
    decode01 w = .instr (.mulh (w.extractLsb' 21 5) (w.extractLsb' 16 5) (w.extractLsb' 11 5)) := by
  unfold decode01; rw [h0]; rfl
theorem decode01_mulhu {w : Half} (h0 : (w.extractLsb' 0 11).toNat = 18) :
    decode01 w = .instr (.mulhu (w.extractLsb' 21 5) (w.extractLsb' 16 5) (w.extractLsb' 11 5)) := by
  unfold decode01; rw [h0]; rfl
theorem decode01_mulhsu {w : Half} (h0 : (w.extractLsb' 0 11).toNat = 19) :
    decode01 w = .instr (.mulhsu (w.extractLsb' 21 5) (w.extractLsb' 16 5) (w.extractLsb' 11 5)) := by
  unfold decode01; rw [h0]; rfl
theorem decode01_div {w : Half} (h0 : (w.extractLsb' 0 11).toNat = 20) :
    decode01 w = .instr (.div (w.extractLsb' 21 5) (w.extractLsb' 16 5) (w.extractLsb' 11 5)) := by
  unfold decode01; rw [h0]; rfl
theorem decode01_divu {w : Half} (h0 : (w.extractLsb' 0 11).toNat = 21) :
    decode01 w = .instr (.divu (w.extractLsb' 21 5) (w.extractLsb' 16 5) (w.extractLsb' 11 5)) := by
  unfold decode01; rw [h0]; rfl
theorem decode01_rem {w : Half} (h0 : (w.extractLsb' 0 11).toNat = 22) :
    decode01 w = .instr (.rem (w.extractLsb' 21 5) (w.extractLsb' 16 5) (w.extractLsb' 11 5)) := by
  unfold decode01; rw [h0]; rfl
theorem decode01_remu {w : Half} (h0 : (w.extractLsb' 0 11).toNat = 23) :
    decode01 w = .instr (.remu (w.extractLsb' 21 5) (w.extractLsb' 16 5) (w.extractLsb' 11 5)) := by
  unfold decode01; rw [h0]; rfl
theorem decode01_sh1add {w : Half} (h0 : (w.extractLsb' 0 11).toNat = 24) :
    decode01 w = .instr (.sh1add (w.extractLsb' 21 5) (w.extractLsb' 16 5) (w.extractLsb' 11 5)) := by
  unfold decode01; rw [h0]; rfl
theorem decode01_sh2add {w : Half} (h0 : (w.extractLsb' 0 11).toNat = 25) :
    decode01 w = .instr (.sh2add (w.extractLsb' 21 5) (w.extractLsb' 16 5) (w.extractLsb' 11 5)) := by
  unfold decode01; rw [h0]; rfl
theorem decode01_sh3add {w : Half} (h0 : (w.extractLsb' 0 11).toNat = 26) :
    decode01 w = .instr (.sh3add (w.extractLsb' 21 5) (w.extractLsb' 16 5) (w.extractLsb' 11 5)) := by
  unfold decode01; rw [h0]; rfl
theorem decode01_clz {w : Half} (h0 : (w.extractLsb' 0 11).toNat = 27) :
    decode01 w = fieldsZero (w.extractLsb' 11 5 == 0) (.clz (w.extractLsb' 21 5) (w.extractLsb' 16 5)) := by
  unfold decode01; rw [h0]; rfl
theorem decode01_ctz {w : Half} (h0 : (w.extractLsb' 0 11).toNat = 28) :
    decode01 w = fieldsZero (w.extractLsb' 11 5 == 0) (.ctz (w.extractLsb' 21 5) (w.extractLsb' 16 5)) := by
  unfold decode01; rw [h0]; rfl
theorem decode01_cpop {w : Half} (h0 : (w.extractLsb' 0 11).toNat = 29) :
    decode01 w = fieldsZero (w.extractLsb' 11 5 == 0) (.cpop (w.extractLsb' 21 5) (w.extractLsb' 16 5)) := by
  unfold decode01; rw [h0]; rfl
theorem decodeRaw_addi {w : Half} (h0 : (w.extractLsb' 26 6).toNat = 2) :
    decodeRaw w = .instr (.addi (w.extractLsb' 21 5) (w.extractLsb' 16 5) (w.extractLsb' 0 16)) := by
  unfold decodeRaw; rw [h0]; rfl
theorem decodeRaw_andi {w : Half} (h0 : (w.extractLsb' 26 6).toNat = 3) :
    decodeRaw w = .instr (.andi (w.extractLsb' 21 5) (w.extractLsb' 16 5) (w.extractLsb' 0 16)) := by
  unfold decodeRaw; rw [h0]; rfl
theorem decodeRaw_ori {w : Half} (h0 : (w.extractLsb' 26 6).toNat = 4) :
    decodeRaw w = .instr (.ori (w.extractLsb' 21 5) (w.extractLsb' 16 5) (w.extractLsb' 0 16)) := by
  unfold decodeRaw; rw [h0]; rfl
theorem decodeRaw_xori {w : Half} (h0 : (w.extractLsb' 26 6).toNat = 5) :
    decodeRaw w = .instr (.xori (w.extractLsb' 21 5) (w.extractLsb' 16 5) (w.extractLsb' 0 16)) := by
  unfold decodeRaw; rw [h0]; rfl
theorem decodeRaw_slti {w : Half} (h0 : (w.extractLsb' 26 6).toNat = 6) :
    decodeRaw w = .instr (.slti (w.extractLsb' 21 5) (w.extractLsb' 16 5) (w.extractLsb' 0 16)) := by
  unfold decodeRaw; rw [h0]; rfl
theorem decodeRaw_sltiu {w : Half} (h0 : (w.extractLsb' 26 6).toNat = 7) :
    decodeRaw w = .instr (.sltiu (w.extractLsb' 21 5) (w.extractLsb' 16 5) (w.extractLsb' 0 16)) := by
  unfold decodeRaw; rw [h0]; rfl
theorem decode08_slli {w : Half} (h0 : (w.extractLsb' 6 2).toNat = 0) :
    decode08 w = fieldsZero (w.extractLsb' 8 8 == 0) (.slli (w.extractLsb' 21 5) (w.extractLsb' 16 5) (w.extractLsb' 0 6)) := by
  unfold decode08; rw [h0]; rfl
theorem decode08_srli {w : Half} (h0 : (w.extractLsb' 6 2).toNat = 1) :
    decode08 w = fieldsZero (w.extractLsb' 8 8 == 0) (.srli (w.extractLsb' 21 5) (w.extractLsb' 16 5) (w.extractLsb' 0 6)) := by
  unfold decode08; rw [h0]; rfl
theorem decode08_srai {w : Half} (h0 : (w.extractLsb' 6 2).toNat = 2) :
    decode08 w = fieldsZero (w.extractLsb' 8 8 == 0) (.srai (w.extractLsb' 21 5) (w.extractLsb' 16 5) (w.extractLsb' 0 6)) := by
  unfold decode08; rw [h0]; rfl
theorem decode08_rori {w : Half} (h0 : (w.extractLsb' 6 2).toNat = 3) :
    decode08 w = fieldsZero (w.extractLsb' 8 8 == 0) (.rori (w.extractLsb' 21 5) (w.extractLsb' 16 5) (w.extractLsb' 0 6)) := by
  unfold decode08; rw [h0]; rfl
theorem decodeRaw_lih {w : Half} (h0 : (w.extractLsb' 26 6).toNat = 9) :
    decodeRaw w = .instr (.lih (w.extractLsb' 21 5) (w.extractLsb' 0 21)) := by
  unfold decodeRaw; rw [h0]; rfl
theorem decodeRaw_addpc {w : Half} (h0 : (w.extractLsb' 26 6).toNat = 10) :
    decodeRaw w = .instr (.addpc (w.extractLsb' 21 5) (w.extractLsb' 0 21)) := by
  unfold decodeRaw; rw [h0]; rfl
theorem decode0B_fadd {w : Half} (h0 : (w.extractLsb' 0 8).toNat = 0) :
    decode0B w = fieldsZero (w.extractLsb' 9 2 == 0) (.fadd (w.extractLsb' 21 5) (w.extractLsb' 16 5) (w.extractLsb' 11 5) (w.extractLsb' 8 1)) := by
  unfold decode0B; rw [h0]; rfl
theorem decode0B_fsub {w : Half} (h0 : (w.extractLsb' 0 8).toNat = 1) :
    decode0B w = fieldsZero (w.extractLsb' 9 2 == 0) (.fsub (w.extractLsb' 21 5) (w.extractLsb' 16 5) (w.extractLsb' 11 5) (w.extractLsb' 8 1)) := by
  unfold decode0B; rw [h0]; rfl
theorem decode0B_fmul {w : Half} (h0 : (w.extractLsb' 0 8).toNat = 2) :
    decode0B w = fieldsZero (w.extractLsb' 9 2 == 0) (.fmul (w.extractLsb' 21 5) (w.extractLsb' 16 5) (w.extractLsb' 11 5) (w.extractLsb' 8 1)) := by
  unfold decode0B; rw [h0]; rfl
theorem decode0B_fdiv {w : Half} (h0 : (w.extractLsb' 0 8).toNat = 3) :
    decode0B w = fieldsZero (w.extractLsb' 9 2 == 0) (.fdiv (w.extractLsb' 21 5) (w.extractLsb' 16 5) (w.extractLsb' 11 5) (w.extractLsb' 8 1)) := by
  unfold decode0B; rw [h0]; rfl
theorem decode0B_fsqrt {w : Half} (h0 : (w.extractLsb' 0 8).toNat = 4) :
    decode0B w = fieldsZero (w.extractLsb' 9 7 == 0) (.fsqrt (w.extractLsb' 21 5) (w.extractLsb' 16 5) (w.extractLsb' 8 1)) := by
  unfold decode0B; rw [h0]; rfl
theorem decode0B_fmac {w : Half} (h0 : (w.extractLsb' 0 8).toNat = 5) :
    decode0B w = fieldsZero (w.extractLsb' 9 2 == 0) (.fmac (w.extractLsb' 21 5) (w.extractLsb' 16 5) (w.extractLsb' 11 5) (w.extractLsb' 8 1)) := by
  unfold decode0B; rw [h0]; rfl
theorem decode0B_fmin {w : Half} (h0 : (w.extractLsb' 0 8).toNat = 6) :
    decode0B w = fieldsZero (w.extractLsb' 9 2 == 0) (.fmin (w.extractLsb' 21 5) (w.extractLsb' 16 5) (w.extractLsb' 11 5) (w.extractLsb' 8 1)) := by
  unfold decode0B; rw [h0]; rfl
theorem decode0B_fmax {w : Half} (h0 : (w.extractLsb' 0 8).toNat = 7) :
    decode0B w = fieldsZero (w.extractLsb' 9 2 == 0) (.fmax (w.extractLsb' 21 5) (w.extractLsb' 16 5) (w.extractLsb' 11 5) (w.extractLsb' 8 1)) := by
  unfold decode0B; rw [h0]; rfl
theorem decode0B_feq {w : Half} (h0 : (w.extractLsb' 0 8).toNat = 8) :
    decode0B w = fieldsZero (w.extractLsb' 9 2 == 0) (.feq (w.extractLsb' 21 5) (w.extractLsb' 16 5) (w.extractLsb' 11 5) (w.extractLsb' 8 1)) := by
  unfold decode0B; rw [h0]; rfl
theorem decode0B_flt {w : Half} (h0 : (w.extractLsb' 0 8).toNat = 40) :
    decode0B w = fieldsZero (w.extractLsb' 9 2 == 0) (.flt (w.extractLsb' 21 5) (w.extractLsb' 16 5) (w.extractLsb' 11 5) (w.extractLsb' 8 1)) := by
  unfold decode0B; rw [h0]; rfl
theorem decode0B_fle {w : Half} (h0 : (w.extractLsb' 0 8).toNat = 72) :
    decode0B w = fieldsZero (w.extractLsb' 9 2 == 0) (.fle (w.extractLsb' 21 5) (w.extractLsb' 16 5) (w.extractLsb' 11 5) (w.extractLsb' 8 1)) := by
  unfold decode0B; rw [h0]; rfl
theorem decode0B_funord {w : Half} (h0 : (w.extractLsb' 0 8).toNat = 104) :
    decode0B w = fieldsZero (w.extractLsb' 9 2 == 0) (.funord (w.extractLsb' 21 5) (w.extractLsb' 16 5) (w.extractLsb' 11 5) (w.extractLsb' 8 1)) := by
  unfold decode0B; rw [h0]; rfl
theorem decode0B_fclass {w : Half} (h0 : (w.extractLsb' 0 8).toNat = 9) :
    decode0B w = fieldsZero (w.extractLsb' 9 7 == 0) (.fclass (w.extractLsb' 21 5) (w.extractLsb' 16 5) (w.extractLsb' 8 1)) := by
  unfold decode0B; rw [h0]; rfl
theorem decode0B_fcvtI32 {w : Half} (h0 : (w.extractLsb' 0 8).toNat = 10) :
    decode0B w = fieldsZero (w.extractLsb' 9 7 == 0) (.fcvtI32 (w.extractLsb' 21 5) (w.extractLsb' 16 5) (w.extractLsb' 8 1)) := by
  unfold decode0B; rw [h0]; rfl
theorem decode0B_fcvtUi32 {w : Half} (h0 : (w.extractLsb' 0 8).toNat = 42) :
    decode0B w = fieldsZero (w.extractLsb' 9 7 == 0) (.fcvtUi32 (w.extractLsb' 21 5) (w.extractLsb' 16 5) (w.extractLsb' 8 1)) := by
  unfold decode0B; rw [h0]; rfl
theorem decode0B_fcvtI64 {w : Half} (h0 : (w.extractLsb' 0 8).toNat = 74) :
    decode0B w = fieldsZero (w.extractLsb' 9 7 == 0) (.fcvtI64 (w.extractLsb' 21 5) (w.extractLsb' 16 5) (w.extractLsb' 8 1)) := by
  unfold decode0B; rw [h0]; rfl
theorem decode0B_fcvtUi64 {w : Half} (h0 : (w.extractLsb' 0 8).toNat = 106) :
    decode0B w = fieldsZero (w.extractLsb' 9 7 == 0) (.fcvtUi64 (w.extractLsb' 21 5) (w.extractLsb' 16 5) (w.extractLsb' 8 1)) := by
  unfold decode0B; rw [h0]; rfl
theorem decode0B_fcvtFI64 {w : Half} (h0 : (w.extractLsb' 0 8).toNat = 138) :
    decode0B w = fieldsZero (w.extractLsb' 9 7 == 0) (.fcvtFI64 (w.extractLsb' 21 5) (w.extractLsb' 16 5) (w.extractLsb' 8 1)) := by
  unfold decode0B; rw [h0]; rfl
theorem decode0B_fcvtFUi64 {w : Half} (h0 : (w.extractLsb' 0 8).toNat = 170) :
    decode0B w = fieldsZero (w.extractLsb' 9 7 == 0) (.fcvtFUi64 (w.extractLsb' 21 5) (w.extractLsb' 16 5) (w.extractLsb' 8 1)) := by
  unfold decode0B; rw [h0]; rfl
theorem decode0B_fcvtFF {w : Half} (h0 : (w.extractLsb' 0 8).toNat = 202) :
    decode0B w = fieldsZero (w.extractLsb' 9 7 == 0) (.fcvtFF (w.extractLsb' 21 5) (w.extractLsb' 16 5) (w.extractLsb' 8 1)) := by
  unfold decode0B; rw [h0]; rfl
theorem decode0B_fsgnj {w : Half} (h0 : (w.extractLsb' 0 8).toNat = 11) :
    decode0B w = fieldsZero (w.extractLsb' 9 2 == 0) (.fsgnj (w.extractLsb' 21 5) (w.extractLsb' 16 5) (w.extractLsb' 11 5) (w.extractLsb' 8 1)) := by
  unfold decode0B; rw [h0]; rfl
theorem decode0B_fsgnjn {w : Half} (h0 : (w.extractLsb' 0 8).toNat = 43) :
    decode0B w = fieldsZero (w.extractLsb' 9 2 == 0) (.fsgnjn (w.extractLsb' 21 5) (w.extractLsb' 16 5) (w.extractLsb' 11 5) (w.extractLsb' 8 1)) := by
  unfold decode0B; rw [h0]; rfl
theorem decode0B_fsgnjx {w : Half} (h0 : (w.extractLsb' 0 8).toNat = 75) :
    decode0B w = fieldsZero (w.extractLsb' 9 2 == 0) (.fsgnjx (w.extractLsb' 21 5) (w.extractLsb' 16 5) (w.extractLsb' 11 5) (w.extractLsb' 8 1)) := by
  unfold decode0B; rw [h0]; rfl
theorem decodeRaw_faddi {w : Half} (h0 : (w.extractLsb' 26 6).toNat = 12) :
    decodeRaw w = .instr (.faddi (w.extractLsb' 21 5) (w.extractLsb' 16 5) (w.extractLsb' 0 16)) := by
  unfold decodeRaw; rw [h0]; rfl
theorem decodeRaw_fmuli {w : Half} (h0 : (w.extractLsb' 26 6).toNat = 13) :
    decodeRaw w = .instr (.fmuli (w.extractLsb' 21 5) (w.extractLsb' 16 5) (w.extractLsb' 0 16)) := by
  unfold decodeRaw; rw [h0]; rfl
theorem decodeRaw_muli {w : Half} (h0 : (w.extractLsb' 26 6).toNat = 14) :
    decodeRaw w = .instr (.muli (w.extractLsb' 21 5) (w.extractLsb' 16 5) (w.extractLsb' 0 16)) := by
  unfold decodeRaw; rw [h0]; rfl
theorem decodeRaw_vsetvli {w : Half} (h0 : (w.extractLsb' 26 6).toNat = 15) :
    decodeRaw w = fieldsZero (w.extractLsb' 12 4 == 0) (.vsetvli (w.extractLsb' 21 5) (w.extractLsb' 16 5) (w.extractLsb' 0 12)) := by
  unfold decodeRaw; rw [h0]; rfl
theorem decodeRaw_ldb {w : Half} (h0 : (w.extractLsb' 26 6).toNat = 16) :
    decodeRaw w = .instr (.ldb (w.extractLsb' 21 5) (w.extractLsb' 16 5) (w.extractLsb' 0 16)) := by
  unfold decodeRaw; rw [h0]; rfl
theorem decodeRaw_ldbu {w : Half} (h0 : (w.extractLsb' 26 6).toNat = 17) :
    decodeRaw w = .instr (.ldbu (w.extractLsb' 21 5) (w.extractLsb' 16 5) (w.extractLsb' 0 16)) := by
  unfold decodeRaw; rw [h0]; rfl
theorem decodeRaw_ldh {w : Half} (h0 : (w.extractLsb' 26 6).toNat = 18) :
    decodeRaw w = .instr (.ldh (w.extractLsb' 21 5) (w.extractLsb' 16 5) (w.extractLsb' 0 16)) := by
  unfold decodeRaw; rw [h0]; rfl
theorem decodeRaw_ldhu {w : Half} (h0 : (w.extractLsb' 26 6).toNat = 19) :
    decodeRaw w = .instr (.ldhu (w.extractLsb' 21 5) (w.extractLsb' 16 5) (w.extractLsb' 0 16)) := by
  unfold decodeRaw; rw [h0]; rfl
theorem decodeRaw_ldw {w : Half} (h0 : (w.extractLsb' 26 6).toNat = 20) :
    decodeRaw w = .instr (.ldw (w.extractLsb' 21 5) (w.extractLsb' 16 5) (w.extractLsb' 0 16)) := by
  unfold decodeRaw; rw [h0]; rfl
theorem decodeRaw_ldwu {w : Half} (h0 : (w.extractLsb' 26 6).toNat = 21) :
    decodeRaw w = .instr (.ldwu (w.extractLsb' 21 5) (w.extractLsb' 16 5) (w.extractLsb' 0 16)) := by
  unfold decodeRaw; rw [h0]; rfl
theorem decodeRaw_ldd {w : Half} (h0 : (w.extractLsb' 26 6).toNat = 22) :
    decodeRaw w = .instr (.ldd (w.extractLsb' 21 5) (w.extractLsb' 16 5) (w.extractLsb' 0 16)) := by
  unfold decodeRaw; rw [h0]; rfl
theorem decodeRaw_stb {w : Half} (h0 : (w.extractLsb' 26 6).toNat = 23) :
    decodeRaw w = .instr (.stb (w.extractLsb' 21 5) (w.extractLsb' 16 5) (w.extractLsb' 0 16)) := by
  unfold decodeRaw; rw [h0]; rfl
theorem decodeRaw_sth {w : Half} (h0 : (w.extractLsb' 26 6).toNat = 24) :
    decodeRaw w = .instr (.sth (w.extractLsb' 21 5) (w.extractLsb' 16 5) (w.extractLsb' 0 16)) := by
  unfold decodeRaw; rw [h0]; rfl
theorem decodeRaw_stw {w : Half} (h0 : (w.extractLsb' 26 6).toNat = 25) :
    decodeRaw w = .instr (.stw (w.extractLsb' 21 5) (w.extractLsb' 16 5) (w.extractLsb' 0 16)) := by
  unfold decodeRaw; rw [h0]; rfl
theorem decodeRaw_std {w : Half} (h0 : (w.extractLsb' 26 6).toNat = 26) :
    decodeRaw w = .instr (.std (w.extractLsb' 21 5) (w.extractLsb' 16 5) (w.extractLsb' 0 16)) := by
  unfold decodeRaw; rw [h0]; rfl
theorem decodeRaw_beq {w : Half} (h0 : (w.extractLsb' 26 6).toNat = 27) :
    decodeRaw w = .instr (.beq (w.extractLsb' 21 5) (w.extractLsb' 16 5) (w.extractLsb' 0 16)) := by
  unfold decodeRaw; rw [h0]; rfl
theorem decodeRaw_bne {w : Half} (h0 : (w.extractLsb' 26 6).toNat = 28) :
    decodeRaw w = .instr (.bne (w.extractLsb' 21 5) (w.extractLsb' 16 5) (w.extractLsb' 0 16)) := by
  unfold decodeRaw; rw [h0]; rfl
theorem decodeRaw_blt {w : Half} (h0 : (w.extractLsb' 26 6).toNat = 29) :
    decodeRaw w = .instr (.blt (w.extractLsb' 21 5) (w.extractLsb' 16 5) (w.extractLsb' 0 16)) := by
  unfold decodeRaw; rw [h0]; rfl
theorem decodeRaw_bge {w : Half} (h0 : (w.extractLsb' 26 6).toNat = 30) :
    decodeRaw w = .instr (.bge (w.extractLsb' 21 5) (w.extractLsb' 16 5) (w.extractLsb' 0 16)) := by
  unfold decodeRaw; rw [h0]; rfl
theorem decodeRaw_bltu {w : Half} (h0 : (w.extractLsb' 26 6).toNat = 31) :
    decodeRaw w = .instr (.bltu (w.extractLsb' 21 5) (w.extractLsb' 16 5) (w.extractLsb' 0 16)) := by
  unfold decodeRaw; rw [h0]; rfl
theorem decodeRaw_bgeu {w : Half} (h0 : (w.extractLsb' 26 6).toNat = 32) :
    decodeRaw w = .instr (.bgeu (w.extractLsb' 21 5) (w.extractLsb' 16 5) (w.extractLsb' 0 16)) := by
  unfold decodeRaw; rw [h0]; rfl
theorem decodeRaw_jal {w : Half} (h0 : (w.extractLsb' 26 6).toNat = 33) :
    decodeRaw w = .instr (.jal (w.extractLsb' 21 5) (w.extractLsb' 0 21)) := by
  unfold decodeRaw; rw [h0]; rfl
theorem decodeRaw_jalr {w : Half} (h0 : (w.extractLsb' 26 6).toNat = 34) :
    decodeRaw w = .instr (.jalr (w.extractLsb' 21 5) (w.extractLsb' 16 5) (w.extractLsb' 0 16)) := by
  unfold decodeRaw; rw [h0]; rfl
theorem decodeRaw_subbnz {w : Half} (h0 : (w.extractLsb' 26 6).toNat = 35) :
    decodeRaw w = .instr (.subbnz (w.extractLsb' 21 5) (w.extractLsb' 16 5) (w.extractLsb' 0 16)) := by
  unfold decodeRaw; rw [h0]; rfl
theorem decodeRaw_strip {w : Half} (h0 : (w.extractLsb' 26 6).toNat = 36) :
    decodeRaw w = fieldsZero (w.extractLsb' 4 12 == 0) (.strip (w.extractLsb' 21 5) (w.extractLsb' 16 5) (w.extractLsb' 0 4)) := by
  unfold decodeRaw; rw [h0]; rfl
theorem decode25_csrrw {w : Half} (h0 : (w.extractLsb' 0 4).toNat = 0) :
    decode25 w = .instr (.csrrw (w.extractLsb' 21 5) (w.extractLsb' 16 5) (w.extractLsb' 4 12)) := by
  unfold decode25; rw [h0]; rfl
theorem decode25_csrrs {w : Half} (h0 : (w.extractLsb' 0 4).toNat = 1) :
    decode25 w = .instr (.csrrs (w.extractLsb' 21 5) (w.extractLsb' 16 5) (w.extractLsb' 4 12)) := by
  unfold decode25; rw [h0]; rfl
theorem decode25_csrrc {w : Half} (h0 : (w.extractLsb' 0 4).toNat = 2) :
    decode25 w = .instr (.csrrc (w.extractLsb' 21 5) (w.extractLsb' 16 5) (w.extractLsb' 4 12)) := by
  unfold decode25; rw [h0]; rfl
theorem decode25_csrrwi {w : Half} (h0 : (w.extractLsb' 0 4).toNat = 3) :
    decode25 w = .instr (.csrrwi (w.extractLsb' 21 5) (w.extractLsb' 16 5) (w.extractLsb' 4 12)) := by
  unfold decode25; rw [h0]; rfl
theorem decode25_csrrsi {w : Half} (h0 : (w.extractLsb' 0 4).toNat = 4) :
    decode25 w = .instr (.csrrsi (w.extractLsb' 21 5) (w.extractLsb' 16 5) (w.extractLsb' 4 12)) := by
  unfold decode25; rw [h0]; rfl
theorem decode25_csrrci {w : Half} (h0 : (w.extractLsb' 0 4).toNat = 5) :
    decode25 w = .instr (.csrrci (w.extractLsb' 21 5) (w.extractLsb' 16 5) (w.extractLsb' 4 12)) := by
  unfold decode25; rw [h0]; rfl
theorem decode25_trap {w : Half} (h0 : (w.extractLsb' 0 4).toNat = 8) :
    decode25 w = fieldsZero (w.extractLsb' 20 6 == 0) (.trap (w.extractLsb' 4 16)) := by
  unfold decode25; rw [h0]; rfl
theorem decode25_tret {w : Half} (h0 : (w.extractLsb' 0 4).toNat = 9) :
    decode25 w = fieldsZero (w.extractLsb' 4 22 == 0) (.tret) := by
  unfold decode25; rw [h0]; rfl
theorem decode25_csave {w : Half} (h0 : (w.extractLsb' 0 4).toNat = 10) :
    decode25 w = fieldsZero (w.extractLsb' 4 7 == 0 && w.extractLsb' 21 5 == 0) (.csave (w.extractLsb' 16 5) (w.extractLsb' 11 5)) := by
  unfold decode25; rw [h0]; rfl
theorem decode25_crestore {w : Half} (h0 : (w.extractLsb' 0 4).toNat = 11) :
    decode25 w = fieldsZero (w.extractLsb' 4 12 == 0 && w.extractLsb' 21 5 == 0) (.crestore (w.extractLsb' 16 5)) := by
  unfold decode25; rw [h0]; rfl
theorem decode25_tdiscard {w : Half} (h0 : (w.extractLsb' 0 4).toNat = 12) :
    decode25 w = fieldsZero (w.extractLsb' 4 22 == 0) (.tdiscard) := by
  unfold decode25; rw [h0]; rfl
theorem decode25_tfail {w : Half} (h0 : (w.extractLsb' 0 4).toNat = 13) :
    decode25 w = fieldsZero (w.extractLsb' 4 22 == 0) (.tfail) := by
  unfold decode25; rw [h0]; rfl
theorem decode26_aadd {w : Half} (h0 : (w.extractLsb' 0 4).toNat = 0) :
    decode26 w = fieldsZero (w.extractLsb' 10 1 == 0) (.aadd (w.extractLsb' 21 5) (w.extractLsb' 16 5) (w.extractLsb' 11 5) (w.extractLsb' 7 3) (w.extractLsb' 5 2) (w.extractLsb' 4 1)) := by
  unfold decode26; rw [h0]; rfl
theorem decode26_aand {w : Half} (h0 : (w.extractLsb' 0 4).toNat = 1) :
    decode26 w = fieldsZero (w.extractLsb' 10 1 == 0) (.aand (w.extractLsb' 21 5) (w.extractLsb' 16 5) (w.extractLsb' 11 5) (w.extractLsb' 7 3) (w.extractLsb' 5 2) (w.extractLsb' 4 1)) := by
  unfold decode26; rw [h0]; rfl
theorem decode26_aor {w : Half} (h0 : (w.extractLsb' 0 4).toNat = 2) :
    decode26 w = fieldsZero (w.extractLsb' 10 1 == 0) (.aor (w.extractLsb' 21 5) (w.extractLsb' 16 5) (w.extractLsb' 11 5) (w.extractLsb' 7 3) (w.extractLsb' 5 2) (w.extractLsb' 4 1)) := by
  unfold decode26; rw [h0]; rfl
theorem decode26_axor {w : Half} (h0 : (w.extractLsb' 0 4).toNat = 3) :
    decode26 w = fieldsZero (w.extractLsb' 10 1 == 0) (.axor (w.extractLsb' 21 5) (w.extractLsb' 16 5) (w.extractLsb' 11 5) (w.extractLsb' 7 3) (w.extractLsb' 5 2) (w.extractLsb' 4 1)) := by
  unfold decode26; rw [h0]; rfl
theorem decode26_amin {w : Half} (h0 : (w.extractLsb' 0 4).toNat = 4) :
    decode26 w = fieldsZero (w.extractLsb' 10 1 == 0) (.amin (w.extractLsb' 21 5) (w.extractLsb' 16 5) (w.extractLsb' 11 5) (w.extractLsb' 7 3) (w.extractLsb' 5 2) (w.extractLsb' 4 1)) := by
  unfold decode26; rw [h0]; rfl
theorem decode26_amax {w : Half} (h0 : (w.extractLsb' 0 4).toNat = 5) :
    decode26 w = fieldsZero (w.extractLsb' 10 1 == 0) (.amax (w.extractLsb' 21 5) (w.extractLsb' 16 5) (w.extractLsb' 11 5) (w.extractLsb' 7 3) (w.extractLsb' 5 2) (w.extractLsb' 4 1)) := by
  unfold decode26; rw [h0]; rfl
theorem decode26_aminu {w : Half} (h0 : (w.extractLsb' 0 4).toNat = 6) :
    decode26 w = fieldsZero (w.extractLsb' 10 1 == 0) (.aminu (w.extractLsb' 21 5) (w.extractLsb' 16 5) (w.extractLsb' 11 5) (w.extractLsb' 7 3) (w.extractLsb' 5 2) (w.extractLsb' 4 1)) := by
  unfold decode26; rw [h0]; rfl
theorem decode26_amaxu {w : Half} (h0 : (w.extractLsb' 0 4).toNat = 7) :
    decode26 w = fieldsZero (w.extractLsb' 10 1 == 0) (.amaxu (w.extractLsb' 21 5) (w.extractLsb' 16 5) (w.extractLsb' 11 5) (w.extractLsb' 7 3) (w.extractLsb' 5 2) (w.extractLsb' 4 1)) := by
  unfold decode26; rw [h0]; rfl
theorem decode26_aswap {w : Half} (h0 : (w.extractLsb' 0 4).toNat = 8) :
    decode26 w = fieldsZero (w.extractLsb' 10 1 == 0) (.aswap (w.extractLsb' 21 5) (w.extractLsb' 16 5) (w.extractLsb' 11 5) (w.extractLsb' 7 3) (w.extractLsb' 5 2) (w.extractLsb' 4 1)) := by
  unfold decode26; rw [h0]; rfl
theorem decode26_acas {w : Half} (h0 : (w.extractLsb' 0 4).toNat = 9) :
    decode26 w = fieldsZero (w.extractLsb' 10 1 == 0) (.acas (w.extractLsb' 21 5) (w.extractLsb' 16 5) (w.extractLsb' 11 5) (w.extractLsb' 7 3) (w.extractLsb' 5 2) (w.extractLsb' 4 1)) := by
  unfold decode26; rw [h0]; rfl
theorem decode26_afadd {w : Half} (h0 : (w.extractLsb' 0 4).toNat = 10) :
    decode26 w = fieldsZero (w.extractLsb' 10 1 == 0) (.afadd (w.extractLsb' 21 5) (w.extractLsb' 16 5) (w.extractLsb' 11 5) (w.extractLsb' 7 3) (w.extractLsb' 5 2) (w.extractLsb' 4 1)) := by
  unfold decode26; rw [h0]; rfl
theorem decode27_fence {w : Half} (h0 : (w.extractLsb' 8 3).toNat = 0) :
    decode27 w = fieldsZero (w.extractLsb' 5 3 == 0 && w.extractLsb' 11 15 == 0) (.fence (w.extractLsb' 3 2) (w.extractLsb' 0 3)) := by
  unfold decode27; rw [h0]; rfl
theorem decode27_sbar {w : Half} (h0 : (w.extractLsb' 8 3).toNat = 1) :
    decode27 w = fieldsZero (w.extractLsb' 11 15 == 0) (.sbar (w.extractLsb' 0 8)) := by
  unfold decode27; rw [h0]; rfl
theorem decode27_waita {w : Half} (h0 : (w.extractLsb' 8 3).toNat = 2) :
    decode27 w = fieldsZero (w.extractLsb' 5 3 == 0) (.waita (w.extractLsb' 21 5) (w.extractLsb' 16 5) (w.extractLsb' 11 5) (w.extractLsb' 0 5)) := by
  unfold decode27; rw [h0]; rfl
theorem decode27_barr {w : Half} (h0 : (w.extractLsb' 8 3).toNat = 3) :
    decode27 w = fieldsZero (w.extractLsb' 0 8 == 0 && w.extractLsb' 11 5 == 0) (.barr (w.extractLsb' 21 5) (w.extractLsb' 16 5)) := by
  unfold decode27; rw [h0]; rfl
theorem decode27_bwait {w : Half} (h0 : (w.extractLsb' 8 3).toNat = 4) :
    decode27 w = fieldsZero (w.extractLsb' 5 3 == 0) (.bwait (w.extractLsb' 21 5) (w.extractLsb' 16 5) (w.extractLsb' 11 5) (w.extractLsb' 0 5)) := by
  unfold decode27; rw [h0]; rfl
theorem decode27_bjoin {w : Half} (h0 : (w.extractLsb' 8 3).toNat = 5) (h1 : (w.extractLsb' 0 1).toNat = 0) :
    decode27 w = fieldsZero (w.extractLsb' 1 7 == 0 && w.extractLsb' 11 5 == 0 && w.extractLsb' 21 5 == 0) (.bjoin (w.extractLsb' 16 5)) := by
  unfold decode27; rw [h0]; rw [h1]; rfl
theorem decode27_bleave {w : Half} (h0 : (w.extractLsb' 8 3).toNat = 5) (h1 : (w.extractLsb' 0 1).toNat = 1) :
    decode27 w = fieldsZero (w.extractLsb' 1 7 == 0 && w.extractLsb' 11 5 == 0 && w.extractLsb' 21 5 == 0) (.bleave (w.extractLsb' 16 5)) := by
  unfold decode27; rw [h0]; rw [h1]; rfl
theorem decode27_pqpush {w : Half} (h0 : (w.extractLsb' 8 3).toNat = 6) (h1 : (w.extractLsb' 0 1).toNat = 0) :
    decode27 w = fieldsZero (w.extractLsb' 1 7 == 0) (.pqpush (w.extractLsb' 21 5) (w.extractLsb' 16 5) (w.extractLsb' 11 5)) := by
  unfold decode27; rw [h0]; rw [h1]; rfl
theorem decode27_pqpop {w : Half} (h0 : (w.extractLsb' 8 3).toNat = 6) (h1 : (w.extractLsb' 0 1).toNat = 1) :
    decode27 w = fieldsZero (w.extractLsb' 1 7 == 0) (.pqpop (w.extractLsb' 21 5) (w.extractLsb' 16 5) (w.extractLsb' 11 5)) := by
  unfold decode27; rw [h0]; rw [h1]; rfl
theorem decode28_spawn {w : Half} (h0 : (w.extractLsb' 0 5).toNat = 0) :
    decode28 w = fieldsZero (w.extractLsb' 5 6 == 0 && w.extractLsb' 21 5 == 0) (.spawn (w.extractLsb' 16 5) (w.extractLsb' 11 5)) := by
  unfold decode28; rw [h0]; rfl
theorem decode28_tcommit {w : Half} (h0 : (w.extractLsb' 0 5).toNat = 1) :
    decode28 w = fieldsZero (w.extractLsb' 5 21 == 0) (.tcommit) := by
  unfold decode28; rw [h0]; rfl
theorem decode28_kill {w : Half} (h0 : (w.extractLsb' 0 5).toNat = 2) :
    decode28 w = fieldsZero (w.extractLsb' 6 10 == 0) (.kill (w.extractLsb' 21 5) (w.extractLsb' 16 5) (w.extractLsb' 5 1)) := by
  unfold decode28; rw [h0]; rfl
theorem decode28_wqry {w : Half} (h0 : (w.extractLsb' 0 5).toNat = 3) :
    decode28 w = fieldsZero (w.extractLsb' 5 11 == 0 && w.extractLsb' 21 5 == 0) (.wqry (w.extractLsb' 16 5)) := by
  unfold decode28; rw [h0]; rfl
theorem decode28_doneTask {w : Half} (h0 : (w.extractLsb' 0 5).toNat = 4) :
    decode28 w = fieldsZero (w.extractLsb' 5 21 == 0) (.doneTask) := by
  unfold decode28; rw [h0]; rfl
theorem decode28_yield {w : Half} (h0 : (w.extractLsb' 0 5).toNat = 5) :
    decode28 w = fieldsZero (w.extractLsb' 5 21 == 0) (.yield) := by
  unfold decode28; rw [h0]; rfl
theorem decode28_joinw {w : Half} (h0 : (w.extractLsb' 0 5).toNat = 6) :
    decode28 w = fieldsZero (w.extractLsb' 5 11 == 0) (.joinw (w.extractLsb' 21 5) (w.extractLsb' 16 5)) := by
  unfold decode28; rw [h0]; rfl
theorem decode28_ckmark {w : Half} (h0 : (w.extractLsb' 0 5).toNat = 8) :
    decode28 w = fieldsZero (w.extractLsb' 9 2 == 0) (.ckmark (w.extractLsb' 21 5) (w.extractLsb' 16 5) (w.extractLsb' 11 5) (w.extractLsb' 5 4)) := by
  unfold decode28; rw [h0]; rfl
theorem decode28_ckroll {w : Half} (h0 : (w.extractLsb' 0 5).toNat = 9) :
    decode28 w = fieldsZero (w.extractLsb' 10 16 == 0) (.ckroll (w.extractLsb' 9 1) (w.extractLsb' 5 4)) := by
  unfold decode28; rw [h0]; rfl
theorem decode28_ckcommit {w : Half} (h0 : (w.extractLsb' 0 5).toNat = 10) :
    decode28 w = fieldsZero (w.extractLsb' 10 16 == 0) (.ckcommit (w.extractLsb' 9 1) (w.extractLsb' 5 4)) := by
  unfold decode28; rw [h0]; rfl
theorem decode28_ckstat {w : Half} (h0 : (w.extractLsb' 0 5).toNat = 11) :
    decode28 w = fieldsZero (w.extractLsb' 9 12 == 0) (.ckstat (w.extractLsb' 21 5) (w.extractLsb' 5 4)) := by
  unfold decode28; rw [h0]; rfl
theorem decode29_gslot {w : Half} (h0 : (w.extractLsb' 0 4).toNat = 0) :
    decode29 w = fieldsZero (w.extractLsb' 4 12 == 0) (.gslot (w.extractLsb' 21 5) (w.extractLsb' 16 5)) := by
  unfold decode29; rw [h0]; rfl
theorem decode29_grel {w : Half} (h0 : (w.extractLsb' 0 4).toNat = 1) :
    decode29 w = fieldsZero (w.extractLsb' 4 12 == 0) (.grel (w.extractLsb' 21 5) (w.extractLsb' 16 5)) := by
  unfold decode29; rw [h0]; rfl
theorem decode29_gst {w : Half} (h0 : (w.extractLsb' 0 4).toNat = 2) :
    decode29 w = fieldsZero (w.extractLsb' 7 4 == 0 && w.extractLsb' 21 5 == 0) (.gst (w.extractLsb' 16 5) (w.extractLsb' 11 5) (w.extractLsb' 4 3)) := by
  unfold decode29; rw [h0]; rfl
theorem decode29_gamo {w : Half} (h0 : (w.extractLsb' 0 4).toNat = 3) :
    decode29 w = fieldsZero (w.extractLsb' 6 5 == 0) (.gamo (w.extractLsb' 21 5) (w.extractLsb' 16 5) (w.extractLsb' 11 5) (w.extractLsb' 4 2)) := by
  unfold decode29; rw [h0]; rfl
theorem decode29_gframe {w : Half} (h0 : (w.extractLsb' 0 4).toNat = 4) :
    decode29 w = fieldsZero (w.extractLsb' 4 17 == 0) (.gframe (w.extractLsb' 21 5)) := by
  unfold decode29; rw [h0]; rfl
theorem decode2A_vsetvl {w : Half} (h0 : (w.extractLsb' 0 11).toNat = 0) :
    decode2A w = .instr (.vsetvl (w.extractLsb' 21 5) (w.extractLsb' 16 5) (w.extractLsb' 11 5)) := by
  unfold decode2A; rw [h0]; rfl
theorem decode2A_vlmaxq {w : Half} (h0 : (w.extractLsb' 0 11).toNat = 1) :
    decode2A w = fieldsZero (w.extractLsb' 16 5 == 0) (.vlmaxq (w.extractLsb' 21 5) (w.extractLsb' 11 5)) := by
  unfold decode2A; rw [h0]; rfl
theorem decode2B_vaddVv {w : Half} (h0 : (w.extractLsb' 0 5).toNat = 0) :
    decode2B w = fieldsZero (w.extractLsb' 7 1 == 0) (.vaddVv (w.extractLsb' 21 5) (w.extractLsb' 16 5) (w.extractLsb' 11 5) (w.extractLsb' 8 3) (w.extractLsb' 6 1) (w.extractLsb' 5 1)) := by
  unfold decode2B; rw [h0]; rfl
theorem decode2B_vaddVx {w : Half} (h0 : (w.extractLsb' 0 5).toNat = 1) :
    decode2B w = fieldsZero (w.extractLsb' 7 1 == 0) (.vaddVx (w.extractLsb' 21 5) (w.extractLsb' 16 5) (w.extractLsb' 11 5) (w.extractLsb' 8 3) (w.extractLsb' 6 1) (w.extractLsb' 5 1)) := by
  unfold decode2B; rw [h0]; rfl
theorem decode2B_vaddVi {w : Half} (h0 : (w.extractLsb' 0 5).toNat = 2) :
    decode2B w = fieldsZero (w.extractLsb' 7 1 == 0) (.vaddVi (w.extractLsb' 21 5) (w.extractLsb' 16 5) (w.extractLsb' 11 5) (w.extractLsb' 8 3) (w.extractLsb' 6 1) (w.extractLsb' 5 1)) := by
  unfold decode2B; rw [h0]; rfl
theorem decode2B_vsubVv {w : Half} (h0 : (w.extractLsb' 0 5).toNat = 3) :
    decode2B w = fieldsZero (w.extractLsb' 7 1 == 0) (.vsubVv (w.extractLsb' 21 5) (w.extractLsb' 16 5) (w.extractLsb' 11 5) (w.extractLsb' 8 3) (w.extractLsb' 6 1) (w.extractLsb' 5 1)) := by
  unfold decode2B; rw [h0]; rfl
theorem decode2B_vsubVx {w : Half} (h0 : (w.extractLsb' 0 5).toNat = 4) :
    decode2B w = fieldsZero (w.extractLsb' 7 1 == 0) (.vsubVx (w.extractLsb' 21 5) (w.extractLsb' 16 5) (w.extractLsb' 11 5) (w.extractLsb' 8 3) (w.extractLsb' 6 1) (w.extractLsb' 5 1)) := by
  unfold decode2B; rw [h0]; rfl
theorem decode2B_vrsubVi {w : Half} (h0 : (w.extractLsb' 0 5).toNat = 5) :
    decode2B w = fieldsZero (w.extractLsb' 7 1 == 0) (.vrsubVi (w.extractLsb' 21 5) (w.extractLsb' 16 5) (w.extractLsb' 11 5) (w.extractLsb' 8 3) (w.extractLsb' 6 1) (w.extractLsb' 5 1)) := by
  unfold decode2B; rw [h0]; rfl
theorem decode2B_vandVv {w : Half} (h0 : (w.extractLsb' 0 5).toNat = 6) :
    decode2B w = fieldsZero (w.extractLsb' 7 1 == 0) (.vandVv (w.extractLsb' 21 5) (w.extractLsb' 16 5) (w.extractLsb' 11 5) (w.extractLsb' 8 3) (w.extractLsb' 6 1) (w.extractLsb' 5 1)) := by
  unfold decode2B; rw [h0]; rfl
theorem decode2B_vandVx {w : Half} (h0 : (w.extractLsb' 0 5).toNat = 7) :
    decode2B w = fieldsZero (w.extractLsb' 7 1 == 0) (.vandVx (w.extractLsb' 21 5) (w.extractLsb' 16 5) (w.extractLsb' 11 5) (w.extractLsb' 8 3) (w.extractLsb' 6 1) (w.extractLsb' 5 1)) := by
  unfold decode2B; rw [h0]; rfl
theorem decode2B_vorVv {w : Half} (h0 : (w.extractLsb' 0 5).toNat = 8) :
    decode2B w = fieldsZero (w.extractLsb' 7 1 == 0) (.vorVv (w.extractLsb' 21 5) (w.extractLsb' 16 5) (w.extractLsb' 11 5) (w.extractLsb' 8 3) (w.extractLsb' 6 1) (w.extractLsb' 5 1)) := by
  unfold decode2B; rw [h0]; rfl
theorem decode2B_vorVx {w : Half} (h0 : (w.extractLsb' 0 5).toNat = 9) :
    decode2B w = fieldsZero (w.extractLsb' 7 1 == 0) (.vorVx (w.extractLsb' 21 5) (w.extractLsb' 16 5) (w.extractLsb' 11 5) (w.extractLsb' 8 3) (w.extractLsb' 6 1) (w.extractLsb' 5 1)) := by
  unfold decode2B; rw [h0]; rfl
theorem decode2B_vxorVv {w : Half} (h0 : (w.extractLsb' 0 5).toNat = 10) :
    decode2B w = fieldsZero (w.extractLsb' 7 1 == 0) (.vxorVv (w.extractLsb' 21 5) (w.extractLsb' 16 5) (w.extractLsb' 11 5) (w.extractLsb' 8 3) (w.extractLsb' 6 1) (w.extractLsb' 5 1)) := by
  unfold decode2B; rw [h0]; rfl
theorem decode2B_vxorVx {w : Half} (h0 : (w.extractLsb' 0 5).toNat = 11) :
    decode2B w = fieldsZero (w.extractLsb' 7 1 == 0) (.vxorVx (w.extractLsb' 21 5) (w.extractLsb' 16 5) (w.extractLsb' 11 5) (w.extractLsb' 8 3) (w.extractLsb' 6 1) (w.extractLsb' 5 1)) := by
  unfold decode2B; rw [h0]; rfl
theorem decode2B_vxorVi {w : Half} (h0 : (w.extractLsb' 0 5).toNat = 12) :
    decode2B w = fieldsZero (w.extractLsb' 7 1 == 0) (.vxorVi (w.extractLsb' 21 5) (w.extractLsb' 16 5) (w.extractLsb' 11 5) (w.extractLsb' 8 3) (w.extractLsb' 6 1) (w.extractLsb' 5 1)) := by
  unfold decode2B; rw [h0]; rfl
theorem decode2B_vsllVv {w : Half} (h0 : (w.extractLsb' 0 5).toNat = 13) :
    decode2B w = fieldsZero (w.extractLsb' 7 1 == 0) (.vsllVv (w.extractLsb' 21 5) (w.extractLsb' 16 5) (w.extractLsb' 11 5) (w.extractLsb' 8 3) (w.extractLsb' 6 1) (w.extractLsb' 5 1)) := by
  unfold decode2B; rw [h0]; rfl
theorem decode2B_vsllVi {w : Half} (h0 : (w.extractLsb' 0 5).toNat = 14) :
    decode2B w = fieldsZero (w.extractLsb' 7 1 == 0) (.vsllVi (w.extractLsb' 21 5) (w.extractLsb' 16 5) (w.extractLsb' 11 5) (w.extractLsb' 8 3) (w.extractLsb' 6 1) (w.extractLsb' 5 1)) := by
  unfold decode2B; rw [h0]; rfl
theorem decode2B_vsrVv {w : Half} (h0 : (w.extractLsb' 0 5).toNat = 15) :
    decode2B w = fieldsZero (w.extractLsb' 7 1 == 0) (.vsrVv (w.extractLsb' 21 5) (w.extractLsb' 16 5) (w.extractLsb' 11 5) (w.extractLsb' 8 3) (w.extractLsb' 6 1) (w.extractLsb' 5 1)) := by
  unfold decode2B; rw [h0]; rfl
theorem decode2B_vsrVi {w : Half} (h0 : (w.extractLsb' 0 5).toNat = 16) :
    decode2B w = fieldsZero (w.extractLsb' 7 1 == 0) (.vsrVi (w.extractLsb' 21 5) (w.extractLsb' 16 5) (w.extractLsb' 11 5) (w.extractLsb' 8 3) (w.extractLsb' 6 1) (w.extractLsb' 5 1)) := by
  unfold decode2B; rw [h0]; rfl
theorem decode2B_vminVv {w : Half} (h0 : (w.extractLsb' 0 5).toNat = 17) :
    decode2B w = fieldsZero (w.extractLsb' 7 1 == 0) (.vminVv (w.extractLsb' 21 5) (w.extractLsb' 16 5) (w.extractLsb' 11 5) (w.extractLsb' 8 3) (w.extractLsb' 6 1) (w.extractLsb' 5 1)) := by
  unfold decode2B; rw [h0]; rfl
theorem decode2B_vminVx {w : Half} (h0 : (w.extractLsb' 0 5).toNat = 18) :
    decode2B w = fieldsZero (w.extractLsb' 7 1 == 0) (.vminVx (w.extractLsb' 21 5) (w.extractLsb' 16 5) (w.extractLsb' 11 5) (w.extractLsb' 8 3) (w.extractLsb' 6 1) (w.extractLsb' 5 1)) := by
  unfold decode2B; rw [h0]; rfl
theorem decode2B_vmaxVv {w : Half} (h0 : (w.extractLsb' 0 5).toNat = 19) :
    decode2B w = fieldsZero (w.extractLsb' 7 1 == 0) (.vmaxVv (w.extractLsb' 21 5) (w.extractLsb' 16 5) (w.extractLsb' 11 5) (w.extractLsb' 8 3) (w.extractLsb' 6 1) (w.extractLsb' 5 1)) := by
  unfold decode2B; rw [h0]; rfl
theorem decode2B_vmaxVx {w : Half} (h0 : (w.extractLsb' 0 5).toNat = 20) :
    decode2B w = fieldsZero (w.extractLsb' 7 1 == 0) (.vmaxVx (w.extractLsb' 21 5) (w.extractLsb' 16 5) (w.extractLsb' 11 5) (w.extractLsb' 8 3) (w.extractLsb' 6 1) (w.extractLsb' 5 1)) := by
  unfold decode2B; rw [h0]; rfl
theorem decode2B_vmulVv {w : Half} (h0 : (w.extractLsb' 0 5).toNat = 21) :
    decode2B w = fieldsZero (w.extractLsb' 7 1 == 0) (.vmulVv (w.extractLsb' 21 5) (w.extractLsb' 16 5) (w.extractLsb' 11 5) (w.extractLsb' 8 3) (w.extractLsb' 6 1) (w.extractLsb' 5 1)) := by
  unfold decode2B; rw [h0]; rfl
theorem decode2B_vmulVx {w : Half} (h0 : (w.extractLsb' 0 5).toNat = 22) :
    decode2B w = fieldsZero (w.extractLsb' 7 1 == 0) (.vmulVx (w.extractLsb' 21 5) (w.extractLsb' 16 5) (w.extractLsb' 11 5) (w.extractLsb' 8 3) (w.extractLsb' 6 1) (w.extractLsb' 5 1)) := by
  unfold decode2B; rw [h0]; rfl
theorem decode2B_vmulhVv {w : Half} (h0 : (w.extractLsb' 0 5).toNat = 23) :
    decode2B w = fieldsZero (w.extractLsb' 7 1 == 0) (.vmulhVv (w.extractLsb' 21 5) (w.extractLsb' 16 5) (w.extractLsb' 11 5) (w.extractLsb' 8 3) (w.extractLsb' 6 1) (w.extractLsb' 5 1)) := by
  unfold decode2B; rw [h0]; rfl
theorem decode2B_vmaccVv {w : Half} (h0 : (w.extractLsb' 0 5).toNat = 24) :
    decode2B w = fieldsZero (w.extractLsb' 7 1 == 0) (.vmaccVv (w.extractLsb' 21 5) (w.extractLsb' 16 5) (w.extractLsb' 11 5) (w.extractLsb' 8 3) (w.extractLsb' 6 1) (w.extractLsb' 5 1)) := by
  unfold decode2B; rw [h0]; rfl
theorem decode2B_vmaccVx {w : Half} (h0 : (w.extractLsb' 0 5).toNat = 25) :
    decode2B w = fieldsZero (w.extractLsb' 7 1 == 0) (.vmaccVx (w.extractLsb' 21 5) (w.extractLsb' 16 5) (w.extractLsb' 11 5) (w.extractLsb' 8 3) (w.extractLsb' 6 1) (w.extractLsb' 5 1)) := by
  unfold decode2B; rw [h0]; rfl
theorem decode2B_vsaddVv {w : Half} (h0 : (w.extractLsb' 0 5).toNat = 26) :
    decode2B w = fieldsZero (w.extractLsb' 7 1 == 0) (.vsaddVv (w.extractLsb' 21 5) (w.extractLsb' 16 5) (w.extractLsb' 11 5) (w.extractLsb' 8 3) (w.extractLsb' 6 1) (w.extractLsb' 5 1)) := by
  unfold decode2B; rw [h0]; rfl
theorem decode2B_vssubVv {w : Half} (h0 : (w.extractLsb' 0 5).toNat = 27) :
    decode2B w = fieldsZero (w.extractLsb' 7 1 == 0) (.vssubVv (w.extractLsb' 21 5) (w.extractLsb' 16 5) (w.extractLsb' 11 5) (w.extractLsb' 8 3) (w.extractLsb' 6 1) (w.extractLsb' 5 1)) := by
  unfold decode2B; rw [h0]; rfl
theorem decode2B_vmergeVv {w : Half} (h0 : (w.extractLsb' 0 5).toNat = 28) :
    decode2B w = fieldsZero (w.extractLsb' 7 1 == 0) (.vmergeVv (w.extractLsb' 21 5) (w.extractLsb' 16 5) (w.extractLsb' 11 5) (w.extractLsb' 8 3) (w.extractLsb' 6 1) (w.extractLsb' 5 1)) := by
  unfold decode2B; rw [h0]; rfl
theorem decode2B_vmvVx {w : Half} (h0 : (w.extractLsb' 0 5).toNat = 29) :
    decode2B w = fieldsZero (w.extractLsb' 7 1 == 0 && w.extractLsb' 16 5 == 0) (.vmvVx (w.extractLsb' 21 5) (w.extractLsb' 11 5) (w.extractLsb' 8 3) (w.extractLsb' 6 1) (w.extractLsb' 5 1)) := by
  unfold decode2B; rw [h0]; rfl
theorem decode2B_vmvVi {w : Half} (h0 : (w.extractLsb' 0 5).toNat = 30) :
    decode2B w = fieldsZero (w.extractLsb' 7 1 == 0 && w.extractLsb' 16 5 == 0) (.vmvVi (w.extractLsb' 21 5) (w.extractLsb' 11 5) (w.extractLsb' 8 3) (w.extractLsb' 6 1) (w.extractLsb' 5 1)) := by
  unfold decode2B; rw [h0]; rfl
theorem decode2C_vfaddVv {w : Half} (h0 : (w.extractLsb' 0 5).toNat = 0) :
    decode2C w = .instr (.vfaddVv (w.extractLsb' 21 5) (w.extractLsb' 16 5) (w.extractLsb' 11 5) (w.extractLsb' 8 3) (w.extractLsb' 7 1) (w.extractLsb' 6 1) (w.extractLsb' 5 1)) := by
  unfold decode2C; rw [h0]; rfl
theorem decode2C_vfaddVx {w : Half} (h0 : (w.extractLsb' 0 5).toNat = 1) :
    decode2C w = .instr (.vfaddVx (w.extractLsb' 21 5) (w.extractLsb' 16 5) (w.extractLsb' 11 5) (w.extractLsb' 8 3) (w.extractLsb' 7 1) (w.extractLsb' 6 1) (w.extractLsb' 5 1)) := by
  unfold decode2C; rw [h0]; rfl
theorem decode2C_vfsubVv {w : Half} (h0 : (w.extractLsb' 0 5).toNat = 2) :
    decode2C w = .instr (.vfsubVv (w.extractLsb' 21 5) (w.extractLsb' 16 5) (w.extractLsb' 11 5) (w.extractLsb' 8 3) (w.extractLsb' 7 1) (w.extractLsb' 6 1) (w.extractLsb' 5 1)) := by
  unfold decode2C; rw [h0]; rfl
theorem decode2C_vfsubVx {w : Half} (h0 : (w.extractLsb' 0 5).toNat = 3) :
    decode2C w = .instr (.vfsubVx (w.extractLsb' 21 5) (w.extractLsb' 16 5) (w.extractLsb' 11 5) (w.extractLsb' 8 3) (w.extractLsb' 7 1) (w.extractLsb' 6 1) (w.extractLsb' 5 1)) := by
  unfold decode2C; rw [h0]; rfl
theorem decode2C_vfrsubVx {w : Half} (h0 : (w.extractLsb' 0 5).toNat = 4) :
    decode2C w = .instr (.vfrsubVx (w.extractLsb' 21 5) (w.extractLsb' 16 5) (w.extractLsb' 11 5) (w.extractLsb' 8 3) (w.extractLsb' 7 1) (w.extractLsb' 6 1) (w.extractLsb' 5 1)) := by
  unfold decode2C; rw [h0]; rfl
theorem decode2C_vfmulVv {w : Half} (h0 : (w.extractLsb' 0 5).toNat = 5) :
    decode2C w = .instr (.vfmulVv (w.extractLsb' 21 5) (w.extractLsb' 16 5) (w.extractLsb' 11 5) (w.extractLsb' 8 3) (w.extractLsb' 7 1) (w.extractLsb' 6 1) (w.extractLsb' 5 1)) := by
  unfold decode2C; rw [h0]; rfl
theorem decode2C_vfmulVx {w : Half} (h0 : (w.extractLsb' 0 5).toNat = 6) :
    decode2C w = .instr (.vfmulVx (w.extractLsb' 21 5) (w.extractLsb' 16 5) (w.extractLsb' 11 5) (w.extractLsb' 8 3) (w.extractLsb' 7 1) (w.extractLsb' 6 1) (w.extractLsb' 5 1)) := by
  unfold decode2C; rw [h0]; rfl
theorem decode2C_vfdivVv {w : Half} (h0 : (w.extractLsb' 0 5).toNat = 7) :
    decode2C w = .instr (.vfdivVv (w.extractLsb' 21 5) (w.extractLsb' 16 5) (w.extractLsb' 11 5) (w.extractLsb' 8 3) (w.extractLsb' 7 1) (w.extractLsb' 6 1) (w.extractLsb' 5 1)) := by
  unfold decode2C; rw [h0]; rfl
theorem decode2C_vfdivVx {w : Half} (h0 : (w.extractLsb' 0 5).toNat = 8) :
    decode2C w = .instr (.vfdivVx (w.extractLsb' 21 5) (w.extractLsb' 16 5) (w.extractLsb' 11 5) (w.extractLsb' 8 3) (w.extractLsb' 7 1) (w.extractLsb' 6 1) (w.extractLsb' 5 1)) := by
  unfold decode2C; rw [h0]; rfl
theorem decode2C_vfsqrt {w : Half} (h0 : (w.extractLsb' 0 5).toNat = 9) :
    decode2C w = fieldsZero (w.extractLsb' 5 1 == 0 && w.extractLsb' 11 5 == 0) (.vfsqrt (w.extractLsb' 21 5) (w.extractLsb' 16 5) (w.extractLsb' 8 3) (w.extractLsb' 7 1) (w.extractLsb' 6 1)) := by
  unfold decode2C; rw [h0]; rfl
theorem decode2C_vfmaccVv {w : Half} (h0 : (w.extractLsb' 0 5).toNat = 10) :
    decode2C w = .instr (.vfmaccVv (w.extractLsb' 21 5) (w.extractLsb' 16 5) (w.extractLsb' 11 5) (w.extractLsb' 8 3) (w.extractLsb' 7 1) (w.extractLsb' 6 1) (w.extractLsb' 5 1)) := by
  unfold decode2C; rw [h0]; rfl
theorem decode2C_vfmaccVx {w : Half} (h0 : (w.extractLsb' 0 5).toNat = 11) :
    decode2C w = .instr (.vfmaccVx (w.extractLsb' 21 5) (w.extractLsb' 16 5) (w.extractLsb' 11 5) (w.extractLsb' 8 3) (w.extractLsb' 7 1) (w.extractLsb' 6 1) (w.extractLsb' 5 1)) := by
  unfold decode2C; rw [h0]; rfl
theorem decode2C_vfnmsacVv {w : Half} (h0 : (w.extractLsb' 0 5).toNat = 12) :
    decode2C w = .instr (.vfnmsacVv (w.extractLsb' 21 5) (w.extractLsb' 16 5) (w.extractLsb' 11 5) (w.extractLsb' 8 3) (w.extractLsb' 7 1) (w.extractLsb' 6 1) (w.extractLsb' 5 1)) := by
  unfold decode2C; rw [h0]; rfl
theorem decode2C_vfnmsacVx {w : Half} (h0 : (w.extractLsb' 0 5).toNat = 13) :
    decode2C w = .instr (.vfnmsacVx (w.extractLsb' 21 5) (w.extractLsb' 16 5) (w.extractLsb' 11 5) (w.extractLsb' 8 3) (w.extractLsb' 7 1) (w.extractLsb' 6 1) (w.extractLsb' 5 1)) := by
  unfold decode2C; rw [h0]; rfl
theorem decode2C_vfminVv {w : Half} (h0 : (w.extractLsb' 0 5).toNat = 14) :
    decode2C w = .instr (.vfminVv (w.extractLsb' 21 5) (w.extractLsb' 16 5) (w.extractLsb' 11 5) (w.extractLsb' 8 3) (w.extractLsb' 7 1) (w.extractLsb' 6 1) (w.extractLsb' 5 1)) := by
  unfold decode2C; rw [h0]; rfl
theorem decode2C_vfminVx {w : Half} (h0 : (w.extractLsb' 0 5).toNat = 15) :
    decode2C w = .instr (.vfminVx (w.extractLsb' 21 5) (w.extractLsb' 16 5) (w.extractLsb' 11 5) (w.extractLsb' 8 3) (w.extractLsb' 7 1) (w.extractLsb' 6 1) (w.extractLsb' 5 1)) := by
  unfold decode2C; rw [h0]; rfl
theorem decode2C_vfmaxVv {w : Half} (h0 : (w.extractLsb' 0 5).toNat = 16) :
    decode2C w = .instr (.vfmaxVv (w.extractLsb' 21 5) (w.extractLsb' 16 5) (w.extractLsb' 11 5) (w.extractLsb' 8 3) (w.extractLsb' 7 1) (w.extractLsb' 6 1) (w.extractLsb' 5 1)) := by
  unfold decode2C; rw [h0]; rfl
theorem decode2C_vfmaxVx {w : Half} (h0 : (w.extractLsb' 0 5).toNat = 17) :
    decode2C w = .instr (.vfmaxVx (w.extractLsb' 21 5) (w.extractLsb' 16 5) (w.extractLsb' 11 5) (w.extractLsb' 8 3) (w.extractLsb' 7 1) (w.extractLsb' 6 1) (w.extractLsb' 5 1)) := by
  unfold decode2C; rw [h0]; rfl
theorem decode2C_vfsgnjVv {w : Half} (h0 : (w.extractLsb' 0 5).toNat = 18) :
    decode2C w = fieldsZero (w.extractLsb' 7 1 == 0) (.vfsgnjVv (w.extractLsb' 21 5) (w.extractLsb' 16 5) (w.extractLsb' 11 5) (w.extractLsb' 8 3) (w.extractLsb' 6 1) (w.extractLsb' 5 1)) := by
  unfold decode2C; rw [h0]; rfl
theorem decode2C_vfsgnjnVv {w : Half} (h0 : (w.extractLsb' 0 5).toNat = 19) :
    decode2C w = fieldsZero (w.extractLsb' 7 1 == 0) (.vfsgnjnVv (w.extractLsb' 21 5) (w.extractLsb' 16 5) (w.extractLsb' 11 5) (w.extractLsb' 8 3) (w.extractLsb' 6 1) (w.extractLsb' 5 1)) := by
  unfold decode2C; rw [h0]; rfl
theorem decode2C_vfsgnjxVv {w : Half} (h0 : (w.extractLsb' 0 5).toNat = 20) :
    decode2C w = fieldsZero (w.extractLsb' 7 1 == 0) (.vfsgnjxVv (w.extractLsb' 21 5) (w.extractLsb' 16 5) (w.extractLsb' 11 5) (w.extractLsb' 8 3) (w.extractLsb' 6 1) (w.extractLsb' 5 1)) := by
  unfold decode2C; rw [h0]; rfl
theorem decode2C_vfrec {w : Half} (h0 : (w.extractLsb' 0 5).toNat = 21) :
    decode2C w = fieldsZero (w.extractLsb' 5 1 == 0 && w.extractLsb' 11 5 == 0) (.vfrec (w.extractLsb' 21 5) (w.extractLsb' 16 5) (w.extractLsb' 8 3) (w.extractLsb' 7 1) (w.extractLsb' 6 1)) := by
  unfold decode2C; rw [h0]; rfl
theorem decode2C_vfrsqrt {w : Half} (h0 : (w.extractLsb' 0 5).toNat = 22) :
    decode2C w = fieldsZero (w.extractLsb' 5 1 == 0 && w.extractLsb' 11 5 == 0) (.vfrsqrt (w.extractLsb' 21 5) (w.extractLsb' 16 5) (w.extractLsb' 8 3) (w.extractLsb' 7 1) (w.extractLsb' 6 1)) := by
  unfold decode2C; rw [h0]; rfl
theorem decode2C_vfexp2 {w : Half} (h0 : (w.extractLsb' 0 5).toNat = 23) :
    decode2C w = fieldsZero (w.extractLsb' 5 1 == 0 && w.extractLsb' 11 5 == 0) (.vfexp2 (w.extractLsb' 21 5) (w.extractLsb' 16 5) (w.extractLsb' 8 3) (w.extractLsb' 7 1) (w.extractLsb' 6 1)) := by
  unfold decode2C; rw [h0]; rfl
theorem decode2C_vfcvtI {w : Half} (h0 : (w.extractLsb' 0 5).toNat = 24) (h1 : (w.extractLsb' 11 5).toNat = 0) :
    decode2C w = fieldsZero (w.extractLsb' 5 1 == 0) (.vfcvtI (w.extractLsb' 21 5) (w.extractLsb' 16 5) (w.extractLsb' 8 3) (w.extractLsb' 7 1) (w.extractLsb' 6 1)) := by
  unfold decode2C; rw [h0]; rw [h1]; rfl
theorem decode2C_vfcvtUi {w : Half} (h0 : (w.extractLsb' 0 5).toNat = 24) (h1 : (w.extractLsb' 11 5).toNat = 1) :
    decode2C w = fieldsZero (w.extractLsb' 5 1 == 0) (.vfcvtUi (w.extractLsb' 21 5) (w.extractLsb' 16 5) (w.extractLsb' 8 3) (w.extractLsb' 7 1) (w.extractLsb' 6 1)) := by
  unfold decode2C; rw [h0]; rw [h1]; rfl
theorem decode2C_vfcvtFi {w : Half} (h0 : (w.extractLsb' 0 5).toNat = 24) (h1 : (w.extractLsb' 11 5).toNat = 2) :
    decode2C w = fieldsZero (w.extractLsb' 5 1 == 0) (.vfcvtFi (w.extractLsb' 21 5) (w.extractLsb' 16 5) (w.extractLsb' 8 3) (w.extractLsb' 7 1) (w.extractLsb' 6 1)) := by
  unfold decode2C; rw [h0]; rw [h1]; rfl
theorem decode2C_vfcvtFui {w : Half} (h0 : (w.extractLsb' 0 5).toNat = 24) (h1 : (w.extractLsb' 11 5).toNat = 3) :
    decode2C w = fieldsZero (w.extractLsb' 5 1 == 0) (.vfcvtFui (w.extractLsb' 21 5) (w.extractLsb' 16 5) (w.extractLsb' 8 3) (w.extractLsb' 7 1) (w.extractLsb' 6 1)) := by
  unfold decode2C; rw [h0]; rw [h1]; rfl
theorem decode2C_vfcvtRint {w : Half} (h0 : (w.extractLsb' 0 5).toNat = 24) (h1 : (w.extractLsb' 11 5).toNat = 4) :
    decode2C w = fieldsZero (w.extractLsb' 5 1 == 0) (.vfcvtRint (w.extractLsb' 21 5) (w.extractLsb' 16 5) (w.extractLsb' 8 3) (w.extractLsb' 7 1) (w.extractLsb' 6 1)) := by
  unfold decode2C; rw [h0]; rw [h1]; rfl
theorem decode2C_vfclass {w : Half} (h0 : (w.extractLsb' 0 5).toNat = 25) :
    decode2C w = fieldsZero (w.extractLsb' 5 1 == 0 && w.extractLsb' 7 1 == 0 && w.extractLsb' 11 5 == 0) (.vfclass (w.extractLsb' 21 5) (w.extractLsb' 16 5) (w.extractLsb' 8 3) (w.extractLsb' 6 1)) := by
  unfold decode2C; rw [h0]; rfl
theorem decode2D_vslupVi {w : Half} (h0 : (w.extractLsb' 0 5).toNat = 0) :
    decode2D w = fieldsZero (w.extractLsb' 7 1 == 0) (.vslupVi (w.extractLsb' 21 5) (w.extractLsb' 16 5) (w.extractLsb' 11 5) (w.extractLsb' 8 3) (w.extractLsb' 6 1) (w.extractLsb' 5 1)) := by
  unfold decode2D; rw [h0]; rfl
theorem decode2D_vsldnVi {w : Half} (h0 : (w.extractLsb' 0 5).toNat = 1) :
    decode2D w = fieldsZero (w.extractLsb' 7 1 == 0) (.vsldnVi (w.extractLsb' 21 5) (w.extractLsb' 16 5) (w.extractLsb' 11 5) (w.extractLsb' 8 3) (w.extractLsb' 6 1) (w.extractLsb' 5 1)) := by
  unfold decode2D; rw [h0]; rfl
theorem decode2D_vrgathVv {w : Half} (h0 : (w.extractLsb' 0 5).toNat = 2) :
    decode2D w = fieldsZero (w.extractLsb' 7 1 == 0) (.vrgathVv (w.extractLsb' 21 5) (w.extractLsb' 16 5) (w.extractLsb' 11 5) (w.extractLsb' 8 3) (w.extractLsb' 6 1) (w.extractLsb' 5 1)) := by
  unfold decode2D; rw [h0]; rfl
theorem decode2D_vcompress {w : Half} (h0 : (w.extractLsb' 0 5).toNat = 3) :
    decode2D w = fieldsZero (w.extractLsb' 5 1 == 0 && w.extractLsb' 7 1 == 0 && w.extractLsb' 11 5 == 0) (.vcompress (w.extractLsb' 21 5) (w.extractLsb' 16 5) (w.extractLsb' 8 3) (w.extractLsb' 6 1)) := by
  unfold decode2D; rw [h0]; rfl
theorem decode2D_vexpand {w : Half} (h0 : (w.extractLsb' 0 5).toNat = 4) :
    decode2D w = fieldsZero (w.extractLsb' 5 1 == 0 && w.extractLsb' 7 1 == 0 && w.extractLsb' 11 5 == 0) (.vexpand (w.extractLsb' 21 5) (w.extractLsb' 16 5) (w.extractLsb' 8 3) (w.extractLsb' 6 1)) := by
  unfold decode2D; rw [h0]; rfl
theorem decode2D_viota {w : Half} (h0 : (w.extractLsb' 0 5).toNat = 5) :
    decode2D w = fieldsZero (w.extractLsb' 5 3 == 0 && w.extractLsb' 11 5 == 0) (.viota (w.extractLsb' 21 5) (w.extractLsb' 16 5) (w.extractLsb' 8 3)) := by
  unfold decode2D; rw [h0]; rfl
theorem decode2D_vid {w : Half} (h0 : (w.extractLsb' 0 5).toNat = 6) :
    decode2D w = fieldsZero (w.extractLsb' 5 3 == 0 && w.extractLsb' 11 10 == 0) (.vid (w.extractLsb' 21 5) (w.extractLsb' 8 3)) := by
  unfold decode2D; rw [h0]; rfl
theorem decode2D_vmvVv {w : Half} (h0 : (w.extractLsb' 0 5).toNat = 7) :
    decode2D w = fieldsZero (w.extractLsb' 5 1 == 0 && w.extractLsb' 7 1 == 0 && w.extractLsb' 11 5 == 0) (.vmvVv (w.extractLsb' 21 5) (w.extractLsb' 16 5) (w.extractLsb' 8 3) (w.extractLsb' 6 1)) := by
  unfold decode2D; rw [h0]; rfl
theorem decode2D_vextx {w : Half} (h0 : (w.extractLsb' 0 5).toNat = 8) :
    decode2D w = fieldsZero (w.extractLsb' 7 4 == 0) (.vextx (w.extractLsb' 21 5) (w.extractLsb' 16 5) (w.extractLsb' 11 5) (w.extractLsb' 6 1) (w.extractLsb' 5 1)) := by
  unfold decode2D; rw [h0]; rfl
theorem decode2D_vinsx {w : Half} (h0 : (w.extractLsb' 0 5).toNat = 9) :
    decode2D w = fieldsZero (w.extractLsb' 7 4 == 0) (.vinsx (w.extractLsb' 21 5) (w.extractLsb' 16 5) (w.extractLsb' 11 5) (w.extractLsb' 6 1) (w.extractLsb' 5 1)) := by
  unfold decode2D; rw [h0]; rfl
theorem decode2E_vredsum {w : Half} (h0 : (w.extractLsb' 0 5).toNat = 0) :
    decode2E w = fieldsZero (w.extractLsb' 7 1 == 0) (.vredsum (w.extractLsb' 21 5) (w.extractLsb' 16 5) (w.extractLsb' 11 5) (w.extractLsb' 8 3) (w.extractLsb' 6 1) (w.extractLsb' 5 1)) := by
  unfold decode2E; rw [h0]; rfl
theorem decode2E_vredosum {w : Half} (h0 : (w.extractLsb' 0 5).toNat = 1) :
    decode2E w = fieldsZero (w.extractLsb' 7 1 == 0) (.vredosum (w.extractLsb' 21 5) (w.extractLsb' 16 5) (w.extractLsb' 11 5) (w.extractLsb' 8 3) (w.extractLsb' 6 1) (w.extractLsb' 5 1)) := by
  unfold decode2E; rw [h0]; rfl
theorem decode2E_vredmin {w : Half} (h0 : (w.extractLsb' 0 5).toNat = 2) :
    decode2E w = fieldsZero (w.extractLsb' 7 1 == 0) (.vredmin (w.extractLsb' 21 5) (w.extractLsb' 16 5) (w.extractLsb' 11 5) (w.extractLsb' 8 3) (w.extractLsb' 6 1) (w.extractLsb' 5 1)) := by
  unfold decode2E; rw [h0]; rfl
theorem decode2E_vredmax {w : Half} (h0 : (w.extractLsb' 0 5).toNat = 3) :
    decode2E w = fieldsZero (w.extractLsb' 7 1 == 0) (.vredmax (w.extractLsb' 21 5) (w.extractLsb' 16 5) (w.extractLsb' 11 5) (w.extractLsb' 8 3) (w.extractLsb' 6 1) (w.extractLsb' 5 1)) := by
  unfold decode2E; rw [h0]; rfl
theorem decode2E_vredand {w : Half} (h0 : (w.extractLsb' 0 5).toNat = 4) :
    decode2E w = fieldsZero (w.extractLsb' 7 1 == 0) (.vredand (w.extractLsb' 21 5) (w.extractLsb' 16 5) (w.extractLsb' 11 5) (w.extractLsb' 8 3) (w.extractLsb' 6 1) (w.extractLsb' 5 1)) := by
  unfold decode2E; rw [h0]; rfl
theorem decode2E_vredor {w : Half} (h0 : (w.extractLsb' 0 5).toNat = 5) :
    decode2E w = fieldsZero (w.extractLsb' 7 1 == 0) (.vredor (w.extractLsb' 21 5) (w.extractLsb' 16 5) (w.extractLsb' 11 5) (w.extractLsb' 8 3) (w.extractLsb' 6 1) (w.extractLsb' 5 1)) := by
  unfold decode2E; rw [h0]; rfl
theorem decode2E_vredxor {w : Half} (h0 : (w.extractLsb' 0 5).toNat = 6) :
    decode2E w = fieldsZero (w.extractLsb' 7 1 == 0) (.vredxor (w.extractLsb' 21 5) (w.extractLsb' 16 5) (w.extractLsb' 11 5) (w.extractLsb' 8 3) (w.extractLsb' 6 1) (w.extractLsb' 5 1)) := by
  unfold decode2E; rw [h0]; rfl
theorem decode2E_vamax {w : Half} (h0 : (w.extractLsb' 0 5).toNat = 7) :
    decode2E w = fieldsZero (w.extractLsb' 7 1 == 0) (.vamax (w.extractLsb' 21 5) (w.extractLsb' 16 5) (w.extractLsb' 11 5) (w.extractLsb' 8 3) (w.extractLsb' 6 1) (w.extractLsb' 5 1)) := by
  unfold decode2E; rw [h0]; rfl
theorem decode2E_vmseqVv {w : Half} (h0 : (w.extractLsb' 0 5).toNat = 8) :
    decode2E w = fieldsZero (w.extractLsb' 7 1 == 0) (.vmseqVv (w.extractLsb' 21 5) (w.extractLsb' 16 5) (w.extractLsb' 11 5) (w.extractLsb' 8 3) (w.extractLsb' 6 1) (w.extractLsb' 5 1)) := by
  unfold decode2E; rw [h0]; rfl
theorem decode2E_vmsneVv {w : Half} (h0 : (w.extractLsb' 0 5).toNat = 9) :
    decode2E w = fieldsZero (w.extractLsb' 7 1 == 0) (.vmsneVv (w.extractLsb' 21 5) (w.extractLsb' 16 5) (w.extractLsb' 11 5) (w.extractLsb' 8 3) (w.extractLsb' 6 1) (w.extractLsb' 5 1)) := by
  unfold decode2E; rw [h0]; rfl
theorem decode2E_vmsltVv {w : Half} (h0 : (w.extractLsb' 0 5).toNat = 10) :
    decode2E w = fieldsZero (w.extractLsb' 7 1 == 0) (.vmsltVv (w.extractLsb' 21 5) (w.extractLsb' 16 5) (w.extractLsb' 11 5) (w.extractLsb' 8 3) (w.extractLsb' 6 1) (w.extractLsb' 5 1)) := by
  unfold decode2E; rw [h0]; rfl
theorem decode2E_vmsleVv {w : Half} (h0 : (w.extractLsb' 0 5).toNat = 11) :
    decode2E w = fieldsZero (w.extractLsb' 7 1 == 0) (.vmsleVv (w.extractLsb' 21 5) (w.extractLsb' 16 5) (w.extractLsb' 11 5) (w.extractLsb' 8 3) (w.extractLsb' 6 1) (w.extractLsb' 5 1)) := by
  unfold decode2E; rw [h0]; rfl
theorem decode2E_vmseqVx {w : Half} (h0 : (w.extractLsb' 0 5).toNat = 12) :
    decode2E w = fieldsZero (w.extractLsb' 7 1 == 0) (.vmseqVx (w.extractLsb' 21 5) (w.extractLsb' 16 5) (w.extractLsb' 11 5) (w.extractLsb' 8 3) (w.extractLsb' 6 1) (w.extractLsb' 5 1)) := by
  unfold decode2E; rw [h0]; rfl
theorem decode2E_vmsneVx {w : Half} (h0 : (w.extractLsb' 0 5).toNat = 13) :
    decode2E w = fieldsZero (w.extractLsb' 7 1 == 0) (.vmsneVx (w.extractLsb' 21 5) (w.extractLsb' 16 5) (w.extractLsb' 11 5) (w.extractLsb' 8 3) (w.extractLsb' 6 1) (w.extractLsb' 5 1)) := by
  unfold decode2E; rw [h0]; rfl
theorem decode2E_vmsltVx {w : Half} (h0 : (w.extractLsb' 0 5).toNat = 14) :
    decode2E w = fieldsZero (w.extractLsb' 7 1 == 0) (.vmsltVx (w.extractLsb' 21 5) (w.extractLsb' 16 5) (w.extractLsb' 11 5) (w.extractLsb' 8 3) (w.extractLsb' 6 1) (w.extractLsb' 5 1)) := by
  unfold decode2E; rw [h0]; rfl
theorem decode2E_vmsleVx {w : Half} (h0 : (w.extractLsb' 0 5).toNat = 15) :
    decode2E w = fieldsZero (w.extractLsb' 7 1 == 0) (.vmsleVx (w.extractLsb' 21 5) (w.extractLsb' 16 5) (w.extractLsb' 11 5) (w.extractLsb' 8 3) (w.extractLsb' 6 1) (w.extractLsb' 5 1)) := by
  unfold decode2E; rw [h0]; rfl
theorem decode2E_vmsgtVx {w : Half} (h0 : (w.extractLsb' 0 5).toNat = 16) :
    decode2E w = fieldsZero (w.extractLsb' 7 1 == 0) (.vmsgtVx (w.extractLsb' 21 5) (w.extractLsb' 16 5) (w.extractLsb' 11 5) (w.extractLsb' 8 3) (w.extractLsb' 6 1) (w.extractLsb' 5 1)) := by
  unfold decode2E; rw [h0]; rfl
theorem decode2E_vmsgeVx {w : Half} (h0 : (w.extractLsb' 0 5).toNat = 17) :
    decode2E w = fieldsZero (w.extractLsb' 7 1 == 0) (.vmsgeVx (w.extractLsb' 21 5) (w.extractLsb' 16 5) (w.extractLsb' 11 5) (w.extractLsb' 8 3) (w.extractLsb' 6 1) (w.extractLsb' 5 1)) := by
  unfold decode2E; rw [h0]; rfl
theorem decode2E_vmand {w : Half} (h0 : (w.extractLsb' 0 5).toNat = 18) :
    decode2E w = fieldsZero (w.extractLsb' 5 6 == 0) (.vmand (w.extractLsb' 21 5) (w.extractLsb' 16 5) (w.extractLsb' 11 5)) := by
  unfold decode2E; rw [h0]; rfl
theorem decode2E_vmor {w : Half} (h0 : (w.extractLsb' 0 5).toNat = 19) :
    decode2E w = fieldsZero (w.extractLsb' 5 6 == 0) (.vmor (w.extractLsb' 21 5) (w.extractLsb' 16 5) (w.extractLsb' 11 5)) := by
  unfold decode2E; rw [h0]; rfl
theorem decode2E_vmxor {w : Half} (h0 : (w.extractLsb' 0 5).toNat = 20) :
    decode2E w = fieldsZero (w.extractLsb' 5 6 == 0) (.vmxor (w.extractLsb' 21 5) (w.extractLsb' 16 5) (w.extractLsb' 11 5)) := by
  unfold decode2E; rw [h0]; rfl
theorem decode2E_vmandn {w : Half} (h0 : (w.extractLsb' 0 5).toNat = 21) :
    decode2E w = fieldsZero (w.extractLsb' 5 6 == 0) (.vmandn (w.extractLsb' 21 5) (w.extractLsb' 16 5) (w.extractLsb' 11 5)) := by
  unfold decode2E; rw [h0]; rfl
theorem decode2E_vmpop {w : Half} (h0 : (w.extractLsb' 0 5).toNat = 22) :
    decode2E w = fieldsZero (w.extractLsb' 5 3 == 0 && w.extractLsb' 11 5 == 0) (.vmpop (w.extractLsb' 21 5) (w.extractLsb' 16 5) (w.extractLsb' 8 3)) := by
  unfold decode2E; rw [h0]; rfl
theorem decode2E_vmfirst {w : Half} (h0 : (w.extractLsb' 0 5).toNat = 23) :
    decode2E w = fieldsZero (w.extractLsb' 5 3 == 0 && w.extractLsb' 11 5 == 0) (.vmfirst (w.extractLsb' 21 5) (w.extractLsb' 16 5) (w.extractLsb' 8 3)) := by
  unfold decode2E; rw [h0]; rfl
theorem decode2F_vhaar {w : Half} (h0 : (w.extractLsb' 0 5).toNat = 0) :
    decode2F w = fieldsZero (w.extractLsb' 7 4 == 0) (.vhaar (w.extractLsb' 21 5) (w.extractLsb' 16 5) (w.extractLsb' 11 5) (w.extractLsb' 6 1) (w.extractLsb' 5 1)) := by
  unfold decode2F; rw [h0]; rfl
theorem decode2F_vihaar {w : Half} (h0 : (w.extractLsb' 0 5).toNat = 1) :
    decode2F w = fieldsZero (w.extractLsb' 5 1 == 0 && w.extractLsb' 7 9 == 0) (.vihaar (w.extractLsb' 21 5) (w.extractLsb' 16 5) (w.extractLsb' 6 1)) := by
  unfold decode2F; rw [h0]; rfl
theorem decode2F_thset {w : Half} (h0 : (w.extractLsb' 0 5).toNat = 2) :
    decode2F w = fieldsZero (w.extractLsb' 7 4 == 0) (.thset (w.extractLsb' 21 5) (w.extractLsb' 16 5) (w.extractLsb' 11 5) (w.extractLsb' 6 1) (w.extractLsb' 5 1)) := by
  unfold decode2F; rw [h0]; rfl
theorem decode2F_thget {w : Half} (h0 : (w.extractLsb' 0 5).toNat = 3) :
    decode2F w = fieldsZero (w.extractLsb' 6 5 == 0) (.thget (w.extractLsb' 21 5) (w.extractLsb' 16 5) (w.extractLsb' 11 5) (w.extractLsb' 5 1)) := by
  unfold decode2F; rw [h0]; rfl
theorem decode2F_dtagr {w : Half} (h0 : (w.extractLsb' 0 5).toNat = 4) :
    decode2F w = fieldsZero (w.extractLsb' 5 1 == 0 && w.extractLsb' 7 9 == 0) (.dtagr (w.extractLsb' 21 5) (w.extractLsb' 16 5) (w.extractLsb' 6 1)) := by
  unfold decode2F; rw [h0]; rfl
theorem decode2F_dtagw {w : Half} (h0 : (w.extractLsb' 0 5).toNat = 5) :
    decode2F w = fieldsZero (w.extractLsb' 5 1 == 0 && w.extractLsb' 7 9 == 0) (.dtagw (w.extractLsb' 21 5) (w.extractLsb' 16 5) (w.extractLsb' 6 1)) := by
  unfold decode2F; rw [h0]; rfl
theorem decode2F_dtagmk {w : Half} (h0 : (w.extractLsb' 0 5).toNat = 6) :
    decode2F w = fieldsZero (w.extractLsb' 5 1 == 0 && w.extractLsb' 7 9 == 0) (.dtagmk (w.extractLsb' 21 5) (w.extractLsb' 16 5) (w.extractLsb' 6 1)) := by
  unfold decode2F; rw [h0]; rfl
theorem decode2F_dtagma {w : Half} (h0 : (w.extractLsb' 0 5).toNat = 7) :
    decode2F w = fieldsZero (w.extractLsb' 5 1 == 0 && w.extractLsb' 7 9 == 0) (.dtagma (w.extractLsb' 21 5) (w.extractLsb' 16 5) (w.extractLsb' 6 1)) := by
  unfold decode2F; rw [h0]; rfl
theorem decodeRaw_vld {w : Half} (h0 : (w.extractLsb' 26 6).toNat = 48) :
    decodeRaw w = .instr (.vld (w.extractLsb' 21 5) (w.extractLsb' 16 5) (w.extractLsb' 11 5) (w.extractLsb' 8 3) (w.extractLsb' 5 3) (w.extractLsb' 0 5)) := by
  unfold decodeRaw; rw [h0]; rfl
theorem decodeRaw_vst {w : Half} (h0 : (w.extractLsb' 26 6).toNat = 49) :
    decodeRaw w = .instr (.vst (w.extractLsb' 21 5) (w.extractLsb' 16 5) (w.extractLsb' 11 5) (w.extractLsb' 8 3) (w.extractLsb' 5 3) (w.extractLsb' 0 5)) := by
  unfold decodeRaw; rw [h0]; rfl
theorem decodeRaw_vlds {w : Half} (h0 : (w.extractLsb' 26 6).toNat = 50) :
    decodeRaw w = .instr (.vlds (w.extractLsb' 21 5) (w.extractLsb' 16 5) (w.extractLsb' 11 5) (w.extractLsb' 8 3) (w.extractLsb' 5 3) (w.extractLsb' 0 5)) := by
  unfold decodeRaw; rw [h0]; rfl
theorem decodeRaw_vsts {w : Half} (h0 : (w.extractLsb' 26 6).toNat = 51) :
    decodeRaw w = .instr (.vsts (w.extractLsb' 21 5) (w.extractLsb' 16 5) (w.extractLsb' 11 5) (w.extractLsb' 8 3) (w.extractLsb' 5 3) (w.extractLsb' 0 5)) := by
  unfold decodeRaw; rw [h0]; rfl
theorem decodeRaw_vldx {w : Half} (h0 : (w.extractLsb' 26 6).toNat = 52) :
    decodeRaw w = .instr (.vldx (w.extractLsb' 21 5) (w.extractLsb' 16 5) (w.extractLsb' 11 5) (w.extractLsb' 8 3) (w.extractLsb' 5 3) (w.extractLsb' 0 5)) := by
  unfold decodeRaw; rw [h0]; rfl
theorem decodeRaw_vstx {w : Half} (h0 : (w.extractLsb' 26 6).toNat = 53) :
    decodeRaw w = .instr (.vstx (w.extractLsb' 21 5) (w.extractLsb' 16 5) (w.extractLsb' 11 5) (w.extractLsb' 8 3) (w.extractLsb' 5 3) (w.extractLsb' 0 5)) := by
  unfold decodeRaw; rw [h0]; rfl
theorem decode36_vamoadd {w : Half} (h0 : (w.extractLsb' 0 4).toNat = 0) :
    decode36 w = .instr (.vamoadd (w.extractLsb' 21 5) (w.extractLsb' 16 5) (w.extractLsb' 11 5) (w.extractLsb' 8 3) (w.extractLsb' 5 3) (w.extractLsb' 4 1)) := by
  unfold decode36; rw [h0]; rfl
theorem decode36_vamoand {w : Half} (h0 : (w.extractLsb' 0 4).toNat = 1) :
    decode36 w = .instr (.vamoand (w.extractLsb' 21 5) (w.extractLsb' 16 5) (w.extractLsb' 11 5) (w.extractLsb' 8 3) (w.extractLsb' 5 3) (w.extractLsb' 4 1)) := by
  unfold decode36; rw [h0]; rfl
theorem decode36_vamoor {w : Half} (h0 : (w.extractLsb' 0 4).toNat = 2) :
    decode36 w = .instr (.vamoor (w.extractLsb' 21 5) (w.extractLsb' 16 5) (w.extractLsb' 11 5) (w.extractLsb' 8 3) (w.extractLsb' 5 3) (w.extractLsb' 4 1)) := by
  unfold decode36; rw [h0]; rfl
theorem decode36_vamoxor {w : Half} (h0 : (w.extractLsb' 0 4).toNat = 3) :
    decode36 w = .instr (.vamoxor (w.extractLsb' 21 5) (w.extractLsb' 16 5) (w.extractLsb' 11 5) (w.extractLsb' 8 3) (w.extractLsb' 5 3) (w.extractLsb' 4 1)) := by
  unfold decode36; rw [h0]; rfl
theorem decode36_vamomin {w : Half} (h0 : (w.extractLsb' 0 4).toNat = 4) :
    decode36 w = .instr (.vamomin (w.extractLsb' 21 5) (w.extractLsb' 16 5) (w.extractLsb' 11 5) (w.extractLsb' 8 3) (w.extractLsb' 5 3) (w.extractLsb' 4 1)) := by
  unfold decode36; rw [h0]; rfl
theorem decode36_vamomax {w : Half} (h0 : (w.extractLsb' 0 4).toNat = 5) :
    decode36 w = .instr (.vamomax (w.extractLsb' 21 5) (w.extractLsb' 16 5) (w.extractLsb' 11 5) (w.extractLsb' 8 3) (w.extractLsb' 5 3) (w.extractLsb' 4 1)) := by
  unfold decode36; rw [h0]; rfl
theorem decode36_vamoswp {w : Half} (h0 : (w.extractLsb' 0 4).toNat = 6) :
    decode36 w = .instr (.vamoswp (w.extractLsb' 21 5) (w.extractLsb' 16 5) (w.extractLsb' 11 5) (w.extractLsb' 8 3) (w.extractLsb' 5 3) (w.extractLsb' 4 1)) := by
  unfold decode36; rw [h0]; rfl
theorem decode37_vldq {w : Half} (h0 : (w.extractLsb' 11 5).toNat = 0) :
    decode37 w = fieldsZero (w.extractLsb' 0 5 == 0 && w.extractLsb' 8 3 == 0) (.vldq (w.extractLsb' 21 5) (w.extractLsb' 16 5) (w.extractLsb' 5 3)) := by
  unfold decode37; rw [h0]; rfl
theorem decode37_vldff {w : Half} (h0 : (w.extractLsb' 11 5).toNat = 1) :
    decode37 w = fieldsZero (w.extractLsb' 4 1 == 0) (.vldff (w.extractLsb' 21 5) (w.extractLsb' 16 5) (w.extractLsb' 8 3) (w.extractLsb' 5 3) (w.extractLsb' 0 4)) := by
  unfold decode37; rw [h0]; rfl
theorem decode37_vstw {w : Half} (h0 : (w.extractLsb' 11 5).toNat = 2) :
    decode37 w = fieldsZero (w.extractLsb' 4 1 == 0) (.vstw (w.extractLsb' 21 5) (w.extractLsb' 16 5) (w.extractLsb' 8 3) (w.extractLsb' 5 3) (w.extractLsb' 0 4)) := by
  unfold decode37; rw [h0]; rfl
theorem decode37_vldw {w : Half} (h0 : (w.extractLsb' 11 5).toNat = 3) :
    decode37 w = fieldsZero (w.extractLsb' 4 1 == 0) (.vldw (w.extractLsb' 21 5) (w.extractLsb' 16 5) (w.extractLsb' 8 3) (w.extractLsb' 5 3) (w.extractLsb' 0 4)) := by
  unfold decode37; rw [h0]; rfl
theorem decode38_opr {w : Half} (h0 : (w.extractLsb' 0 5).toNat = 0) :
    decode38 w = fieldsZero (w.extractLsb' 21 2 == 0) (.opr (w.extractLsb' 23 3) (w.extractLsb' 16 5) (w.extractLsb' 11 5) (w.extractLsb' 8 3) (w.extractLsb' 6 2) (w.extractLsb' 5 1)) := by
  unfold decode38; rw [h0]; rfl
theorem decode38_opl {w : Half} (h0 : (w.extractLsb' 0 5).toNat = 1) :
    decode38 w = fieldsZero (w.extractLsb' 11 10 == 0) (.opl (w.extractLsb' 23 3) (w.extractLsb' 21 2) (w.extractLsb' 8 3) (w.extractLsb' 6 2) (w.extractLsb' 5 1)) := by
  unfold decode38; rw [h0]; rfl
theorem decode38_tzero {w : Half} (h0 : (w.extractLsb' 0 5).toNat = 2) :
    decode38 w = fieldsZero (w.extractLsb' 5 3 == 0 && w.extractLsb' 11 12 == 0) (.tzero (w.extractLsb' 23 3) (w.extractLsb' 8 3)) := by
  unfold decode38; rw [h0]; rfl
theorem decode38_tmovv {w : Half} (h0 : (w.extractLsb' 0 5).toNat = 3) :
    decode38 w = fieldsZero (w.extractLsb' 5 1 == 0 && w.extractLsb' 8 3 == 0) (.tmovv (w.extractLsb' 23 3) (w.extractLsb' 21 2) (w.extractLsb' 16 5) (w.extractLsb' 11 5) (w.extractLsb' 6 2)) := by
  unfold decode38; rw [h0]; rfl
theorem decode38_tamax {w : Half} (h0 : (w.extractLsb' 0 5).toNat = 4) :
    decode38 w = fieldsZero (w.extractLsb' 5 3 == 0 && w.extractLsb' 16 5 == 0) (.tamax (w.extractLsb' 23 3) (w.extractLsb' 21 2) (w.extractLsb' 11 5) (w.extractLsb' 8 3)) := by
  unfold decode38; rw [h0]; rfl
theorem decode38_scalex {w : Half} (h0 : (w.extractLsb' 0 5).toNat = 5) :
    decode38 w = fieldsZero (w.extractLsb' 5 1 == 0) (.scalex (w.extractLsb' 21 5) (w.extractLsb' 16 5) (w.extractLsb' 11 5) (w.extractLsb' 8 3) (w.extractLsb' 6 2)) := by
  unfold decode38; rw [h0]; rfl
theorem decode38_trel {w : Half} (h0 : (w.extractLsb' 0 5).toNat = 6) :
    decode38 w = fieldsZero (w.extractLsb' 5 16 == 0) (.trel (w.extractLsb' 23 3) (w.extractLsb' 21 2)) := by
  unfold decode38; rw [h0]; rfl
theorem decode38_thaar {w : Half} (h0 : (w.extractLsb' 0 5).toNat = 8) :
    decode38 w = fieldsZero (w.extractLsb' 5 11 == 0 && w.extractLsb' 21 2 == 0) (.thaar (w.extractLsb' 23 3) (w.extractLsb' 16 5)) := by
  unfold decode38; rw [h0]; rfl
theorem decode38_tihaar {w : Half} (h0 : (w.extractLsb' 0 5).toNat = 9) :
    decode38 w = fieldsZero (w.extractLsb' 5 18 == 0) (.tihaar (w.extractLsb' 23 3)) := by
  unfold decode38; rw [h0]; rfl
theorem decode39_opld {w : Half} (h0 : (w.extractLsb' 0 5).toNat = 0) :
    decode39 w = .instr (.opld (w.extractLsb' 23 3) (w.extractLsb' 21 2) (w.extractLsb' 16 5) (w.extractLsb' 11 5) (w.extractLsb' 8 3) (w.extractLsb' 6 2) (w.extractLsb' 5 1)) := by
  unfold decode39; rw [h0]; rfl
theorem decode39_opldx {w : Half} (h0 : (w.extractLsb' 0 5).toNat = 1) :
    decode39 w = .instr (.opldx (w.extractLsb' 21 5) (w.extractLsb' 16 5) (w.extractLsb' 11 5) (w.extractLsb' 8 3) (w.extractLsb' 6 2) (w.extractLsb' 5 1)) := by
  unfold decode39; rw [h0]; rfl
theorem decode39_tld {w : Half} (h0 : (w.extractLsb' 0 5).toNat = 2) :
    decode39 w = .instr (.tld (w.extractLsb' 23 3) (w.extractLsb' 21 2) (w.extractLsb' 16 5) (w.extractLsb' 11 5) (w.extractLsb' 8 3) (w.extractLsb' 6 2) (w.extractLsb' 5 1)) := by
  unfold decode39; rw [h0]; rfl
theorem decode39_tst {w : Half} (h0 : (w.extractLsb' 0 5).toNat = 3) :
    decode39 w = .instr (.tst (w.extractLsb' 23 3) (w.extractLsb' 21 2) (w.extractLsb' 16 5) (w.extractLsb' 11 5) (w.extractLsb' 8 3) (w.extractLsb' 6 2) (w.extractLsb' 5 1)) := by
  unfold decode39; rw [h0]; rfl
theorem decode39_tsave {w : Half} (h0 : (w.extractLsb' 0 5).toNat = 4) :
    decode39 w = fieldsZero (w.extractLsb' 5 11 == 0) (.tsave (w.extractLsb' 23 3) (w.extractLsb' 21 2) (w.extractLsb' 16 5)) := by
  unfold decode39; rw [h0]; rfl
theorem decode39_trestore {w : Half} (h0 : (w.extractLsb' 0 5).toNat = 5) :
    decode39 w = fieldsZero (w.extractLsb' 5 11 == 0) (.trestore (w.extractLsb' 23 3) (w.extractLsb' 21 2) (w.extractLsb' 16 5)) := by
  unfold decode39; rw [h0]; rfl
theorem decode39_tstw {w : Half} (h0 : (w.extractLsb' 0 5).toNat = 8) :
    decode39 w = fieldsZero (w.extractLsb' 8 3 == 0) (.tstw (w.extractLsb' 23 3) (w.extractLsb' 21 2) (w.extractLsb' 16 5) (w.extractLsb' 11 5) (w.extractLsb' 6 2) (w.extractLsb' 5 1)) := by
  unfold decode39; rw [h0]; rfl
theorem decode39_tldw {w : Half} (h0 : (w.extractLsb' 0 5).toNat = 9) :
    decode39 w = fieldsZero (w.extractLsb' 5 11 == 0 && w.extractLsb' 21 2 == 0) (.tldw (w.extractLsb' 23 3) (w.extractLsb' 16 5)) := by
  unfold decode39; rw [h0]; rfl
theorem decode3A_cpy {w : Half} (h0 : (w.extractLsb' 0 5).toNat = 0) :
    decode3A w = fieldsZero (w.extractLsb' 6 2 == 0) (.cpy (w.extractLsb' 21 5) (w.extractLsb' 16 5) (w.extractLsb' 11 5) (w.extractLsb' 8 3) (w.extractLsb' 5 1)) := by
  unfold decode3A; rw [h0]; rfl
theorem decode3A_cpyt {w : Half} (h0 : (w.extractLsb' 0 5).toNat = 1) :
    decode3A w = fieldsZero (w.extractLsb' 7 1 == 0) (.cpyt (w.extractLsb' 21 5) (w.extractLsb' 16 5) (w.extractLsb' 11 5) (w.extractLsb' 8 3) (w.extractLsb' 6 1) (w.extractLsb' 5 1)) := by
  unfold decode3A; rw [h0]; rfl
theorem decode3A_gath {w : Half} (h0 : (w.extractLsb' 0 5).toNat = 2) :
    decode3A w = fieldsZero (w.extractLsb' 6 2 == 0) (.gath (w.extractLsb' 21 5) (w.extractLsb' 16 5) (w.extractLsb' 11 5) (w.extractLsb' 8 3) (w.extractLsb' 5 1)) := by
  unfold decode3A; rw [h0]; rfl
theorem decode3A_scat {w : Half} (h0 : (w.extractLsb' 0 5).toNat = 3) :
    decode3A w = fieldsZero (w.extractLsb' 6 2 == 0) (.scat (w.extractLsb' 21 5) (w.extractLsb' 16 5) (w.extractLsb' 11 5) (w.extractLsb' 8 3) (w.extractLsb' 5 1)) := by
  unfold decode3A; rw [h0]; rfl
theorem decode3A_qfence {w : Half} (h0 : (w.extractLsb' 0 5).toNat = 4) :
    decode3A w = fieldsZero (w.extractLsb' 5 3 == 0 && w.extractLsb' 11 5 == 0 && w.extractLsb' 21 5 == 0) (.qfence (w.extractLsb' 16 5) (w.extractLsb' 8 3)) := by
  unfold decode3A; rw [h0]; rfl
theorem decode3A_csig {w : Half} (h0 : (w.extractLsb' 0 5).toNat = 8) :
    decode3A w = fieldsZero (w.extractLsb' 5 3 == 0) (.csig (w.extractLsb' 21 5) (w.extractLsb' 16 5) (w.extractLsb' 11 5) (w.extractLsb' 8 3)) := by
  unfold decode3A; rw [h0]; rfl
theorem decode3A_cchk {w : Half} (h0 : (w.extractLsb' 0 5).toNat = 9) :
    decode3A w = fieldsZero (w.extractLsb' 22 4 == 0) (.cchk (w.extractLsb' 21 1) (w.extractLsb' 16 5) (w.extractLsb' 11 5) (w.extractLsb' 8 3) (w.extractLsb' 7 1) (w.extractLsb' 5 2)) := by
  unfold decode3A; rw [h0]; rfl
theorem decode3A_cxf {w : Half} (h0 : (w.extractLsb' 0 5).toNat = 10) :
    decode3A w = fieldsZero (w.extractLsb' 5 3 == 0 && w.extractLsb' 11 5 == 0) (.cxf (w.extractLsb' 21 5) (w.extractLsb' 16 5) (w.extractLsb' 8 3)) := by
  unfold decode3A; rw [h0]; rfl
theorem decode3A_cfill {w : Half} (h0 : (w.extractLsb' 0 5).toNat = 11) :
    decode3A w = fieldsZero (w.extractLsb' 5 3 == 0 && w.extractLsb' 11 5 == 0 && w.extractLsb' 21 5 == 0) (.cfill (w.extractLsb' 16 5) (w.extractLsb' 8 3)) := by
  unfold decode3A; rw [h0]; rfl
theorem decode3A_crow {w : Half} (h0 : (w.extractLsb' 0 5).toNat = 12) :
    decode3A w = fieldsZero (w.extractLsb' 5 3 == 0 && w.extractLsb' 21 5 == 0) (.crow (w.extractLsb' 16 5) (w.extractLsb' 11 5) (w.extractLsb' 8 3)) := by
  unfold decode3A; rw [h0]; rfl
theorem decode3A_cqst {w : Half} (h0 : (w.extractLsb' 0 5).toNat = 13) :
    decode3A w = fieldsZero (w.extractLsb' 6 2 == 0 && w.extractLsb' 11 10 == 0) (.cqst (w.extractLsb' 21 5) (w.extractLsb' 8 3) (w.extractLsb' 5 1)) := by
  unfold decode3A; rw [h0]; rfl

/-! ### The formats -/

theorem layout0 {lit c0 c1 : Nat} (x0 : BitVec 5) (x1 : BitVec 5) (x2 : BitVec 5)
    (hl : lit = c0 * 67108864 + c1) (g0 : c0 < 64) (g1 : c1 < 2048) :
    ((BitVec.ofNat 32 (lit + x0.toNat * 2097152 + x1.toNat * 65536 + x2.toNat * 2048)).extractLsb' 26 6).toNat = c0 ∧
    ((BitVec.ofNat 32 (lit + x0.toNat * 2097152 + x1.toNat * 65536 + x2.toNat * 2048)).extractLsb' 0 11).toNat = c1 ∧
    (BitVec.ofNat 32 (lit + x0.toNat * 2097152 + x1.toNat * 65536 + x2.toNat * 2048)).extractLsb' 21 5 = x0 ∧
    (BitVec.ofNat 32 (lit + x0.toNat * 2097152 + x1.toNat * 65536 + x2.toNat * 2048)).extractLsb' 16 5 = x1 ∧
    (BitVec.ofNat 32 (lit + x0.toNat * 2097152 + x1.toNat * 65536 + x2.toNat * 2048)).extractLsb' 11 5 = x2 := by
  have b0 := x0.isLt
  have b1 := x1.isLt
  have b2 := x2.isLt
  have hn : lit + x0.toNat * 2097152 + x1.toNat * 65536 + x2.toNat * 2048 < 4294967296 := by generalize e0 : x0.toNat = m0 at *; generalize e1 : x1.toNat = m1 at *; generalize e2 : x2.toNat = m2 at *; subst hl; omega
  refine ⟨field_toNat hn ?_, field_toNat hn ?_, field_ofNat hn ?_, field_ofNat hn ?_, field_ofNat hn ?_⟩ <;>
    · (try simp only [BitVec.toNat_ofNat]); generalize e0 : x0.toNat = m0 at *; generalize e1 : x1.toNat = m1 at *; generalize e2 : x2.toNat = m2 at *; subst hl; clear hn; omega

theorem layout1 {lit c0 c1 : Nat} (x0 : BitVec 5) (x1 : BitVec 5)
    (hl : lit = c0 * 67108864 + c1) (g0 : c0 < 64) (g1 : c1 < 2048) :
    ((BitVec.ofNat 32 (lit + x0.toNat * 2097152 + x1.toNat * 65536)).extractLsb' 26 6).toNat = c0 ∧
    ((BitVec.ofNat 32 (lit + x0.toNat * 2097152 + x1.toNat * 65536)).extractLsb' 0 11).toNat = c1 ∧
    (BitVec.ofNat 32 (lit + x0.toNat * 2097152 + x1.toNat * 65536)).extractLsb' 21 5 = x0 ∧
    (BitVec.ofNat 32 (lit + x0.toNat * 2097152 + x1.toNat * 65536)).extractLsb' 16 5 = x1 ∧
    (BitVec.ofNat 32 (lit + x0.toNat * 2097152 + x1.toNat * 65536)).extractLsb' 11 5 = 0#5 := by
  have b0 := x0.isLt
  have b1 := x1.isLt
  have hn : lit + x0.toNat * 2097152 + x1.toNat * 65536 < 4294967296 := by generalize e0 : x0.toNat = m0 at *; generalize e1 : x1.toNat = m1 at *; subst hl; omega
  refine ⟨field_toNat hn ?_, field_toNat hn ?_, field_ofNat hn ?_, field_ofNat hn ?_, field_ofNat hn ?_⟩ <;>
    · (try simp only [BitVec.toNat_ofNat]); generalize e0 : x0.toNat = m0 at *; generalize e1 : x1.toNat = m1 at *; subst hl; clear hn; omega

theorem layout2 {lit c0 : Nat} (x0 : BitVec 5) (x1 : BitVec 5) (x2 : BitVec 16)
    (hl : lit = c0 * 67108864) (g0 : c0 < 64) :
    ((BitVec.ofNat 32 (lit + x0.toNat * 2097152 + x1.toNat * 65536 + x2.toNat)).extractLsb' 26 6).toNat = c0 ∧
    (BitVec.ofNat 32 (lit + x0.toNat * 2097152 + x1.toNat * 65536 + x2.toNat)).extractLsb' 21 5 = x0 ∧
    (BitVec.ofNat 32 (lit + x0.toNat * 2097152 + x1.toNat * 65536 + x2.toNat)).extractLsb' 16 5 = x1 ∧
    (BitVec.ofNat 32 (lit + x0.toNat * 2097152 + x1.toNat * 65536 + x2.toNat)).extractLsb' 0 16 = x2 := by
  have b0 := x0.isLt
  have b1 := x1.isLt
  have b2 := x2.isLt
  have hn : lit + x0.toNat * 2097152 + x1.toNat * 65536 + x2.toNat < 4294967296 := by generalize e0 : x0.toNat = m0 at *; generalize e1 : x1.toNat = m1 at *; generalize e2 : x2.toNat = m2 at *; subst hl; omega
  refine ⟨field_toNat hn ?_, field_ofNat hn ?_, field_ofNat hn ?_, field_ofNat hn ?_⟩ <;>
    · (try simp only [BitVec.toNat_ofNat]); generalize e0 : x0.toNat = m0 at *; generalize e1 : x1.toNat = m1 at *; generalize e2 : x2.toNat = m2 at *; subst hl; clear hn; omega

theorem layout3 {lit c0 c1 : Nat} (x0 : BitVec 5) (x1 : BitVec 5) (x2 : BitVec 6)
    (hl : lit = c0 * 67108864 + c1 * 64) (g0 : c0 < 64) (g1 : c1 < 4) :
    ((BitVec.ofNat 32 (lit + x0.toNat * 2097152 + x1.toNat * 65536 + x2.toNat)).extractLsb' 26 6).toNat = c0 ∧
    ((BitVec.ofNat 32 (lit + x0.toNat * 2097152 + x1.toNat * 65536 + x2.toNat)).extractLsb' 6 2).toNat = c1 ∧
    (BitVec.ofNat 32 (lit + x0.toNat * 2097152 + x1.toNat * 65536 + x2.toNat)).extractLsb' 21 5 = x0 ∧
    (BitVec.ofNat 32 (lit + x0.toNat * 2097152 + x1.toNat * 65536 + x2.toNat)).extractLsb' 16 5 = x1 ∧
    (BitVec.ofNat 32 (lit + x0.toNat * 2097152 + x1.toNat * 65536 + x2.toNat)).extractLsb' 0 6 = x2 ∧
    (BitVec.ofNat 32 (lit + x0.toNat * 2097152 + x1.toNat * 65536 + x2.toNat)).extractLsb' 8 8 = 0#8 := by
  have b0 := x0.isLt
  have b1 := x1.isLt
  have b2 := x2.isLt
  have hn : lit + x0.toNat * 2097152 + x1.toNat * 65536 + x2.toNat < 4294967296 := by generalize e0 : x0.toNat = m0 at *; generalize e1 : x1.toNat = m1 at *; generalize e2 : x2.toNat = m2 at *; subst hl; omega
  refine ⟨field_toNat hn ?_, field_toNat hn ?_, field_ofNat hn ?_, field_ofNat hn ?_, field_ofNat hn ?_, field_ofNat hn ?_⟩ <;>
    · (try simp only [BitVec.toNat_ofNat]); generalize e0 : x0.toNat = m0 at *; generalize e1 : x1.toNat = m1 at *; generalize e2 : x2.toNat = m2 at *; subst hl; clear hn; omega

theorem layout4 {lit c0 : Nat} (x0 : BitVec 5) (x1 : BitVec 21)
    (hl : lit = c0 * 67108864) (g0 : c0 < 64) :
    ((BitVec.ofNat 32 (lit + x0.toNat * 2097152 + x1.toNat)).extractLsb' 26 6).toNat = c0 ∧
    (BitVec.ofNat 32 (lit + x0.toNat * 2097152 + x1.toNat)).extractLsb' 21 5 = x0 ∧
    (BitVec.ofNat 32 (lit + x0.toNat * 2097152 + x1.toNat)).extractLsb' 0 21 = x1 := by
  have b0 := x0.isLt
  have b1 := x1.isLt
  have hn : lit + x0.toNat * 2097152 + x1.toNat < 4294967296 := by generalize e0 : x0.toNat = m0 at *; generalize e1 : x1.toNat = m1 at *; subst hl; omega
  refine ⟨field_toNat hn ?_, field_ofNat hn ?_, field_ofNat hn ?_⟩ <;>
    · (try simp only [BitVec.toNat_ofNat]); generalize e0 : x0.toNat = m0 at *; generalize e1 : x1.toNat = m1 at *; subst hl; clear hn; omega

theorem layout5 {lit c0 c1 : Nat} (x0 : BitVec 5) (x1 : BitVec 5) (x2 : BitVec 5) (x3 : BitVec 1)
    (hl : lit = c0 * 67108864 + c1) (g0 : c0 < 64) (g1 : c1 < 256) :
    ((BitVec.ofNat 32 (lit + x0.toNat * 2097152 + x1.toNat * 65536 + x2.toNat * 2048 + x3.toNat * 256)).extractLsb' 26 6).toNat = c0 ∧
    ((BitVec.ofNat 32 (lit + x0.toNat * 2097152 + x1.toNat * 65536 + x2.toNat * 2048 + x3.toNat * 256)).extractLsb' 0 8).toNat = c1 ∧
    (BitVec.ofNat 32 (lit + x0.toNat * 2097152 + x1.toNat * 65536 + x2.toNat * 2048 + x3.toNat * 256)).extractLsb' 21 5 = x0 ∧
    (BitVec.ofNat 32 (lit + x0.toNat * 2097152 + x1.toNat * 65536 + x2.toNat * 2048 + x3.toNat * 256)).extractLsb' 16 5 = x1 ∧
    (BitVec.ofNat 32 (lit + x0.toNat * 2097152 + x1.toNat * 65536 + x2.toNat * 2048 + x3.toNat * 256)).extractLsb' 11 5 = x2 ∧
    (BitVec.ofNat 32 (lit + x0.toNat * 2097152 + x1.toNat * 65536 + x2.toNat * 2048 + x3.toNat * 256)).extractLsb' 8 1 = x3 ∧
    (BitVec.ofNat 32 (lit + x0.toNat * 2097152 + x1.toNat * 65536 + x2.toNat * 2048 + x3.toNat * 256)).extractLsb' 9 2 = 0#2 := by
  have b0 := x0.isLt
  have b1 := x1.isLt
  have b2 := x2.isLt
  have b3 := x3.isLt
  have hn : lit + x0.toNat * 2097152 + x1.toNat * 65536 + x2.toNat * 2048 + x3.toNat * 256 < 4294967296 := by generalize e0 : x0.toNat = m0 at *; generalize e1 : x1.toNat = m1 at *; generalize e2 : x2.toNat = m2 at *; generalize e3 : x3.toNat = m3 at *; subst hl; omega
  refine ⟨field_toNat hn ?_, field_toNat hn ?_, field_ofNat hn ?_, field_ofNat hn ?_, field_ofNat hn ?_, field_ofNat hn ?_, field_ofNat hn ?_⟩ <;>
    · (try simp only [BitVec.toNat_ofNat]); generalize e0 : x0.toNat = m0 at *; generalize e1 : x1.toNat = m1 at *; generalize e2 : x2.toNat = m2 at *; generalize e3 : x3.toNat = m3 at *; subst hl; clear hn; omega

theorem layout6 {lit c0 c1 : Nat} (x0 : BitVec 5) (x1 : BitVec 5) (x2 : BitVec 1)
    (hl : lit = c0 * 67108864 + c1) (g0 : c0 < 64) (g1 : c1 < 256) :
    ((BitVec.ofNat 32 (lit + x0.toNat * 2097152 + x1.toNat * 65536 + x2.toNat * 256)).extractLsb' 26 6).toNat = c0 ∧
    ((BitVec.ofNat 32 (lit + x0.toNat * 2097152 + x1.toNat * 65536 + x2.toNat * 256)).extractLsb' 0 8).toNat = c1 ∧
    (BitVec.ofNat 32 (lit + x0.toNat * 2097152 + x1.toNat * 65536 + x2.toNat * 256)).extractLsb' 21 5 = x0 ∧
    (BitVec.ofNat 32 (lit + x0.toNat * 2097152 + x1.toNat * 65536 + x2.toNat * 256)).extractLsb' 16 5 = x1 ∧
    (BitVec.ofNat 32 (lit + x0.toNat * 2097152 + x1.toNat * 65536 + x2.toNat * 256)).extractLsb' 8 1 = x2 ∧
    (BitVec.ofNat 32 (lit + x0.toNat * 2097152 + x1.toNat * 65536 + x2.toNat * 256)).extractLsb' 9 7 = 0#7 := by
  have b0 := x0.isLt
  have b1 := x1.isLt
  have b2 := x2.isLt
  have hn : lit + x0.toNat * 2097152 + x1.toNat * 65536 + x2.toNat * 256 < 4294967296 := by generalize e0 : x0.toNat = m0 at *; generalize e1 : x1.toNat = m1 at *; generalize e2 : x2.toNat = m2 at *; subst hl; omega
  refine ⟨field_toNat hn ?_, field_toNat hn ?_, field_ofNat hn ?_, field_ofNat hn ?_, field_ofNat hn ?_, field_ofNat hn ?_⟩ <;>
    · (try simp only [BitVec.toNat_ofNat]); generalize e0 : x0.toNat = m0 at *; generalize e1 : x1.toNat = m1 at *; generalize e2 : x2.toNat = m2 at *; subst hl; clear hn; omega

theorem layout7 {lit c0 : Nat} (x0 : BitVec 5) (x1 : BitVec 5) (x2 : BitVec 12)
    (hl : lit = c0 * 67108864) (g0 : c0 < 64) :
    ((BitVec.ofNat 32 (lit + x0.toNat * 2097152 + x1.toNat * 65536 + x2.toNat)).extractLsb' 26 6).toNat = c0 ∧
    (BitVec.ofNat 32 (lit + x0.toNat * 2097152 + x1.toNat * 65536 + x2.toNat)).extractLsb' 21 5 = x0 ∧
    (BitVec.ofNat 32 (lit + x0.toNat * 2097152 + x1.toNat * 65536 + x2.toNat)).extractLsb' 16 5 = x1 ∧
    (BitVec.ofNat 32 (lit + x0.toNat * 2097152 + x1.toNat * 65536 + x2.toNat)).extractLsb' 0 12 = x2 ∧
    (BitVec.ofNat 32 (lit + x0.toNat * 2097152 + x1.toNat * 65536 + x2.toNat)).extractLsb' 12 4 = 0#4 := by
  have b0 := x0.isLt
  have b1 := x1.isLt
  have b2 := x2.isLt
  have hn : lit + x0.toNat * 2097152 + x1.toNat * 65536 + x2.toNat < 4294967296 := by generalize e0 : x0.toNat = m0 at *; generalize e1 : x1.toNat = m1 at *; generalize e2 : x2.toNat = m2 at *; subst hl; omega
  refine ⟨field_toNat hn ?_, field_ofNat hn ?_, field_ofNat hn ?_, field_ofNat hn ?_, field_ofNat hn ?_⟩ <;>
    · (try simp only [BitVec.toNat_ofNat]); generalize e0 : x0.toNat = m0 at *; generalize e1 : x1.toNat = m1 at *; generalize e2 : x2.toNat = m2 at *; subst hl; clear hn; omega

theorem layout8 {lit c0 : Nat} (x0 : BitVec 5) (x1 : BitVec 5) (x2 : BitVec 4)
    (hl : lit = c0 * 67108864) (g0 : c0 < 64) :
    ((BitVec.ofNat 32 (lit + x0.toNat * 2097152 + x1.toNat * 65536 + x2.toNat)).extractLsb' 26 6).toNat = c0 ∧
    (BitVec.ofNat 32 (lit + x0.toNat * 2097152 + x1.toNat * 65536 + x2.toNat)).extractLsb' 21 5 = x0 ∧
    (BitVec.ofNat 32 (lit + x0.toNat * 2097152 + x1.toNat * 65536 + x2.toNat)).extractLsb' 16 5 = x1 ∧
    (BitVec.ofNat 32 (lit + x0.toNat * 2097152 + x1.toNat * 65536 + x2.toNat)).extractLsb' 0 4 = x2 ∧
    (BitVec.ofNat 32 (lit + x0.toNat * 2097152 + x1.toNat * 65536 + x2.toNat)).extractLsb' 4 12 = 0#12 := by
  have b0 := x0.isLt
  have b1 := x1.isLt
  have b2 := x2.isLt
  have hn : lit + x0.toNat * 2097152 + x1.toNat * 65536 + x2.toNat < 4294967296 := by generalize e0 : x0.toNat = m0 at *; generalize e1 : x1.toNat = m1 at *; generalize e2 : x2.toNat = m2 at *; subst hl; omega
  refine ⟨field_toNat hn ?_, field_ofNat hn ?_, field_ofNat hn ?_, field_ofNat hn ?_, field_ofNat hn ?_⟩ <;>
    · (try simp only [BitVec.toNat_ofNat]); generalize e0 : x0.toNat = m0 at *; generalize e1 : x1.toNat = m1 at *; generalize e2 : x2.toNat = m2 at *; subst hl; clear hn; omega

theorem layout9 {lit c0 c1 : Nat} (x0 : BitVec 5) (x1 : BitVec 5) (x2 : BitVec 12)
    (hl : lit = c0 * 67108864 + c1) (g0 : c0 < 64) (g1 : c1 < 16) :
    ((BitVec.ofNat 32 (lit + x0.toNat * 2097152 + x1.toNat * 65536 + x2.toNat * 16)).extractLsb' 26 6).toNat = c0 ∧
    ((BitVec.ofNat 32 (lit + x0.toNat * 2097152 + x1.toNat * 65536 + x2.toNat * 16)).extractLsb' 0 4).toNat = c1 ∧
    (BitVec.ofNat 32 (lit + x0.toNat * 2097152 + x1.toNat * 65536 + x2.toNat * 16)).extractLsb' 21 5 = x0 ∧
    (BitVec.ofNat 32 (lit + x0.toNat * 2097152 + x1.toNat * 65536 + x2.toNat * 16)).extractLsb' 16 5 = x1 ∧
    (BitVec.ofNat 32 (lit + x0.toNat * 2097152 + x1.toNat * 65536 + x2.toNat * 16)).extractLsb' 4 12 = x2 := by
  have b0 := x0.isLt
  have b1 := x1.isLt
  have b2 := x2.isLt
  have hn : lit + x0.toNat * 2097152 + x1.toNat * 65536 + x2.toNat * 16 < 4294967296 := by generalize e0 : x0.toNat = m0 at *; generalize e1 : x1.toNat = m1 at *; generalize e2 : x2.toNat = m2 at *; subst hl; omega
  refine ⟨field_toNat hn ?_, field_toNat hn ?_, field_ofNat hn ?_, field_ofNat hn ?_, field_ofNat hn ?_⟩ <;>
    · (try simp only [BitVec.toNat_ofNat]); generalize e0 : x0.toNat = m0 at *; generalize e1 : x1.toNat = m1 at *; generalize e2 : x2.toNat = m2 at *; subst hl; clear hn; omega

theorem layout10 {lit c0 c1 : Nat} (x0 : BitVec 16)
    (hl : lit = c0 * 67108864 + c1) (g0 : c0 < 64) (g1 : c1 < 16) :
    ((BitVec.ofNat 32 (lit + x0.toNat * 16)).extractLsb' 26 6).toNat = c0 ∧
    ((BitVec.ofNat 32 (lit + x0.toNat * 16)).extractLsb' 0 4).toNat = c1 ∧
    (BitVec.ofNat 32 (lit + x0.toNat * 16)).extractLsb' 4 16 = x0 ∧
    (BitVec.ofNat 32 (lit + x0.toNat * 16)).extractLsb' 20 6 = 0#6 := by
  have b0 := x0.isLt
  have hn : lit + x0.toNat * 16 < 4294967296 := by generalize e0 : x0.toNat = m0 at *; subst hl; omega
  refine ⟨field_toNat hn ?_, field_toNat hn ?_, field_ofNat hn ?_, field_ofNat hn ?_⟩ <;>
    · (try simp only [BitVec.toNat_ofNat]); generalize e0 : x0.toNat = m0 at *; subst hl; clear hn; omega

theorem layout11 {lit c0 c1 : Nat} 
    (hl : lit = c0 * 67108864 + c1) (g0 : c0 < 64) (g1 : c1 < 16) :
    ((BitVec.ofNat 32 (lit)).extractLsb' 26 6).toNat = c0 ∧
    ((BitVec.ofNat 32 (lit)).extractLsb' 0 4).toNat = c1 ∧
    (BitVec.ofNat 32 (lit)).extractLsb' 4 22 = 0#22 := by
  have hn : lit < 4294967296 := by  subst hl; omega
  refine ⟨field_toNat hn ?_, field_toNat hn ?_, field_ofNat hn ?_⟩ <;>
    · (try simp only [BitVec.toNat_ofNat]);  subst hl; clear hn; omega

theorem layout12 {lit c0 c1 : Nat} (x0 : BitVec 5) (x1 : BitVec 5)
    (hl : lit = c0 * 67108864 + c1) (g0 : c0 < 64) (g1 : c1 < 16) :
    ((BitVec.ofNat 32 (lit + x0.toNat * 65536 + x1.toNat * 2048)).extractLsb' 26 6).toNat = c0 ∧
    ((BitVec.ofNat 32 (lit + x0.toNat * 65536 + x1.toNat * 2048)).extractLsb' 0 4).toNat = c1 ∧
    (BitVec.ofNat 32 (lit + x0.toNat * 65536 + x1.toNat * 2048)).extractLsb' 16 5 = x0 ∧
    (BitVec.ofNat 32 (lit + x0.toNat * 65536 + x1.toNat * 2048)).extractLsb' 11 5 = x1 ∧
    (BitVec.ofNat 32 (lit + x0.toNat * 65536 + x1.toNat * 2048)).extractLsb' 4 7 = 0#7 ∧
    (BitVec.ofNat 32 (lit + x0.toNat * 65536 + x1.toNat * 2048)).extractLsb' 21 5 = 0#5 := by
  have b0 := x0.isLt
  have b1 := x1.isLt
  have hn : lit + x0.toNat * 65536 + x1.toNat * 2048 < 4294967296 := by generalize e0 : x0.toNat = m0 at *; generalize e1 : x1.toNat = m1 at *; subst hl; omega
  refine ⟨field_toNat hn ?_, field_toNat hn ?_, field_ofNat hn ?_, field_ofNat hn ?_, field_ofNat hn ?_, field_ofNat hn ?_⟩ <;>
    · (try simp only [BitVec.toNat_ofNat]); generalize e0 : x0.toNat = m0 at *; generalize e1 : x1.toNat = m1 at *; subst hl; clear hn; omega

theorem layout13 {lit c0 c1 : Nat} (x0 : BitVec 5)
    (hl : lit = c0 * 67108864 + c1) (g0 : c0 < 64) (g1 : c1 < 16) :
    ((BitVec.ofNat 32 (lit + x0.toNat * 65536)).extractLsb' 26 6).toNat = c0 ∧
    ((BitVec.ofNat 32 (lit + x0.toNat * 65536)).extractLsb' 0 4).toNat = c1 ∧
    (BitVec.ofNat 32 (lit + x0.toNat * 65536)).extractLsb' 16 5 = x0 ∧
    (BitVec.ofNat 32 (lit + x0.toNat * 65536)).extractLsb' 4 12 = 0#12 ∧
    (BitVec.ofNat 32 (lit + x0.toNat * 65536)).extractLsb' 21 5 = 0#5 := by
  have b0 := x0.isLt
  have hn : lit + x0.toNat * 65536 < 4294967296 := by generalize e0 : x0.toNat = m0 at *; subst hl; omega
  refine ⟨field_toNat hn ?_, field_toNat hn ?_, field_ofNat hn ?_, field_ofNat hn ?_, field_ofNat hn ?_⟩ <;>
    · (try simp only [BitVec.toNat_ofNat]); generalize e0 : x0.toNat = m0 at *; subst hl; clear hn; omega

theorem layout14 {lit c0 c1 : Nat} (x0 : BitVec 5) (x1 : BitVec 5) (x2 : BitVec 5) (x3 : BitVec 3) (x4 : BitVec 2) (x5 : BitVec 1)
    (hl : lit = c0 * 67108864 + c1) (g0 : c0 < 64) (g1 : c1 < 16) :
    ((BitVec.ofNat 32 (lit + x0.toNat * 2097152 + x1.toNat * 65536 + x2.toNat * 2048 + x3.toNat * 128 + x4.toNat * 32 + x5.toNat * 16)).extractLsb' 26 6).toNat = c0 ∧
    ((BitVec.ofNat 32 (lit + x0.toNat * 2097152 + x1.toNat * 65536 + x2.toNat * 2048 + x3.toNat * 128 + x4.toNat * 32 + x5.toNat * 16)).extractLsb' 0 4).toNat = c1 ∧
    (BitVec.ofNat 32 (lit + x0.toNat * 2097152 + x1.toNat * 65536 + x2.toNat * 2048 + x3.toNat * 128 + x4.toNat * 32 + x5.toNat * 16)).extractLsb' 21 5 = x0 ∧
    (BitVec.ofNat 32 (lit + x0.toNat * 2097152 + x1.toNat * 65536 + x2.toNat * 2048 + x3.toNat * 128 + x4.toNat * 32 + x5.toNat * 16)).extractLsb' 16 5 = x1 ∧
    (BitVec.ofNat 32 (lit + x0.toNat * 2097152 + x1.toNat * 65536 + x2.toNat * 2048 + x3.toNat * 128 + x4.toNat * 32 + x5.toNat * 16)).extractLsb' 11 5 = x2 ∧
    (BitVec.ofNat 32 (lit + x0.toNat * 2097152 + x1.toNat * 65536 + x2.toNat * 2048 + x3.toNat * 128 + x4.toNat * 32 + x5.toNat * 16)).extractLsb' 7 3 = x3 ∧
    (BitVec.ofNat 32 (lit + x0.toNat * 2097152 + x1.toNat * 65536 + x2.toNat * 2048 + x3.toNat * 128 + x4.toNat * 32 + x5.toNat * 16)).extractLsb' 5 2 = x4 ∧
    (BitVec.ofNat 32 (lit + x0.toNat * 2097152 + x1.toNat * 65536 + x2.toNat * 2048 + x3.toNat * 128 + x4.toNat * 32 + x5.toNat * 16)).extractLsb' 4 1 = x5 ∧
    (BitVec.ofNat 32 (lit + x0.toNat * 2097152 + x1.toNat * 65536 + x2.toNat * 2048 + x3.toNat * 128 + x4.toNat * 32 + x5.toNat * 16)).extractLsb' 10 1 = 0#1 := by
  have b0 := x0.isLt
  have b1 := x1.isLt
  have b2 := x2.isLt
  have b3 := x3.isLt
  have b4 := x4.isLt
  have b5 := x5.isLt
  have hn : lit + x0.toNat * 2097152 + x1.toNat * 65536 + x2.toNat * 2048 + x3.toNat * 128 + x4.toNat * 32 + x5.toNat * 16 < 4294967296 := by generalize e0 : x0.toNat = m0 at *; generalize e1 : x1.toNat = m1 at *; generalize e2 : x2.toNat = m2 at *; generalize e3 : x3.toNat = m3 at *; generalize e4 : x4.toNat = m4 at *; generalize e5 : x5.toNat = m5 at *; subst hl; omega
  refine ⟨field_toNat hn ?_, field_toNat hn ?_, field_ofNat hn ?_, field_ofNat hn ?_, field_ofNat hn ?_, field_ofNat hn ?_, field_ofNat hn ?_, field_ofNat hn ?_, field_ofNat hn ?_⟩ <;>
    · (try simp only [BitVec.toNat_ofNat]); generalize e0 : x0.toNat = m0 at *; generalize e1 : x1.toNat = m1 at *; generalize e2 : x2.toNat = m2 at *; generalize e3 : x3.toNat = m3 at *; generalize e4 : x4.toNat = m4 at *; generalize e5 : x5.toNat = m5 at *; subst hl; clear hn; omega

theorem layout15 {lit c0 c1 : Nat} (x0 : BitVec 2) (x1 : BitVec 3)
    (hl : lit = c0 * 67108864 + c1 * 256) (g0 : c0 < 64) (g1 : c1 < 8) :
    ((BitVec.ofNat 32 (lit + x0.toNat * 8 + x1.toNat)).extractLsb' 26 6).toNat = c0 ∧
    ((BitVec.ofNat 32 (lit + x0.toNat * 8 + x1.toNat)).extractLsb' 8 3).toNat = c1 ∧
    (BitVec.ofNat 32 (lit + x0.toNat * 8 + x1.toNat)).extractLsb' 3 2 = x0 ∧
    (BitVec.ofNat 32 (lit + x0.toNat * 8 + x1.toNat)).extractLsb' 0 3 = x1 ∧
    (BitVec.ofNat 32 (lit + x0.toNat * 8 + x1.toNat)).extractLsb' 5 3 = 0#3 ∧
    (BitVec.ofNat 32 (lit + x0.toNat * 8 + x1.toNat)).extractLsb' 11 15 = 0#15 := by
  have b0 := x0.isLt
  have b1 := x1.isLt
  have hn : lit + x0.toNat * 8 + x1.toNat < 4294967296 := by generalize e0 : x0.toNat = m0 at *; generalize e1 : x1.toNat = m1 at *; subst hl; omega
  refine ⟨field_toNat hn ?_, field_toNat hn ?_, field_ofNat hn ?_, field_ofNat hn ?_, field_ofNat hn ?_, field_ofNat hn ?_⟩ <;>
    · (try simp only [BitVec.toNat_ofNat]); generalize e0 : x0.toNat = m0 at *; generalize e1 : x1.toNat = m1 at *; subst hl; clear hn; omega

theorem layout16 {lit c0 c1 : Nat} (x0 : BitVec 8)
    (hl : lit = c0 * 67108864 + c1 * 256) (g0 : c0 < 64) (g1 : c1 < 8) :
    ((BitVec.ofNat 32 (lit + x0.toNat)).extractLsb' 26 6).toNat = c0 ∧
    ((BitVec.ofNat 32 (lit + x0.toNat)).extractLsb' 8 3).toNat = c1 ∧
    (BitVec.ofNat 32 (lit + x0.toNat)).extractLsb' 0 8 = x0 ∧
    (BitVec.ofNat 32 (lit + x0.toNat)).extractLsb' 11 15 = 0#15 := by
  have b0 := x0.isLt
  have hn : lit + x0.toNat < 4294967296 := by generalize e0 : x0.toNat = m0 at *; subst hl; omega
  refine ⟨field_toNat hn ?_, field_toNat hn ?_, field_ofNat hn ?_, field_ofNat hn ?_⟩ <;>
    · (try simp only [BitVec.toNat_ofNat]); generalize e0 : x0.toNat = m0 at *; subst hl; clear hn; omega

theorem layout17 {lit c0 c1 : Nat} (x0 : BitVec 5) (x1 : BitVec 5) (x2 : BitVec 5) (x3 : BitVec 5)
    (hl : lit = c0 * 67108864 + c1 * 256) (g0 : c0 < 64) (g1 : c1 < 8) :
    ((BitVec.ofNat 32 (lit + x0.toNat * 2097152 + x1.toNat * 65536 + x2.toNat * 2048 + x3.toNat)).extractLsb' 26 6).toNat = c0 ∧
    ((BitVec.ofNat 32 (lit + x0.toNat * 2097152 + x1.toNat * 65536 + x2.toNat * 2048 + x3.toNat)).extractLsb' 8 3).toNat = c1 ∧
    (BitVec.ofNat 32 (lit + x0.toNat * 2097152 + x1.toNat * 65536 + x2.toNat * 2048 + x3.toNat)).extractLsb' 21 5 = x0 ∧
    (BitVec.ofNat 32 (lit + x0.toNat * 2097152 + x1.toNat * 65536 + x2.toNat * 2048 + x3.toNat)).extractLsb' 16 5 = x1 ∧
    (BitVec.ofNat 32 (lit + x0.toNat * 2097152 + x1.toNat * 65536 + x2.toNat * 2048 + x3.toNat)).extractLsb' 11 5 = x2 ∧
    (BitVec.ofNat 32 (lit + x0.toNat * 2097152 + x1.toNat * 65536 + x2.toNat * 2048 + x3.toNat)).extractLsb' 0 5 = x3 ∧
    (BitVec.ofNat 32 (lit + x0.toNat * 2097152 + x1.toNat * 65536 + x2.toNat * 2048 + x3.toNat)).extractLsb' 5 3 = 0#3 := by
  have b0 := x0.isLt
  have b1 := x1.isLt
  have b2 := x2.isLt
  have b3 := x3.isLt
  have hn : lit + x0.toNat * 2097152 + x1.toNat * 65536 + x2.toNat * 2048 + x3.toNat < 4294967296 := by generalize e0 : x0.toNat = m0 at *; generalize e1 : x1.toNat = m1 at *; generalize e2 : x2.toNat = m2 at *; generalize e3 : x3.toNat = m3 at *; subst hl; omega
  refine ⟨field_toNat hn ?_, field_toNat hn ?_, field_ofNat hn ?_, field_ofNat hn ?_, field_ofNat hn ?_, field_ofNat hn ?_, field_ofNat hn ?_⟩ <;>
    · (try simp only [BitVec.toNat_ofNat]); generalize e0 : x0.toNat = m0 at *; generalize e1 : x1.toNat = m1 at *; generalize e2 : x2.toNat = m2 at *; generalize e3 : x3.toNat = m3 at *; subst hl; clear hn; omega

theorem layout18 {lit c0 c1 : Nat} (x0 : BitVec 5) (x1 : BitVec 5)
    (hl : lit = c0 * 67108864 + c1 * 256) (g0 : c0 < 64) (g1 : c1 < 8) :
    ((BitVec.ofNat 32 (lit + x0.toNat * 2097152 + x1.toNat * 65536)).extractLsb' 26 6).toNat = c0 ∧
    ((BitVec.ofNat 32 (lit + x0.toNat * 2097152 + x1.toNat * 65536)).extractLsb' 8 3).toNat = c1 ∧
    (BitVec.ofNat 32 (lit + x0.toNat * 2097152 + x1.toNat * 65536)).extractLsb' 21 5 = x0 ∧
    (BitVec.ofNat 32 (lit + x0.toNat * 2097152 + x1.toNat * 65536)).extractLsb' 16 5 = x1 ∧
    (BitVec.ofNat 32 (lit + x0.toNat * 2097152 + x1.toNat * 65536)).extractLsb' 0 8 = 0#8 ∧
    (BitVec.ofNat 32 (lit + x0.toNat * 2097152 + x1.toNat * 65536)).extractLsb' 11 5 = 0#5 := by
  have b0 := x0.isLt
  have b1 := x1.isLt
  have hn : lit + x0.toNat * 2097152 + x1.toNat * 65536 < 4294967296 := by generalize e0 : x0.toNat = m0 at *; generalize e1 : x1.toNat = m1 at *; subst hl; omega
  refine ⟨field_toNat hn ?_, field_toNat hn ?_, field_ofNat hn ?_, field_ofNat hn ?_, field_ofNat hn ?_, field_ofNat hn ?_⟩ <;>
    · (try simp only [BitVec.toNat_ofNat]); generalize e0 : x0.toNat = m0 at *; generalize e1 : x1.toNat = m1 at *; subst hl; clear hn; omega

theorem layout19 {lit c0 c1 c2 : Nat} (x0 : BitVec 5)
    (hl : lit = c0 * 67108864 + c1 * 256 + c2) (g0 : c0 < 64) (g1 : c1 < 8) (g2 : c2 < 2) :
    ((BitVec.ofNat 32 (lit + x0.toNat * 65536)).extractLsb' 26 6).toNat = c0 ∧
    ((BitVec.ofNat 32 (lit + x0.toNat * 65536)).extractLsb' 8 3).toNat = c1 ∧
    ((BitVec.ofNat 32 (lit + x0.toNat * 65536)).extractLsb' 0 1).toNat = c2 ∧
    (BitVec.ofNat 32 (lit + x0.toNat * 65536)).extractLsb' 16 5 = x0 ∧
    (BitVec.ofNat 32 (lit + x0.toNat * 65536)).extractLsb' 1 7 = 0#7 ∧
    (BitVec.ofNat 32 (lit + x0.toNat * 65536)).extractLsb' 11 5 = 0#5 ∧
    (BitVec.ofNat 32 (lit + x0.toNat * 65536)).extractLsb' 21 5 = 0#5 := by
  have b0 := x0.isLt
  have hn : lit + x0.toNat * 65536 < 4294967296 := by generalize e0 : x0.toNat = m0 at *; subst hl; omega
  refine ⟨field_toNat hn ?_, field_toNat hn ?_, field_toNat hn ?_, field_ofNat hn ?_, field_ofNat hn ?_, field_ofNat hn ?_, field_ofNat hn ?_⟩ <;>
    · (try simp only [BitVec.toNat_ofNat]); generalize e0 : x0.toNat = m0 at *; subst hl; clear hn; omega

theorem layout20 {lit c0 c1 c2 : Nat} (x0 : BitVec 5) (x1 : BitVec 5) (x2 : BitVec 5)
    (hl : lit = c0 * 67108864 + c1 * 256 + c2) (g0 : c0 < 64) (g1 : c1 < 8) (g2 : c2 < 2) :
    ((BitVec.ofNat 32 (lit + x0.toNat * 2097152 + x1.toNat * 65536 + x2.toNat * 2048)).extractLsb' 26 6).toNat = c0 ∧
    ((BitVec.ofNat 32 (lit + x0.toNat * 2097152 + x1.toNat * 65536 + x2.toNat * 2048)).extractLsb' 8 3).toNat = c1 ∧
    ((BitVec.ofNat 32 (lit + x0.toNat * 2097152 + x1.toNat * 65536 + x2.toNat * 2048)).extractLsb' 0 1).toNat = c2 ∧
    (BitVec.ofNat 32 (lit + x0.toNat * 2097152 + x1.toNat * 65536 + x2.toNat * 2048)).extractLsb' 21 5 = x0 ∧
    (BitVec.ofNat 32 (lit + x0.toNat * 2097152 + x1.toNat * 65536 + x2.toNat * 2048)).extractLsb' 16 5 = x1 ∧
    (BitVec.ofNat 32 (lit + x0.toNat * 2097152 + x1.toNat * 65536 + x2.toNat * 2048)).extractLsb' 11 5 = x2 ∧
    (BitVec.ofNat 32 (lit + x0.toNat * 2097152 + x1.toNat * 65536 + x2.toNat * 2048)).extractLsb' 1 7 = 0#7 := by
  have b0 := x0.isLt
  have b1 := x1.isLt
  have b2 := x2.isLt
  have hn : lit + x0.toNat * 2097152 + x1.toNat * 65536 + x2.toNat * 2048 < 4294967296 := by generalize e0 : x0.toNat = m0 at *; generalize e1 : x1.toNat = m1 at *; generalize e2 : x2.toNat = m2 at *; subst hl; omega
  refine ⟨field_toNat hn ?_, field_toNat hn ?_, field_toNat hn ?_, field_ofNat hn ?_, field_ofNat hn ?_, field_ofNat hn ?_, field_ofNat hn ?_⟩ <;>
    · (try simp only [BitVec.toNat_ofNat]); generalize e0 : x0.toNat = m0 at *; generalize e1 : x1.toNat = m1 at *; generalize e2 : x2.toNat = m2 at *; subst hl; clear hn; omega

theorem layout21 {lit c0 c1 : Nat} (x0 : BitVec 5) (x1 : BitVec 5)
    (hl : lit = c0 * 67108864 + c1) (g0 : c0 < 64) (g1 : c1 < 32) :
    ((BitVec.ofNat 32 (lit + x0.toNat * 65536 + x1.toNat * 2048)).extractLsb' 26 6).toNat = c0 ∧
    ((BitVec.ofNat 32 (lit + x0.toNat * 65536 + x1.toNat * 2048)).extractLsb' 0 5).toNat = c1 ∧
    (BitVec.ofNat 32 (lit + x0.toNat * 65536 + x1.toNat * 2048)).extractLsb' 16 5 = x0 ∧
    (BitVec.ofNat 32 (lit + x0.toNat * 65536 + x1.toNat * 2048)).extractLsb' 11 5 = x1 ∧
    (BitVec.ofNat 32 (lit + x0.toNat * 65536 + x1.toNat * 2048)).extractLsb' 5 6 = 0#6 ∧
    (BitVec.ofNat 32 (lit + x0.toNat * 65536 + x1.toNat * 2048)).extractLsb' 21 5 = 0#5 := by
  have b0 := x0.isLt
  have b1 := x1.isLt
  have hn : lit + x0.toNat * 65536 + x1.toNat * 2048 < 4294967296 := by generalize e0 : x0.toNat = m0 at *; generalize e1 : x1.toNat = m1 at *; subst hl; omega
  refine ⟨field_toNat hn ?_, field_toNat hn ?_, field_ofNat hn ?_, field_ofNat hn ?_, field_ofNat hn ?_, field_ofNat hn ?_⟩ <;>
    · (try simp only [BitVec.toNat_ofNat]); generalize e0 : x0.toNat = m0 at *; generalize e1 : x1.toNat = m1 at *; subst hl; clear hn; omega

theorem layout22 {lit c0 c1 : Nat} 
    (hl : lit = c0 * 67108864 + c1) (g0 : c0 < 64) (g1 : c1 < 32) :
    ((BitVec.ofNat 32 (lit)).extractLsb' 26 6).toNat = c0 ∧
    ((BitVec.ofNat 32 (lit)).extractLsb' 0 5).toNat = c1 ∧
    (BitVec.ofNat 32 (lit)).extractLsb' 5 21 = 0#21 := by
  have hn : lit < 4294967296 := by  subst hl; omega
  refine ⟨field_toNat hn ?_, field_toNat hn ?_, field_ofNat hn ?_⟩ <;>
    · (try simp only [BitVec.toNat_ofNat]);  subst hl; clear hn; omega

theorem layout23 {lit c0 c1 : Nat} (x0 : BitVec 5) (x1 : BitVec 5) (x2 : BitVec 1)
    (hl : lit = c0 * 67108864 + c1) (g0 : c0 < 64) (g1 : c1 < 32) :
    ((BitVec.ofNat 32 (lit + x0.toNat * 2097152 + x1.toNat * 65536 + x2.toNat * 32)).extractLsb' 26 6).toNat = c0 ∧
    ((BitVec.ofNat 32 (lit + x0.toNat * 2097152 + x1.toNat * 65536 + x2.toNat * 32)).extractLsb' 0 5).toNat = c1 ∧
    (BitVec.ofNat 32 (lit + x0.toNat * 2097152 + x1.toNat * 65536 + x2.toNat * 32)).extractLsb' 21 5 = x0 ∧
    (BitVec.ofNat 32 (lit + x0.toNat * 2097152 + x1.toNat * 65536 + x2.toNat * 32)).extractLsb' 16 5 = x1 ∧
    (BitVec.ofNat 32 (lit + x0.toNat * 2097152 + x1.toNat * 65536 + x2.toNat * 32)).extractLsb' 5 1 = x2 ∧
    (BitVec.ofNat 32 (lit + x0.toNat * 2097152 + x1.toNat * 65536 + x2.toNat * 32)).extractLsb' 6 10 = 0#10 := by
  have b0 := x0.isLt
  have b1 := x1.isLt
  have b2 := x2.isLt
  have hn : lit + x0.toNat * 2097152 + x1.toNat * 65536 + x2.toNat * 32 < 4294967296 := by generalize e0 : x0.toNat = m0 at *; generalize e1 : x1.toNat = m1 at *; generalize e2 : x2.toNat = m2 at *; subst hl; omega
  refine ⟨field_toNat hn ?_, field_toNat hn ?_, field_ofNat hn ?_, field_ofNat hn ?_, field_ofNat hn ?_, field_ofNat hn ?_⟩ <;>
    · (try simp only [BitVec.toNat_ofNat]); generalize e0 : x0.toNat = m0 at *; generalize e1 : x1.toNat = m1 at *; generalize e2 : x2.toNat = m2 at *; subst hl; clear hn; omega

theorem layout24 {lit c0 c1 : Nat} (x0 : BitVec 5)
    (hl : lit = c0 * 67108864 + c1) (g0 : c0 < 64) (g1 : c1 < 32) :
    ((BitVec.ofNat 32 (lit + x0.toNat * 65536)).extractLsb' 26 6).toNat = c0 ∧
    ((BitVec.ofNat 32 (lit + x0.toNat * 65536)).extractLsb' 0 5).toNat = c1 ∧
    (BitVec.ofNat 32 (lit + x0.toNat * 65536)).extractLsb' 16 5 = x0 ∧
    (BitVec.ofNat 32 (lit + x0.toNat * 65536)).extractLsb' 5 11 = 0#11 ∧
    (BitVec.ofNat 32 (lit + x0.toNat * 65536)).extractLsb' 21 5 = 0#5 := by
  have b0 := x0.isLt
  have hn : lit + x0.toNat * 65536 < 4294967296 := by generalize e0 : x0.toNat = m0 at *; subst hl; omega
  refine ⟨field_toNat hn ?_, field_toNat hn ?_, field_ofNat hn ?_, field_ofNat hn ?_, field_ofNat hn ?_⟩ <;>
    · (try simp only [BitVec.toNat_ofNat]); generalize e0 : x0.toNat = m0 at *; subst hl; clear hn; omega

theorem layout25 {lit c0 c1 : Nat} (x0 : BitVec 5) (x1 : BitVec 5)
    (hl : lit = c0 * 67108864 + c1) (g0 : c0 < 64) (g1 : c1 < 32) :
    ((BitVec.ofNat 32 (lit + x0.toNat * 2097152 + x1.toNat * 65536)).extractLsb' 26 6).toNat = c0 ∧
    ((BitVec.ofNat 32 (lit + x0.toNat * 2097152 + x1.toNat * 65536)).extractLsb' 0 5).toNat = c1 ∧
    (BitVec.ofNat 32 (lit + x0.toNat * 2097152 + x1.toNat * 65536)).extractLsb' 21 5 = x0 ∧
    (BitVec.ofNat 32 (lit + x0.toNat * 2097152 + x1.toNat * 65536)).extractLsb' 16 5 = x1 ∧
    (BitVec.ofNat 32 (lit + x0.toNat * 2097152 + x1.toNat * 65536)).extractLsb' 5 11 = 0#11 := by
  have b0 := x0.isLt
  have b1 := x1.isLt
  have hn : lit + x0.toNat * 2097152 + x1.toNat * 65536 < 4294967296 := by generalize e0 : x0.toNat = m0 at *; generalize e1 : x1.toNat = m1 at *; subst hl; omega
  refine ⟨field_toNat hn ?_, field_toNat hn ?_, field_ofNat hn ?_, field_ofNat hn ?_, field_ofNat hn ?_⟩ <;>
    · (try simp only [BitVec.toNat_ofNat]); generalize e0 : x0.toNat = m0 at *; generalize e1 : x1.toNat = m1 at *; subst hl; clear hn; omega

theorem layout26 {lit c0 c1 : Nat} (x0 : BitVec 5) (x1 : BitVec 5) (x2 : BitVec 5) (x3 : BitVec 4)
    (hl : lit = c0 * 67108864 + c1) (g0 : c0 < 64) (g1 : c1 < 32) :
    ((BitVec.ofNat 32 (lit + x0.toNat * 2097152 + x1.toNat * 65536 + x2.toNat * 2048 + x3.toNat * 32)).extractLsb' 26 6).toNat = c0 ∧
    ((BitVec.ofNat 32 (lit + x0.toNat * 2097152 + x1.toNat * 65536 + x2.toNat * 2048 + x3.toNat * 32)).extractLsb' 0 5).toNat = c1 ∧
    (BitVec.ofNat 32 (lit + x0.toNat * 2097152 + x1.toNat * 65536 + x2.toNat * 2048 + x3.toNat * 32)).extractLsb' 21 5 = x0 ∧
    (BitVec.ofNat 32 (lit + x0.toNat * 2097152 + x1.toNat * 65536 + x2.toNat * 2048 + x3.toNat * 32)).extractLsb' 16 5 = x1 ∧
    (BitVec.ofNat 32 (lit + x0.toNat * 2097152 + x1.toNat * 65536 + x2.toNat * 2048 + x3.toNat * 32)).extractLsb' 11 5 = x2 ∧
    (BitVec.ofNat 32 (lit + x0.toNat * 2097152 + x1.toNat * 65536 + x2.toNat * 2048 + x3.toNat * 32)).extractLsb' 5 4 = x3 ∧
    (BitVec.ofNat 32 (lit + x0.toNat * 2097152 + x1.toNat * 65536 + x2.toNat * 2048 + x3.toNat * 32)).extractLsb' 9 2 = 0#2 := by
  have b0 := x0.isLt
  have b1 := x1.isLt
  have b2 := x2.isLt
  have b3 := x3.isLt
  have hn : lit + x0.toNat * 2097152 + x1.toNat * 65536 + x2.toNat * 2048 + x3.toNat * 32 < 4294967296 := by generalize e0 : x0.toNat = m0 at *; generalize e1 : x1.toNat = m1 at *; generalize e2 : x2.toNat = m2 at *; generalize e3 : x3.toNat = m3 at *; subst hl; omega
  refine ⟨field_toNat hn ?_, field_toNat hn ?_, field_ofNat hn ?_, field_ofNat hn ?_, field_ofNat hn ?_, field_ofNat hn ?_, field_ofNat hn ?_⟩ <;>
    · (try simp only [BitVec.toNat_ofNat]); generalize e0 : x0.toNat = m0 at *; generalize e1 : x1.toNat = m1 at *; generalize e2 : x2.toNat = m2 at *; generalize e3 : x3.toNat = m3 at *; subst hl; clear hn; omega

theorem layout27 {lit c0 c1 : Nat} (x0 : BitVec 1) (x1 : BitVec 4)
    (hl : lit = c0 * 67108864 + c1) (g0 : c0 < 64) (g1 : c1 < 32) :
    ((BitVec.ofNat 32 (lit + x0.toNat * 512 + x1.toNat * 32)).extractLsb' 26 6).toNat = c0 ∧
    ((BitVec.ofNat 32 (lit + x0.toNat * 512 + x1.toNat * 32)).extractLsb' 0 5).toNat = c1 ∧
    (BitVec.ofNat 32 (lit + x0.toNat * 512 + x1.toNat * 32)).extractLsb' 9 1 = x0 ∧
    (BitVec.ofNat 32 (lit + x0.toNat * 512 + x1.toNat * 32)).extractLsb' 5 4 = x1 ∧
    (BitVec.ofNat 32 (lit + x0.toNat * 512 + x1.toNat * 32)).extractLsb' 10 16 = 0#16 := by
  have b0 := x0.isLt
  have b1 := x1.isLt
  have hn : lit + x0.toNat * 512 + x1.toNat * 32 < 4294967296 := by generalize e0 : x0.toNat = m0 at *; generalize e1 : x1.toNat = m1 at *; subst hl; omega
  refine ⟨field_toNat hn ?_, field_toNat hn ?_, field_ofNat hn ?_, field_ofNat hn ?_, field_ofNat hn ?_⟩ <;>
    · (try simp only [BitVec.toNat_ofNat]); generalize e0 : x0.toNat = m0 at *; generalize e1 : x1.toNat = m1 at *; subst hl; clear hn; omega

theorem layout28 {lit c0 c1 : Nat} (x0 : BitVec 5) (x1 : BitVec 4)
    (hl : lit = c0 * 67108864 + c1) (g0 : c0 < 64) (g1 : c1 < 32) :
    ((BitVec.ofNat 32 (lit + x0.toNat * 2097152 + x1.toNat * 32)).extractLsb' 26 6).toNat = c0 ∧
    ((BitVec.ofNat 32 (lit + x0.toNat * 2097152 + x1.toNat * 32)).extractLsb' 0 5).toNat = c1 ∧
    (BitVec.ofNat 32 (lit + x0.toNat * 2097152 + x1.toNat * 32)).extractLsb' 21 5 = x0 ∧
    (BitVec.ofNat 32 (lit + x0.toNat * 2097152 + x1.toNat * 32)).extractLsb' 5 4 = x1 ∧
    (BitVec.ofNat 32 (lit + x0.toNat * 2097152 + x1.toNat * 32)).extractLsb' 9 12 = 0#12 := by
  have b0 := x0.isLt
  have b1 := x1.isLt
  have hn : lit + x0.toNat * 2097152 + x1.toNat * 32 < 4294967296 := by generalize e0 : x0.toNat = m0 at *; generalize e1 : x1.toNat = m1 at *; subst hl; omega
  refine ⟨field_toNat hn ?_, field_toNat hn ?_, field_ofNat hn ?_, field_ofNat hn ?_, field_ofNat hn ?_⟩ <;>
    · (try simp only [BitVec.toNat_ofNat]); generalize e0 : x0.toNat = m0 at *; generalize e1 : x1.toNat = m1 at *; subst hl; clear hn; omega

theorem layout29 {lit c0 c1 : Nat} (x0 : BitVec 5) (x1 : BitVec 5)
    (hl : lit = c0 * 67108864 + c1) (g0 : c0 < 64) (g1 : c1 < 16) :
    ((BitVec.ofNat 32 (lit + x0.toNat * 2097152 + x1.toNat * 65536)).extractLsb' 26 6).toNat = c0 ∧
    ((BitVec.ofNat 32 (lit + x0.toNat * 2097152 + x1.toNat * 65536)).extractLsb' 0 4).toNat = c1 ∧
    (BitVec.ofNat 32 (lit + x0.toNat * 2097152 + x1.toNat * 65536)).extractLsb' 21 5 = x0 ∧
    (BitVec.ofNat 32 (lit + x0.toNat * 2097152 + x1.toNat * 65536)).extractLsb' 16 5 = x1 ∧
    (BitVec.ofNat 32 (lit + x0.toNat * 2097152 + x1.toNat * 65536)).extractLsb' 4 12 = 0#12 := by
  have b0 := x0.isLt
  have b1 := x1.isLt
  have hn : lit + x0.toNat * 2097152 + x1.toNat * 65536 < 4294967296 := by generalize e0 : x0.toNat = m0 at *; generalize e1 : x1.toNat = m1 at *; subst hl; omega
  refine ⟨field_toNat hn ?_, field_toNat hn ?_, field_ofNat hn ?_, field_ofNat hn ?_, field_ofNat hn ?_⟩ <;>
    · (try simp only [BitVec.toNat_ofNat]); generalize e0 : x0.toNat = m0 at *; generalize e1 : x1.toNat = m1 at *; subst hl; clear hn; omega

theorem layout30 {lit c0 c1 : Nat} (x0 : BitVec 5) (x1 : BitVec 5) (x2 : BitVec 3)
    (hl : lit = c0 * 67108864 + c1) (g0 : c0 < 64) (g1 : c1 < 16) :
    ((BitVec.ofNat 32 (lit + x0.toNat * 65536 + x1.toNat * 2048 + x2.toNat * 16)).extractLsb' 26 6).toNat = c0 ∧
    ((BitVec.ofNat 32 (lit + x0.toNat * 65536 + x1.toNat * 2048 + x2.toNat * 16)).extractLsb' 0 4).toNat = c1 ∧
    (BitVec.ofNat 32 (lit + x0.toNat * 65536 + x1.toNat * 2048 + x2.toNat * 16)).extractLsb' 16 5 = x0 ∧
    (BitVec.ofNat 32 (lit + x0.toNat * 65536 + x1.toNat * 2048 + x2.toNat * 16)).extractLsb' 11 5 = x1 ∧
    (BitVec.ofNat 32 (lit + x0.toNat * 65536 + x1.toNat * 2048 + x2.toNat * 16)).extractLsb' 4 3 = x2 ∧
    (BitVec.ofNat 32 (lit + x0.toNat * 65536 + x1.toNat * 2048 + x2.toNat * 16)).extractLsb' 7 4 = 0#4 ∧
    (BitVec.ofNat 32 (lit + x0.toNat * 65536 + x1.toNat * 2048 + x2.toNat * 16)).extractLsb' 21 5 = 0#5 := by
  have b0 := x0.isLt
  have b1 := x1.isLt
  have b2 := x2.isLt
  have hn : lit + x0.toNat * 65536 + x1.toNat * 2048 + x2.toNat * 16 < 4294967296 := by generalize e0 : x0.toNat = m0 at *; generalize e1 : x1.toNat = m1 at *; generalize e2 : x2.toNat = m2 at *; subst hl; omega
  refine ⟨field_toNat hn ?_, field_toNat hn ?_, field_ofNat hn ?_, field_ofNat hn ?_, field_ofNat hn ?_, field_ofNat hn ?_, field_ofNat hn ?_⟩ <;>
    · (try simp only [BitVec.toNat_ofNat]); generalize e0 : x0.toNat = m0 at *; generalize e1 : x1.toNat = m1 at *; generalize e2 : x2.toNat = m2 at *; subst hl; clear hn; omega

theorem layout31 {lit c0 c1 : Nat} (x0 : BitVec 5) (x1 : BitVec 5) (x2 : BitVec 5) (x3 : BitVec 2)
    (hl : lit = c0 * 67108864 + c1) (g0 : c0 < 64) (g1 : c1 < 16) :
    ((BitVec.ofNat 32 (lit + x0.toNat * 2097152 + x1.toNat * 65536 + x2.toNat * 2048 + x3.toNat * 16)).extractLsb' 26 6).toNat = c0 ∧
    ((BitVec.ofNat 32 (lit + x0.toNat * 2097152 + x1.toNat * 65536 + x2.toNat * 2048 + x3.toNat * 16)).extractLsb' 0 4).toNat = c1 ∧
    (BitVec.ofNat 32 (lit + x0.toNat * 2097152 + x1.toNat * 65536 + x2.toNat * 2048 + x3.toNat * 16)).extractLsb' 21 5 = x0 ∧
    (BitVec.ofNat 32 (lit + x0.toNat * 2097152 + x1.toNat * 65536 + x2.toNat * 2048 + x3.toNat * 16)).extractLsb' 16 5 = x1 ∧
    (BitVec.ofNat 32 (lit + x0.toNat * 2097152 + x1.toNat * 65536 + x2.toNat * 2048 + x3.toNat * 16)).extractLsb' 11 5 = x2 ∧
    (BitVec.ofNat 32 (lit + x0.toNat * 2097152 + x1.toNat * 65536 + x2.toNat * 2048 + x3.toNat * 16)).extractLsb' 4 2 = x3 ∧
    (BitVec.ofNat 32 (lit + x0.toNat * 2097152 + x1.toNat * 65536 + x2.toNat * 2048 + x3.toNat * 16)).extractLsb' 6 5 = 0#5 := by
  have b0 := x0.isLt
  have b1 := x1.isLt
  have b2 := x2.isLt
  have b3 := x3.isLt
  have hn : lit + x0.toNat * 2097152 + x1.toNat * 65536 + x2.toNat * 2048 + x3.toNat * 16 < 4294967296 := by generalize e0 : x0.toNat = m0 at *; generalize e1 : x1.toNat = m1 at *; generalize e2 : x2.toNat = m2 at *; generalize e3 : x3.toNat = m3 at *; subst hl; omega
  refine ⟨field_toNat hn ?_, field_toNat hn ?_, field_ofNat hn ?_, field_ofNat hn ?_, field_ofNat hn ?_, field_ofNat hn ?_, field_ofNat hn ?_⟩ <;>
    · (try simp only [BitVec.toNat_ofNat]); generalize e0 : x0.toNat = m0 at *; generalize e1 : x1.toNat = m1 at *; generalize e2 : x2.toNat = m2 at *; generalize e3 : x3.toNat = m3 at *; subst hl; clear hn; omega

theorem layout32 {lit c0 c1 : Nat} (x0 : BitVec 5)
    (hl : lit = c0 * 67108864 + c1) (g0 : c0 < 64) (g1 : c1 < 16) :
    ((BitVec.ofNat 32 (lit + x0.toNat * 2097152)).extractLsb' 26 6).toNat = c0 ∧
    ((BitVec.ofNat 32 (lit + x0.toNat * 2097152)).extractLsb' 0 4).toNat = c1 ∧
    (BitVec.ofNat 32 (lit + x0.toNat * 2097152)).extractLsb' 21 5 = x0 ∧
    (BitVec.ofNat 32 (lit + x0.toNat * 2097152)).extractLsb' 4 17 = 0#17 := by
  have b0 := x0.isLt
  have hn : lit + x0.toNat * 2097152 < 4294967296 := by generalize e0 : x0.toNat = m0 at *; subst hl; omega
  refine ⟨field_toNat hn ?_, field_toNat hn ?_, field_ofNat hn ?_, field_ofNat hn ?_⟩ <;>
    · (try simp only [BitVec.toNat_ofNat]); generalize e0 : x0.toNat = m0 at *; subst hl; clear hn; omega

theorem layout33 {lit c0 c1 : Nat} (x0 : BitVec 5) (x1 : BitVec 5)
    (hl : lit = c0 * 67108864 + c1) (g0 : c0 < 64) (g1 : c1 < 2048) :
    ((BitVec.ofNat 32 (lit + x0.toNat * 2097152 + x1.toNat * 2048)).extractLsb' 26 6).toNat = c0 ∧
    ((BitVec.ofNat 32 (lit + x0.toNat * 2097152 + x1.toNat * 2048)).extractLsb' 0 11).toNat = c1 ∧
    (BitVec.ofNat 32 (lit + x0.toNat * 2097152 + x1.toNat * 2048)).extractLsb' 21 5 = x0 ∧
    (BitVec.ofNat 32 (lit + x0.toNat * 2097152 + x1.toNat * 2048)).extractLsb' 11 5 = x1 ∧
    (BitVec.ofNat 32 (lit + x0.toNat * 2097152 + x1.toNat * 2048)).extractLsb' 16 5 = 0#5 := by
  have b0 := x0.isLt
  have b1 := x1.isLt
  have hn : lit + x0.toNat * 2097152 + x1.toNat * 2048 < 4294967296 := by generalize e0 : x0.toNat = m0 at *; generalize e1 : x1.toNat = m1 at *; subst hl; omega
  refine ⟨field_toNat hn ?_, field_toNat hn ?_, field_ofNat hn ?_, field_ofNat hn ?_, field_ofNat hn ?_⟩ <;>
    · (try simp only [BitVec.toNat_ofNat]); generalize e0 : x0.toNat = m0 at *; generalize e1 : x1.toNat = m1 at *; subst hl; clear hn; omega

theorem layout34 {lit c0 c1 : Nat} (x0 : BitVec 5) (x1 : BitVec 5) (x2 : BitVec 5) (x3 : BitVec 3) (x4 : BitVec 1) (x5 : BitVec 1)
    (hl : lit = c0 * 67108864 + c1) (g0 : c0 < 64) (g1 : c1 < 32) :
    ((BitVec.ofNat 32 (lit + x0.toNat * 2097152 + x1.toNat * 65536 + x2.toNat * 2048 + x3.toNat * 256 + x4.toNat * 64 + x5.toNat * 32)).extractLsb' 26 6).toNat = c0 ∧
    ((BitVec.ofNat 32 (lit + x0.toNat * 2097152 + x1.toNat * 65536 + x2.toNat * 2048 + x3.toNat * 256 + x4.toNat * 64 + x5.toNat * 32)).extractLsb' 0 5).toNat = c1 ∧
    (BitVec.ofNat 32 (lit + x0.toNat * 2097152 + x1.toNat * 65536 + x2.toNat * 2048 + x3.toNat * 256 + x4.toNat * 64 + x5.toNat * 32)).extractLsb' 21 5 = x0 ∧
    (BitVec.ofNat 32 (lit + x0.toNat * 2097152 + x1.toNat * 65536 + x2.toNat * 2048 + x3.toNat * 256 + x4.toNat * 64 + x5.toNat * 32)).extractLsb' 16 5 = x1 ∧
    (BitVec.ofNat 32 (lit + x0.toNat * 2097152 + x1.toNat * 65536 + x2.toNat * 2048 + x3.toNat * 256 + x4.toNat * 64 + x5.toNat * 32)).extractLsb' 11 5 = x2 ∧
    (BitVec.ofNat 32 (lit + x0.toNat * 2097152 + x1.toNat * 65536 + x2.toNat * 2048 + x3.toNat * 256 + x4.toNat * 64 + x5.toNat * 32)).extractLsb' 8 3 = x3 ∧
    (BitVec.ofNat 32 (lit + x0.toNat * 2097152 + x1.toNat * 65536 + x2.toNat * 2048 + x3.toNat * 256 + x4.toNat * 64 + x5.toNat * 32)).extractLsb' 6 1 = x4 ∧
    (BitVec.ofNat 32 (lit + x0.toNat * 2097152 + x1.toNat * 65536 + x2.toNat * 2048 + x3.toNat * 256 + x4.toNat * 64 + x5.toNat * 32)).extractLsb' 5 1 = x5 ∧
    (BitVec.ofNat 32 (lit + x0.toNat * 2097152 + x1.toNat * 65536 + x2.toNat * 2048 + x3.toNat * 256 + x4.toNat * 64 + x5.toNat * 32)).extractLsb' 7 1 = 0#1 := by
  have b0 := x0.isLt
  have b1 := x1.isLt
  have b2 := x2.isLt
  have b3 := x3.isLt
  have b4 := x4.isLt
  have b5 := x5.isLt
  have hn : lit + x0.toNat * 2097152 + x1.toNat * 65536 + x2.toNat * 2048 + x3.toNat * 256 + x4.toNat * 64 + x5.toNat * 32 < 4294967296 := by generalize e0 : x0.toNat = m0 at *; generalize e1 : x1.toNat = m1 at *; generalize e2 : x2.toNat = m2 at *; generalize e3 : x3.toNat = m3 at *; generalize e4 : x4.toNat = m4 at *; generalize e5 : x5.toNat = m5 at *; subst hl; omega
  refine ⟨field_toNat hn ?_, field_toNat hn ?_, field_ofNat hn ?_, field_ofNat hn ?_, field_ofNat hn ?_, field_ofNat hn ?_, field_ofNat hn ?_, field_ofNat hn ?_, field_ofNat hn ?_⟩ <;>
    · (try simp only [BitVec.toNat_ofNat]); generalize e0 : x0.toNat = m0 at *; generalize e1 : x1.toNat = m1 at *; generalize e2 : x2.toNat = m2 at *; generalize e3 : x3.toNat = m3 at *; generalize e4 : x4.toNat = m4 at *; generalize e5 : x5.toNat = m5 at *; subst hl; clear hn; omega

theorem layout35 {lit c0 c1 : Nat} (x0 : BitVec 5) (x1 : BitVec 5) (x2 : BitVec 3) (x3 : BitVec 1) (x4 : BitVec 1)
    (hl : lit = c0 * 67108864 + c1) (g0 : c0 < 64) (g1 : c1 < 32) :
    ((BitVec.ofNat 32 (lit + x0.toNat * 2097152 + x1.toNat * 2048 + x2.toNat * 256 + x3.toNat * 64 + x4.toNat * 32)).extractLsb' 26 6).toNat = c0 ∧
    ((BitVec.ofNat 32 (lit + x0.toNat * 2097152 + x1.toNat * 2048 + x2.toNat * 256 + x3.toNat * 64 + x4.toNat * 32)).extractLsb' 0 5).toNat = c1 ∧
    (BitVec.ofNat 32 (lit + x0.toNat * 2097152 + x1.toNat * 2048 + x2.toNat * 256 + x3.toNat * 64 + x4.toNat * 32)).extractLsb' 21 5 = x0 ∧
    (BitVec.ofNat 32 (lit + x0.toNat * 2097152 + x1.toNat * 2048 + x2.toNat * 256 + x3.toNat * 64 + x4.toNat * 32)).extractLsb' 11 5 = x1 ∧
    (BitVec.ofNat 32 (lit + x0.toNat * 2097152 + x1.toNat * 2048 + x2.toNat * 256 + x3.toNat * 64 + x4.toNat * 32)).extractLsb' 8 3 = x2 ∧
    (BitVec.ofNat 32 (lit + x0.toNat * 2097152 + x1.toNat * 2048 + x2.toNat * 256 + x3.toNat * 64 + x4.toNat * 32)).extractLsb' 6 1 = x3 ∧
    (BitVec.ofNat 32 (lit + x0.toNat * 2097152 + x1.toNat * 2048 + x2.toNat * 256 + x3.toNat * 64 + x4.toNat * 32)).extractLsb' 5 1 = x4 ∧
    (BitVec.ofNat 32 (lit + x0.toNat * 2097152 + x1.toNat * 2048 + x2.toNat * 256 + x3.toNat * 64 + x4.toNat * 32)).extractLsb' 7 1 = 0#1 ∧
    (BitVec.ofNat 32 (lit + x0.toNat * 2097152 + x1.toNat * 2048 + x2.toNat * 256 + x3.toNat * 64 + x4.toNat * 32)).extractLsb' 16 5 = 0#5 := by
  have b0 := x0.isLt
  have b1 := x1.isLt
  have b2 := x2.isLt
  have b3 := x3.isLt
  have b4 := x4.isLt
  have hn : lit + x0.toNat * 2097152 + x1.toNat * 2048 + x2.toNat * 256 + x3.toNat * 64 + x4.toNat * 32 < 4294967296 := by generalize e0 : x0.toNat = m0 at *; generalize e1 : x1.toNat = m1 at *; generalize e2 : x2.toNat = m2 at *; generalize e3 : x3.toNat = m3 at *; generalize e4 : x4.toNat = m4 at *; subst hl; omega
  refine ⟨field_toNat hn ?_, field_toNat hn ?_, field_ofNat hn ?_, field_ofNat hn ?_, field_ofNat hn ?_, field_ofNat hn ?_, field_ofNat hn ?_, field_ofNat hn ?_, field_ofNat hn ?_⟩ <;>
    · (try simp only [BitVec.toNat_ofNat]); generalize e0 : x0.toNat = m0 at *; generalize e1 : x1.toNat = m1 at *; generalize e2 : x2.toNat = m2 at *; generalize e3 : x3.toNat = m3 at *; generalize e4 : x4.toNat = m4 at *; subst hl; clear hn; omega

theorem layout36 {lit c0 c1 : Nat} (x0 : BitVec 5) (x1 : BitVec 5) (x2 : BitVec 5) (x3 : BitVec 3) (x4 : BitVec 1) (x5 : BitVec 1) (x6 : BitVec 1)
    (hl : lit = c0 * 67108864 + c1) (g0 : c0 < 64) (g1 : c1 < 32) :
    ((BitVec.ofNat 32 (lit + x0.toNat * 2097152 + x1.toNat * 65536 + x2.toNat * 2048 + x3.toNat * 256 + x4.toNat * 128 + x5.toNat * 64 + x6.toNat * 32)).extractLsb' 26 6).toNat = c0 ∧
    ((BitVec.ofNat 32 (lit + x0.toNat * 2097152 + x1.toNat * 65536 + x2.toNat * 2048 + x3.toNat * 256 + x4.toNat * 128 + x5.toNat * 64 + x6.toNat * 32)).extractLsb' 0 5).toNat = c1 ∧
    (BitVec.ofNat 32 (lit + x0.toNat * 2097152 + x1.toNat * 65536 + x2.toNat * 2048 + x3.toNat * 256 + x4.toNat * 128 + x5.toNat * 64 + x6.toNat * 32)).extractLsb' 21 5 = x0 ∧
    (BitVec.ofNat 32 (lit + x0.toNat * 2097152 + x1.toNat * 65536 + x2.toNat * 2048 + x3.toNat * 256 + x4.toNat * 128 + x5.toNat * 64 + x6.toNat * 32)).extractLsb' 16 5 = x1 ∧
    (BitVec.ofNat 32 (lit + x0.toNat * 2097152 + x1.toNat * 65536 + x2.toNat * 2048 + x3.toNat * 256 + x4.toNat * 128 + x5.toNat * 64 + x6.toNat * 32)).extractLsb' 11 5 = x2 ∧
    (BitVec.ofNat 32 (lit + x0.toNat * 2097152 + x1.toNat * 65536 + x2.toNat * 2048 + x3.toNat * 256 + x4.toNat * 128 + x5.toNat * 64 + x6.toNat * 32)).extractLsb' 8 3 = x3 ∧
    (BitVec.ofNat 32 (lit + x0.toNat * 2097152 + x1.toNat * 65536 + x2.toNat * 2048 + x3.toNat * 256 + x4.toNat * 128 + x5.toNat * 64 + x6.toNat * 32)).extractLsb' 7 1 = x4 ∧
    (BitVec.ofNat 32 (lit + x0.toNat * 2097152 + x1.toNat * 65536 + x2.toNat * 2048 + x3.toNat * 256 + x4.toNat * 128 + x5.toNat * 64 + x6.toNat * 32)).extractLsb' 6 1 = x5 ∧
    (BitVec.ofNat 32 (lit + x0.toNat * 2097152 + x1.toNat * 65536 + x2.toNat * 2048 + x3.toNat * 256 + x4.toNat * 128 + x5.toNat * 64 + x6.toNat * 32)).extractLsb' 5 1 = x6 := by
  have b0 := x0.isLt
  have b1 := x1.isLt
  have b2 := x2.isLt
  have b3 := x3.isLt
  have b4 := x4.isLt
  have b5 := x5.isLt
  have b6 := x6.isLt
  have hn : lit + x0.toNat * 2097152 + x1.toNat * 65536 + x2.toNat * 2048 + x3.toNat * 256 + x4.toNat * 128 + x5.toNat * 64 + x6.toNat * 32 < 4294967296 := by generalize e0 : x0.toNat = m0 at *; generalize e1 : x1.toNat = m1 at *; generalize e2 : x2.toNat = m2 at *; generalize e3 : x3.toNat = m3 at *; generalize e4 : x4.toNat = m4 at *; generalize e5 : x5.toNat = m5 at *; generalize e6 : x6.toNat = m6 at *; subst hl; omega
  refine ⟨field_toNat hn ?_, field_toNat hn ?_, field_ofNat hn ?_, field_ofNat hn ?_, field_ofNat hn ?_, field_ofNat hn ?_, field_ofNat hn ?_, field_ofNat hn ?_, field_ofNat hn ?_⟩ <;>
    · (try simp only [BitVec.toNat_ofNat]); generalize e0 : x0.toNat = m0 at *; generalize e1 : x1.toNat = m1 at *; generalize e2 : x2.toNat = m2 at *; generalize e3 : x3.toNat = m3 at *; generalize e4 : x4.toNat = m4 at *; generalize e5 : x5.toNat = m5 at *; generalize e6 : x6.toNat = m6 at *; subst hl; clear hn; omega

theorem layout37 {lit c0 c1 : Nat} (x0 : BitVec 5) (x1 : BitVec 5) (x2 : BitVec 3) (x3 : BitVec 1) (x4 : BitVec 1)
    (hl : lit = c0 * 67108864 + c1) (g0 : c0 < 64) (g1 : c1 < 32) :
    ((BitVec.ofNat 32 (lit + x0.toNat * 2097152 + x1.toNat * 65536 + x2.toNat * 256 + x3.toNat * 128 + x4.toNat * 64)).extractLsb' 26 6).toNat = c0 ∧
    ((BitVec.ofNat 32 (lit + x0.toNat * 2097152 + x1.toNat * 65536 + x2.toNat * 256 + x3.toNat * 128 + x4.toNat * 64)).extractLsb' 0 5).toNat = c1 ∧
    (BitVec.ofNat 32 (lit + x0.toNat * 2097152 + x1.toNat * 65536 + x2.toNat * 256 + x3.toNat * 128 + x4.toNat * 64)).extractLsb' 21 5 = x0 ∧
    (BitVec.ofNat 32 (lit + x0.toNat * 2097152 + x1.toNat * 65536 + x2.toNat * 256 + x3.toNat * 128 + x4.toNat * 64)).extractLsb' 16 5 = x1 ∧
    (BitVec.ofNat 32 (lit + x0.toNat * 2097152 + x1.toNat * 65536 + x2.toNat * 256 + x3.toNat * 128 + x4.toNat * 64)).extractLsb' 8 3 = x2 ∧
    (BitVec.ofNat 32 (lit + x0.toNat * 2097152 + x1.toNat * 65536 + x2.toNat * 256 + x3.toNat * 128 + x4.toNat * 64)).extractLsb' 7 1 = x3 ∧
    (BitVec.ofNat 32 (lit + x0.toNat * 2097152 + x1.toNat * 65536 + x2.toNat * 256 + x3.toNat * 128 + x4.toNat * 64)).extractLsb' 6 1 = x4 ∧
    (BitVec.ofNat 32 (lit + x0.toNat * 2097152 + x1.toNat * 65536 + x2.toNat * 256 + x3.toNat * 128 + x4.toNat * 64)).extractLsb' 5 1 = 0#1 ∧
    (BitVec.ofNat 32 (lit + x0.toNat * 2097152 + x1.toNat * 65536 + x2.toNat * 256 + x3.toNat * 128 + x4.toNat * 64)).extractLsb' 11 5 = 0#5 := by
  have b0 := x0.isLt
  have b1 := x1.isLt
  have b2 := x2.isLt
  have b3 := x3.isLt
  have b4 := x4.isLt
  have hn : lit + x0.toNat * 2097152 + x1.toNat * 65536 + x2.toNat * 256 + x3.toNat * 128 + x4.toNat * 64 < 4294967296 := by generalize e0 : x0.toNat = m0 at *; generalize e1 : x1.toNat = m1 at *; generalize e2 : x2.toNat = m2 at *; generalize e3 : x3.toNat = m3 at *; generalize e4 : x4.toNat = m4 at *; subst hl; omega
  refine ⟨field_toNat hn ?_, field_toNat hn ?_, field_ofNat hn ?_, field_ofNat hn ?_, field_ofNat hn ?_, field_ofNat hn ?_, field_ofNat hn ?_, field_ofNat hn ?_, field_ofNat hn ?_⟩ <;>
    · (try simp only [BitVec.toNat_ofNat]); generalize e0 : x0.toNat = m0 at *; generalize e1 : x1.toNat = m1 at *; generalize e2 : x2.toNat = m2 at *; generalize e3 : x3.toNat = m3 at *; generalize e4 : x4.toNat = m4 at *; subst hl; clear hn; omega

theorem layout38 {lit c0 c1 c2 : Nat} (x0 : BitVec 5) (x1 : BitVec 5) (x2 : BitVec 3) (x3 : BitVec 1) (x4 : BitVec 1)
    (hl : lit = c0 * 67108864 + c1 + c2 * 2048) (g0 : c0 < 64) (g1 : c1 < 32) (g2 : c2 < 32) :
    ((BitVec.ofNat 32 (lit + x0.toNat * 2097152 + x1.toNat * 65536 + x2.toNat * 256 + x3.toNat * 128 + x4.toNat * 64)).extractLsb' 26 6).toNat = c0 ∧
    ((BitVec.ofNat 32 (lit + x0.toNat * 2097152 + x1.toNat * 65536 + x2.toNat * 256 + x3.toNat * 128 + x4.toNat * 64)).extractLsb' 0 5).toNat = c1 ∧
    ((BitVec.ofNat 32 (lit + x0.toNat * 2097152 + x1.toNat * 65536 + x2.toNat * 256 + x3.toNat * 128 + x4.toNat * 64)).extractLsb' 11 5).toNat = c2 ∧
    (BitVec.ofNat 32 (lit + x0.toNat * 2097152 + x1.toNat * 65536 + x2.toNat * 256 + x3.toNat * 128 + x4.toNat * 64)).extractLsb' 21 5 = x0 ∧
    (BitVec.ofNat 32 (lit + x0.toNat * 2097152 + x1.toNat * 65536 + x2.toNat * 256 + x3.toNat * 128 + x4.toNat * 64)).extractLsb' 16 5 = x1 ∧
    (BitVec.ofNat 32 (lit + x0.toNat * 2097152 + x1.toNat * 65536 + x2.toNat * 256 + x3.toNat * 128 + x4.toNat * 64)).extractLsb' 8 3 = x2 ∧
    (BitVec.ofNat 32 (lit + x0.toNat * 2097152 + x1.toNat * 65536 + x2.toNat * 256 + x3.toNat * 128 + x4.toNat * 64)).extractLsb' 7 1 = x3 ∧
    (BitVec.ofNat 32 (lit + x0.toNat * 2097152 + x1.toNat * 65536 + x2.toNat * 256 + x3.toNat * 128 + x4.toNat * 64)).extractLsb' 6 1 = x4 ∧
    (BitVec.ofNat 32 (lit + x0.toNat * 2097152 + x1.toNat * 65536 + x2.toNat * 256 + x3.toNat * 128 + x4.toNat * 64)).extractLsb' 5 1 = 0#1 := by
  have b0 := x0.isLt
  have b1 := x1.isLt
  have b2 := x2.isLt
  have b3 := x3.isLt
  have b4 := x4.isLt
  have hn : lit + x0.toNat * 2097152 + x1.toNat * 65536 + x2.toNat * 256 + x3.toNat * 128 + x4.toNat * 64 < 4294967296 := by generalize e0 : x0.toNat = m0 at *; generalize e1 : x1.toNat = m1 at *; generalize e2 : x2.toNat = m2 at *; generalize e3 : x3.toNat = m3 at *; generalize e4 : x4.toNat = m4 at *; subst hl; omega
  refine ⟨field_toNat hn ?_, field_toNat hn ?_, field_toNat hn ?_, field_ofNat hn ?_, field_ofNat hn ?_, field_ofNat hn ?_, field_ofNat hn ?_, field_ofNat hn ?_, field_ofNat hn ?_⟩ <;>
    · (try simp only [BitVec.toNat_ofNat]); generalize e0 : x0.toNat = m0 at *; generalize e1 : x1.toNat = m1 at *; generalize e2 : x2.toNat = m2 at *; generalize e3 : x3.toNat = m3 at *; generalize e4 : x4.toNat = m4 at *; subst hl; clear hn; omega

theorem layout39 {lit c0 c1 : Nat} (x0 : BitVec 5) (x1 : BitVec 5) (x2 : BitVec 3) (x3 : BitVec 1)
    (hl : lit = c0 * 67108864 + c1) (g0 : c0 < 64) (g1 : c1 < 32) :
    ((BitVec.ofNat 32 (lit + x0.toNat * 2097152 + x1.toNat * 65536 + x2.toNat * 256 + x3.toNat * 64)).extractLsb' 26 6).toNat = c0 ∧
    ((BitVec.ofNat 32 (lit + x0.toNat * 2097152 + x1.toNat * 65536 + x2.toNat * 256 + x3.toNat * 64)).extractLsb' 0 5).toNat = c1 ∧
    (BitVec.ofNat 32 (lit + x0.toNat * 2097152 + x1.toNat * 65536 + x2.toNat * 256 + x3.toNat * 64)).extractLsb' 21 5 = x0 ∧
    (BitVec.ofNat 32 (lit + x0.toNat * 2097152 + x1.toNat * 65536 + x2.toNat * 256 + x3.toNat * 64)).extractLsb' 16 5 = x1 ∧
    (BitVec.ofNat 32 (lit + x0.toNat * 2097152 + x1.toNat * 65536 + x2.toNat * 256 + x3.toNat * 64)).extractLsb' 8 3 = x2 ∧
    (BitVec.ofNat 32 (lit + x0.toNat * 2097152 + x1.toNat * 65536 + x2.toNat * 256 + x3.toNat * 64)).extractLsb' 6 1 = x3 ∧
    (BitVec.ofNat 32 (lit + x0.toNat * 2097152 + x1.toNat * 65536 + x2.toNat * 256 + x3.toNat * 64)).extractLsb' 5 1 = 0#1 ∧
    (BitVec.ofNat 32 (lit + x0.toNat * 2097152 + x1.toNat * 65536 + x2.toNat * 256 + x3.toNat * 64)).extractLsb' 7 1 = 0#1 ∧
    (BitVec.ofNat 32 (lit + x0.toNat * 2097152 + x1.toNat * 65536 + x2.toNat * 256 + x3.toNat * 64)).extractLsb' 11 5 = 0#5 := by
  have b0 := x0.isLt
  have b1 := x1.isLt
  have b2 := x2.isLt
  have b3 := x3.isLt
  have hn : lit + x0.toNat * 2097152 + x1.toNat * 65536 + x2.toNat * 256 + x3.toNat * 64 < 4294967296 := by generalize e0 : x0.toNat = m0 at *; generalize e1 : x1.toNat = m1 at *; generalize e2 : x2.toNat = m2 at *; generalize e3 : x3.toNat = m3 at *; subst hl; omega
  refine ⟨field_toNat hn ?_, field_toNat hn ?_, field_ofNat hn ?_, field_ofNat hn ?_, field_ofNat hn ?_, field_ofNat hn ?_, field_ofNat hn ?_, field_ofNat hn ?_, field_ofNat hn ?_⟩ <;>
    · (try simp only [BitVec.toNat_ofNat]); generalize e0 : x0.toNat = m0 at *; generalize e1 : x1.toNat = m1 at *; generalize e2 : x2.toNat = m2 at *; generalize e3 : x3.toNat = m3 at *; subst hl; clear hn; omega

theorem layout40 {lit c0 c1 : Nat} (x0 : BitVec 5) (x1 : BitVec 5) (x2 : BitVec 3)
    (hl : lit = c0 * 67108864 + c1) (g0 : c0 < 64) (g1 : c1 < 32) :
    ((BitVec.ofNat 32 (lit + x0.toNat * 2097152 + x1.toNat * 65536 + x2.toNat * 256)).extractLsb' 26 6).toNat = c0 ∧
    ((BitVec.ofNat 32 (lit + x0.toNat * 2097152 + x1.toNat * 65536 + x2.toNat * 256)).extractLsb' 0 5).toNat = c1 ∧
    (BitVec.ofNat 32 (lit + x0.toNat * 2097152 + x1.toNat * 65536 + x2.toNat * 256)).extractLsb' 21 5 = x0 ∧
    (BitVec.ofNat 32 (lit + x0.toNat * 2097152 + x1.toNat * 65536 + x2.toNat * 256)).extractLsb' 16 5 = x1 ∧
    (BitVec.ofNat 32 (lit + x0.toNat * 2097152 + x1.toNat * 65536 + x2.toNat * 256)).extractLsb' 8 3 = x2 ∧
    (BitVec.ofNat 32 (lit + x0.toNat * 2097152 + x1.toNat * 65536 + x2.toNat * 256)).extractLsb' 5 3 = 0#3 ∧
    (BitVec.ofNat 32 (lit + x0.toNat * 2097152 + x1.toNat * 65536 + x2.toNat * 256)).extractLsb' 11 5 = 0#5 := by
  have b0 := x0.isLt
  have b1 := x1.isLt
  have b2 := x2.isLt
  have hn : lit + x0.toNat * 2097152 + x1.toNat * 65536 + x2.toNat * 256 < 4294967296 := by generalize e0 : x0.toNat = m0 at *; generalize e1 : x1.toNat = m1 at *; generalize e2 : x2.toNat = m2 at *; subst hl; omega
  refine ⟨field_toNat hn ?_, field_toNat hn ?_, field_ofNat hn ?_, field_ofNat hn ?_, field_ofNat hn ?_, field_ofNat hn ?_, field_ofNat hn ?_⟩ <;>
    · (try simp only [BitVec.toNat_ofNat]); generalize e0 : x0.toNat = m0 at *; generalize e1 : x1.toNat = m1 at *; generalize e2 : x2.toNat = m2 at *; subst hl; clear hn; omega

theorem layout41 {lit c0 c1 : Nat} (x0 : BitVec 5) (x1 : BitVec 3)
    (hl : lit = c0 * 67108864 + c1) (g0 : c0 < 64) (g1 : c1 < 32) :
    ((BitVec.ofNat 32 (lit + x0.toNat * 2097152 + x1.toNat * 256)).extractLsb' 26 6).toNat = c0 ∧
    ((BitVec.ofNat 32 (lit + x0.toNat * 2097152 + x1.toNat * 256)).extractLsb' 0 5).toNat = c1 ∧
    (BitVec.ofNat 32 (lit + x0.toNat * 2097152 + x1.toNat * 256)).extractLsb' 21 5 = x0 ∧
    (BitVec.ofNat 32 (lit + x0.toNat * 2097152 + x1.toNat * 256)).extractLsb' 8 3 = x1 ∧
    (BitVec.ofNat 32 (lit + x0.toNat * 2097152 + x1.toNat * 256)).extractLsb' 5 3 = 0#3 ∧
    (BitVec.ofNat 32 (lit + x0.toNat * 2097152 + x1.toNat * 256)).extractLsb' 11 10 = 0#10 := by
  have b0 := x0.isLt
  have b1 := x1.isLt
  have hn : lit + x0.toNat * 2097152 + x1.toNat * 256 < 4294967296 := by generalize e0 : x0.toNat = m0 at *; generalize e1 : x1.toNat = m1 at *; subst hl; omega
  refine ⟨field_toNat hn ?_, field_toNat hn ?_, field_ofNat hn ?_, field_ofNat hn ?_, field_ofNat hn ?_, field_ofNat hn ?_⟩ <;>
    · (try simp only [BitVec.toNat_ofNat]); generalize e0 : x0.toNat = m0 at *; generalize e1 : x1.toNat = m1 at *; subst hl; clear hn; omega

theorem layout42 {lit c0 c1 : Nat} (x0 : BitVec 5) (x1 : BitVec 5) (x2 : BitVec 5) (x3 : BitVec 1) (x4 : BitVec 1)
    (hl : lit = c0 * 67108864 + c1) (g0 : c0 < 64) (g1 : c1 < 32) :
    ((BitVec.ofNat 32 (lit + x0.toNat * 2097152 + x1.toNat * 65536 + x2.toNat * 2048 + x3.toNat * 64 + x4.toNat * 32)).extractLsb' 26 6).toNat = c0 ∧
    ((BitVec.ofNat 32 (lit + x0.toNat * 2097152 + x1.toNat * 65536 + x2.toNat * 2048 + x3.toNat * 64 + x4.toNat * 32)).extractLsb' 0 5).toNat = c1 ∧
    (BitVec.ofNat 32 (lit + x0.toNat * 2097152 + x1.toNat * 65536 + x2.toNat * 2048 + x3.toNat * 64 + x4.toNat * 32)).extractLsb' 21 5 = x0 ∧
    (BitVec.ofNat 32 (lit + x0.toNat * 2097152 + x1.toNat * 65536 + x2.toNat * 2048 + x3.toNat * 64 + x4.toNat * 32)).extractLsb' 16 5 = x1 ∧
    (BitVec.ofNat 32 (lit + x0.toNat * 2097152 + x1.toNat * 65536 + x2.toNat * 2048 + x3.toNat * 64 + x4.toNat * 32)).extractLsb' 11 5 = x2 ∧
    (BitVec.ofNat 32 (lit + x0.toNat * 2097152 + x1.toNat * 65536 + x2.toNat * 2048 + x3.toNat * 64 + x4.toNat * 32)).extractLsb' 6 1 = x3 ∧
    (BitVec.ofNat 32 (lit + x0.toNat * 2097152 + x1.toNat * 65536 + x2.toNat * 2048 + x3.toNat * 64 + x4.toNat * 32)).extractLsb' 5 1 = x4 ∧
    (BitVec.ofNat 32 (lit + x0.toNat * 2097152 + x1.toNat * 65536 + x2.toNat * 2048 + x3.toNat * 64 + x4.toNat * 32)).extractLsb' 7 4 = 0#4 := by
  have b0 := x0.isLt
  have b1 := x1.isLt
  have b2 := x2.isLt
  have b3 := x3.isLt
  have b4 := x4.isLt
  have hn : lit + x0.toNat * 2097152 + x1.toNat * 65536 + x2.toNat * 2048 + x3.toNat * 64 + x4.toNat * 32 < 4294967296 := by generalize e0 : x0.toNat = m0 at *; generalize e1 : x1.toNat = m1 at *; generalize e2 : x2.toNat = m2 at *; generalize e3 : x3.toNat = m3 at *; generalize e4 : x4.toNat = m4 at *; subst hl; omega
  refine ⟨field_toNat hn ?_, field_toNat hn ?_, field_ofNat hn ?_, field_ofNat hn ?_, field_ofNat hn ?_, field_ofNat hn ?_, field_ofNat hn ?_, field_ofNat hn ?_⟩ <;>
    · (try simp only [BitVec.toNat_ofNat]); generalize e0 : x0.toNat = m0 at *; generalize e1 : x1.toNat = m1 at *; generalize e2 : x2.toNat = m2 at *; generalize e3 : x3.toNat = m3 at *; generalize e4 : x4.toNat = m4 at *; subst hl; clear hn; omega

theorem layout43 {lit c0 c1 : Nat} (x0 : BitVec 5) (x1 : BitVec 5) (x2 : BitVec 5)
    (hl : lit = c0 * 67108864 + c1) (g0 : c0 < 64) (g1 : c1 < 32) :
    ((BitVec.ofNat 32 (lit + x0.toNat * 2097152 + x1.toNat * 65536 + x2.toNat * 2048)).extractLsb' 26 6).toNat = c0 ∧
    ((BitVec.ofNat 32 (lit + x0.toNat * 2097152 + x1.toNat * 65536 + x2.toNat * 2048)).extractLsb' 0 5).toNat = c1 ∧
    (BitVec.ofNat 32 (lit + x0.toNat * 2097152 + x1.toNat * 65536 + x2.toNat * 2048)).extractLsb' 21 5 = x0 ∧
    (BitVec.ofNat 32 (lit + x0.toNat * 2097152 + x1.toNat * 65536 + x2.toNat * 2048)).extractLsb' 16 5 = x1 ∧
    (BitVec.ofNat 32 (lit + x0.toNat * 2097152 + x1.toNat * 65536 + x2.toNat * 2048)).extractLsb' 11 5 = x2 ∧
    (BitVec.ofNat 32 (lit + x0.toNat * 2097152 + x1.toNat * 65536 + x2.toNat * 2048)).extractLsb' 5 6 = 0#6 := by
  have b0 := x0.isLt
  have b1 := x1.isLt
  have b2 := x2.isLt
  have hn : lit + x0.toNat * 2097152 + x1.toNat * 65536 + x2.toNat * 2048 < 4294967296 := by generalize e0 : x0.toNat = m0 at *; generalize e1 : x1.toNat = m1 at *; generalize e2 : x2.toNat = m2 at *; subst hl; omega
  refine ⟨field_toNat hn ?_, field_toNat hn ?_, field_ofNat hn ?_, field_ofNat hn ?_, field_ofNat hn ?_, field_ofNat hn ?_⟩ <;>
    · (try simp only [BitVec.toNat_ofNat]); generalize e0 : x0.toNat = m0 at *; generalize e1 : x1.toNat = m1 at *; generalize e2 : x2.toNat = m2 at *; subst hl; clear hn; omega

theorem layout44 {lit c0 c1 : Nat} (x0 : BitVec 5) (x1 : BitVec 5) (x2 : BitVec 1)
    (hl : lit = c0 * 67108864 + c1) (g0 : c0 < 64) (g1 : c1 < 32) :
    ((BitVec.ofNat 32 (lit + x0.toNat * 2097152 + x1.toNat * 65536 + x2.toNat * 64)).extractLsb' 26 6).toNat = c0 ∧
    ((BitVec.ofNat 32 (lit + x0.toNat * 2097152 + x1.toNat * 65536 + x2.toNat * 64)).extractLsb' 0 5).toNat = c1 ∧
    (BitVec.ofNat 32 (lit + x0.toNat * 2097152 + x1.toNat * 65536 + x2.toNat * 64)).extractLsb' 21 5 = x0 ∧
    (BitVec.ofNat 32 (lit + x0.toNat * 2097152 + x1.toNat * 65536 + x2.toNat * 64)).extractLsb' 16 5 = x1 ∧
    (BitVec.ofNat 32 (lit + x0.toNat * 2097152 + x1.toNat * 65536 + x2.toNat * 64)).extractLsb' 6 1 = x2 ∧
    (BitVec.ofNat 32 (lit + x0.toNat * 2097152 + x1.toNat * 65536 + x2.toNat * 64)).extractLsb' 5 1 = 0#1 ∧
    (BitVec.ofNat 32 (lit + x0.toNat * 2097152 + x1.toNat * 65536 + x2.toNat * 64)).extractLsb' 7 9 = 0#9 := by
  have b0 := x0.isLt
  have b1 := x1.isLt
  have b2 := x2.isLt
  have hn : lit + x0.toNat * 2097152 + x1.toNat * 65536 + x2.toNat * 64 < 4294967296 := by generalize e0 : x0.toNat = m0 at *; generalize e1 : x1.toNat = m1 at *; generalize e2 : x2.toNat = m2 at *; subst hl; omega
  refine ⟨field_toNat hn ?_, field_toNat hn ?_, field_ofNat hn ?_, field_ofNat hn ?_, field_ofNat hn ?_, field_ofNat hn ?_, field_ofNat hn ?_⟩ <;>
    · (try simp only [BitVec.toNat_ofNat]); generalize e0 : x0.toNat = m0 at *; generalize e1 : x1.toNat = m1 at *; generalize e2 : x2.toNat = m2 at *; subst hl; clear hn; omega

theorem layout45 {lit c0 c1 : Nat} (x0 : BitVec 5) (x1 : BitVec 5) (x2 : BitVec 5) (x3 : BitVec 1)
    (hl : lit = c0 * 67108864 + c1) (g0 : c0 < 64) (g1 : c1 < 32) :
    ((BitVec.ofNat 32 (lit + x0.toNat * 2097152 + x1.toNat * 65536 + x2.toNat * 2048 + x3.toNat * 32)).extractLsb' 26 6).toNat = c0 ∧
    ((BitVec.ofNat 32 (lit + x0.toNat * 2097152 + x1.toNat * 65536 + x2.toNat * 2048 + x3.toNat * 32)).extractLsb' 0 5).toNat = c1 ∧
    (BitVec.ofNat 32 (lit + x0.toNat * 2097152 + x1.toNat * 65536 + x2.toNat * 2048 + x3.toNat * 32)).extractLsb' 21 5 = x0 ∧
    (BitVec.ofNat 32 (lit + x0.toNat * 2097152 + x1.toNat * 65536 + x2.toNat * 2048 + x3.toNat * 32)).extractLsb' 16 5 = x1 ∧
    (BitVec.ofNat 32 (lit + x0.toNat * 2097152 + x1.toNat * 65536 + x2.toNat * 2048 + x3.toNat * 32)).extractLsb' 11 5 = x2 ∧
    (BitVec.ofNat 32 (lit + x0.toNat * 2097152 + x1.toNat * 65536 + x2.toNat * 2048 + x3.toNat * 32)).extractLsb' 5 1 = x3 ∧
    (BitVec.ofNat 32 (lit + x0.toNat * 2097152 + x1.toNat * 65536 + x2.toNat * 2048 + x3.toNat * 32)).extractLsb' 6 5 = 0#5 := by
  have b0 := x0.isLt
  have b1 := x1.isLt
  have b2 := x2.isLt
  have b3 := x3.isLt
  have hn : lit + x0.toNat * 2097152 + x1.toNat * 65536 + x2.toNat * 2048 + x3.toNat * 32 < 4294967296 := by generalize e0 : x0.toNat = m0 at *; generalize e1 : x1.toNat = m1 at *; generalize e2 : x2.toNat = m2 at *; generalize e3 : x3.toNat = m3 at *; subst hl; omega
  refine ⟨field_toNat hn ?_, field_toNat hn ?_, field_ofNat hn ?_, field_ofNat hn ?_, field_ofNat hn ?_, field_ofNat hn ?_, field_ofNat hn ?_⟩ <;>
    · (try simp only [BitVec.toNat_ofNat]); generalize e0 : x0.toNat = m0 at *; generalize e1 : x1.toNat = m1 at *; generalize e2 : x2.toNat = m2 at *; generalize e3 : x3.toNat = m3 at *; subst hl; clear hn; omega

theorem layout46 {lit c0 : Nat} (x0 : BitVec 5) (x1 : BitVec 5) (x2 : BitVec 5) (x3 : BitVec 3) (x4 : BitVec 3) (x5 : BitVec 5)
    (hl : lit = c0 * 67108864) (g0 : c0 < 64) :
    ((BitVec.ofNat 32 (lit + x0.toNat * 2097152 + x1.toNat * 65536 + x2.toNat * 2048 + x3.toNat * 256 + x4.toNat * 32 + x5.toNat)).extractLsb' 26 6).toNat = c0 ∧
    (BitVec.ofNat 32 (lit + x0.toNat * 2097152 + x1.toNat * 65536 + x2.toNat * 2048 + x3.toNat * 256 + x4.toNat * 32 + x5.toNat)).extractLsb' 21 5 = x0 ∧
    (BitVec.ofNat 32 (lit + x0.toNat * 2097152 + x1.toNat * 65536 + x2.toNat * 2048 + x3.toNat * 256 + x4.toNat * 32 + x5.toNat)).extractLsb' 16 5 = x1 ∧
    (BitVec.ofNat 32 (lit + x0.toNat * 2097152 + x1.toNat * 65536 + x2.toNat * 2048 + x3.toNat * 256 + x4.toNat * 32 + x5.toNat)).extractLsb' 11 5 = x2 ∧
    (BitVec.ofNat 32 (lit + x0.toNat * 2097152 + x1.toNat * 65536 + x2.toNat * 2048 + x3.toNat * 256 + x4.toNat * 32 + x5.toNat)).extractLsb' 8 3 = x3 ∧
    (BitVec.ofNat 32 (lit + x0.toNat * 2097152 + x1.toNat * 65536 + x2.toNat * 2048 + x3.toNat * 256 + x4.toNat * 32 + x5.toNat)).extractLsb' 5 3 = x4 ∧
    (BitVec.ofNat 32 (lit + x0.toNat * 2097152 + x1.toNat * 65536 + x2.toNat * 2048 + x3.toNat * 256 + x4.toNat * 32 + x5.toNat)).extractLsb' 0 5 = x5 := by
  have b0 := x0.isLt
  have b1 := x1.isLt
  have b2 := x2.isLt
  have b3 := x3.isLt
  have b4 := x4.isLt
  have b5 := x5.isLt
  have hn : lit + x0.toNat * 2097152 + x1.toNat * 65536 + x2.toNat * 2048 + x3.toNat * 256 + x4.toNat * 32 + x5.toNat < 4294967296 := by generalize e0 : x0.toNat = m0 at *; generalize e1 : x1.toNat = m1 at *; generalize e2 : x2.toNat = m2 at *; generalize e3 : x3.toNat = m3 at *; generalize e4 : x4.toNat = m4 at *; generalize e5 : x5.toNat = m5 at *; subst hl; omega
  refine ⟨field_toNat hn ?_, field_ofNat hn ?_, field_ofNat hn ?_, field_ofNat hn ?_, field_ofNat hn ?_, field_ofNat hn ?_, field_ofNat hn ?_⟩ <;>
    · (try simp only [BitVec.toNat_ofNat]); generalize e0 : x0.toNat = m0 at *; generalize e1 : x1.toNat = m1 at *; generalize e2 : x2.toNat = m2 at *; generalize e3 : x3.toNat = m3 at *; generalize e4 : x4.toNat = m4 at *; generalize e5 : x5.toNat = m5 at *; subst hl; clear hn; omega

theorem layout47 {lit c0 c1 : Nat} (x0 : BitVec 5) (x1 : BitVec 5) (x2 : BitVec 5) (x3 : BitVec 3) (x4 : BitVec 3) (x5 : BitVec 1)
    (hl : lit = c0 * 67108864 + c1) (g0 : c0 < 64) (g1 : c1 < 16) :
    ((BitVec.ofNat 32 (lit + x0.toNat * 2097152 + x1.toNat * 65536 + x2.toNat * 2048 + x3.toNat * 256 + x4.toNat * 32 + x5.toNat * 16)).extractLsb' 26 6).toNat = c0 ∧
    ((BitVec.ofNat 32 (lit + x0.toNat * 2097152 + x1.toNat * 65536 + x2.toNat * 2048 + x3.toNat * 256 + x4.toNat * 32 + x5.toNat * 16)).extractLsb' 0 4).toNat = c1 ∧
    (BitVec.ofNat 32 (lit + x0.toNat * 2097152 + x1.toNat * 65536 + x2.toNat * 2048 + x3.toNat * 256 + x4.toNat * 32 + x5.toNat * 16)).extractLsb' 21 5 = x0 ∧
    (BitVec.ofNat 32 (lit + x0.toNat * 2097152 + x1.toNat * 65536 + x2.toNat * 2048 + x3.toNat * 256 + x4.toNat * 32 + x5.toNat * 16)).extractLsb' 16 5 = x1 ∧
    (BitVec.ofNat 32 (lit + x0.toNat * 2097152 + x1.toNat * 65536 + x2.toNat * 2048 + x3.toNat * 256 + x4.toNat * 32 + x5.toNat * 16)).extractLsb' 11 5 = x2 ∧
    (BitVec.ofNat 32 (lit + x0.toNat * 2097152 + x1.toNat * 65536 + x2.toNat * 2048 + x3.toNat * 256 + x4.toNat * 32 + x5.toNat * 16)).extractLsb' 8 3 = x3 ∧
    (BitVec.ofNat 32 (lit + x0.toNat * 2097152 + x1.toNat * 65536 + x2.toNat * 2048 + x3.toNat * 256 + x4.toNat * 32 + x5.toNat * 16)).extractLsb' 5 3 = x4 ∧
    (BitVec.ofNat 32 (lit + x0.toNat * 2097152 + x1.toNat * 65536 + x2.toNat * 2048 + x3.toNat * 256 + x4.toNat * 32 + x5.toNat * 16)).extractLsb' 4 1 = x5 := by
  have b0 := x0.isLt
  have b1 := x1.isLt
  have b2 := x2.isLt
  have b3 := x3.isLt
  have b4 := x4.isLt
  have b5 := x5.isLt
  have hn : lit + x0.toNat * 2097152 + x1.toNat * 65536 + x2.toNat * 2048 + x3.toNat * 256 + x4.toNat * 32 + x5.toNat * 16 < 4294967296 := by generalize e0 : x0.toNat = m0 at *; generalize e1 : x1.toNat = m1 at *; generalize e2 : x2.toNat = m2 at *; generalize e3 : x3.toNat = m3 at *; generalize e4 : x4.toNat = m4 at *; generalize e5 : x5.toNat = m5 at *; subst hl; omega
  refine ⟨field_toNat hn ?_, field_toNat hn ?_, field_ofNat hn ?_, field_ofNat hn ?_, field_ofNat hn ?_, field_ofNat hn ?_, field_ofNat hn ?_, field_ofNat hn ?_⟩ <;>
    · (try simp only [BitVec.toNat_ofNat]); generalize e0 : x0.toNat = m0 at *; generalize e1 : x1.toNat = m1 at *; generalize e2 : x2.toNat = m2 at *; generalize e3 : x3.toNat = m3 at *; generalize e4 : x4.toNat = m4 at *; generalize e5 : x5.toNat = m5 at *; subst hl; clear hn; omega

theorem layout48 {lit c0 c1 : Nat} (x0 : BitVec 5) (x1 : BitVec 5) (x2 : BitVec 3)
    (hl : lit = c0 * 67108864 + c1 * 2048) (g0 : c0 < 64) (g1 : c1 < 32) :
    ((BitVec.ofNat 32 (lit + x0.toNat * 2097152 + x1.toNat * 65536 + x2.toNat * 32)).extractLsb' 26 6).toNat = c0 ∧
    ((BitVec.ofNat 32 (lit + x0.toNat * 2097152 + x1.toNat * 65536 + x2.toNat * 32)).extractLsb' 11 5).toNat = c1 ∧
    (BitVec.ofNat 32 (lit + x0.toNat * 2097152 + x1.toNat * 65536 + x2.toNat * 32)).extractLsb' 21 5 = x0 ∧
    (BitVec.ofNat 32 (lit + x0.toNat * 2097152 + x1.toNat * 65536 + x2.toNat * 32)).extractLsb' 16 5 = x1 ∧
    (BitVec.ofNat 32 (lit + x0.toNat * 2097152 + x1.toNat * 65536 + x2.toNat * 32)).extractLsb' 5 3 = x2 ∧
    (BitVec.ofNat 32 (lit + x0.toNat * 2097152 + x1.toNat * 65536 + x2.toNat * 32)).extractLsb' 0 5 = 0#5 ∧
    (BitVec.ofNat 32 (lit + x0.toNat * 2097152 + x1.toNat * 65536 + x2.toNat * 32)).extractLsb' 8 3 = 0#3 := by
  have b0 := x0.isLt
  have b1 := x1.isLt
  have b2 := x2.isLt
  have hn : lit + x0.toNat * 2097152 + x1.toNat * 65536 + x2.toNat * 32 < 4294967296 := by generalize e0 : x0.toNat = m0 at *; generalize e1 : x1.toNat = m1 at *; generalize e2 : x2.toNat = m2 at *; subst hl; omega
  refine ⟨field_toNat hn ?_, field_toNat hn ?_, field_ofNat hn ?_, field_ofNat hn ?_, field_ofNat hn ?_, field_ofNat hn ?_, field_ofNat hn ?_⟩ <;>
    · (try simp only [BitVec.toNat_ofNat]); generalize e0 : x0.toNat = m0 at *; generalize e1 : x1.toNat = m1 at *; generalize e2 : x2.toNat = m2 at *; subst hl; clear hn; omega

theorem layout49 {lit c0 c1 : Nat} (x0 : BitVec 5) (x1 : BitVec 5) (x2 : BitVec 3) (x3 : BitVec 3) (x4 : BitVec 4)
    (hl : lit = c0 * 67108864 + c1 * 2048) (g0 : c0 < 64) (g1 : c1 < 32) :
    ((BitVec.ofNat 32 (lit + x0.toNat * 2097152 + x1.toNat * 65536 + x2.toNat * 256 + x3.toNat * 32 + x4.toNat)).extractLsb' 26 6).toNat = c0 ∧
    ((BitVec.ofNat 32 (lit + x0.toNat * 2097152 + x1.toNat * 65536 + x2.toNat * 256 + x3.toNat * 32 + x4.toNat)).extractLsb' 11 5).toNat = c1 ∧
    (BitVec.ofNat 32 (lit + x0.toNat * 2097152 + x1.toNat * 65536 + x2.toNat * 256 + x3.toNat * 32 + x4.toNat)).extractLsb' 21 5 = x0 ∧
    (BitVec.ofNat 32 (lit + x0.toNat * 2097152 + x1.toNat * 65536 + x2.toNat * 256 + x3.toNat * 32 + x4.toNat)).extractLsb' 16 5 = x1 ∧
    (BitVec.ofNat 32 (lit + x0.toNat * 2097152 + x1.toNat * 65536 + x2.toNat * 256 + x3.toNat * 32 + x4.toNat)).extractLsb' 8 3 = x2 ∧
    (BitVec.ofNat 32 (lit + x0.toNat * 2097152 + x1.toNat * 65536 + x2.toNat * 256 + x3.toNat * 32 + x4.toNat)).extractLsb' 5 3 = x3 ∧
    (BitVec.ofNat 32 (lit + x0.toNat * 2097152 + x1.toNat * 65536 + x2.toNat * 256 + x3.toNat * 32 + x4.toNat)).extractLsb' 0 4 = x4 ∧
    (BitVec.ofNat 32 (lit + x0.toNat * 2097152 + x1.toNat * 65536 + x2.toNat * 256 + x3.toNat * 32 + x4.toNat)).extractLsb' 4 1 = 0#1 := by
  have b0 := x0.isLt
  have b1 := x1.isLt
  have b2 := x2.isLt
  have b3 := x3.isLt
  have b4 := x4.isLt
  have hn : lit + x0.toNat * 2097152 + x1.toNat * 65536 + x2.toNat * 256 + x3.toNat * 32 + x4.toNat < 4294967296 := by generalize e0 : x0.toNat = m0 at *; generalize e1 : x1.toNat = m1 at *; generalize e2 : x2.toNat = m2 at *; generalize e3 : x3.toNat = m3 at *; generalize e4 : x4.toNat = m4 at *; subst hl; omega
  refine ⟨field_toNat hn ?_, field_toNat hn ?_, field_ofNat hn ?_, field_ofNat hn ?_, field_ofNat hn ?_, field_ofNat hn ?_, field_ofNat hn ?_, field_ofNat hn ?_⟩ <;>
    · (try simp only [BitVec.toNat_ofNat]); generalize e0 : x0.toNat = m0 at *; generalize e1 : x1.toNat = m1 at *; generalize e2 : x2.toNat = m2 at *; generalize e3 : x3.toNat = m3 at *; generalize e4 : x4.toNat = m4 at *; subst hl; clear hn; omega

theorem layout50 {lit c0 c1 : Nat} (x0 : BitVec 3) (x1 : BitVec 5) (x2 : BitVec 5) (x3 : BitVec 3) (x4 : BitVec 2) (x5 : BitVec 1)
    (hl : lit = c0 * 67108864 + c1) (g0 : c0 < 64) (g1 : c1 < 32) :
    ((BitVec.ofNat 32 (lit + x0.toNat * 8388608 + x1.toNat * 65536 + x2.toNat * 2048 + x3.toNat * 256 + x4.toNat * 64 + x5.toNat * 32)).extractLsb' 26 6).toNat = c0 ∧
    ((BitVec.ofNat 32 (lit + x0.toNat * 8388608 + x1.toNat * 65536 + x2.toNat * 2048 + x3.toNat * 256 + x4.toNat * 64 + x5.toNat * 32)).extractLsb' 0 5).toNat = c1 ∧
    (BitVec.ofNat 32 (lit + x0.toNat * 8388608 + x1.toNat * 65536 + x2.toNat * 2048 + x3.toNat * 256 + x4.toNat * 64 + x5.toNat * 32)).extractLsb' 23 3 = x0 ∧
    (BitVec.ofNat 32 (lit + x0.toNat * 8388608 + x1.toNat * 65536 + x2.toNat * 2048 + x3.toNat * 256 + x4.toNat * 64 + x5.toNat * 32)).extractLsb' 16 5 = x1 ∧
    (BitVec.ofNat 32 (lit + x0.toNat * 8388608 + x1.toNat * 65536 + x2.toNat * 2048 + x3.toNat * 256 + x4.toNat * 64 + x5.toNat * 32)).extractLsb' 11 5 = x2 ∧
    (BitVec.ofNat 32 (lit + x0.toNat * 8388608 + x1.toNat * 65536 + x2.toNat * 2048 + x3.toNat * 256 + x4.toNat * 64 + x5.toNat * 32)).extractLsb' 8 3 = x3 ∧
    (BitVec.ofNat 32 (lit + x0.toNat * 8388608 + x1.toNat * 65536 + x2.toNat * 2048 + x3.toNat * 256 + x4.toNat * 64 + x5.toNat * 32)).extractLsb' 6 2 = x4 ∧
    (BitVec.ofNat 32 (lit + x0.toNat * 8388608 + x1.toNat * 65536 + x2.toNat * 2048 + x3.toNat * 256 + x4.toNat * 64 + x5.toNat * 32)).extractLsb' 5 1 = x5 ∧
    (BitVec.ofNat 32 (lit + x0.toNat * 8388608 + x1.toNat * 65536 + x2.toNat * 2048 + x3.toNat * 256 + x4.toNat * 64 + x5.toNat * 32)).extractLsb' 21 2 = 0#2 := by
  have b0 := x0.isLt
  have b1 := x1.isLt
  have b2 := x2.isLt
  have b3 := x3.isLt
  have b4 := x4.isLt
  have b5 := x5.isLt
  have hn : lit + x0.toNat * 8388608 + x1.toNat * 65536 + x2.toNat * 2048 + x3.toNat * 256 + x4.toNat * 64 + x5.toNat * 32 < 4294967296 := by generalize e0 : x0.toNat = m0 at *; generalize e1 : x1.toNat = m1 at *; generalize e2 : x2.toNat = m2 at *; generalize e3 : x3.toNat = m3 at *; generalize e4 : x4.toNat = m4 at *; generalize e5 : x5.toNat = m5 at *; subst hl; omega
  refine ⟨field_toNat hn ?_, field_toNat hn ?_, field_ofNat hn ?_, field_ofNat hn ?_, field_ofNat hn ?_, field_ofNat hn ?_, field_ofNat hn ?_, field_ofNat hn ?_, field_ofNat hn ?_⟩ <;>
    · (try simp only [BitVec.toNat_ofNat]); generalize e0 : x0.toNat = m0 at *; generalize e1 : x1.toNat = m1 at *; generalize e2 : x2.toNat = m2 at *; generalize e3 : x3.toNat = m3 at *; generalize e4 : x4.toNat = m4 at *; generalize e5 : x5.toNat = m5 at *; subst hl; clear hn; omega

theorem layout51 {lit c0 c1 : Nat} (x0 : BitVec 3) (x1 : BitVec 2) (x2 : BitVec 3) (x3 : BitVec 2) (x4 : BitVec 1)
    (hl : lit = c0 * 67108864 + c1) (g0 : c0 < 64) (g1 : c1 < 32) :
    ((BitVec.ofNat 32 (lit + x0.toNat * 8388608 + x1.toNat * 2097152 + x2.toNat * 256 + x3.toNat * 64 + x4.toNat * 32)).extractLsb' 26 6).toNat = c0 ∧
    ((BitVec.ofNat 32 (lit + x0.toNat * 8388608 + x1.toNat * 2097152 + x2.toNat * 256 + x3.toNat * 64 + x4.toNat * 32)).extractLsb' 0 5).toNat = c1 ∧
    (BitVec.ofNat 32 (lit + x0.toNat * 8388608 + x1.toNat * 2097152 + x2.toNat * 256 + x3.toNat * 64 + x4.toNat * 32)).extractLsb' 23 3 = x0 ∧
    (BitVec.ofNat 32 (lit + x0.toNat * 8388608 + x1.toNat * 2097152 + x2.toNat * 256 + x3.toNat * 64 + x4.toNat * 32)).extractLsb' 21 2 = x1 ∧
    (BitVec.ofNat 32 (lit + x0.toNat * 8388608 + x1.toNat * 2097152 + x2.toNat * 256 + x3.toNat * 64 + x4.toNat * 32)).extractLsb' 8 3 = x2 ∧
    (BitVec.ofNat 32 (lit + x0.toNat * 8388608 + x1.toNat * 2097152 + x2.toNat * 256 + x3.toNat * 64 + x4.toNat * 32)).extractLsb' 6 2 = x3 ∧
    (BitVec.ofNat 32 (lit + x0.toNat * 8388608 + x1.toNat * 2097152 + x2.toNat * 256 + x3.toNat * 64 + x4.toNat * 32)).extractLsb' 5 1 = x4 ∧
    (BitVec.ofNat 32 (lit + x0.toNat * 8388608 + x1.toNat * 2097152 + x2.toNat * 256 + x3.toNat * 64 + x4.toNat * 32)).extractLsb' 11 10 = 0#10 := by
  have b0 := x0.isLt
  have b1 := x1.isLt
  have b2 := x2.isLt
  have b3 := x3.isLt
  have b4 := x4.isLt
  have hn : lit + x0.toNat * 8388608 + x1.toNat * 2097152 + x2.toNat * 256 + x3.toNat * 64 + x4.toNat * 32 < 4294967296 := by generalize e0 : x0.toNat = m0 at *; generalize e1 : x1.toNat = m1 at *; generalize e2 : x2.toNat = m2 at *; generalize e3 : x3.toNat = m3 at *; generalize e4 : x4.toNat = m4 at *; subst hl; omega
  refine ⟨field_toNat hn ?_, field_toNat hn ?_, field_ofNat hn ?_, field_ofNat hn ?_, field_ofNat hn ?_, field_ofNat hn ?_, field_ofNat hn ?_, field_ofNat hn ?_⟩ <;>
    · (try simp only [BitVec.toNat_ofNat]); generalize e0 : x0.toNat = m0 at *; generalize e1 : x1.toNat = m1 at *; generalize e2 : x2.toNat = m2 at *; generalize e3 : x3.toNat = m3 at *; generalize e4 : x4.toNat = m4 at *; subst hl; clear hn; omega

theorem layout52 {lit c0 c1 : Nat} (x0 : BitVec 3) (x1 : BitVec 3)
    (hl : lit = c0 * 67108864 + c1) (g0 : c0 < 64) (g1 : c1 < 32) :
    ((BitVec.ofNat 32 (lit + x0.toNat * 8388608 + x1.toNat * 256)).extractLsb' 26 6).toNat = c0 ∧
    ((BitVec.ofNat 32 (lit + x0.toNat * 8388608 + x1.toNat * 256)).extractLsb' 0 5).toNat = c1 ∧
    (BitVec.ofNat 32 (lit + x0.toNat * 8388608 + x1.toNat * 256)).extractLsb' 23 3 = x0 ∧
    (BitVec.ofNat 32 (lit + x0.toNat * 8388608 + x1.toNat * 256)).extractLsb' 8 3 = x1 ∧
    (BitVec.ofNat 32 (lit + x0.toNat * 8388608 + x1.toNat * 256)).extractLsb' 5 3 = 0#3 ∧
    (BitVec.ofNat 32 (lit + x0.toNat * 8388608 + x1.toNat * 256)).extractLsb' 11 12 = 0#12 := by
  have b0 := x0.isLt
  have b1 := x1.isLt
  have hn : lit + x0.toNat * 8388608 + x1.toNat * 256 < 4294967296 := by generalize e0 : x0.toNat = m0 at *; generalize e1 : x1.toNat = m1 at *; subst hl; omega
  refine ⟨field_toNat hn ?_, field_toNat hn ?_, field_ofNat hn ?_, field_ofNat hn ?_, field_ofNat hn ?_, field_ofNat hn ?_⟩ <;>
    · (try simp only [BitVec.toNat_ofNat]); generalize e0 : x0.toNat = m0 at *; generalize e1 : x1.toNat = m1 at *; subst hl; clear hn; omega

theorem layout53 {lit c0 c1 : Nat} (x0 : BitVec 3) (x1 : BitVec 2) (x2 : BitVec 5) (x3 : BitVec 5) (x4 : BitVec 2)
    (hl : lit = c0 * 67108864 + c1) (g0 : c0 < 64) (g1 : c1 < 32) :
    ((BitVec.ofNat 32 (lit + x0.toNat * 8388608 + x1.toNat * 2097152 + x2.toNat * 65536 + x3.toNat * 2048 + x4.toNat * 64)).extractLsb' 26 6).toNat = c0 ∧
    ((BitVec.ofNat 32 (lit + x0.toNat * 8388608 + x1.toNat * 2097152 + x2.toNat * 65536 + x3.toNat * 2048 + x4.toNat * 64)).extractLsb' 0 5).toNat = c1 ∧
    (BitVec.ofNat 32 (lit + x0.toNat * 8388608 + x1.toNat * 2097152 + x2.toNat * 65536 + x3.toNat * 2048 + x4.toNat * 64)).extractLsb' 23 3 = x0 ∧
    (BitVec.ofNat 32 (lit + x0.toNat * 8388608 + x1.toNat * 2097152 + x2.toNat * 65536 + x3.toNat * 2048 + x4.toNat * 64)).extractLsb' 21 2 = x1 ∧
    (BitVec.ofNat 32 (lit + x0.toNat * 8388608 + x1.toNat * 2097152 + x2.toNat * 65536 + x3.toNat * 2048 + x4.toNat * 64)).extractLsb' 16 5 = x2 ∧
    (BitVec.ofNat 32 (lit + x0.toNat * 8388608 + x1.toNat * 2097152 + x2.toNat * 65536 + x3.toNat * 2048 + x4.toNat * 64)).extractLsb' 11 5 = x3 ∧
    (BitVec.ofNat 32 (lit + x0.toNat * 8388608 + x1.toNat * 2097152 + x2.toNat * 65536 + x3.toNat * 2048 + x4.toNat * 64)).extractLsb' 6 2 = x4 ∧
    (BitVec.ofNat 32 (lit + x0.toNat * 8388608 + x1.toNat * 2097152 + x2.toNat * 65536 + x3.toNat * 2048 + x4.toNat * 64)).extractLsb' 5 1 = 0#1 ∧
    (BitVec.ofNat 32 (lit + x0.toNat * 8388608 + x1.toNat * 2097152 + x2.toNat * 65536 + x3.toNat * 2048 + x4.toNat * 64)).extractLsb' 8 3 = 0#3 := by
  have b0 := x0.isLt
  have b1 := x1.isLt
  have b2 := x2.isLt
  have b3 := x3.isLt
  have b4 := x4.isLt
  have hn : lit + x0.toNat * 8388608 + x1.toNat * 2097152 + x2.toNat * 65536 + x3.toNat * 2048 + x4.toNat * 64 < 4294967296 := by generalize e0 : x0.toNat = m0 at *; generalize e1 : x1.toNat = m1 at *; generalize e2 : x2.toNat = m2 at *; generalize e3 : x3.toNat = m3 at *; generalize e4 : x4.toNat = m4 at *; subst hl; omega
  refine ⟨field_toNat hn ?_, field_toNat hn ?_, field_ofNat hn ?_, field_ofNat hn ?_, field_ofNat hn ?_, field_ofNat hn ?_, field_ofNat hn ?_, field_ofNat hn ?_, field_ofNat hn ?_⟩ <;>
    · (try simp only [BitVec.toNat_ofNat]); generalize e0 : x0.toNat = m0 at *; generalize e1 : x1.toNat = m1 at *; generalize e2 : x2.toNat = m2 at *; generalize e3 : x3.toNat = m3 at *; generalize e4 : x4.toNat = m4 at *; subst hl; clear hn; omega

theorem layout54 {lit c0 c1 : Nat} (x0 : BitVec 3) (x1 : BitVec 2) (x2 : BitVec 5) (x3 : BitVec 3)
    (hl : lit = c0 * 67108864 + c1) (g0 : c0 < 64) (g1 : c1 < 32) :
    ((BitVec.ofNat 32 (lit + x0.toNat * 8388608 + x1.toNat * 2097152 + x2.toNat * 2048 + x3.toNat * 256)).extractLsb' 26 6).toNat = c0 ∧
    ((BitVec.ofNat 32 (lit + x0.toNat * 8388608 + x1.toNat * 2097152 + x2.toNat * 2048 + x3.toNat * 256)).extractLsb' 0 5).toNat = c1 ∧
    (BitVec.ofNat 32 (lit + x0.toNat * 8388608 + x1.toNat * 2097152 + x2.toNat * 2048 + x3.toNat * 256)).extractLsb' 23 3 = x0 ∧
    (BitVec.ofNat 32 (lit + x0.toNat * 8388608 + x1.toNat * 2097152 + x2.toNat * 2048 + x3.toNat * 256)).extractLsb' 21 2 = x1 ∧
    (BitVec.ofNat 32 (lit + x0.toNat * 8388608 + x1.toNat * 2097152 + x2.toNat * 2048 + x3.toNat * 256)).extractLsb' 11 5 = x2 ∧
    (BitVec.ofNat 32 (lit + x0.toNat * 8388608 + x1.toNat * 2097152 + x2.toNat * 2048 + x3.toNat * 256)).extractLsb' 8 3 = x3 ∧
    (BitVec.ofNat 32 (lit + x0.toNat * 8388608 + x1.toNat * 2097152 + x2.toNat * 2048 + x3.toNat * 256)).extractLsb' 5 3 = 0#3 ∧
    (BitVec.ofNat 32 (lit + x0.toNat * 8388608 + x1.toNat * 2097152 + x2.toNat * 2048 + x3.toNat * 256)).extractLsb' 16 5 = 0#5 := by
  have b0 := x0.isLt
  have b1 := x1.isLt
  have b2 := x2.isLt
  have b3 := x3.isLt
  have hn : lit + x0.toNat * 8388608 + x1.toNat * 2097152 + x2.toNat * 2048 + x3.toNat * 256 < 4294967296 := by generalize e0 : x0.toNat = m0 at *; generalize e1 : x1.toNat = m1 at *; generalize e2 : x2.toNat = m2 at *; generalize e3 : x3.toNat = m3 at *; subst hl; omega
  refine ⟨field_toNat hn ?_, field_toNat hn ?_, field_ofNat hn ?_, field_ofNat hn ?_, field_ofNat hn ?_, field_ofNat hn ?_, field_ofNat hn ?_, field_ofNat hn ?_⟩ <;>
    · (try simp only [BitVec.toNat_ofNat]); generalize e0 : x0.toNat = m0 at *; generalize e1 : x1.toNat = m1 at *; generalize e2 : x2.toNat = m2 at *; generalize e3 : x3.toNat = m3 at *; subst hl; clear hn; omega

theorem layout55 {lit c0 c1 : Nat} (x0 : BitVec 5) (x1 : BitVec 5) (x2 : BitVec 5) (x3 : BitVec 3) (x4 : BitVec 2)
    (hl : lit = c0 * 67108864 + c1) (g0 : c0 < 64) (g1 : c1 < 32) :
    ((BitVec.ofNat 32 (lit + x0.toNat * 2097152 + x1.toNat * 65536 + x2.toNat * 2048 + x3.toNat * 256 + x4.toNat * 64)).extractLsb' 26 6).toNat = c0 ∧
    ((BitVec.ofNat 32 (lit + x0.toNat * 2097152 + x1.toNat * 65536 + x2.toNat * 2048 + x3.toNat * 256 + x4.toNat * 64)).extractLsb' 0 5).toNat = c1 ∧
    (BitVec.ofNat 32 (lit + x0.toNat * 2097152 + x1.toNat * 65536 + x2.toNat * 2048 + x3.toNat * 256 + x4.toNat * 64)).extractLsb' 21 5 = x0 ∧
    (BitVec.ofNat 32 (lit + x0.toNat * 2097152 + x1.toNat * 65536 + x2.toNat * 2048 + x3.toNat * 256 + x4.toNat * 64)).extractLsb' 16 5 = x1 ∧
    (BitVec.ofNat 32 (lit + x0.toNat * 2097152 + x1.toNat * 65536 + x2.toNat * 2048 + x3.toNat * 256 + x4.toNat * 64)).extractLsb' 11 5 = x2 ∧
    (BitVec.ofNat 32 (lit + x0.toNat * 2097152 + x1.toNat * 65536 + x2.toNat * 2048 + x3.toNat * 256 + x4.toNat * 64)).extractLsb' 8 3 = x3 ∧
    (BitVec.ofNat 32 (lit + x0.toNat * 2097152 + x1.toNat * 65536 + x2.toNat * 2048 + x3.toNat * 256 + x4.toNat * 64)).extractLsb' 6 2 = x4 ∧
    (BitVec.ofNat 32 (lit + x0.toNat * 2097152 + x1.toNat * 65536 + x2.toNat * 2048 + x3.toNat * 256 + x4.toNat * 64)).extractLsb' 5 1 = 0#1 := by
  have b0 := x0.isLt
  have b1 := x1.isLt
  have b2 := x2.isLt
  have b3 := x3.isLt
  have b4 := x4.isLt
  have hn : lit + x0.toNat * 2097152 + x1.toNat * 65536 + x2.toNat * 2048 + x3.toNat * 256 + x4.toNat * 64 < 4294967296 := by generalize e0 : x0.toNat = m0 at *; generalize e1 : x1.toNat = m1 at *; generalize e2 : x2.toNat = m2 at *; generalize e3 : x3.toNat = m3 at *; generalize e4 : x4.toNat = m4 at *; subst hl; omega
  refine ⟨field_toNat hn ?_, field_toNat hn ?_, field_ofNat hn ?_, field_ofNat hn ?_, field_ofNat hn ?_, field_ofNat hn ?_, field_ofNat hn ?_, field_ofNat hn ?_⟩ <;>
    · (try simp only [BitVec.toNat_ofNat]); generalize e0 : x0.toNat = m0 at *; generalize e1 : x1.toNat = m1 at *; generalize e2 : x2.toNat = m2 at *; generalize e3 : x3.toNat = m3 at *; generalize e4 : x4.toNat = m4 at *; subst hl; clear hn; omega

theorem layout56 {lit c0 c1 : Nat} (x0 : BitVec 3) (x1 : BitVec 2)
    (hl : lit = c0 * 67108864 + c1) (g0 : c0 < 64) (g1 : c1 < 32) :
    ((BitVec.ofNat 32 (lit + x0.toNat * 8388608 + x1.toNat * 2097152)).extractLsb' 26 6).toNat = c0 ∧
    ((BitVec.ofNat 32 (lit + x0.toNat * 8388608 + x1.toNat * 2097152)).extractLsb' 0 5).toNat = c1 ∧
    (BitVec.ofNat 32 (lit + x0.toNat * 8388608 + x1.toNat * 2097152)).extractLsb' 23 3 = x0 ∧
    (BitVec.ofNat 32 (lit + x0.toNat * 8388608 + x1.toNat * 2097152)).extractLsb' 21 2 = x1 ∧
    (BitVec.ofNat 32 (lit + x0.toNat * 8388608 + x1.toNat * 2097152)).extractLsb' 5 16 = 0#16 := by
  have b0 := x0.isLt
  have b1 := x1.isLt
  have hn : lit + x0.toNat * 8388608 + x1.toNat * 2097152 < 4294967296 := by generalize e0 : x0.toNat = m0 at *; generalize e1 : x1.toNat = m1 at *; subst hl; omega
  refine ⟨field_toNat hn ?_, field_toNat hn ?_, field_ofNat hn ?_, field_ofNat hn ?_, field_ofNat hn ?_⟩ <;>
    · (try simp only [BitVec.toNat_ofNat]); generalize e0 : x0.toNat = m0 at *; generalize e1 : x1.toNat = m1 at *; subst hl; clear hn; omega

theorem layout57 {lit c0 c1 : Nat} (x0 : BitVec 3) (x1 : BitVec 5)
    (hl : lit = c0 * 67108864 + c1) (g0 : c0 < 64) (g1 : c1 < 32) :
    ((BitVec.ofNat 32 (lit + x0.toNat * 8388608 + x1.toNat * 65536)).extractLsb' 26 6).toNat = c0 ∧
    ((BitVec.ofNat 32 (lit + x0.toNat * 8388608 + x1.toNat * 65536)).extractLsb' 0 5).toNat = c1 ∧
    (BitVec.ofNat 32 (lit + x0.toNat * 8388608 + x1.toNat * 65536)).extractLsb' 23 3 = x0 ∧
    (BitVec.ofNat 32 (lit + x0.toNat * 8388608 + x1.toNat * 65536)).extractLsb' 16 5 = x1 ∧
    (BitVec.ofNat 32 (lit + x0.toNat * 8388608 + x1.toNat * 65536)).extractLsb' 5 11 = 0#11 ∧
    (BitVec.ofNat 32 (lit + x0.toNat * 8388608 + x1.toNat * 65536)).extractLsb' 21 2 = 0#2 := by
  have b0 := x0.isLt
  have b1 := x1.isLt
  have hn : lit + x0.toNat * 8388608 + x1.toNat * 65536 < 4294967296 := by generalize e0 : x0.toNat = m0 at *; generalize e1 : x1.toNat = m1 at *; subst hl; omega
  refine ⟨field_toNat hn ?_, field_toNat hn ?_, field_ofNat hn ?_, field_ofNat hn ?_, field_ofNat hn ?_, field_ofNat hn ?_⟩ <;>
    · (try simp only [BitVec.toNat_ofNat]); generalize e0 : x0.toNat = m0 at *; generalize e1 : x1.toNat = m1 at *; subst hl; clear hn; omega

theorem layout58 {lit c0 c1 : Nat} (x0 : BitVec 3)
    (hl : lit = c0 * 67108864 + c1) (g0 : c0 < 64) (g1 : c1 < 32) :
    ((BitVec.ofNat 32 (lit + x0.toNat * 8388608)).extractLsb' 26 6).toNat = c0 ∧
    ((BitVec.ofNat 32 (lit + x0.toNat * 8388608)).extractLsb' 0 5).toNat = c1 ∧
    (BitVec.ofNat 32 (lit + x0.toNat * 8388608)).extractLsb' 23 3 = x0 ∧
    (BitVec.ofNat 32 (lit + x0.toNat * 8388608)).extractLsb' 5 18 = 0#18 := by
  have b0 := x0.isLt
  have hn : lit + x0.toNat * 8388608 < 4294967296 := by generalize e0 : x0.toNat = m0 at *; subst hl; omega
  refine ⟨field_toNat hn ?_, field_toNat hn ?_, field_ofNat hn ?_, field_ofNat hn ?_⟩ <;>
    · (try simp only [BitVec.toNat_ofNat]); generalize e0 : x0.toNat = m0 at *; subst hl; clear hn; omega

theorem layout59 {lit c0 c1 : Nat} (x0 : BitVec 3) (x1 : BitVec 2) (x2 : BitVec 5) (x3 : BitVec 5) (x4 : BitVec 3) (x5 : BitVec 2) (x6 : BitVec 1)
    (hl : lit = c0 * 67108864 + c1) (g0 : c0 < 64) (g1 : c1 < 32) :
    ((BitVec.ofNat 32 (lit + x0.toNat * 8388608 + x1.toNat * 2097152 + x2.toNat * 65536 + x3.toNat * 2048 + x4.toNat * 256 + x5.toNat * 64 + x6.toNat * 32)).extractLsb' 26 6).toNat = c0 ∧
    ((BitVec.ofNat 32 (lit + x0.toNat * 8388608 + x1.toNat * 2097152 + x2.toNat * 65536 + x3.toNat * 2048 + x4.toNat * 256 + x5.toNat * 64 + x6.toNat * 32)).extractLsb' 0 5).toNat = c1 ∧
    (BitVec.ofNat 32 (lit + x0.toNat * 8388608 + x1.toNat * 2097152 + x2.toNat * 65536 + x3.toNat * 2048 + x4.toNat * 256 + x5.toNat * 64 + x6.toNat * 32)).extractLsb' 23 3 = x0 ∧
    (BitVec.ofNat 32 (lit + x0.toNat * 8388608 + x1.toNat * 2097152 + x2.toNat * 65536 + x3.toNat * 2048 + x4.toNat * 256 + x5.toNat * 64 + x6.toNat * 32)).extractLsb' 21 2 = x1 ∧
    (BitVec.ofNat 32 (lit + x0.toNat * 8388608 + x1.toNat * 2097152 + x2.toNat * 65536 + x3.toNat * 2048 + x4.toNat * 256 + x5.toNat * 64 + x6.toNat * 32)).extractLsb' 16 5 = x2 ∧
    (BitVec.ofNat 32 (lit + x0.toNat * 8388608 + x1.toNat * 2097152 + x2.toNat * 65536 + x3.toNat * 2048 + x4.toNat * 256 + x5.toNat * 64 + x6.toNat * 32)).extractLsb' 11 5 = x3 ∧
    (BitVec.ofNat 32 (lit + x0.toNat * 8388608 + x1.toNat * 2097152 + x2.toNat * 65536 + x3.toNat * 2048 + x4.toNat * 256 + x5.toNat * 64 + x6.toNat * 32)).extractLsb' 8 3 = x4 ∧
    (BitVec.ofNat 32 (lit + x0.toNat * 8388608 + x1.toNat * 2097152 + x2.toNat * 65536 + x3.toNat * 2048 + x4.toNat * 256 + x5.toNat * 64 + x6.toNat * 32)).extractLsb' 6 2 = x5 ∧
    (BitVec.ofNat 32 (lit + x0.toNat * 8388608 + x1.toNat * 2097152 + x2.toNat * 65536 + x3.toNat * 2048 + x4.toNat * 256 + x5.toNat * 64 + x6.toNat * 32)).extractLsb' 5 1 = x6 := by
  have b0 := x0.isLt
  have b1 := x1.isLt
  have b2 := x2.isLt
  have b3 := x3.isLt
  have b4 := x4.isLt
  have b5 := x5.isLt
  have b6 := x6.isLt
  have hn : lit + x0.toNat * 8388608 + x1.toNat * 2097152 + x2.toNat * 65536 + x3.toNat * 2048 + x4.toNat * 256 + x5.toNat * 64 + x6.toNat * 32 < 4294967296 := by generalize e0 : x0.toNat = m0 at *; generalize e1 : x1.toNat = m1 at *; generalize e2 : x2.toNat = m2 at *; generalize e3 : x3.toNat = m3 at *; generalize e4 : x4.toNat = m4 at *; generalize e5 : x5.toNat = m5 at *; generalize e6 : x6.toNat = m6 at *; subst hl; omega
  refine ⟨field_toNat hn ?_, field_toNat hn ?_, field_ofNat hn ?_, field_ofNat hn ?_, field_ofNat hn ?_, field_ofNat hn ?_, field_ofNat hn ?_, field_ofNat hn ?_, field_ofNat hn ?_⟩ <;>
    · (try simp only [BitVec.toNat_ofNat]); generalize e0 : x0.toNat = m0 at *; generalize e1 : x1.toNat = m1 at *; generalize e2 : x2.toNat = m2 at *; generalize e3 : x3.toNat = m3 at *; generalize e4 : x4.toNat = m4 at *; generalize e5 : x5.toNat = m5 at *; generalize e6 : x6.toNat = m6 at *; subst hl; clear hn; omega

theorem layout60 {lit c0 c1 : Nat} (x0 : BitVec 5) (x1 : BitVec 5) (x2 : BitVec 5) (x3 : BitVec 3) (x4 : BitVec 2) (x5 : BitVec 1)
    (hl : lit = c0 * 67108864 + c1) (g0 : c0 < 64) (g1 : c1 < 32) :
    ((BitVec.ofNat 32 (lit + x0.toNat * 2097152 + x1.toNat * 65536 + x2.toNat * 2048 + x3.toNat * 256 + x4.toNat * 64 + x5.toNat * 32)).extractLsb' 26 6).toNat = c0 ∧
    ((BitVec.ofNat 32 (lit + x0.toNat * 2097152 + x1.toNat * 65536 + x2.toNat * 2048 + x3.toNat * 256 + x4.toNat * 64 + x5.toNat * 32)).extractLsb' 0 5).toNat = c1 ∧
    (BitVec.ofNat 32 (lit + x0.toNat * 2097152 + x1.toNat * 65536 + x2.toNat * 2048 + x3.toNat * 256 + x4.toNat * 64 + x5.toNat * 32)).extractLsb' 21 5 = x0 ∧
    (BitVec.ofNat 32 (lit + x0.toNat * 2097152 + x1.toNat * 65536 + x2.toNat * 2048 + x3.toNat * 256 + x4.toNat * 64 + x5.toNat * 32)).extractLsb' 16 5 = x1 ∧
    (BitVec.ofNat 32 (lit + x0.toNat * 2097152 + x1.toNat * 65536 + x2.toNat * 2048 + x3.toNat * 256 + x4.toNat * 64 + x5.toNat * 32)).extractLsb' 11 5 = x2 ∧
    (BitVec.ofNat 32 (lit + x0.toNat * 2097152 + x1.toNat * 65536 + x2.toNat * 2048 + x3.toNat * 256 + x4.toNat * 64 + x5.toNat * 32)).extractLsb' 8 3 = x3 ∧
    (BitVec.ofNat 32 (lit + x0.toNat * 2097152 + x1.toNat * 65536 + x2.toNat * 2048 + x3.toNat * 256 + x4.toNat * 64 + x5.toNat * 32)).extractLsb' 6 2 = x4 ∧
    (BitVec.ofNat 32 (lit + x0.toNat * 2097152 + x1.toNat * 65536 + x2.toNat * 2048 + x3.toNat * 256 + x4.toNat * 64 + x5.toNat * 32)).extractLsb' 5 1 = x5 := by
  have b0 := x0.isLt
  have b1 := x1.isLt
  have b2 := x2.isLt
  have b3 := x3.isLt
  have b4 := x4.isLt
  have b5 := x5.isLt
  have hn : lit + x0.toNat * 2097152 + x1.toNat * 65536 + x2.toNat * 2048 + x3.toNat * 256 + x4.toNat * 64 + x5.toNat * 32 < 4294967296 := by generalize e0 : x0.toNat = m0 at *; generalize e1 : x1.toNat = m1 at *; generalize e2 : x2.toNat = m2 at *; generalize e3 : x3.toNat = m3 at *; generalize e4 : x4.toNat = m4 at *; generalize e5 : x5.toNat = m5 at *; subst hl; omega
  refine ⟨field_toNat hn ?_, field_toNat hn ?_, field_ofNat hn ?_, field_ofNat hn ?_, field_ofNat hn ?_, field_ofNat hn ?_, field_ofNat hn ?_, field_ofNat hn ?_⟩ <;>
    · (try simp only [BitVec.toNat_ofNat]); generalize e0 : x0.toNat = m0 at *; generalize e1 : x1.toNat = m1 at *; generalize e2 : x2.toNat = m2 at *; generalize e3 : x3.toNat = m3 at *; generalize e4 : x4.toNat = m4 at *; generalize e5 : x5.toNat = m5 at *; subst hl; clear hn; omega

theorem layout61 {lit c0 c1 : Nat} (x0 : BitVec 3) (x1 : BitVec 2) (x2 : BitVec 5)
    (hl : lit = c0 * 67108864 + c1) (g0 : c0 < 64) (g1 : c1 < 32) :
    ((BitVec.ofNat 32 (lit + x0.toNat * 8388608 + x1.toNat * 2097152 + x2.toNat * 65536)).extractLsb' 26 6).toNat = c0 ∧
    ((BitVec.ofNat 32 (lit + x0.toNat * 8388608 + x1.toNat * 2097152 + x2.toNat * 65536)).extractLsb' 0 5).toNat = c1 ∧
    (BitVec.ofNat 32 (lit + x0.toNat * 8388608 + x1.toNat * 2097152 + x2.toNat * 65536)).extractLsb' 23 3 = x0 ∧
    (BitVec.ofNat 32 (lit + x0.toNat * 8388608 + x1.toNat * 2097152 + x2.toNat * 65536)).extractLsb' 21 2 = x1 ∧
    (BitVec.ofNat 32 (lit + x0.toNat * 8388608 + x1.toNat * 2097152 + x2.toNat * 65536)).extractLsb' 16 5 = x2 ∧
    (BitVec.ofNat 32 (lit + x0.toNat * 8388608 + x1.toNat * 2097152 + x2.toNat * 65536)).extractLsb' 5 11 = 0#11 := by
  have b0 := x0.isLt
  have b1 := x1.isLt
  have b2 := x2.isLt
  have hn : lit + x0.toNat * 8388608 + x1.toNat * 2097152 + x2.toNat * 65536 < 4294967296 := by generalize e0 : x0.toNat = m0 at *; generalize e1 : x1.toNat = m1 at *; generalize e2 : x2.toNat = m2 at *; subst hl; omega
  refine ⟨field_toNat hn ?_, field_toNat hn ?_, field_ofNat hn ?_, field_ofNat hn ?_, field_ofNat hn ?_, field_ofNat hn ?_⟩ <;>
    · (try simp only [BitVec.toNat_ofNat]); generalize e0 : x0.toNat = m0 at *; generalize e1 : x1.toNat = m1 at *; generalize e2 : x2.toNat = m2 at *; subst hl; clear hn; omega

theorem layout62 {lit c0 c1 : Nat} (x0 : BitVec 3) (x1 : BitVec 2) (x2 : BitVec 5) (x3 : BitVec 5) (x4 : BitVec 2) (x5 : BitVec 1)
    (hl : lit = c0 * 67108864 + c1) (g0 : c0 < 64) (g1 : c1 < 32) :
    ((BitVec.ofNat 32 (lit + x0.toNat * 8388608 + x1.toNat * 2097152 + x2.toNat * 65536 + x3.toNat * 2048 + x4.toNat * 64 + x5.toNat * 32)).extractLsb' 26 6).toNat = c0 ∧
    ((BitVec.ofNat 32 (lit + x0.toNat * 8388608 + x1.toNat * 2097152 + x2.toNat * 65536 + x3.toNat * 2048 + x4.toNat * 64 + x5.toNat * 32)).extractLsb' 0 5).toNat = c1 ∧
    (BitVec.ofNat 32 (lit + x0.toNat * 8388608 + x1.toNat * 2097152 + x2.toNat * 65536 + x3.toNat * 2048 + x4.toNat * 64 + x5.toNat * 32)).extractLsb' 23 3 = x0 ∧
    (BitVec.ofNat 32 (lit + x0.toNat * 8388608 + x1.toNat * 2097152 + x2.toNat * 65536 + x3.toNat * 2048 + x4.toNat * 64 + x5.toNat * 32)).extractLsb' 21 2 = x1 ∧
    (BitVec.ofNat 32 (lit + x0.toNat * 8388608 + x1.toNat * 2097152 + x2.toNat * 65536 + x3.toNat * 2048 + x4.toNat * 64 + x5.toNat * 32)).extractLsb' 16 5 = x2 ∧
    (BitVec.ofNat 32 (lit + x0.toNat * 8388608 + x1.toNat * 2097152 + x2.toNat * 65536 + x3.toNat * 2048 + x4.toNat * 64 + x5.toNat * 32)).extractLsb' 11 5 = x3 ∧
    (BitVec.ofNat 32 (lit + x0.toNat * 8388608 + x1.toNat * 2097152 + x2.toNat * 65536 + x3.toNat * 2048 + x4.toNat * 64 + x5.toNat * 32)).extractLsb' 6 2 = x4 ∧
    (BitVec.ofNat 32 (lit + x0.toNat * 8388608 + x1.toNat * 2097152 + x2.toNat * 65536 + x3.toNat * 2048 + x4.toNat * 64 + x5.toNat * 32)).extractLsb' 5 1 = x5 ∧
    (BitVec.ofNat 32 (lit + x0.toNat * 8388608 + x1.toNat * 2097152 + x2.toNat * 65536 + x3.toNat * 2048 + x4.toNat * 64 + x5.toNat * 32)).extractLsb' 8 3 = 0#3 := by
  have b0 := x0.isLt
  have b1 := x1.isLt
  have b2 := x2.isLt
  have b3 := x3.isLt
  have b4 := x4.isLt
  have b5 := x5.isLt
  have hn : lit + x0.toNat * 8388608 + x1.toNat * 2097152 + x2.toNat * 65536 + x3.toNat * 2048 + x4.toNat * 64 + x5.toNat * 32 < 4294967296 := by generalize e0 : x0.toNat = m0 at *; generalize e1 : x1.toNat = m1 at *; generalize e2 : x2.toNat = m2 at *; generalize e3 : x3.toNat = m3 at *; generalize e4 : x4.toNat = m4 at *; generalize e5 : x5.toNat = m5 at *; subst hl; omega
  refine ⟨field_toNat hn ?_, field_toNat hn ?_, field_ofNat hn ?_, field_ofNat hn ?_, field_ofNat hn ?_, field_ofNat hn ?_, field_ofNat hn ?_, field_ofNat hn ?_, field_ofNat hn ?_⟩ <;>
    · (try simp only [BitVec.toNat_ofNat]); generalize e0 : x0.toNat = m0 at *; generalize e1 : x1.toNat = m1 at *; generalize e2 : x2.toNat = m2 at *; generalize e3 : x3.toNat = m3 at *; generalize e4 : x4.toNat = m4 at *; generalize e5 : x5.toNat = m5 at *; subst hl; clear hn; omega

theorem layout63 {lit c0 c1 : Nat} (x0 : BitVec 5) (x1 : BitVec 5) (x2 : BitVec 5) (x3 : BitVec 3) (x4 : BitVec 1)
    (hl : lit = c0 * 67108864 + c1) (g0 : c0 < 64) (g1 : c1 < 32) :
    ((BitVec.ofNat 32 (lit + x0.toNat * 2097152 + x1.toNat * 65536 + x2.toNat * 2048 + x3.toNat * 256 + x4.toNat * 32)).extractLsb' 26 6).toNat = c0 ∧
    ((BitVec.ofNat 32 (lit + x0.toNat * 2097152 + x1.toNat * 65536 + x2.toNat * 2048 + x3.toNat * 256 + x4.toNat * 32)).extractLsb' 0 5).toNat = c1 ∧
    (BitVec.ofNat 32 (lit + x0.toNat * 2097152 + x1.toNat * 65536 + x2.toNat * 2048 + x3.toNat * 256 + x4.toNat * 32)).extractLsb' 21 5 = x0 ∧
    (BitVec.ofNat 32 (lit + x0.toNat * 2097152 + x1.toNat * 65536 + x2.toNat * 2048 + x3.toNat * 256 + x4.toNat * 32)).extractLsb' 16 5 = x1 ∧
    (BitVec.ofNat 32 (lit + x0.toNat * 2097152 + x1.toNat * 65536 + x2.toNat * 2048 + x3.toNat * 256 + x4.toNat * 32)).extractLsb' 11 5 = x2 ∧
    (BitVec.ofNat 32 (lit + x0.toNat * 2097152 + x1.toNat * 65536 + x2.toNat * 2048 + x3.toNat * 256 + x4.toNat * 32)).extractLsb' 8 3 = x3 ∧
    (BitVec.ofNat 32 (lit + x0.toNat * 2097152 + x1.toNat * 65536 + x2.toNat * 2048 + x3.toNat * 256 + x4.toNat * 32)).extractLsb' 5 1 = x4 ∧
    (BitVec.ofNat 32 (lit + x0.toNat * 2097152 + x1.toNat * 65536 + x2.toNat * 2048 + x3.toNat * 256 + x4.toNat * 32)).extractLsb' 6 2 = 0#2 := by
  have b0 := x0.isLt
  have b1 := x1.isLt
  have b2 := x2.isLt
  have b3 := x3.isLt
  have b4 := x4.isLt
  have hn : lit + x0.toNat * 2097152 + x1.toNat * 65536 + x2.toNat * 2048 + x3.toNat * 256 + x4.toNat * 32 < 4294967296 := by generalize e0 : x0.toNat = m0 at *; generalize e1 : x1.toNat = m1 at *; generalize e2 : x2.toNat = m2 at *; generalize e3 : x3.toNat = m3 at *; generalize e4 : x4.toNat = m4 at *; subst hl; omega
  refine ⟨field_toNat hn ?_, field_toNat hn ?_, field_ofNat hn ?_, field_ofNat hn ?_, field_ofNat hn ?_, field_ofNat hn ?_, field_ofNat hn ?_, field_ofNat hn ?_⟩ <;>
    · (try simp only [BitVec.toNat_ofNat]); generalize e0 : x0.toNat = m0 at *; generalize e1 : x1.toNat = m1 at *; generalize e2 : x2.toNat = m2 at *; generalize e3 : x3.toNat = m3 at *; generalize e4 : x4.toNat = m4 at *; subst hl; clear hn; omega

theorem layout64 {lit c0 c1 : Nat} (x0 : BitVec 5) (x1 : BitVec 3)
    (hl : lit = c0 * 67108864 + c1) (g0 : c0 < 64) (g1 : c1 < 32) :
    ((BitVec.ofNat 32 (lit + x0.toNat * 65536 + x1.toNat * 256)).extractLsb' 26 6).toNat = c0 ∧
    ((BitVec.ofNat 32 (lit + x0.toNat * 65536 + x1.toNat * 256)).extractLsb' 0 5).toNat = c1 ∧
    (BitVec.ofNat 32 (lit + x0.toNat * 65536 + x1.toNat * 256)).extractLsb' 16 5 = x0 ∧
    (BitVec.ofNat 32 (lit + x0.toNat * 65536 + x1.toNat * 256)).extractLsb' 8 3 = x1 ∧
    (BitVec.ofNat 32 (lit + x0.toNat * 65536 + x1.toNat * 256)).extractLsb' 5 3 = 0#3 ∧
    (BitVec.ofNat 32 (lit + x0.toNat * 65536 + x1.toNat * 256)).extractLsb' 11 5 = 0#5 ∧
    (BitVec.ofNat 32 (lit + x0.toNat * 65536 + x1.toNat * 256)).extractLsb' 21 5 = 0#5 := by
  have b0 := x0.isLt
  have b1 := x1.isLt
  have hn : lit + x0.toNat * 65536 + x1.toNat * 256 < 4294967296 := by generalize e0 : x0.toNat = m0 at *; generalize e1 : x1.toNat = m1 at *; subst hl; omega
  refine ⟨field_toNat hn ?_, field_toNat hn ?_, field_ofNat hn ?_, field_ofNat hn ?_, field_ofNat hn ?_, field_ofNat hn ?_, field_ofNat hn ?_⟩ <;>
    · (try simp only [BitVec.toNat_ofNat]); generalize e0 : x0.toNat = m0 at *; generalize e1 : x1.toNat = m1 at *; subst hl; clear hn; omega

theorem layout65 {lit c0 c1 : Nat} (x0 : BitVec 5) (x1 : BitVec 5) (x2 : BitVec 5) (x3 : BitVec 3)
    (hl : lit = c0 * 67108864 + c1) (g0 : c0 < 64) (g1 : c1 < 32) :
    ((BitVec.ofNat 32 (lit + x0.toNat * 2097152 + x1.toNat * 65536 + x2.toNat * 2048 + x3.toNat * 256)).extractLsb' 26 6).toNat = c0 ∧
    ((BitVec.ofNat 32 (lit + x0.toNat * 2097152 + x1.toNat * 65536 + x2.toNat * 2048 + x3.toNat * 256)).extractLsb' 0 5).toNat = c1 ∧
    (BitVec.ofNat 32 (lit + x0.toNat * 2097152 + x1.toNat * 65536 + x2.toNat * 2048 + x3.toNat * 256)).extractLsb' 21 5 = x0 ∧
    (BitVec.ofNat 32 (lit + x0.toNat * 2097152 + x1.toNat * 65536 + x2.toNat * 2048 + x3.toNat * 256)).extractLsb' 16 5 = x1 ∧
    (BitVec.ofNat 32 (lit + x0.toNat * 2097152 + x1.toNat * 65536 + x2.toNat * 2048 + x3.toNat * 256)).extractLsb' 11 5 = x2 ∧
    (BitVec.ofNat 32 (lit + x0.toNat * 2097152 + x1.toNat * 65536 + x2.toNat * 2048 + x3.toNat * 256)).extractLsb' 8 3 = x3 ∧
    (BitVec.ofNat 32 (lit + x0.toNat * 2097152 + x1.toNat * 65536 + x2.toNat * 2048 + x3.toNat * 256)).extractLsb' 5 3 = 0#3 := by
  have b0 := x0.isLt
  have b1 := x1.isLt
  have b2 := x2.isLt
  have b3 := x3.isLt
  have hn : lit + x0.toNat * 2097152 + x1.toNat * 65536 + x2.toNat * 2048 + x3.toNat * 256 < 4294967296 := by generalize e0 : x0.toNat = m0 at *; generalize e1 : x1.toNat = m1 at *; generalize e2 : x2.toNat = m2 at *; generalize e3 : x3.toNat = m3 at *; subst hl; omega
  refine ⟨field_toNat hn ?_, field_toNat hn ?_, field_ofNat hn ?_, field_ofNat hn ?_, field_ofNat hn ?_, field_ofNat hn ?_, field_ofNat hn ?_⟩ <;>
    · (try simp only [BitVec.toNat_ofNat]); generalize e0 : x0.toNat = m0 at *; generalize e1 : x1.toNat = m1 at *; generalize e2 : x2.toNat = m2 at *; generalize e3 : x3.toNat = m3 at *; subst hl; clear hn; omega

theorem layout66 {lit c0 c1 : Nat} (x0 : BitVec 1) (x1 : BitVec 5) (x2 : BitVec 5) (x3 : BitVec 3) (x4 : BitVec 1) (x5 : BitVec 2)
    (hl : lit = c0 * 67108864 + c1) (g0 : c0 < 64) (g1 : c1 < 32) :
    ((BitVec.ofNat 32 (lit + x0.toNat * 2097152 + x1.toNat * 65536 + x2.toNat * 2048 + x3.toNat * 256 + x4.toNat * 128 + x5.toNat * 32)).extractLsb' 26 6).toNat = c0 ∧
    ((BitVec.ofNat 32 (lit + x0.toNat * 2097152 + x1.toNat * 65536 + x2.toNat * 2048 + x3.toNat * 256 + x4.toNat * 128 + x5.toNat * 32)).extractLsb' 0 5).toNat = c1 ∧
    (BitVec.ofNat 32 (lit + x0.toNat * 2097152 + x1.toNat * 65536 + x2.toNat * 2048 + x3.toNat * 256 + x4.toNat * 128 + x5.toNat * 32)).extractLsb' 21 1 = x0 ∧
    (BitVec.ofNat 32 (lit + x0.toNat * 2097152 + x1.toNat * 65536 + x2.toNat * 2048 + x3.toNat * 256 + x4.toNat * 128 + x5.toNat * 32)).extractLsb' 16 5 = x1 ∧
    (BitVec.ofNat 32 (lit + x0.toNat * 2097152 + x1.toNat * 65536 + x2.toNat * 2048 + x3.toNat * 256 + x4.toNat * 128 + x5.toNat * 32)).extractLsb' 11 5 = x2 ∧
    (BitVec.ofNat 32 (lit + x0.toNat * 2097152 + x1.toNat * 65536 + x2.toNat * 2048 + x3.toNat * 256 + x4.toNat * 128 + x5.toNat * 32)).extractLsb' 8 3 = x3 ∧
    (BitVec.ofNat 32 (lit + x0.toNat * 2097152 + x1.toNat * 65536 + x2.toNat * 2048 + x3.toNat * 256 + x4.toNat * 128 + x5.toNat * 32)).extractLsb' 7 1 = x4 ∧
    (BitVec.ofNat 32 (lit + x0.toNat * 2097152 + x1.toNat * 65536 + x2.toNat * 2048 + x3.toNat * 256 + x4.toNat * 128 + x5.toNat * 32)).extractLsb' 5 2 = x5 ∧
    (BitVec.ofNat 32 (lit + x0.toNat * 2097152 + x1.toNat * 65536 + x2.toNat * 2048 + x3.toNat * 256 + x4.toNat * 128 + x5.toNat * 32)).extractLsb' 22 4 = 0#4 := by
  have b0 := x0.isLt
  have b1 := x1.isLt
  have b2 := x2.isLt
  have b3 := x3.isLt
  have b4 := x4.isLt
  have b5 := x5.isLt
  have hn : lit + x0.toNat * 2097152 + x1.toNat * 65536 + x2.toNat * 2048 + x3.toNat * 256 + x4.toNat * 128 + x5.toNat * 32 < 4294967296 := by generalize e0 : x0.toNat = m0 at *; generalize e1 : x1.toNat = m1 at *; generalize e2 : x2.toNat = m2 at *; generalize e3 : x3.toNat = m3 at *; generalize e4 : x4.toNat = m4 at *; generalize e5 : x5.toNat = m5 at *; subst hl; omega
  refine ⟨field_toNat hn ?_, field_toNat hn ?_, field_ofNat hn ?_, field_ofNat hn ?_, field_ofNat hn ?_, field_ofNat hn ?_, field_ofNat hn ?_, field_ofNat hn ?_, field_ofNat hn ?_⟩ <;>
    · (try simp only [BitVec.toNat_ofNat]); generalize e0 : x0.toNat = m0 at *; generalize e1 : x1.toNat = m1 at *; generalize e2 : x2.toNat = m2 at *; generalize e3 : x3.toNat = m3 at *; generalize e4 : x4.toNat = m4 at *; generalize e5 : x5.toNat = m5 at *; subst hl; clear hn; omega

theorem layout67 {lit c0 c1 : Nat} (x0 : BitVec 5) (x1 : BitVec 5) (x2 : BitVec 3)
    (hl : lit = c0 * 67108864 + c1) (g0 : c0 < 64) (g1 : c1 < 32) :
    ((BitVec.ofNat 32 (lit + x0.toNat * 65536 + x1.toNat * 2048 + x2.toNat * 256)).extractLsb' 26 6).toNat = c0 ∧
    ((BitVec.ofNat 32 (lit + x0.toNat * 65536 + x1.toNat * 2048 + x2.toNat * 256)).extractLsb' 0 5).toNat = c1 ∧
    (BitVec.ofNat 32 (lit + x0.toNat * 65536 + x1.toNat * 2048 + x2.toNat * 256)).extractLsb' 16 5 = x0 ∧
    (BitVec.ofNat 32 (lit + x0.toNat * 65536 + x1.toNat * 2048 + x2.toNat * 256)).extractLsb' 11 5 = x1 ∧
    (BitVec.ofNat 32 (lit + x0.toNat * 65536 + x1.toNat * 2048 + x2.toNat * 256)).extractLsb' 8 3 = x2 ∧
    (BitVec.ofNat 32 (lit + x0.toNat * 65536 + x1.toNat * 2048 + x2.toNat * 256)).extractLsb' 5 3 = 0#3 ∧
    (BitVec.ofNat 32 (lit + x0.toNat * 65536 + x1.toNat * 2048 + x2.toNat * 256)).extractLsb' 21 5 = 0#5 := by
  have b0 := x0.isLt
  have b1 := x1.isLt
  have b2 := x2.isLt
  have hn : lit + x0.toNat * 65536 + x1.toNat * 2048 + x2.toNat * 256 < 4294967296 := by generalize e0 : x0.toNat = m0 at *; generalize e1 : x1.toNat = m1 at *; generalize e2 : x2.toNat = m2 at *; subst hl; omega
  refine ⟨field_toNat hn ?_, field_toNat hn ?_, field_ofNat hn ?_, field_ofNat hn ?_, field_ofNat hn ?_, field_ofNat hn ?_, field_ofNat hn ?_⟩ <;>
    · (try simp only [BitVec.toNat_ofNat]); generalize e0 : x0.toNat = m0 at *; generalize e1 : x1.toNat = m1 at *; generalize e2 : x2.toNat = m2 at *; subst hl; clear hn; omega

theorem layout68 {lit c0 c1 : Nat} (x0 : BitVec 5) (x1 : BitVec 3) (x2 : BitVec 1)
    (hl : lit = c0 * 67108864 + c1) (g0 : c0 < 64) (g1 : c1 < 32) :
    ((BitVec.ofNat 32 (lit + x0.toNat * 2097152 + x1.toNat * 256 + x2.toNat * 32)).extractLsb' 26 6).toNat = c0 ∧
    ((BitVec.ofNat 32 (lit + x0.toNat * 2097152 + x1.toNat * 256 + x2.toNat * 32)).extractLsb' 0 5).toNat = c1 ∧
    (BitVec.ofNat 32 (lit + x0.toNat * 2097152 + x1.toNat * 256 + x2.toNat * 32)).extractLsb' 21 5 = x0 ∧
    (BitVec.ofNat 32 (lit + x0.toNat * 2097152 + x1.toNat * 256 + x2.toNat * 32)).extractLsb' 8 3 = x1 ∧
    (BitVec.ofNat 32 (lit + x0.toNat * 2097152 + x1.toNat * 256 + x2.toNat * 32)).extractLsb' 5 1 = x2 ∧
    (BitVec.ofNat 32 (lit + x0.toNat * 2097152 + x1.toNat * 256 + x2.toNat * 32)).extractLsb' 6 2 = 0#2 ∧
    (BitVec.ofNat 32 (lit + x0.toNat * 2097152 + x1.toNat * 256 + x2.toNat * 32)).extractLsb' 11 10 = 0#10 := by
  have b0 := x0.isLt
  have b1 := x1.isLt
  have b2 := x2.isLt
  have hn : lit + x0.toNat * 2097152 + x1.toNat * 256 + x2.toNat * 32 < 4294967296 := by generalize e0 : x0.toNat = m0 at *; generalize e1 : x1.toNat = m1 at *; generalize e2 : x2.toNat = m2 at *; subst hl; omega
  refine ⟨field_toNat hn ?_, field_toNat hn ?_, field_ofNat hn ?_, field_ofNat hn ?_, field_ofNat hn ?_, field_ofNat hn ?_, field_ofNat hn ?_⟩ <;>
    · (try simp only [BitVec.toNat_ofNat]); generalize e0 : x0.toNat = m0 at *; generalize e1 : x1.toNat = m1 at *; generalize e2 : x2.toNat = m2 at *; subst hl; clear hn; omega

end Sys2Proof

namespace Sys2Proof.Laws.RoundTrip

/-- Decoding the word of a well-formed instruction gives the instruction back. -/
def Statement (i : Instr) : Prop := i.encoded = true → i.wf = true → decodeWord (encode i) = .instr i

theorem add (rd : BitVec 5) (rs1 : BitVec 5) (rs2 : BitVec 5) : Statement (.add rd rs1 rs2) := by
  intro _ hw
  obtain ⟨h0, h1, h2, h3, h4⟩ := layout0 (lit := 0x04000000) rd rs1 rs2 (by decide : _ = 1 * 67108864 + 0) (by decide) (by decide)
  refine decodeWord_of_raw (w := BitVec.ofNat 32 (0x04000000 + rd.toNat * 0x200000 + rs1.toNat * 0x10000 + rs2.toNat * 0x800))
    ((decodeRaw_01 h0).trans ((decode01_add h1).trans ?_)) hw
  rw [h2, h3, h4]
theorem sub (rd : BitVec 5) (rs1 : BitVec 5) (rs2 : BitVec 5) : Statement (.sub rd rs1 rs2) := by
  intro _ hw
  obtain ⟨h0, h1, h2, h3, h4⟩ := layout0 (lit := 0x04000001) rd rs1 rs2 (by decide : _ = 1 * 67108864 + 1) (by decide) (by decide)
  refine decodeWord_of_raw (w := BitVec.ofNat 32 (0x04000001 + rd.toNat * 0x200000 + rs1.toNat * 0x10000 + rs2.toNat * 0x800))
    ((decodeRaw_01 h0).trans ((decode01_sub h1).trans ?_)) hw
  rw [h2, h3, h4]
theorem and (rd : BitVec 5) (rs1 : BitVec 5) (rs2 : BitVec 5) : Statement (.and rd rs1 rs2) := by
  intro _ hw
  obtain ⟨h0, h1, h2, h3, h4⟩ := layout0 (lit := 0x04000002) rd rs1 rs2 (by decide : _ = 1 * 67108864 + 2) (by decide) (by decide)
  refine decodeWord_of_raw (w := BitVec.ofNat 32 (0x04000002 + rd.toNat * 0x200000 + rs1.toNat * 0x10000 + rs2.toNat * 0x800))
    ((decodeRaw_01 h0).trans ((decode01_and h1).trans ?_)) hw
  rw [h2, h3, h4]
theorem or (rd : BitVec 5) (rs1 : BitVec 5) (rs2 : BitVec 5) : Statement (.or rd rs1 rs2) := by
  intro _ hw
  obtain ⟨h0, h1, h2, h3, h4⟩ := layout0 (lit := 0x04000003) rd rs1 rs2 (by decide : _ = 1 * 67108864 + 3) (by decide) (by decide)
  refine decodeWord_of_raw (w := BitVec.ofNat 32 (0x04000003 + rd.toNat * 0x200000 + rs1.toNat * 0x10000 + rs2.toNat * 0x800))
    ((decodeRaw_01 h0).trans ((decode01_or h1).trans ?_)) hw
  rw [h2, h3, h4]
theorem xor (rd : BitVec 5) (rs1 : BitVec 5) (rs2 : BitVec 5) : Statement (.xor rd rs1 rs2) := by
  intro _ hw
  obtain ⟨h0, h1, h2, h3, h4⟩ := layout0 (lit := 0x04000004) rd rs1 rs2 (by decide : _ = 1 * 67108864 + 4) (by decide) (by decide)
  refine decodeWord_of_raw (w := BitVec.ofNat 32 (0x04000004 + rd.toNat * 0x200000 + rs1.toNat * 0x10000 + rs2.toNat * 0x800))
    ((decodeRaw_01 h0).trans ((decode01_xor h1).trans ?_)) hw
  rw [h2, h3, h4]
theorem andn (rd : BitVec 5) (rs1 : BitVec 5) (rs2 : BitVec 5) : Statement (.andn rd rs1 rs2) := by
  intro _ hw
  obtain ⟨h0, h1, h2, h3, h4⟩ := layout0 (lit := 0x04000005) rd rs1 rs2 (by decide : _ = 1 * 67108864 + 5) (by decide) (by decide)
  refine decodeWord_of_raw (w := BitVec.ofNat 32 (0x04000005 + rd.toNat * 0x200000 + rs1.toNat * 0x10000 + rs2.toNat * 0x800))
    ((decodeRaw_01 h0).trans ((decode01_andn h1).trans ?_)) hw
  rw [h2, h3, h4]
theorem sll (rd : BitVec 5) (rs1 : BitVec 5) (rs2 : BitVec 5) : Statement (.sll rd rs1 rs2) := by
  intro _ hw
  obtain ⟨h0, h1, h2, h3, h4⟩ := layout0 (lit := 0x04000006) rd rs1 rs2 (by decide : _ = 1 * 67108864 + 6) (by decide) (by decide)
  refine decodeWord_of_raw (w := BitVec.ofNat 32 (0x04000006 + rd.toNat * 0x200000 + rs1.toNat * 0x10000 + rs2.toNat * 0x800))
    ((decodeRaw_01 h0).trans ((decode01_sll h1).trans ?_)) hw
  rw [h2, h3, h4]
theorem srl (rd : BitVec 5) (rs1 : BitVec 5) (rs2 : BitVec 5) : Statement (.srl rd rs1 rs2) := by
  intro _ hw
  obtain ⟨h0, h1, h2, h3, h4⟩ := layout0 (lit := 0x04000007) rd rs1 rs2 (by decide : _ = 1 * 67108864 + 7) (by decide) (by decide)
  refine decodeWord_of_raw (w := BitVec.ofNat 32 (0x04000007 + rd.toNat * 0x200000 + rs1.toNat * 0x10000 + rs2.toNat * 0x800))
    ((decodeRaw_01 h0).trans ((decode01_srl h1).trans ?_)) hw
  rw [h2, h3, h4]
theorem sra (rd : BitVec 5) (rs1 : BitVec 5) (rs2 : BitVec 5) : Statement (.sra rd rs1 rs2) := by
  intro _ hw
  obtain ⟨h0, h1, h2, h3, h4⟩ := layout0 (lit := 0x04000008) rd rs1 rs2 (by decide : _ = 1 * 67108864 + 8) (by decide) (by decide)
  refine decodeWord_of_raw (w := BitVec.ofNat 32 (0x04000008 + rd.toNat * 0x200000 + rs1.toNat * 0x10000 + rs2.toNat * 0x800))
    ((decodeRaw_01 h0).trans ((decode01_sra h1).trans ?_)) hw
  rw [h2, h3, h4]
theorem ror (rd : BitVec 5) (rs1 : BitVec 5) (rs2 : BitVec 5) : Statement (.ror rd rs1 rs2) := by
  intro _ hw
  obtain ⟨h0, h1, h2, h3, h4⟩ := layout0 (lit := 0x04000009) rd rs1 rs2 (by decide : _ = 1 * 67108864 + 9) (by decide) (by decide)
  refine decodeWord_of_raw (w := BitVec.ofNat 32 (0x04000009 + rd.toNat * 0x200000 + rs1.toNat * 0x10000 + rs2.toNat * 0x800))
    ((decodeRaw_01 h0).trans ((decode01_ror h1).trans ?_)) hw
  rw [h2, h3, h4]
theorem slt (rd : BitVec 5) (rs1 : BitVec 5) (rs2 : BitVec 5) : Statement (.slt rd rs1 rs2) := by
  intro _ hw
  obtain ⟨h0, h1, h2, h3, h4⟩ := layout0 (lit := 0x0400000A) rd rs1 rs2 (by decide : _ = 1 * 67108864 + 10) (by decide) (by decide)
  refine decodeWord_of_raw (w := BitVec.ofNat 32 (0x0400000A + rd.toNat * 0x200000 + rs1.toNat * 0x10000 + rs2.toNat * 0x800))
    ((decodeRaw_01 h0).trans ((decode01_slt h1).trans ?_)) hw
  rw [h2, h3, h4]
theorem sltu (rd : BitVec 5) (rs1 : BitVec 5) (rs2 : BitVec 5) : Statement (.sltu rd rs1 rs2) := by
  intro _ hw
  obtain ⟨h0, h1, h2, h3, h4⟩ := layout0 (lit := 0x0400000B) rd rs1 rs2 (by decide : _ = 1 * 67108864 + 11) (by decide) (by decide)
  refine decodeWord_of_raw (w := BitVec.ofNat 32 (0x0400000B + rd.toNat * 0x200000 + rs1.toNat * 0x10000 + rs2.toNat * 0x800))
    ((decodeRaw_01 h0).trans ((decode01_sltu h1).trans ?_)) hw
  rw [h2, h3, h4]
theorem min (rd : BitVec 5) (rs1 : BitVec 5) (rs2 : BitVec 5) : Statement (.min rd rs1 rs2) := by
  intro _ hw
  obtain ⟨h0, h1, h2, h3, h4⟩ := layout0 (lit := 0x0400000C) rd rs1 rs2 (by decide : _ = 1 * 67108864 + 12) (by decide) (by decide)
  refine decodeWord_of_raw (w := BitVec.ofNat 32 (0x0400000C + rd.toNat * 0x200000 + rs1.toNat * 0x10000 + rs2.toNat * 0x800))
    ((decodeRaw_01 h0).trans ((decode01_min h1).trans ?_)) hw
  rw [h2, h3, h4]
theorem max (rd : BitVec 5) (rs1 : BitVec 5) (rs2 : BitVec 5) : Statement (.max rd rs1 rs2) := by
  intro _ hw
  obtain ⟨h0, h1, h2, h3, h4⟩ := layout0 (lit := 0x0400000D) rd rs1 rs2 (by decide : _ = 1 * 67108864 + 13) (by decide) (by decide)
  refine decodeWord_of_raw (w := BitVec.ofNat 32 (0x0400000D + rd.toNat * 0x200000 + rs1.toNat * 0x10000 + rs2.toNat * 0x800))
    ((decodeRaw_01 h0).trans ((decode01_max h1).trans ?_)) hw
  rw [h2, h3, h4]
theorem minu (rd : BitVec 5) (rs1 : BitVec 5) (rs2 : BitVec 5) : Statement (.minu rd rs1 rs2) := by
  intro _ hw
  obtain ⟨h0, h1, h2, h3, h4⟩ := layout0 (lit := 0x0400000E) rd rs1 rs2 (by decide : _ = 1 * 67108864 + 14) (by decide) (by decide)
  refine decodeWord_of_raw (w := BitVec.ofNat 32 (0x0400000E + rd.toNat * 0x200000 + rs1.toNat * 0x10000 + rs2.toNat * 0x800))
    ((decodeRaw_01 h0).trans ((decode01_minu h1).trans ?_)) hw
  rw [h2, h3, h4]
theorem maxu (rd : BitVec 5) (rs1 : BitVec 5) (rs2 : BitVec 5) : Statement (.maxu rd rs1 rs2) := by
  intro _ hw
  obtain ⟨h0, h1, h2, h3, h4⟩ := layout0 (lit := 0x0400000F) rd rs1 rs2 (by decide : _ = 1 * 67108864 + 15) (by decide) (by decide)
  refine decodeWord_of_raw (w := BitVec.ofNat 32 (0x0400000F + rd.toNat * 0x200000 + rs1.toNat * 0x10000 + rs2.toNat * 0x800))
    ((decodeRaw_01 h0).trans ((decode01_maxu h1).trans ?_)) hw
  rw [h2, h3, h4]
theorem mul (rd : BitVec 5) (rs1 : BitVec 5) (rs2 : BitVec 5) : Statement (.mul rd rs1 rs2) := by
  intro _ hw
  obtain ⟨h0, h1, h2, h3, h4⟩ := layout0 (lit := 0x04000010) rd rs1 rs2 (by decide : _ = 1 * 67108864 + 16) (by decide) (by decide)
  refine decodeWord_of_raw (w := BitVec.ofNat 32 (0x04000010 + rd.toNat * 0x200000 + rs1.toNat * 0x10000 + rs2.toNat * 0x800))
    ((decodeRaw_01 h0).trans ((decode01_mul h1).trans ?_)) hw
  rw [h2, h3, h4]
theorem mulh (rd : BitVec 5) (rs1 : BitVec 5) (rs2 : BitVec 5) : Statement (.mulh rd rs1 rs2) := by
  intro _ hw
  obtain ⟨h0, h1, h2, h3, h4⟩ := layout0 (lit := 0x04000011) rd rs1 rs2 (by decide : _ = 1 * 67108864 + 17) (by decide) (by decide)
  refine decodeWord_of_raw (w := BitVec.ofNat 32 (0x04000011 + rd.toNat * 0x200000 + rs1.toNat * 0x10000 + rs2.toNat * 0x800))
    ((decodeRaw_01 h0).trans ((decode01_mulh h1).trans ?_)) hw
  rw [h2, h3, h4]
theorem mulhu (rd : BitVec 5) (rs1 : BitVec 5) (rs2 : BitVec 5) : Statement (.mulhu rd rs1 rs2) := by
  intro _ hw
  obtain ⟨h0, h1, h2, h3, h4⟩ := layout0 (lit := 0x04000012) rd rs1 rs2 (by decide : _ = 1 * 67108864 + 18) (by decide) (by decide)
  refine decodeWord_of_raw (w := BitVec.ofNat 32 (0x04000012 + rd.toNat * 0x200000 + rs1.toNat * 0x10000 + rs2.toNat * 0x800))
    ((decodeRaw_01 h0).trans ((decode01_mulhu h1).trans ?_)) hw
  rw [h2, h3, h4]
theorem mulhsu (rd : BitVec 5) (rs1 : BitVec 5) (rs2 : BitVec 5) : Statement (.mulhsu rd rs1 rs2) := by
  intro _ hw
  obtain ⟨h0, h1, h2, h3, h4⟩ := layout0 (lit := 0x04000013) rd rs1 rs2 (by decide : _ = 1 * 67108864 + 19) (by decide) (by decide)
  refine decodeWord_of_raw (w := BitVec.ofNat 32 (0x04000013 + rd.toNat * 0x200000 + rs1.toNat * 0x10000 + rs2.toNat * 0x800))
    ((decodeRaw_01 h0).trans ((decode01_mulhsu h1).trans ?_)) hw
  rw [h2, h3, h4]
theorem div (rd : BitVec 5) (rs1 : BitVec 5) (rs2 : BitVec 5) : Statement (.div rd rs1 rs2) := by
  intro _ hw
  obtain ⟨h0, h1, h2, h3, h4⟩ := layout0 (lit := 0x04000014) rd rs1 rs2 (by decide : _ = 1 * 67108864 + 20) (by decide) (by decide)
  refine decodeWord_of_raw (w := BitVec.ofNat 32 (0x04000014 + rd.toNat * 0x200000 + rs1.toNat * 0x10000 + rs2.toNat * 0x800))
    ((decodeRaw_01 h0).trans ((decode01_div h1).trans ?_)) hw
  rw [h2, h3, h4]
theorem divu (rd : BitVec 5) (rs1 : BitVec 5) (rs2 : BitVec 5) : Statement (.divu rd rs1 rs2) := by
  intro _ hw
  obtain ⟨h0, h1, h2, h3, h4⟩ := layout0 (lit := 0x04000015) rd rs1 rs2 (by decide : _ = 1 * 67108864 + 21) (by decide) (by decide)
  refine decodeWord_of_raw (w := BitVec.ofNat 32 (0x04000015 + rd.toNat * 0x200000 + rs1.toNat * 0x10000 + rs2.toNat * 0x800))
    ((decodeRaw_01 h0).trans ((decode01_divu h1).trans ?_)) hw
  rw [h2, h3, h4]
theorem rem (rd : BitVec 5) (rs1 : BitVec 5) (rs2 : BitVec 5) : Statement (.rem rd rs1 rs2) := by
  intro _ hw
  obtain ⟨h0, h1, h2, h3, h4⟩ := layout0 (lit := 0x04000016) rd rs1 rs2 (by decide : _ = 1 * 67108864 + 22) (by decide) (by decide)
  refine decodeWord_of_raw (w := BitVec.ofNat 32 (0x04000016 + rd.toNat * 0x200000 + rs1.toNat * 0x10000 + rs2.toNat * 0x800))
    ((decodeRaw_01 h0).trans ((decode01_rem h1).trans ?_)) hw
  rw [h2, h3, h4]
theorem remu (rd : BitVec 5) (rs1 : BitVec 5) (rs2 : BitVec 5) : Statement (.remu rd rs1 rs2) := by
  intro _ hw
  obtain ⟨h0, h1, h2, h3, h4⟩ := layout0 (lit := 0x04000017) rd rs1 rs2 (by decide : _ = 1 * 67108864 + 23) (by decide) (by decide)
  refine decodeWord_of_raw (w := BitVec.ofNat 32 (0x04000017 + rd.toNat * 0x200000 + rs1.toNat * 0x10000 + rs2.toNat * 0x800))
    ((decodeRaw_01 h0).trans ((decode01_remu h1).trans ?_)) hw
  rw [h2, h3, h4]
theorem sh1add (rd : BitVec 5) (rs1 : BitVec 5) (rs2 : BitVec 5) : Statement (.sh1add rd rs1 rs2) := by
  intro _ hw
  obtain ⟨h0, h1, h2, h3, h4⟩ := layout0 (lit := 0x04000018) rd rs1 rs2 (by decide : _ = 1 * 67108864 + 24) (by decide) (by decide)
  refine decodeWord_of_raw (w := BitVec.ofNat 32 (0x04000018 + rd.toNat * 0x200000 + rs1.toNat * 0x10000 + rs2.toNat * 0x800))
    ((decodeRaw_01 h0).trans ((decode01_sh1add h1).trans ?_)) hw
  rw [h2, h3, h4]
theorem sh2add (rd : BitVec 5) (rs1 : BitVec 5) (rs2 : BitVec 5) : Statement (.sh2add rd rs1 rs2) := by
  intro _ hw
  obtain ⟨h0, h1, h2, h3, h4⟩ := layout0 (lit := 0x04000019) rd rs1 rs2 (by decide : _ = 1 * 67108864 + 25) (by decide) (by decide)
  refine decodeWord_of_raw (w := BitVec.ofNat 32 (0x04000019 + rd.toNat * 0x200000 + rs1.toNat * 0x10000 + rs2.toNat * 0x800))
    ((decodeRaw_01 h0).trans ((decode01_sh2add h1).trans ?_)) hw
  rw [h2, h3, h4]
theorem sh3add (rd : BitVec 5) (rs1 : BitVec 5) (rs2 : BitVec 5) : Statement (.sh3add rd rs1 rs2) := by
  intro _ hw
  obtain ⟨h0, h1, h2, h3, h4⟩ := layout0 (lit := 0x0400001A) rd rs1 rs2 (by decide : _ = 1 * 67108864 + 26) (by decide) (by decide)
  refine decodeWord_of_raw (w := BitVec.ofNat 32 (0x0400001A + rd.toNat * 0x200000 + rs1.toNat * 0x10000 + rs2.toNat * 0x800))
    ((decodeRaw_01 h0).trans ((decode01_sh3add h1).trans ?_)) hw
  rw [h2, h3, h4]
theorem clz (rd : BitVec 5) (rs1 : BitVec 5) : Statement (.clz rd rs1) := by
  intro _ hw
  obtain ⟨h0, h1, h2, h3, h4⟩ := layout1 (lit := 0x0400001B) rd rs1 (by decide : _ = 1 * 67108864 + 27) (by decide) (by decide)
  refine decodeWord_of_raw (w := BitVec.ofNat 32 (0x0400001B + rd.toNat * 0x200000 + rs1.toNat * 0x10000))
    ((decodeRaw_01 h0).trans ((decode01_clz h1).trans ?_)) hw
  rw [h2, h3, h4]
  rfl
theorem ctz (rd : BitVec 5) (rs1 : BitVec 5) : Statement (.ctz rd rs1) := by
  intro _ hw
  obtain ⟨h0, h1, h2, h3, h4⟩ := layout1 (lit := 0x0400001C) rd rs1 (by decide : _ = 1 * 67108864 + 28) (by decide) (by decide)
  refine decodeWord_of_raw (w := BitVec.ofNat 32 (0x0400001C + rd.toNat * 0x200000 + rs1.toNat * 0x10000))
    ((decodeRaw_01 h0).trans ((decode01_ctz h1).trans ?_)) hw
  rw [h2, h3, h4]
  rfl
theorem cpop (rd : BitVec 5) (rs1 : BitVec 5) : Statement (.cpop rd rs1) := by
  intro _ hw
  obtain ⟨h0, h1, h2, h3, h4⟩ := layout1 (lit := 0x0400001D) rd rs1 (by decide : _ = 1 * 67108864 + 29) (by decide) (by decide)
  refine decodeWord_of_raw (w := BitVec.ofNat 32 (0x0400001D + rd.toNat * 0x200000 + rs1.toNat * 0x10000))
    ((decodeRaw_01 h0).trans ((decode01_cpop h1).trans ?_)) hw
  rw [h2, h3, h4]
  rfl
theorem addi (rd : BitVec 5) (rs1 : BitVec 5) (imm : BitVec 16) : Statement (.addi rd rs1 imm) := by
  intro _ hw
  obtain ⟨h0, h1, h2, h3⟩ := layout2 (lit := 0x08000000) rd rs1 imm (by decide : _ = 2 * 67108864) (by decide)
  refine decodeWord_of_raw (w := BitVec.ofNat 32 (0x08000000 + rd.toNat * 0x200000 + rs1.toNat * 0x10000 + imm.toNat))
    ((decodeRaw_addi h0).trans ?_) hw
  rw [h1, h2, h3]
theorem andi (rd : BitVec 5) (rs1 : BitVec 5) (imm : BitVec 16) : Statement (.andi rd rs1 imm) := by
  intro _ hw
  obtain ⟨h0, h1, h2, h3⟩ := layout2 (lit := 0x0C000000) rd rs1 imm (by decide : _ = 3 * 67108864) (by decide)
  refine decodeWord_of_raw (w := BitVec.ofNat 32 (0x0C000000 + rd.toNat * 0x200000 + rs1.toNat * 0x10000 + imm.toNat))
    ((decodeRaw_andi h0).trans ?_) hw
  rw [h1, h2, h3]
theorem ori (rd : BitVec 5) (rs1 : BitVec 5) (imm : BitVec 16) : Statement (.ori rd rs1 imm) := by
  intro _ hw
  obtain ⟨h0, h1, h2, h3⟩ := layout2 (lit := 0x10000000) rd rs1 imm (by decide : _ = 4 * 67108864) (by decide)
  refine decodeWord_of_raw (w := BitVec.ofNat 32 (0x10000000 + rd.toNat * 0x200000 + rs1.toNat * 0x10000 + imm.toNat))
    ((decodeRaw_ori h0).trans ?_) hw
  rw [h1, h2, h3]
theorem xori (rd : BitVec 5) (rs1 : BitVec 5) (imm : BitVec 16) : Statement (.xori rd rs1 imm) := by
  intro _ hw
  obtain ⟨h0, h1, h2, h3⟩ := layout2 (lit := 0x14000000) rd rs1 imm (by decide : _ = 5 * 67108864) (by decide)
  refine decodeWord_of_raw (w := BitVec.ofNat 32 (0x14000000 + rd.toNat * 0x200000 + rs1.toNat * 0x10000 + imm.toNat))
    ((decodeRaw_xori h0).trans ?_) hw
  rw [h1, h2, h3]
theorem slti (rd : BitVec 5) (rs1 : BitVec 5) (imm : BitVec 16) : Statement (.slti rd rs1 imm) := by
  intro _ hw
  obtain ⟨h0, h1, h2, h3⟩ := layout2 (lit := 0x18000000) rd rs1 imm (by decide : _ = 6 * 67108864) (by decide)
  refine decodeWord_of_raw (w := BitVec.ofNat 32 (0x18000000 + rd.toNat * 0x200000 + rs1.toNat * 0x10000 + imm.toNat))
    ((decodeRaw_slti h0).trans ?_) hw
  rw [h1, h2, h3]
theorem sltiu (rd : BitVec 5) (rs1 : BitVec 5) (imm : BitVec 16) : Statement (.sltiu rd rs1 imm) := by
  intro _ hw
  obtain ⟨h0, h1, h2, h3⟩ := layout2 (lit := 0x1C000000) rd rs1 imm (by decide : _ = 7 * 67108864) (by decide)
  refine decodeWord_of_raw (w := BitVec.ofNat 32 (0x1C000000 + rd.toNat * 0x200000 + rs1.toNat * 0x10000 + imm.toNat))
    ((decodeRaw_sltiu h0).trans ?_) hw
  rw [h1, h2, h3]
theorem slli (rd : BitVec 5) (rs1 : BitVec 5) (sh : BitVec 6) : Statement (.slli rd rs1 sh) := by
  intro _ hw
  obtain ⟨h0, h1, h2, h3, h4, h5⟩ := layout3 (lit := 0x20000000) rd rs1 sh (by decide : _ = 8 * 67108864 + 0 * 64) (by decide) (by decide)
  refine decodeWord_of_raw (w := BitVec.ofNat 32 (0x20000000 + rd.toNat * 0x200000 + rs1.toNat * 0x10000 + sh.toNat))
    ((decodeRaw_08 h0).trans ((decode08_slli h1).trans ?_)) hw
  rw [h2, h3, h4, h5]
  rfl
theorem srli (rd : BitVec 5) (rs1 : BitVec 5) (sh : BitVec 6) : Statement (.srli rd rs1 sh) := by
  intro _ hw
  obtain ⟨h0, h1, h2, h3, h4, h5⟩ := layout3 (lit := 0x20000040) rd rs1 sh (by decide : _ = 8 * 67108864 + 1 * 64) (by decide) (by decide)
  refine decodeWord_of_raw (w := BitVec.ofNat 32 (0x20000040 + rd.toNat * 0x200000 + rs1.toNat * 0x10000 + sh.toNat))
    ((decodeRaw_08 h0).trans ((decode08_srli h1).trans ?_)) hw
  rw [h2, h3, h4, h5]
  rfl
theorem srai (rd : BitVec 5) (rs1 : BitVec 5) (sh : BitVec 6) : Statement (.srai rd rs1 sh) := by
  intro _ hw
  obtain ⟨h0, h1, h2, h3, h4, h5⟩ := layout3 (lit := 0x20000080) rd rs1 sh (by decide : _ = 8 * 67108864 + 2 * 64) (by decide) (by decide)
  refine decodeWord_of_raw (w := BitVec.ofNat 32 (0x20000080 + rd.toNat * 0x200000 + rs1.toNat * 0x10000 + sh.toNat))
    ((decodeRaw_08 h0).trans ((decode08_srai h1).trans ?_)) hw
  rw [h2, h3, h4, h5]
  rfl
theorem rori (rd : BitVec 5) (rs1 : BitVec 5) (sh : BitVec 6) : Statement (.rori rd rs1 sh) := by
  intro _ hw
  obtain ⟨h0, h1, h2, h3, h4, h5⟩ := layout3 (lit := 0x200000C0) rd rs1 sh (by decide : _ = 8 * 67108864 + 3 * 64) (by decide) (by decide)
  refine decodeWord_of_raw (w := BitVec.ofNat 32 (0x200000C0 + rd.toNat * 0x200000 + rs1.toNat * 0x10000 + sh.toNat))
    ((decodeRaw_08 h0).trans ((decode08_rori h1).trans ?_)) hw
  rw [h2, h3, h4, h5]
  rfl
theorem lih (rd : BitVec 5) (imm : BitVec 21) : Statement (.lih rd imm) := by
  intro _ hw
  obtain ⟨h0, h1, h2⟩ := layout4 (lit := 0x24000000) rd imm (by decide : _ = 9 * 67108864) (by decide)
  refine decodeWord_of_raw (w := BitVec.ofNat 32 (0x24000000 + rd.toNat * 0x200000 + imm.toNat))
    ((decodeRaw_lih h0).trans ?_) hw
  rw [h1, h2]
theorem addpc (rd : BitVec 5) (imm : BitVec 21) : Statement (.addpc rd imm) := by
  intro _ hw
  obtain ⟨h0, h1, h2⟩ := layout4 (lit := 0x28000000) rd imm (by decide : _ = 10 * 67108864) (by decide)
  refine decodeWord_of_raw (w := BitVec.ofNat 32 (0x28000000 + rd.toNat * 0x200000 + imm.toNat))
    ((decodeRaw_addpc h0).trans ?_) hw
  rw [h1, h2]
theorem fadd (rd : BitVec 5) (rs1 : BitVec 5) (rs2 : BitVec 5) (p : BitVec 1) : Statement (.fadd rd rs1 rs2 p) := by
  intro _ hw
  obtain ⟨h0, h1, h2, h3, h4, h5, h6⟩ := layout5 (lit := 0x2C000000) rd rs1 rs2 p (by decide : _ = 11 * 67108864 + 0) (by decide) (by decide)
  refine decodeWord_of_raw (w := BitVec.ofNat 32 (0x2C000000 + rd.toNat * 0x200000 + rs1.toNat * 0x10000 + rs2.toNat * 0x800 + p.toNat * 0x100))
    ((decodeRaw_0B h0).trans ((decode0B_fadd h1).trans ?_)) hw
  rw [h2, h3, h4, h5, h6]
  rfl
theorem fsub (rd : BitVec 5) (rs1 : BitVec 5) (rs2 : BitVec 5) (p : BitVec 1) : Statement (.fsub rd rs1 rs2 p) := by
  intro _ hw
  obtain ⟨h0, h1, h2, h3, h4, h5, h6⟩ := layout5 (lit := 0x2C000001) rd rs1 rs2 p (by decide : _ = 11 * 67108864 + 1) (by decide) (by decide)
  refine decodeWord_of_raw (w := BitVec.ofNat 32 (0x2C000001 + rd.toNat * 0x200000 + rs1.toNat * 0x10000 + rs2.toNat * 0x800 + p.toNat * 0x100))
    ((decodeRaw_0B h0).trans ((decode0B_fsub h1).trans ?_)) hw
  rw [h2, h3, h4, h5, h6]
  rfl
theorem fmul (rd : BitVec 5) (rs1 : BitVec 5) (rs2 : BitVec 5) (p : BitVec 1) : Statement (.fmul rd rs1 rs2 p) := by
  intro _ hw
  obtain ⟨h0, h1, h2, h3, h4, h5, h6⟩ := layout5 (lit := 0x2C000002) rd rs1 rs2 p (by decide : _ = 11 * 67108864 + 2) (by decide) (by decide)
  refine decodeWord_of_raw (w := BitVec.ofNat 32 (0x2C000002 + rd.toNat * 0x200000 + rs1.toNat * 0x10000 + rs2.toNat * 0x800 + p.toNat * 0x100))
    ((decodeRaw_0B h0).trans ((decode0B_fmul h1).trans ?_)) hw
  rw [h2, h3, h4, h5, h6]
  rfl
theorem fdiv (rd : BitVec 5) (rs1 : BitVec 5) (rs2 : BitVec 5) (p : BitVec 1) : Statement (.fdiv rd rs1 rs2 p) := by
  intro _ hw
  obtain ⟨h0, h1, h2, h3, h4, h5, h6⟩ := layout5 (lit := 0x2C000003) rd rs1 rs2 p (by decide : _ = 11 * 67108864 + 3) (by decide) (by decide)
  refine decodeWord_of_raw (w := BitVec.ofNat 32 (0x2C000003 + rd.toNat * 0x200000 + rs1.toNat * 0x10000 + rs2.toNat * 0x800 + p.toNat * 0x100))
    ((decodeRaw_0B h0).trans ((decode0B_fdiv h1).trans ?_)) hw
  rw [h2, h3, h4, h5, h6]
  rfl
theorem fsqrt (rd : BitVec 5) (rs1 : BitVec 5) (p : BitVec 1) : Statement (.fsqrt rd rs1 p) := by
  intro _ hw
  obtain ⟨h0, h1, h2, h3, h4, h5⟩ := layout6 (lit := 0x2C000004) rd rs1 p (by decide : _ = 11 * 67108864 + 4) (by decide) (by decide)
  refine decodeWord_of_raw (w := BitVec.ofNat 32 (0x2C000004 + rd.toNat * 0x200000 + rs1.toNat * 0x10000 + p.toNat * 0x100))
    ((decodeRaw_0B h0).trans ((decode0B_fsqrt h1).trans ?_)) hw
  rw [h2, h3, h4, h5]
  rfl
theorem fmac (rd : BitVec 5) (rs1 : BitVec 5) (rs2 : BitVec 5) (p : BitVec 1) : Statement (.fmac rd rs1 rs2 p) := by
  intro _ hw
  obtain ⟨h0, h1, h2, h3, h4, h5, h6⟩ := layout5 (lit := 0x2C000005) rd rs1 rs2 p (by decide : _ = 11 * 67108864 + 5) (by decide) (by decide)
  refine decodeWord_of_raw (w := BitVec.ofNat 32 (0x2C000005 + rd.toNat * 0x200000 + rs1.toNat * 0x10000 + rs2.toNat * 0x800 + p.toNat * 0x100))
    ((decodeRaw_0B h0).trans ((decode0B_fmac h1).trans ?_)) hw
  rw [h2, h3, h4, h5, h6]
  rfl
theorem fmin (rd : BitVec 5) (rs1 : BitVec 5) (rs2 : BitVec 5) (p : BitVec 1) : Statement (.fmin rd rs1 rs2 p) := by
  intro _ hw
  obtain ⟨h0, h1, h2, h3, h4, h5, h6⟩ := layout5 (lit := 0x2C000006) rd rs1 rs2 p (by decide : _ = 11 * 67108864 + 6) (by decide) (by decide)
  refine decodeWord_of_raw (w := BitVec.ofNat 32 (0x2C000006 + rd.toNat * 0x200000 + rs1.toNat * 0x10000 + rs2.toNat * 0x800 + p.toNat * 0x100))
    ((decodeRaw_0B h0).trans ((decode0B_fmin h1).trans ?_)) hw
  rw [h2, h3, h4, h5, h6]
  rfl
theorem fmax (rd : BitVec 5) (rs1 : BitVec 5) (rs2 : BitVec 5) (p : BitVec 1) : Statement (.fmax rd rs1 rs2 p) := by
  intro _ hw
  obtain ⟨h0, h1, h2, h3, h4, h5, h6⟩ := layout5 (lit := 0x2C000007) rd rs1 rs2 p (by decide : _ = 11 * 67108864 + 7) (by decide) (by decide)
  refine decodeWord_of_raw (w := BitVec.ofNat 32 (0x2C000007 + rd.toNat * 0x200000 + rs1.toNat * 0x10000 + rs2.toNat * 0x800 + p.toNat * 0x100))
    ((decodeRaw_0B h0).trans ((decode0B_fmax h1).trans ?_)) hw
  rw [h2, h3, h4, h5, h6]
  rfl
theorem feq (rd : BitVec 5) (rs1 : BitVec 5) (rs2 : BitVec 5) (p : BitVec 1) : Statement (.feq rd rs1 rs2 p) := by
  intro _ hw
  obtain ⟨h0, h1, h2, h3, h4, h5, h6⟩ := layout5 (lit := 0x2C000008) rd rs1 rs2 p (by decide : _ = 11 * 67108864 + 8) (by decide) (by decide)
  refine decodeWord_of_raw (w := BitVec.ofNat 32 (0x2C000008 + rd.toNat * 0x200000 + rs1.toNat * 0x10000 + rs2.toNat * 0x800 + p.toNat * 0x100))
    ((decodeRaw_0B h0).trans ((decode0B_feq h1).trans ?_)) hw
  rw [h2, h3, h4, h5, h6]
  rfl
theorem flt (rd : BitVec 5) (rs1 : BitVec 5) (rs2 : BitVec 5) (p : BitVec 1) : Statement (.flt rd rs1 rs2 p) := by
  intro _ hw
  obtain ⟨h0, h1, h2, h3, h4, h5, h6⟩ := layout5 (lit := 0x2C000028) rd rs1 rs2 p (by decide : _ = 11 * 67108864 + 40) (by decide) (by decide)
  refine decodeWord_of_raw (w := BitVec.ofNat 32 (0x2C000028 + rd.toNat * 0x200000 + rs1.toNat * 0x10000 + rs2.toNat * 0x800 + p.toNat * 0x100))
    ((decodeRaw_0B h0).trans ((decode0B_flt h1).trans ?_)) hw
  rw [h2, h3, h4, h5, h6]
  rfl
theorem fle (rd : BitVec 5) (rs1 : BitVec 5) (rs2 : BitVec 5) (p : BitVec 1) : Statement (.fle rd rs1 rs2 p) := by
  intro _ hw
  obtain ⟨h0, h1, h2, h3, h4, h5, h6⟩ := layout5 (lit := 0x2C000048) rd rs1 rs2 p (by decide : _ = 11 * 67108864 + 72) (by decide) (by decide)
  refine decodeWord_of_raw (w := BitVec.ofNat 32 (0x2C000048 + rd.toNat * 0x200000 + rs1.toNat * 0x10000 + rs2.toNat * 0x800 + p.toNat * 0x100))
    ((decodeRaw_0B h0).trans ((decode0B_fle h1).trans ?_)) hw
  rw [h2, h3, h4, h5, h6]
  rfl
theorem funord (rd : BitVec 5) (rs1 : BitVec 5) (rs2 : BitVec 5) (p : BitVec 1) : Statement (.funord rd rs1 rs2 p) := by
  intro _ hw
  obtain ⟨h0, h1, h2, h3, h4, h5, h6⟩ := layout5 (lit := 0x2C000068) rd rs1 rs2 p (by decide : _ = 11 * 67108864 + 104) (by decide) (by decide)
  refine decodeWord_of_raw (w := BitVec.ofNat 32 (0x2C000068 + rd.toNat * 0x200000 + rs1.toNat * 0x10000 + rs2.toNat * 0x800 + p.toNat * 0x100))
    ((decodeRaw_0B h0).trans ((decode0B_funord h1).trans ?_)) hw
  rw [h2, h3, h4, h5, h6]
  rfl
theorem fclass (rd : BitVec 5) (rs1 : BitVec 5) (p : BitVec 1) : Statement (.fclass rd rs1 p) := by
  intro _ hw
  obtain ⟨h0, h1, h2, h3, h4, h5⟩ := layout6 (lit := 0x2C000009) rd rs1 p (by decide : _ = 11 * 67108864 + 9) (by decide) (by decide)
  refine decodeWord_of_raw (w := BitVec.ofNat 32 (0x2C000009 + rd.toNat * 0x200000 + rs1.toNat * 0x10000 + p.toNat * 0x100))
    ((decodeRaw_0B h0).trans ((decode0B_fclass h1).trans ?_)) hw
  rw [h2, h3, h4, h5]
  rfl
theorem fcvtI32 (rd : BitVec 5) (rs1 : BitVec 5) (p : BitVec 1) : Statement (.fcvtI32 rd rs1 p) := by
  intro _ hw
  obtain ⟨h0, h1, h2, h3, h4, h5⟩ := layout6 (lit := 0x2C00000A) rd rs1 p (by decide : _ = 11 * 67108864 + 10) (by decide) (by decide)
  refine decodeWord_of_raw (w := BitVec.ofNat 32 (0x2C00000A + rd.toNat * 0x200000 + rs1.toNat * 0x10000 + p.toNat * 0x100))
    ((decodeRaw_0B h0).trans ((decode0B_fcvtI32 h1).trans ?_)) hw
  rw [h2, h3, h4, h5]
  rfl
theorem fcvtUi32 (rd : BitVec 5) (rs1 : BitVec 5) (p : BitVec 1) : Statement (.fcvtUi32 rd rs1 p) := by
  intro _ hw
  obtain ⟨h0, h1, h2, h3, h4, h5⟩ := layout6 (lit := 0x2C00002A) rd rs1 p (by decide : _ = 11 * 67108864 + 42) (by decide) (by decide)
  refine decodeWord_of_raw (w := BitVec.ofNat 32 (0x2C00002A + rd.toNat * 0x200000 + rs1.toNat * 0x10000 + p.toNat * 0x100))
    ((decodeRaw_0B h0).trans ((decode0B_fcvtUi32 h1).trans ?_)) hw
  rw [h2, h3, h4, h5]
  rfl
theorem fcvtI64 (rd : BitVec 5) (rs1 : BitVec 5) (p : BitVec 1) : Statement (.fcvtI64 rd rs1 p) := by
  intro _ hw
  obtain ⟨h0, h1, h2, h3, h4, h5⟩ := layout6 (lit := 0x2C00004A) rd rs1 p (by decide : _ = 11 * 67108864 + 74) (by decide) (by decide)
  refine decodeWord_of_raw (w := BitVec.ofNat 32 (0x2C00004A + rd.toNat * 0x200000 + rs1.toNat * 0x10000 + p.toNat * 0x100))
    ((decodeRaw_0B h0).trans ((decode0B_fcvtI64 h1).trans ?_)) hw
  rw [h2, h3, h4, h5]
  rfl
theorem fcvtUi64 (rd : BitVec 5) (rs1 : BitVec 5) (p : BitVec 1) : Statement (.fcvtUi64 rd rs1 p) := by
  intro _ hw
  obtain ⟨h0, h1, h2, h3, h4, h5⟩ := layout6 (lit := 0x2C00006A) rd rs1 p (by decide : _ = 11 * 67108864 + 106) (by decide) (by decide)
  refine decodeWord_of_raw (w := BitVec.ofNat 32 (0x2C00006A + rd.toNat * 0x200000 + rs1.toNat * 0x10000 + p.toNat * 0x100))
    ((decodeRaw_0B h0).trans ((decode0B_fcvtUi64 h1).trans ?_)) hw
  rw [h2, h3, h4, h5]
  rfl
theorem fcvtFI64 (rd : BitVec 5) (rs1 : BitVec 5) (p : BitVec 1) : Statement (.fcvtFI64 rd rs1 p) := by
  intro _ hw
  obtain ⟨h0, h1, h2, h3, h4, h5⟩ := layout6 (lit := 0x2C00008A) rd rs1 p (by decide : _ = 11 * 67108864 + 138) (by decide) (by decide)
  refine decodeWord_of_raw (w := BitVec.ofNat 32 (0x2C00008A + rd.toNat * 0x200000 + rs1.toNat * 0x10000 + p.toNat * 0x100))
    ((decodeRaw_0B h0).trans ((decode0B_fcvtFI64 h1).trans ?_)) hw
  rw [h2, h3, h4, h5]
  rfl
theorem fcvtFUi64 (rd : BitVec 5) (rs1 : BitVec 5) (p : BitVec 1) : Statement (.fcvtFUi64 rd rs1 p) := by
  intro _ hw
  obtain ⟨h0, h1, h2, h3, h4, h5⟩ := layout6 (lit := 0x2C0000AA) rd rs1 p (by decide : _ = 11 * 67108864 + 170) (by decide) (by decide)
  refine decodeWord_of_raw (w := BitVec.ofNat 32 (0x2C0000AA + rd.toNat * 0x200000 + rs1.toNat * 0x10000 + p.toNat * 0x100))
    ((decodeRaw_0B h0).trans ((decode0B_fcvtFUi64 h1).trans ?_)) hw
  rw [h2, h3, h4, h5]
  rfl
theorem fcvtFF (rd : BitVec 5) (rs1 : BitVec 5) (p : BitVec 1) : Statement (.fcvtFF rd rs1 p) := by
  intro _ hw
  obtain ⟨h0, h1, h2, h3, h4, h5⟩ := layout6 (lit := 0x2C0000CA) rd rs1 p (by decide : _ = 11 * 67108864 + 202) (by decide) (by decide)
  refine decodeWord_of_raw (w := BitVec.ofNat 32 (0x2C0000CA + rd.toNat * 0x200000 + rs1.toNat * 0x10000 + p.toNat * 0x100))
    ((decodeRaw_0B h0).trans ((decode0B_fcvtFF h1).trans ?_)) hw
  rw [h2, h3, h4, h5]
  rfl
theorem fsgnj (rd : BitVec 5) (rs1 : BitVec 5) (rs2 : BitVec 5) (p : BitVec 1) : Statement (.fsgnj rd rs1 rs2 p) := by
  intro _ hw
  obtain ⟨h0, h1, h2, h3, h4, h5, h6⟩ := layout5 (lit := 0x2C00000B) rd rs1 rs2 p (by decide : _ = 11 * 67108864 + 11) (by decide) (by decide)
  refine decodeWord_of_raw (w := BitVec.ofNat 32 (0x2C00000B + rd.toNat * 0x200000 + rs1.toNat * 0x10000 + rs2.toNat * 0x800 + p.toNat * 0x100))
    ((decodeRaw_0B h0).trans ((decode0B_fsgnj h1).trans ?_)) hw
  rw [h2, h3, h4, h5, h6]
  rfl
theorem fsgnjn (rd : BitVec 5) (rs1 : BitVec 5) (rs2 : BitVec 5) (p : BitVec 1) : Statement (.fsgnjn rd rs1 rs2 p) := by
  intro _ hw
  obtain ⟨h0, h1, h2, h3, h4, h5, h6⟩ := layout5 (lit := 0x2C00002B) rd rs1 rs2 p (by decide : _ = 11 * 67108864 + 43) (by decide) (by decide)
  refine decodeWord_of_raw (w := BitVec.ofNat 32 (0x2C00002B + rd.toNat * 0x200000 + rs1.toNat * 0x10000 + rs2.toNat * 0x800 + p.toNat * 0x100))
    ((decodeRaw_0B h0).trans ((decode0B_fsgnjn h1).trans ?_)) hw
  rw [h2, h3, h4, h5, h6]
  rfl
theorem fsgnjx (rd : BitVec 5) (rs1 : BitVec 5) (rs2 : BitVec 5) (p : BitVec 1) : Statement (.fsgnjx rd rs1 rs2 p) := by
  intro _ hw
  obtain ⟨h0, h1, h2, h3, h4, h5, h6⟩ := layout5 (lit := 0x2C00004B) rd rs1 rs2 p (by decide : _ = 11 * 67108864 + 75) (by decide) (by decide)
  refine decodeWord_of_raw (w := BitVec.ofNat 32 (0x2C00004B + rd.toNat * 0x200000 + rs1.toNat * 0x10000 + rs2.toNat * 0x800 + p.toNat * 0x100))
    ((decodeRaw_0B h0).trans ((decode0B_fsgnjx h1).trans ?_)) hw
  rw [h2, h3, h4, h5, h6]
  rfl
theorem faddi (rd : BitVec 5) (rs1 : BitVec 5) (imm : BitVec 16) : Statement (.faddi rd rs1 imm) := by
  intro _ hw
  obtain ⟨h0, h1, h2, h3⟩ := layout2 (lit := 0x30000000) rd rs1 imm (by decide : _ = 12 * 67108864) (by decide)
  refine decodeWord_of_raw (w := BitVec.ofNat 32 (0x30000000 + rd.toNat * 0x200000 + rs1.toNat * 0x10000 + imm.toNat))
    ((decodeRaw_faddi h0).trans ?_) hw
  rw [h1, h2, h3]
theorem fmuli (rd : BitVec 5) (rs1 : BitVec 5) (imm : BitVec 16) : Statement (.fmuli rd rs1 imm) := by
  intro _ hw
  obtain ⟨h0, h1, h2, h3⟩ := layout2 (lit := 0x34000000) rd rs1 imm (by decide : _ = 13 * 67108864) (by decide)
  refine decodeWord_of_raw (w := BitVec.ofNat 32 (0x34000000 + rd.toNat * 0x200000 + rs1.toNat * 0x10000 + imm.toNat))
    ((decodeRaw_fmuli h0).trans ?_) hw
  rw [h1, h2, h3]
theorem muli (rd : BitVec 5) (rs1 : BitVec 5) (imm : BitVec 16) : Statement (.muli rd rs1 imm) := by
  intro _ hw
  obtain ⟨h0, h1, h2, h3⟩ := layout2 (lit := 0x38000000) rd rs1 imm (by decide : _ = 14 * 67108864) (by decide)
  refine decodeWord_of_raw (w := BitVec.ofNat 32 (0x38000000 + rd.toNat * 0x200000 + rs1.toNat * 0x10000 + imm.toNat))
    ((decodeRaw_muli h0).trans ?_) hw
  rw [h1, h2, h3]
theorem vsetvli (rd : BitVec 5) (rs1 : BitVec 5) (imm : BitVec 12) : Statement (.vsetvli rd rs1 imm) := by
  intro _ hw
  obtain ⟨h0, h1, h2, h3, h4⟩ := layout7 (lit := 0x3C000000) rd rs1 imm (by decide : _ = 15 * 67108864) (by decide)
  refine decodeWord_of_raw (w := BitVec.ofNat 32 (0x3C000000 + rd.toNat * 0x200000 + rs1.toNat * 0x10000 + imm.toNat))
    ((decodeRaw_vsetvli h0).trans ?_) hw
  rw [h1, h2, h3, h4]
  rfl
theorem ldb (rd : BitVec 5) (rs1 : BitVec 5) (imm : BitVec 16) : Statement (.ldb rd rs1 imm) := by
  intro _ hw
  obtain ⟨h0, h1, h2, h3⟩ := layout2 (lit := 0x40000000) rd rs1 imm (by decide : _ = 16 * 67108864) (by decide)
  refine decodeWord_of_raw (w := BitVec.ofNat 32 (0x40000000 + rd.toNat * 0x200000 + rs1.toNat * 0x10000 + imm.toNat))
    ((decodeRaw_ldb h0).trans ?_) hw
  rw [h1, h2, h3]
theorem ldbu (rd : BitVec 5) (rs1 : BitVec 5) (imm : BitVec 16) : Statement (.ldbu rd rs1 imm) := by
  intro _ hw
  obtain ⟨h0, h1, h2, h3⟩ := layout2 (lit := 0x44000000) rd rs1 imm (by decide : _ = 17 * 67108864) (by decide)
  refine decodeWord_of_raw (w := BitVec.ofNat 32 (0x44000000 + rd.toNat * 0x200000 + rs1.toNat * 0x10000 + imm.toNat))
    ((decodeRaw_ldbu h0).trans ?_) hw
  rw [h1, h2, h3]
theorem ldh (rd : BitVec 5) (rs1 : BitVec 5) (imm : BitVec 16) : Statement (.ldh rd rs1 imm) := by
  intro _ hw
  obtain ⟨h0, h1, h2, h3⟩ := layout2 (lit := 0x48000000) rd rs1 imm (by decide : _ = 18 * 67108864) (by decide)
  refine decodeWord_of_raw (w := BitVec.ofNat 32 (0x48000000 + rd.toNat * 0x200000 + rs1.toNat * 0x10000 + imm.toNat))
    ((decodeRaw_ldh h0).trans ?_) hw
  rw [h1, h2, h3]
theorem ldhu (rd : BitVec 5) (rs1 : BitVec 5) (imm : BitVec 16) : Statement (.ldhu rd rs1 imm) := by
  intro _ hw
  obtain ⟨h0, h1, h2, h3⟩ := layout2 (lit := 0x4C000000) rd rs1 imm (by decide : _ = 19 * 67108864) (by decide)
  refine decodeWord_of_raw (w := BitVec.ofNat 32 (0x4C000000 + rd.toNat * 0x200000 + rs1.toNat * 0x10000 + imm.toNat))
    ((decodeRaw_ldhu h0).trans ?_) hw
  rw [h1, h2, h3]
theorem ldw (rd : BitVec 5) (rs1 : BitVec 5) (imm : BitVec 16) : Statement (.ldw rd rs1 imm) := by
  intro _ hw
  obtain ⟨h0, h1, h2, h3⟩ := layout2 (lit := 0x50000000) rd rs1 imm (by decide : _ = 20 * 67108864) (by decide)
  refine decodeWord_of_raw (w := BitVec.ofNat 32 (0x50000000 + rd.toNat * 0x200000 + rs1.toNat * 0x10000 + imm.toNat))
    ((decodeRaw_ldw h0).trans ?_) hw
  rw [h1, h2, h3]
theorem ldwu (rd : BitVec 5) (rs1 : BitVec 5) (imm : BitVec 16) : Statement (.ldwu rd rs1 imm) := by
  intro _ hw
  obtain ⟨h0, h1, h2, h3⟩ := layout2 (lit := 0x54000000) rd rs1 imm (by decide : _ = 21 * 67108864) (by decide)
  refine decodeWord_of_raw (w := BitVec.ofNat 32 (0x54000000 + rd.toNat * 0x200000 + rs1.toNat * 0x10000 + imm.toNat))
    ((decodeRaw_ldwu h0).trans ?_) hw
  rw [h1, h2, h3]
theorem ldd (rd : BitVec 5) (rs1 : BitVec 5) (imm : BitVec 16) : Statement (.ldd rd rs1 imm) := by
  intro _ hw
  obtain ⟨h0, h1, h2, h3⟩ := layout2 (lit := 0x58000000) rd rs1 imm (by decide : _ = 22 * 67108864) (by decide)
  refine decodeWord_of_raw (w := BitVec.ofNat 32 (0x58000000 + rd.toNat * 0x200000 + rs1.toNat * 0x10000 + imm.toNat))
    ((decodeRaw_ldd h0).trans ?_) hw
  rw [h1, h2, h3]
theorem stb (rd : BitVec 5) (rs1 : BitVec 5) (imm : BitVec 16) : Statement (.stb rd rs1 imm) := by
  intro _ hw
  obtain ⟨h0, h1, h2, h3⟩ := layout2 (lit := 0x5C000000) rd rs1 imm (by decide : _ = 23 * 67108864) (by decide)
  refine decodeWord_of_raw (w := BitVec.ofNat 32 (0x5C000000 + rd.toNat * 0x200000 + rs1.toNat * 0x10000 + imm.toNat))
    ((decodeRaw_stb h0).trans ?_) hw
  rw [h1, h2, h3]
theorem sth (rd : BitVec 5) (rs1 : BitVec 5) (imm : BitVec 16) : Statement (.sth rd rs1 imm) := by
  intro _ hw
  obtain ⟨h0, h1, h2, h3⟩ := layout2 (lit := 0x60000000) rd rs1 imm (by decide : _ = 24 * 67108864) (by decide)
  refine decodeWord_of_raw (w := BitVec.ofNat 32 (0x60000000 + rd.toNat * 0x200000 + rs1.toNat * 0x10000 + imm.toNat))
    ((decodeRaw_sth h0).trans ?_) hw
  rw [h1, h2, h3]
theorem stw (rd : BitVec 5) (rs1 : BitVec 5) (imm : BitVec 16) : Statement (.stw rd rs1 imm) := by
  intro _ hw
  obtain ⟨h0, h1, h2, h3⟩ := layout2 (lit := 0x64000000) rd rs1 imm (by decide : _ = 25 * 67108864) (by decide)
  refine decodeWord_of_raw (w := BitVec.ofNat 32 (0x64000000 + rd.toNat * 0x200000 + rs1.toNat * 0x10000 + imm.toNat))
    ((decodeRaw_stw h0).trans ?_) hw
  rw [h1, h2, h3]
theorem std (rd : BitVec 5) (rs1 : BitVec 5) (imm : BitVec 16) : Statement (.std rd rs1 imm) := by
  intro _ hw
  obtain ⟨h0, h1, h2, h3⟩ := layout2 (lit := 0x68000000) rd rs1 imm (by decide : _ = 26 * 67108864) (by decide)
  refine decodeWord_of_raw (w := BitVec.ofNat 32 (0x68000000 + rd.toNat * 0x200000 + rs1.toNat * 0x10000 + imm.toNat))
    ((decodeRaw_std h0).trans ?_) hw
  rw [h1, h2, h3]
theorem beq (rs1 : BitVec 5) (rs2 : BitVec 5) (off : BitVec 16) : Statement (.beq rs1 rs2 off) := by
  intro _ hw
  obtain ⟨h0, h1, h2, h3⟩ := layout2 (lit := 0x6C000000) rs1 rs2 off (by decide : _ = 27 * 67108864) (by decide)
  refine decodeWord_of_raw (w := BitVec.ofNat 32 (0x6C000000 + rs1.toNat * 0x200000 + rs2.toNat * 0x10000 + off.toNat))
    ((decodeRaw_beq h0).trans ?_) hw
  rw [h1, h2, h3]
theorem bne (rs1 : BitVec 5) (rs2 : BitVec 5) (off : BitVec 16) : Statement (.bne rs1 rs2 off) := by
  intro _ hw
  obtain ⟨h0, h1, h2, h3⟩ := layout2 (lit := 0x70000000) rs1 rs2 off (by decide : _ = 28 * 67108864) (by decide)
  refine decodeWord_of_raw (w := BitVec.ofNat 32 (0x70000000 + rs1.toNat * 0x200000 + rs2.toNat * 0x10000 + off.toNat))
    ((decodeRaw_bne h0).trans ?_) hw
  rw [h1, h2, h3]
theorem blt (rs1 : BitVec 5) (rs2 : BitVec 5) (off : BitVec 16) : Statement (.blt rs1 rs2 off) := by
  intro _ hw
  obtain ⟨h0, h1, h2, h3⟩ := layout2 (lit := 0x74000000) rs1 rs2 off (by decide : _ = 29 * 67108864) (by decide)
  refine decodeWord_of_raw (w := BitVec.ofNat 32 (0x74000000 + rs1.toNat * 0x200000 + rs2.toNat * 0x10000 + off.toNat))
    ((decodeRaw_blt h0).trans ?_) hw
  rw [h1, h2, h3]
theorem bge (rs1 : BitVec 5) (rs2 : BitVec 5) (off : BitVec 16) : Statement (.bge rs1 rs2 off) := by
  intro _ hw
  obtain ⟨h0, h1, h2, h3⟩ := layout2 (lit := 0x78000000) rs1 rs2 off (by decide : _ = 30 * 67108864) (by decide)
  refine decodeWord_of_raw (w := BitVec.ofNat 32 (0x78000000 + rs1.toNat * 0x200000 + rs2.toNat * 0x10000 + off.toNat))
    ((decodeRaw_bge h0).trans ?_) hw
  rw [h1, h2, h3]
theorem bltu (rs1 : BitVec 5) (rs2 : BitVec 5) (off : BitVec 16) : Statement (.bltu rs1 rs2 off) := by
  intro _ hw
  obtain ⟨h0, h1, h2, h3⟩ := layout2 (lit := 0x7C000000) rs1 rs2 off (by decide : _ = 31 * 67108864) (by decide)
  refine decodeWord_of_raw (w := BitVec.ofNat 32 (0x7C000000 + rs1.toNat * 0x200000 + rs2.toNat * 0x10000 + off.toNat))
    ((decodeRaw_bltu h0).trans ?_) hw
  rw [h1, h2, h3]
theorem bgeu (rs1 : BitVec 5) (rs2 : BitVec 5) (off : BitVec 16) : Statement (.bgeu rs1 rs2 off) := by
  intro _ hw
  obtain ⟨h0, h1, h2, h3⟩ := layout2 (lit := 0x80000000) rs1 rs2 off (by decide : _ = 32 * 67108864) (by decide)
  refine decodeWord_of_raw (w := BitVec.ofNat 32 (0x80000000 + rs1.toNat * 0x200000 + rs2.toNat * 0x10000 + off.toNat))
    ((decodeRaw_bgeu h0).trans ?_) hw
  rw [h1, h2, h3]
theorem jal (rd : BitVec 5) (off : BitVec 21) : Statement (.jal rd off) := by
  intro _ hw
  obtain ⟨h0, h1, h2⟩ := layout4 (lit := 0x84000000) rd off (by decide : _ = 33 * 67108864) (by decide)
  refine decodeWord_of_raw (w := BitVec.ofNat 32 (0x84000000 + rd.toNat * 0x200000 + off.toNat))
    ((decodeRaw_jal h0).trans ?_) hw
  rw [h1, h2]
theorem jalr (rd : BitVec 5) (rs1 : BitVec 5) (imm : BitVec 16) : Statement (.jalr rd rs1 imm) := by
  intro _ hw
  obtain ⟨h0, h1, h2, h3⟩ := layout2 (lit := 0x88000000) rd rs1 imm (by decide : _ = 34 * 67108864) (by decide)
  refine decodeWord_of_raw (w := BitVec.ofNat 32 (0x88000000 + rd.toNat * 0x200000 + rs1.toNat * 0x10000 + imm.toNat))
    ((decodeRaw_jalr h0).trans ?_) hw
  rw [h1, h2, h3]
theorem subbnz (rd : BitVec 5) (rs : BitVec 5) (off : BitVec 16) : Statement (.subbnz rd rs off) := by
  intro _ hw
  obtain ⟨h0, h1, h2, h3⟩ := layout2 (lit := 0x8C000000) rd rs off (by decide : _ = 35 * 67108864) (by decide)
  refine decodeWord_of_raw (w := BitVec.ofNat 32 (0x8C000000 + rd.toNat * 0x200000 + rs.toNat * 0x10000 + off.toNat))
    ((decodeRaw_subbnz h0).trans ?_) hw
  rw [h1, h2, h3]
theorem strip (rd : BitVec 5) (rs1 : BitVec 5) (mask4 : BitVec 4) : Statement (.strip rd rs1 mask4) := by
  intro _ hw
  obtain ⟨h0, h1, h2, h3, h4⟩ := layout8 (lit := 0x90000000) rd rs1 mask4 (by decide : _ = 36 * 67108864) (by decide)
  refine decodeWord_of_raw (w := BitVec.ofNat 32 (0x90000000 + rd.toNat * 0x200000 + rs1.toNat * 0x10000 + mask4.toNat))
    ((decodeRaw_strip h0).trans ?_) hw
  rw [h1, h2, h3, h4]
  rfl
theorem csrrw (rd : BitVec 5) (rs1 : BitVec 5) (csr : BitVec 12) : Statement (.csrrw rd rs1 csr) := by
  intro _ hw
  obtain ⟨h0, h1, h2, h3, h4⟩ := layout9 (lit := 0x94000000) rd rs1 csr (by decide : _ = 37 * 67108864 + 0) (by decide) (by decide)
  refine decodeWord_of_raw (w := BitVec.ofNat 32 (0x94000000 + rd.toNat * 0x200000 + rs1.toNat * 0x10000 + csr.toNat * 0x10))
    ((decodeRaw_25 h0).trans ((decode25_csrrw h1).trans ?_)) hw
  rw [h2, h3, h4]
theorem csrrs (rd : BitVec 5) (rs1 : BitVec 5) (csr : BitVec 12) : Statement (.csrrs rd rs1 csr) := by
  intro _ hw
  obtain ⟨h0, h1, h2, h3, h4⟩ := layout9 (lit := 0x94000001) rd rs1 csr (by decide : _ = 37 * 67108864 + 1) (by decide) (by decide)
  refine decodeWord_of_raw (w := BitVec.ofNat 32 (0x94000001 + rd.toNat * 0x200000 + rs1.toNat * 0x10000 + csr.toNat * 0x10))
    ((decodeRaw_25 h0).trans ((decode25_csrrs h1).trans ?_)) hw
  rw [h2, h3, h4]
theorem csrrc (rd : BitVec 5) (rs1 : BitVec 5) (csr : BitVec 12) : Statement (.csrrc rd rs1 csr) := by
  intro _ hw
  obtain ⟨h0, h1, h2, h3, h4⟩ := layout9 (lit := 0x94000002) rd rs1 csr (by decide : _ = 37 * 67108864 + 2) (by decide) (by decide)
  refine decodeWord_of_raw (w := BitVec.ofNat 32 (0x94000002 + rd.toNat * 0x200000 + rs1.toNat * 0x10000 + csr.toNat * 0x10))
    ((decodeRaw_25 h0).trans ((decode25_csrrc h1).trans ?_)) hw
  rw [h2, h3, h4]
theorem csrrwi (rd : BitVec 5) (zimm : BitVec 5) (csr : BitVec 12) : Statement (.csrrwi rd zimm csr) := by
  intro _ hw
  obtain ⟨h0, h1, h2, h3, h4⟩ := layout9 (lit := 0x94000003) rd zimm csr (by decide : _ = 37 * 67108864 + 3) (by decide) (by decide)
  refine decodeWord_of_raw (w := BitVec.ofNat 32 (0x94000003 + rd.toNat * 0x200000 + zimm.toNat * 0x10000 + csr.toNat * 0x10))
    ((decodeRaw_25 h0).trans ((decode25_csrrwi h1).trans ?_)) hw
  rw [h2, h3, h4]
theorem csrrsi (rd : BitVec 5) (zimm : BitVec 5) (csr : BitVec 12) : Statement (.csrrsi rd zimm csr) := by
  intro _ hw
  obtain ⟨h0, h1, h2, h3, h4⟩ := layout9 (lit := 0x94000004) rd zimm csr (by decide : _ = 37 * 67108864 + 4) (by decide) (by decide)
  refine decodeWord_of_raw (w := BitVec.ofNat 32 (0x94000004 + rd.toNat * 0x200000 + zimm.toNat * 0x10000 + csr.toNat * 0x10))
    ((decodeRaw_25 h0).trans ((decode25_csrrsi h1).trans ?_)) hw
  rw [h2, h3, h4]
theorem csrrci (rd : BitVec 5) (zimm : BitVec 5) (csr : BitVec 12) : Statement (.csrrci rd zimm csr) := by
  intro _ hw
  obtain ⟨h0, h1, h2, h3, h4⟩ := layout9 (lit := 0x94000005) rd zimm csr (by decide : _ = 37 * 67108864 + 5) (by decide) (by decide)
  refine decodeWord_of_raw (w := BitVec.ofNat 32 (0x94000005 + rd.toNat * 0x200000 + zimm.toNat * 0x10000 + csr.toNat * 0x10))
    ((decodeRaw_25 h0).trans ((decode25_csrrci h1).trans ?_)) hw
  rw [h2, h3, h4]
theorem trap (code : BitVec 16) : Statement (.trap code) := by
  intro _ hw
  obtain ⟨h0, h1, h2, h3⟩ := layout10 (lit := 0x94000008) code (by decide : _ = 37 * 67108864 + 8) (by decide) (by decide)
  refine decodeWord_of_raw (w := BitVec.ofNat 32 (0x94000008 + code.toNat * 0x10))
    ((decodeRaw_25 h0).trans ((decode25_trap h1).trans ?_)) hw
  rw [h2, h3]
  rfl
theorem tret : Statement (.tret) := by
  intro _ hw
  obtain ⟨h0, h1, h2⟩ := layout11 (lit := 0x94000009) (by decide : _ = 37 * 67108864 + 9) (by decide) (by decide)
  refine decodeWord_of_raw (w := BitVec.ofNat 32 (0x94000009))
    ((decodeRaw_25 h0).trans ((decode25_tret h1).trans ?_)) hw
  rw [h2]
  rfl
theorem csave (rs1 : BitVec 5) (rs2 : BitVec 5) : Statement (.csave rs1 rs2) := by
  intro _ hw
  obtain ⟨h0, h1, h2, h3, h4, h5⟩ := layout12 (lit := 0x9400000A) rs1 rs2 (by decide : _ = 37 * 67108864 + 10) (by decide) (by decide)
  refine decodeWord_of_raw (w := BitVec.ofNat 32 (0x9400000A + rs1.toNat * 0x10000 + rs2.toNat * 0x800))
    ((decodeRaw_25 h0).trans ((decode25_csave h1).trans ?_)) hw
  rw [h2, h3, h4, h5]
  rfl
theorem crestore (rs1 : BitVec 5) : Statement (.crestore rs1) := by
  intro _ hw
  obtain ⟨h0, h1, h2, h3, h4⟩ := layout13 (lit := 0x9400000B) rs1 (by decide : _ = 37 * 67108864 + 11) (by decide) (by decide)
  refine decodeWord_of_raw (w := BitVec.ofNat 32 (0x9400000B + rs1.toNat * 0x10000))
    ((decodeRaw_25 h0).trans ((decode25_crestore h1).trans ?_)) hw
  rw [h2, h3, h4]
  rfl
theorem tdiscard : Statement (.tdiscard) := by
  intro _ hw
  obtain ⟨h0, h1, h2⟩ := layout11 (lit := 0x9400000C) (by decide : _ = 37 * 67108864 + 12) (by decide) (by decide)
  refine decodeWord_of_raw (w := BitVec.ofNat 32 (0x9400000C))
    ((decodeRaw_25 h0).trans ((decode25_tdiscard h1).trans ?_)) hw
  rw [h2]
  rfl
theorem tfail : Statement (.tfail) := by
  intro _ hw
  obtain ⟨h0, h1, h2⟩ := layout11 (lit := 0x9400000D) (by decide : _ = 37 * 67108864 + 13) (by decide) (by decide)
  refine decodeWord_of_raw (w := BitVec.ofNat 32 (0x9400000D))
    ((decodeRaw_25 h0).trans ((decode25_tfail h1).trans ?_)) hw
  rw [h2]
  rfl
theorem aadd (rd : BitVec 5) (rs1 : BitVec 5) (rs2 : BitVec 5) (scope : BitVec 3) (ord : BitVec 2) (w : BitVec 1) : Statement (.aadd rd rs1 rs2 scope ord w) := by
  intro _ hw
  obtain ⟨h0, h1, h2, h3, h4, h5, h6, h7, h8⟩ := layout14 (lit := 0x98000000) rd rs1 rs2 scope ord w (by decide : _ = 38 * 67108864 + 0) (by decide) (by decide)
  refine decodeWord_of_raw (w := BitVec.ofNat 32 (0x98000000 + rd.toNat * 0x200000 + rs1.toNat * 0x10000 + rs2.toNat * 0x800 + scope.toNat * 0x80 + ord.toNat * 0x20 + w.toNat * 0x10))
    ((decodeRaw_26 h0).trans ((decode26_aadd h1).trans ?_)) hw
  rw [h2, h3, h4, h5, h6, h7, h8]
  rfl
theorem aand (rd : BitVec 5) (rs1 : BitVec 5) (rs2 : BitVec 5) (scope : BitVec 3) (ord : BitVec 2) (w : BitVec 1) : Statement (.aand rd rs1 rs2 scope ord w) := by
  intro _ hw
  obtain ⟨h0, h1, h2, h3, h4, h5, h6, h7, h8⟩ := layout14 (lit := 0x98000001) rd rs1 rs2 scope ord w (by decide : _ = 38 * 67108864 + 1) (by decide) (by decide)
  refine decodeWord_of_raw (w := BitVec.ofNat 32 (0x98000001 + rd.toNat * 0x200000 + rs1.toNat * 0x10000 + rs2.toNat * 0x800 + scope.toNat * 0x80 + ord.toNat * 0x20 + w.toNat * 0x10))
    ((decodeRaw_26 h0).trans ((decode26_aand h1).trans ?_)) hw
  rw [h2, h3, h4, h5, h6, h7, h8]
  rfl
theorem aor (rd : BitVec 5) (rs1 : BitVec 5) (rs2 : BitVec 5) (scope : BitVec 3) (ord : BitVec 2) (w : BitVec 1) : Statement (.aor rd rs1 rs2 scope ord w) := by
  intro _ hw
  obtain ⟨h0, h1, h2, h3, h4, h5, h6, h7, h8⟩ := layout14 (lit := 0x98000002) rd rs1 rs2 scope ord w (by decide : _ = 38 * 67108864 + 2) (by decide) (by decide)
  refine decodeWord_of_raw (w := BitVec.ofNat 32 (0x98000002 + rd.toNat * 0x200000 + rs1.toNat * 0x10000 + rs2.toNat * 0x800 + scope.toNat * 0x80 + ord.toNat * 0x20 + w.toNat * 0x10))
    ((decodeRaw_26 h0).trans ((decode26_aor h1).trans ?_)) hw
  rw [h2, h3, h4, h5, h6, h7, h8]
  rfl
theorem axor (rd : BitVec 5) (rs1 : BitVec 5) (rs2 : BitVec 5) (scope : BitVec 3) (ord : BitVec 2) (w : BitVec 1) : Statement (.axor rd rs1 rs2 scope ord w) := by
  intro _ hw
  obtain ⟨h0, h1, h2, h3, h4, h5, h6, h7, h8⟩ := layout14 (lit := 0x98000003) rd rs1 rs2 scope ord w (by decide : _ = 38 * 67108864 + 3) (by decide) (by decide)
  refine decodeWord_of_raw (w := BitVec.ofNat 32 (0x98000003 + rd.toNat * 0x200000 + rs1.toNat * 0x10000 + rs2.toNat * 0x800 + scope.toNat * 0x80 + ord.toNat * 0x20 + w.toNat * 0x10))
    ((decodeRaw_26 h0).trans ((decode26_axor h1).trans ?_)) hw
  rw [h2, h3, h4, h5, h6, h7, h8]
  rfl
theorem amin (rd : BitVec 5) (rs1 : BitVec 5) (rs2 : BitVec 5) (scope : BitVec 3) (ord : BitVec 2) (w : BitVec 1) : Statement (.amin rd rs1 rs2 scope ord w) := by
  intro _ hw
  obtain ⟨h0, h1, h2, h3, h4, h5, h6, h7, h8⟩ := layout14 (lit := 0x98000004) rd rs1 rs2 scope ord w (by decide : _ = 38 * 67108864 + 4) (by decide) (by decide)
  refine decodeWord_of_raw (w := BitVec.ofNat 32 (0x98000004 + rd.toNat * 0x200000 + rs1.toNat * 0x10000 + rs2.toNat * 0x800 + scope.toNat * 0x80 + ord.toNat * 0x20 + w.toNat * 0x10))
    ((decodeRaw_26 h0).trans ((decode26_amin h1).trans ?_)) hw
  rw [h2, h3, h4, h5, h6, h7, h8]
  rfl
theorem amax (rd : BitVec 5) (rs1 : BitVec 5) (rs2 : BitVec 5) (scope : BitVec 3) (ord : BitVec 2) (w : BitVec 1) : Statement (.amax rd rs1 rs2 scope ord w) := by
  intro _ hw
  obtain ⟨h0, h1, h2, h3, h4, h5, h6, h7, h8⟩ := layout14 (lit := 0x98000005) rd rs1 rs2 scope ord w (by decide : _ = 38 * 67108864 + 5) (by decide) (by decide)
  refine decodeWord_of_raw (w := BitVec.ofNat 32 (0x98000005 + rd.toNat * 0x200000 + rs1.toNat * 0x10000 + rs2.toNat * 0x800 + scope.toNat * 0x80 + ord.toNat * 0x20 + w.toNat * 0x10))
    ((decodeRaw_26 h0).trans ((decode26_amax h1).trans ?_)) hw
  rw [h2, h3, h4, h5, h6, h7, h8]
  rfl
theorem aminu (rd : BitVec 5) (rs1 : BitVec 5) (rs2 : BitVec 5) (scope : BitVec 3) (ord : BitVec 2) (w : BitVec 1) : Statement (.aminu rd rs1 rs2 scope ord w) := by
  intro _ hw
  obtain ⟨h0, h1, h2, h3, h4, h5, h6, h7, h8⟩ := layout14 (lit := 0x98000006) rd rs1 rs2 scope ord w (by decide : _ = 38 * 67108864 + 6) (by decide) (by decide)
  refine decodeWord_of_raw (w := BitVec.ofNat 32 (0x98000006 + rd.toNat * 0x200000 + rs1.toNat * 0x10000 + rs2.toNat * 0x800 + scope.toNat * 0x80 + ord.toNat * 0x20 + w.toNat * 0x10))
    ((decodeRaw_26 h0).trans ((decode26_aminu h1).trans ?_)) hw
  rw [h2, h3, h4, h5, h6, h7, h8]
  rfl
theorem amaxu (rd : BitVec 5) (rs1 : BitVec 5) (rs2 : BitVec 5) (scope : BitVec 3) (ord : BitVec 2) (w : BitVec 1) : Statement (.amaxu rd rs1 rs2 scope ord w) := by
  intro _ hw
  obtain ⟨h0, h1, h2, h3, h4, h5, h6, h7, h8⟩ := layout14 (lit := 0x98000007) rd rs1 rs2 scope ord w (by decide : _ = 38 * 67108864 + 7) (by decide) (by decide)
  refine decodeWord_of_raw (w := BitVec.ofNat 32 (0x98000007 + rd.toNat * 0x200000 + rs1.toNat * 0x10000 + rs2.toNat * 0x800 + scope.toNat * 0x80 + ord.toNat * 0x20 + w.toNat * 0x10))
    ((decodeRaw_26 h0).trans ((decode26_amaxu h1).trans ?_)) hw
  rw [h2, h3, h4, h5, h6, h7, h8]
  rfl
theorem aswap (rd : BitVec 5) (rs1 : BitVec 5) (rs2 : BitVec 5) (scope : BitVec 3) (ord : BitVec 2) (w : BitVec 1) : Statement (.aswap rd rs1 rs2 scope ord w) := by
  intro _ hw
  obtain ⟨h0, h1, h2, h3, h4, h5, h6, h7, h8⟩ := layout14 (lit := 0x98000008) rd rs1 rs2 scope ord w (by decide : _ = 38 * 67108864 + 8) (by decide) (by decide)
  refine decodeWord_of_raw (w := BitVec.ofNat 32 (0x98000008 + rd.toNat * 0x200000 + rs1.toNat * 0x10000 + rs2.toNat * 0x800 + scope.toNat * 0x80 + ord.toNat * 0x20 + w.toNat * 0x10))
    ((decodeRaw_26 h0).trans ((decode26_aswap h1).trans ?_)) hw
  rw [h2, h3, h4, h5, h6, h7, h8]
  rfl
theorem acas (rd : BitVec 5) (rs1 : BitVec 5) (rs2 : BitVec 5) (scope : BitVec 3) (ord : BitVec 2) (w : BitVec 1) : Statement (.acas rd rs1 rs2 scope ord w) := by
  intro _ hw
  obtain ⟨h0, h1, h2, h3, h4, h5, h6, h7, h8⟩ := layout14 (lit := 0x98000009) rd rs1 rs2 scope ord w (by decide : _ = 38 * 67108864 + 9) (by decide) (by decide)
  refine decodeWord_of_raw (w := BitVec.ofNat 32 (0x98000009 + rd.toNat * 0x200000 + rs1.toNat * 0x10000 + rs2.toNat * 0x800 + scope.toNat * 0x80 + ord.toNat * 0x20 + w.toNat * 0x10))
    ((decodeRaw_26 h0).trans ((decode26_acas h1).trans ?_)) hw
  rw [h2, h3, h4, h5, h6, h7, h8]
  rfl
theorem afadd (rd : BitVec 5) (rs1 : BitVec 5) (rs2 : BitVec 5) (scope : BitVec 3) (ord : BitVec 2) (w : BitVec 1) : Statement (.afadd rd rs1 rs2 scope ord w) := by
  intro _ hw
  obtain ⟨h0, h1, h2, h3, h4, h5, h6, h7, h8⟩ := layout14 (lit := 0x9800000A) rd rs1 rs2 scope ord w (by decide : _ = 38 * 67108864 + 10) (by decide) (by decide)
  refine decodeWord_of_raw (w := BitVec.ofNat 32 (0x9800000A + rd.toNat * 0x200000 + rs1.toNat * 0x10000 + rs2.toNat * 0x800 + scope.toNat * 0x80 + ord.toNat * 0x20 + w.toNat * 0x10))
    ((decodeRaw_26 h0).trans ((decode26_afadd h1).trans ?_)) hw
  rw [h2, h3, h4, h5, h6, h7, h8]
  rfl
theorem fence (ord : BitVec 2) (scope : BitVec 3) : Statement (.fence ord scope) := by
  intro _ hw
  obtain ⟨h0, h1, h2, h3, h4, h5⟩ := layout15 (lit := 0x9C000000) ord scope (by decide : _ = 39 * 67108864 + 0 * 256) (by decide) (by decide)
  refine decodeWord_of_raw (w := BitVec.ofNat 32 (0x9C000000 + ord.toNat * 0x8 + scope.toNat))
    ((decodeRaw_27 h0).trans ((decode27_fence h1).trans ?_)) hw
  rw [h2, h3, h4, h5]
  rfl
theorem sbar (mask : BitVec 8) : Statement (.sbar mask) := by
  intro _ hw
  obtain ⟨h0, h1, h2, h3⟩ := layout16 (lit := 0x9C000100) mask (by decide : _ = 39 * 67108864 + 1 * 256) (by decide) (by decide)
  refine decodeWord_of_raw (w := BitVec.ofNat 32 (0x9C000100 + mask.toNat))
    ((decodeRaw_27 h0).trans ((decode27_sbar h1).trans ?_)) hw
  rw [h2, h3]
  rfl
theorem waita (rd : BitVec 5) (rs1 : BitVec 5) (rs2 : BitVec 5) (t : BitVec 5) : Statement (.waita rd rs1 rs2 t) := by
  intro _ hw
  obtain ⟨h0, h1, h2, h3, h4, h5, h6⟩ := layout17 (lit := 0x9C000200) rd rs1 rs2 t (by decide : _ = 39 * 67108864 + 2 * 256) (by decide) (by decide)
  refine decodeWord_of_raw (w := BitVec.ofNat 32 (0x9C000200 + rd.toNat * 0x200000 + rs1.toNat * 0x10000 + rs2.toNat * 0x800 + t.toNat))
    ((decodeRaw_27 h0).trans ((decode27_waita h1).trans ?_)) hw
  rw [h2, h3, h4, h5, h6]
  rfl
theorem barr (rd : BitVec 5) (rs1 : BitVec 5) : Statement (.barr rd rs1) := by
  intro _ hw
  obtain ⟨h0, h1, h2, h3, h4, h5⟩ := layout18 (lit := 0x9C000300) rd rs1 (by decide : _ = 39 * 67108864 + 3 * 256) (by decide) (by decide)
  refine decodeWord_of_raw (w := BitVec.ofNat 32 (0x9C000300 + rd.toNat * 0x200000 + rs1.toNat * 0x10000))
    ((decodeRaw_27 h0).trans ((decode27_barr h1).trans ?_)) hw
  rw [h2, h3, h4, h5]
  rfl
theorem bwait (rd : BitVec 5) (rs1 : BitVec 5) (rs2 : BitVec 5) (t : BitVec 5) : Statement (.bwait rd rs1 rs2 t) := by
  intro _ hw
  obtain ⟨h0, h1, h2, h3, h4, h5, h6⟩ := layout17 (lit := 0x9C000400) rd rs1 rs2 t (by decide : _ = 39 * 67108864 + 4 * 256) (by decide) (by decide)
  refine decodeWord_of_raw (w := BitVec.ofNat 32 (0x9C000400 + rd.toNat * 0x200000 + rs1.toNat * 0x10000 + rs2.toNat * 0x800 + t.toNat))
    ((decodeRaw_27 h0).trans ((decode27_bwait h1).trans ?_)) hw
  rw [h2, h3, h4, h5, h6]
  rfl
theorem bjoin (rs1 : BitVec 5) : Statement (.bjoin rs1) := by
  intro _ hw
  obtain ⟨h0, h1, h2, h3, h4, h5, h6⟩ := layout19 (lit := 0x9C000500) rs1 (by decide : _ = 39 * 67108864 + 5 * 256 + 0) (by decide) (by decide) (by decide)
  refine decodeWord_of_raw (w := BitVec.ofNat 32 (0x9C000500 + rs1.toNat * 0x10000))
    ((decodeRaw_27 h0).trans ((decode27_bjoin h1 h2).trans ?_)) hw
  rw [h3, h4, h5, h6]
  rfl
theorem bleave (rs1 : BitVec 5) : Statement (.bleave rs1) := by
  intro _ hw
  obtain ⟨h0, h1, h2, h3, h4, h5, h6⟩ := layout19 (lit := 0x9C000501) rs1 (by decide : _ = 39 * 67108864 + 5 * 256 + 1) (by decide) (by decide) (by decide)
  refine decodeWord_of_raw (w := BitVec.ofNat 32 (0x9C000501 + rs1.toNat * 0x10000))
    ((decodeRaw_27 h0).trans ((decode27_bleave h1 h2).trans ?_)) hw
  rw [h3, h4, h5, h6]
  rfl
theorem pqpush (rd : BitVec 5) (rs1 : BitVec 5) (rs2 : BitVec 5) : Statement (.pqpush rd rs1 rs2) := by
  intro _ hw
  obtain ⟨h0, h1, h2, h3, h4, h5, h6⟩ := layout20 (lit := 0x9C000600) rd rs1 rs2 (by decide : _ = 39 * 67108864 + 6 * 256 + 0) (by decide) (by decide) (by decide)
  refine decodeWord_of_raw (w := BitVec.ofNat 32 (0x9C000600 + rd.toNat * 0x200000 + rs1.toNat * 0x10000 + rs2.toNat * 0x800))
    ((decodeRaw_27 h0).trans ((decode27_pqpush h1 h2).trans ?_)) hw
  rw [h3, h4, h5, h6]
  rfl
theorem pqpop (rd : BitVec 5) (rs1 : BitVec 5) (rs2 : BitVec 5) : Statement (.pqpop rd rs1 rs2) := by
  intro _ hw
  obtain ⟨h0, h1, h2, h3, h4, h5, h6⟩ := layout20 (lit := 0x9C000601) rd rs1 rs2 (by decide : _ = 39 * 67108864 + 6 * 256 + 1) (by decide) (by decide) (by decide)
  refine decodeWord_of_raw (w := BitVec.ofNat 32 (0x9C000601 + rd.toNat * 0x200000 + rs1.toNat * 0x10000 + rs2.toNat * 0x800))
    ((decodeRaw_27 h0).trans ((decode27_pqpop h1 h2).trans ?_)) hw
  rw [h3, h4, h5, h6]
  rfl
theorem spawn (rs1 : BitVec 5) (rs2 : BitVec 5) : Statement (.spawn rs1 rs2) := by
  intro _ hw
  obtain ⟨h0, h1, h2, h3, h4, h5⟩ := layout21 (lit := 0xA0000000) rs1 rs2 (by decide : _ = 40 * 67108864 + 0) (by decide) (by decide)
  refine decodeWord_of_raw (w := BitVec.ofNat 32 (0xA0000000 + rs1.toNat * 0x10000 + rs2.toNat * 0x800))
    ((decodeRaw_28 h0).trans ((decode28_spawn h1).trans ?_)) hw
  rw [h2, h3, h4, h5]
  rfl
theorem tcommit : Statement (.tcommit) := by
  intro _ hw
  obtain ⟨h0, h1, h2⟩ := layout22 (lit := 0xA0000001) (by decide : _ = 40 * 67108864 + 1) (by decide) (by decide)
  refine decodeWord_of_raw (w := BitVec.ofNat 32 (0xA0000001))
    ((decodeRaw_28 h0).trans ((decode28_tcommit h1).trans ?_)) hw
  rw [h2]
  rfl
theorem kill (rd : BitVec 5) (rs1 : BitVec 5) (all : BitVec 1) : Statement (.kill rd rs1 all) := by
  intro _ hw
  obtain ⟨h0, h1, h2, h3, h4, h5⟩ := layout23 (lit := 0xA0000002) rd rs1 all (by decide : _ = 40 * 67108864 + 2) (by decide) (by decide)
  refine decodeWord_of_raw (w := BitVec.ofNat 32 (0xA0000002 + rd.toNat * 0x200000 + rs1.toNat * 0x10000 + all.toNat * 0x20))
    ((decodeRaw_28 h0).trans ((decode28_kill h1).trans ?_)) hw
  rw [h2, h3, h4, h5]
  rfl
theorem wqry (rs1 : BitVec 5) : Statement (.wqry rs1) := by
  intro _ hw
  obtain ⟨h0, h1, h2, h3, h4⟩ := layout24 (lit := 0xA0000003) rs1 (by decide : _ = 40 * 67108864 + 3) (by decide) (by decide)
  refine decodeWord_of_raw (w := BitVec.ofNat 32 (0xA0000003 + rs1.toNat * 0x10000))
    ((decodeRaw_28 h0).trans ((decode28_wqry h1).trans ?_)) hw
  rw [h2, h3, h4]
  rfl
theorem doneTask : Statement (.doneTask) := by
  intro _ hw
  obtain ⟨h0, h1, h2⟩ := layout22 (lit := 0xA0000004) (by decide : _ = 40 * 67108864 + 4) (by decide) (by decide)
  refine decodeWord_of_raw (w := BitVec.ofNat 32 (0xA0000004))
    ((decodeRaw_28 h0).trans ((decode28_doneTask h1).trans ?_)) hw
  rw [h2]
  rfl
theorem yield : Statement (.yield) := by
  intro _ hw
  obtain ⟨h0, h1, h2⟩ := layout22 (lit := 0xA0000005) (by decide : _ = 40 * 67108864 + 5) (by decide) (by decide)
  refine decodeWord_of_raw (w := BitVec.ofNat 32 (0xA0000005))
    ((decodeRaw_28 h0).trans ((decode28_yield h1).trans ?_)) hw
  rw [h2]
  rfl
theorem joinw (rd : BitVec 5) (rs1 : BitVec 5) : Statement (.joinw rd rs1) := by
  intro _ hw
  obtain ⟨h0, h1, h2, h3, h4⟩ := layout25 (lit := 0xA0000006) rd rs1 (by decide : _ = 40 * 67108864 + 6) (by decide) (by decide)
  refine decodeWord_of_raw (w := BitVec.ofNat 32 (0xA0000006 + rd.toNat * 0x200000 + rs1.toNat * 0x10000))
    ((decodeRaw_28 h0).trans ((decode28_joinw h1).trans ?_)) hw
  rw [h2, h3, h4]
  rfl
theorem ckmark (rl : BitVec 5) (rs1 : BitVec 5) (rs2 : BitVec 5) (id : BitVec 4) : Statement (.ckmark rl rs1 rs2 id) := by
  intro _ hw
  obtain ⟨h0, h1, h2, h3, h4, h5, h6⟩ := layout26 (lit := 0xA0000008) rl rs1 rs2 id (by decide : _ = 40 * 67108864 + 8) (by decide) (by decide)
  refine decodeWord_of_raw (w := BitVec.ofNat 32 (0xA0000008 + rl.toNat * 0x200000 + rs1.toNat * 0x10000 + rs2.toNat * 0x800 + id.toNat * 0x20))
    ((decodeRaw_28 h0).trans ((decode28_ckmark h1).trans ?_)) hw
  rw [h2, h3, h4, h5, h6]
  rfl
theorem ckroll (u : BitVec 1) (id : BitVec 4) : Statement (.ckroll u id) := by
  intro _ hw
  obtain ⟨h0, h1, h2, h3, h4⟩ := layout27 (lit := 0xA0000009) u id (by decide : _ = 40 * 67108864 + 9) (by decide) (by decide)
  refine decodeWord_of_raw (w := BitVec.ofNat 32 (0xA0000009 + u.toNat * 0x200 + id.toNat * 0x20))
    ((decodeRaw_28 h0).trans ((decode28_ckroll h1).trans ?_)) hw
  rw [h2, h3, h4]
  rfl
theorem ckcommit (u : BitVec 1) (id : BitVec 4) : Statement (.ckcommit u id) := by
  intro _ hw
  obtain ⟨h0, h1, h2, h3, h4⟩ := layout27 (lit := 0xA000000A) u id (by decide : _ = 40 * 67108864 + 10) (by decide) (by decide)
  refine decodeWord_of_raw (w := BitVec.ofNat 32 (0xA000000A + u.toNat * 0x200 + id.toNat * 0x20))
    ((decodeRaw_28 h0).trans ((decode28_ckcommit h1).trans ?_)) hw
  rw [h2, h3, h4]
  rfl
theorem ckstat (rd : BitVec 5) (id : BitVec 4) : Statement (.ckstat rd id) := by
  intro _ hw
  obtain ⟨h0, h1, h2, h3, h4⟩ := layout28 (lit := 0xA000000B) rd id (by decide : _ = 40 * 67108864 + 11) (by decide) (by decide)
  refine decodeWord_of_raw (w := BitVec.ofNat 32 (0xA000000B + rd.toNat * 0x200000 + id.toNat * 0x20))
    ((decodeRaw_28 h0).trans ((decode28_ckstat h1).trans ?_)) hw
  rw [h2, h3, h4]
  rfl
theorem gslot (rd : BitVec 5) (rs1 : BitVec 5) : Statement (.gslot rd rs1) := by
  intro _ hw
  obtain ⟨h0, h1, h2, h3, h4⟩ := layout29 (lit := 0xA4000000) rd rs1 (by decide : _ = 41 * 67108864 + 0) (by decide) (by decide)
  refine decodeWord_of_raw (w := BitVec.ofNat 32 (0xA4000000 + rd.toNat * 0x200000 + rs1.toNat * 0x10000))
    ((decodeRaw_29 h0).trans ((decode29_gslot h1).trans ?_)) hw
  rw [h2, h3, h4]
  rfl
theorem grel (rd : BitVec 5) (rs1 : BitVec 5) : Statement (.grel rd rs1) := by
  intro _ hw
  obtain ⟨h0, h1, h2, h3, h4⟩ := layout29 (lit := 0xA4000001) rd rs1 (by decide : _ = 41 * 67108864 + 1) (by decide) (by decide)
  refine decodeWord_of_raw (w := BitVec.ofNat 32 (0xA4000001 + rd.toNat * 0x200000 + rs1.toNat * 0x10000))
    ((decodeRaw_29 h0).trans ((decode29_grel h1).trans ?_)) hw
  rw [h2, h3, h4]
  rfl
theorem gst (rs1 : BitVec 5) (rs2 : BitVec 5) (sz : BitVec 3) : Statement (.gst rs1 rs2 sz) := by
  intro _ hw
  obtain ⟨h0, h1, h2, h3, h4, h5, h6⟩ := layout30 (lit := 0xA4000002) rs1 rs2 sz (by decide : _ = 41 * 67108864 + 2) (by decide) (by decide)
  refine decodeWord_of_raw (w := BitVec.ofNat 32 (0xA4000002 + rs1.toNat * 0x10000 + rs2.toNat * 0x800 + sz.toNat * 0x10))
    ((decodeRaw_29 h0).trans ((decode29_gst h1).trans ?_)) hw
  rw [h2, h3, h4, h5, h6]
  rfl
theorem gamo (rd : BitVec 5) (rs1 : BitVec 5) (rs2 : BitVec 5) (op : BitVec 2) : Statement (.gamo rd rs1 rs2 op) := by
  intro _ hw
  obtain ⟨h0, h1, h2, h3, h4, h5, h6⟩ := layout31 (lit := 0xA4000003) rd rs1 rs2 op (by decide : _ = 41 * 67108864 + 3) (by decide) (by decide)
  refine decodeWord_of_raw (w := BitVec.ofNat 32 (0xA4000003 + rd.toNat * 0x200000 + rs1.toNat * 0x10000 + rs2.toNat * 0x800 + op.toNat * 0x10))
    ((decodeRaw_29 h0).trans ((decode29_gamo h1).trans ?_)) hw
  rw [h2, h3, h4, h5, h6]
  rfl
theorem gframe (rd : BitVec 5) : Statement (.gframe rd) := by
  intro _ hw
  obtain ⟨h0, h1, h2, h3⟩ := layout32 (lit := 0xA4000004) rd (by decide : _ = 41 * 67108864 + 4) (by decide) (by decide)
  refine decodeWord_of_raw (w := BitVec.ofNat 32 (0xA4000004 + rd.toNat * 0x200000))
    ((decodeRaw_29 h0).trans ((decode29_gframe h1).trans ?_)) hw
  rw [h2, h3]
  rfl
theorem vsetvl (rd : BitVec 5) (rs1 : BitVec 5) (rs2 : BitVec 5) : Statement (.vsetvl rd rs1 rs2) := by
  intro _ hw
  obtain ⟨h0, h1, h2, h3, h4⟩ := layout0 (lit := 0xA8000000) rd rs1 rs2 (by decide : _ = 42 * 67108864 + 0) (by decide) (by decide)
  refine decodeWord_of_raw (w := BitVec.ofNat 32 (0xA8000000 + rd.toNat * 0x200000 + rs1.toNat * 0x10000 + rs2.toNat * 0x800))
    ((decodeRaw_2A h0).trans ((decode2A_vsetvl h1).trans ?_)) hw
  rw [h2, h3, h4]
theorem vlmaxq (rd : BitVec 5) (rs2 : BitVec 5) : Statement (.vlmaxq rd rs2) := by
  intro _ hw
  obtain ⟨h0, h1, h2, h3, h4⟩ := layout33 (lit := 0xA8000001) rd rs2 (by decide : _ = 42 * 67108864 + 1) (by decide) (by decide)
  refine decodeWord_of_raw (w := BitVec.ofNat 32 (0xA8000001 + rd.toNat * 0x200000 + rs2.toNat * 0x800))
    ((decodeRaw_2A h0).trans ((decode2A_vlmaxq h1).trans ?_)) hw
  rw [h2, h3, h4]
  rfl
theorem vaddVv (vd : BitVec 5) (vs1 : BitVec 5) (vs2 : BitVec 5) (vm : BitVec 3) (k1 : BitVec 1) (k2 : BitVec 1) : Statement (.vaddVv vd vs1 vs2 vm k1 k2) := by
  intro _ hw
  obtain ⟨h0, h1, h2, h3, h4, h5, h6, h7, h8⟩ := layout34 (lit := 0xAC000000) vd vs1 vs2 vm k1 k2 (by decide : _ = 43 * 67108864 + 0) (by decide) (by decide)
  refine decodeWord_of_raw (w := BitVec.ofNat 32 (0xAC000000 + vd.toNat * 0x200000 + vs1.toNat * 0x10000 + vs2.toNat * 0x800 + vm.toNat * 0x100 + k1.toNat * 0x40 + k2.toNat * 0x20))
    ((decodeRaw_2B h0).trans ((decode2B_vaddVv h1).trans ?_)) hw
  rw [h2, h3, h4, h5, h6, h7, h8]
  rfl
theorem vaddVx (vd : BitVec 5) (vs1 : BitVec 5) (rs2 : BitVec 5) (vm : BitVec 3) (k1 : BitVec 1) (k2 : BitVec 1) : Statement (.vaddVx vd vs1 rs2 vm k1 k2) := by
  intro _ hw
  obtain ⟨h0, h1, h2, h3, h4, h5, h6, h7, h8⟩ := layout34 (lit := 0xAC000001) vd vs1 rs2 vm k1 k2 (by decide : _ = 43 * 67108864 + 1) (by decide) (by decide)
  refine decodeWord_of_raw (w := BitVec.ofNat 32 (0xAC000001 + vd.toNat * 0x200000 + vs1.toNat * 0x10000 + rs2.toNat * 0x800 + vm.toNat * 0x100 + k1.toNat * 0x40 + k2.toNat * 0x20))
    ((decodeRaw_2B h0).trans ((decode2B_vaddVx h1).trans ?_)) hw
  rw [h2, h3, h4, h5, h6, h7, h8]
  rfl
theorem vaddVi (vd : BitVec 5) (vs1 : BitVec 5) (imm5 : BitVec 5) (vm : BitVec 3) (k1 : BitVec 1) (k2 : BitVec 1) : Statement (.vaddVi vd vs1 imm5 vm k1 k2) := by
  intro _ hw
  obtain ⟨h0, h1, h2, h3, h4, h5, h6, h7, h8⟩ := layout34 (lit := 0xAC000002) vd vs1 imm5 vm k1 k2 (by decide : _ = 43 * 67108864 + 2) (by decide) (by decide)
  refine decodeWord_of_raw (w := BitVec.ofNat 32 (0xAC000002 + vd.toNat * 0x200000 + vs1.toNat * 0x10000 + imm5.toNat * 0x800 + vm.toNat * 0x100 + k1.toNat * 0x40 + k2.toNat * 0x20))
    ((decodeRaw_2B h0).trans ((decode2B_vaddVi h1).trans ?_)) hw
  rw [h2, h3, h4, h5, h6, h7, h8]
  rfl
theorem vsubVv (vd : BitVec 5) (vs1 : BitVec 5) (vs2 : BitVec 5) (vm : BitVec 3) (k1 : BitVec 1) (k2 : BitVec 1) : Statement (.vsubVv vd vs1 vs2 vm k1 k2) := by
  intro _ hw
  obtain ⟨h0, h1, h2, h3, h4, h5, h6, h7, h8⟩ := layout34 (lit := 0xAC000003) vd vs1 vs2 vm k1 k2 (by decide : _ = 43 * 67108864 + 3) (by decide) (by decide)
  refine decodeWord_of_raw (w := BitVec.ofNat 32 (0xAC000003 + vd.toNat * 0x200000 + vs1.toNat * 0x10000 + vs2.toNat * 0x800 + vm.toNat * 0x100 + k1.toNat * 0x40 + k2.toNat * 0x20))
    ((decodeRaw_2B h0).trans ((decode2B_vsubVv h1).trans ?_)) hw
  rw [h2, h3, h4, h5, h6, h7, h8]
  rfl
theorem vsubVx (vd : BitVec 5) (vs1 : BitVec 5) (rs2 : BitVec 5) (vm : BitVec 3) (k1 : BitVec 1) (k2 : BitVec 1) : Statement (.vsubVx vd vs1 rs2 vm k1 k2) := by
  intro _ hw
  obtain ⟨h0, h1, h2, h3, h4, h5, h6, h7, h8⟩ := layout34 (lit := 0xAC000004) vd vs1 rs2 vm k1 k2 (by decide : _ = 43 * 67108864 + 4) (by decide) (by decide)
  refine decodeWord_of_raw (w := BitVec.ofNat 32 (0xAC000004 + vd.toNat * 0x200000 + vs1.toNat * 0x10000 + rs2.toNat * 0x800 + vm.toNat * 0x100 + k1.toNat * 0x40 + k2.toNat * 0x20))
    ((decodeRaw_2B h0).trans ((decode2B_vsubVx h1).trans ?_)) hw
  rw [h2, h3, h4, h5, h6, h7, h8]
  rfl
theorem vrsubVi (vd : BitVec 5) (vs1 : BitVec 5) (imm5 : BitVec 5) (vm : BitVec 3) (k1 : BitVec 1) (k2 : BitVec 1) : Statement (.vrsubVi vd vs1 imm5 vm k1 k2) := by
  intro _ hw
  obtain ⟨h0, h1, h2, h3, h4, h5, h6, h7, h8⟩ := layout34 (lit := 0xAC000005) vd vs1 imm5 vm k1 k2 (by decide : _ = 43 * 67108864 + 5) (by decide) (by decide)
  refine decodeWord_of_raw (w := BitVec.ofNat 32 (0xAC000005 + vd.toNat * 0x200000 + vs1.toNat * 0x10000 + imm5.toNat * 0x800 + vm.toNat * 0x100 + k1.toNat * 0x40 + k2.toNat * 0x20))
    ((decodeRaw_2B h0).trans ((decode2B_vrsubVi h1).trans ?_)) hw
  rw [h2, h3, h4, h5, h6, h7, h8]
  rfl
theorem vandVv (vd : BitVec 5) (vs1 : BitVec 5) (vs2 : BitVec 5) (vm : BitVec 3) (k1 : BitVec 1) (k2 : BitVec 1) : Statement (.vandVv vd vs1 vs2 vm k1 k2) := by
  intro _ hw
  obtain ⟨h0, h1, h2, h3, h4, h5, h6, h7, h8⟩ := layout34 (lit := 0xAC000006) vd vs1 vs2 vm k1 k2 (by decide : _ = 43 * 67108864 + 6) (by decide) (by decide)
  refine decodeWord_of_raw (w := BitVec.ofNat 32 (0xAC000006 + vd.toNat * 0x200000 + vs1.toNat * 0x10000 + vs2.toNat * 0x800 + vm.toNat * 0x100 + k1.toNat * 0x40 + k2.toNat * 0x20))
    ((decodeRaw_2B h0).trans ((decode2B_vandVv h1).trans ?_)) hw
  rw [h2, h3, h4, h5, h6, h7, h8]
  rfl
theorem vandVx (vd : BitVec 5) (vs1 : BitVec 5) (rs2 : BitVec 5) (vm : BitVec 3) (k1 : BitVec 1) (k2 : BitVec 1) : Statement (.vandVx vd vs1 rs2 vm k1 k2) := by
  intro _ hw
  obtain ⟨h0, h1, h2, h3, h4, h5, h6, h7, h8⟩ := layout34 (lit := 0xAC000007) vd vs1 rs2 vm k1 k2 (by decide : _ = 43 * 67108864 + 7) (by decide) (by decide)
  refine decodeWord_of_raw (w := BitVec.ofNat 32 (0xAC000007 + vd.toNat * 0x200000 + vs1.toNat * 0x10000 + rs2.toNat * 0x800 + vm.toNat * 0x100 + k1.toNat * 0x40 + k2.toNat * 0x20))
    ((decodeRaw_2B h0).trans ((decode2B_vandVx h1).trans ?_)) hw
  rw [h2, h3, h4, h5, h6, h7, h8]
  rfl
theorem vorVv (vd : BitVec 5) (vs1 : BitVec 5) (vs2 : BitVec 5) (vm : BitVec 3) (k1 : BitVec 1) (k2 : BitVec 1) : Statement (.vorVv vd vs1 vs2 vm k1 k2) := by
  intro _ hw
  obtain ⟨h0, h1, h2, h3, h4, h5, h6, h7, h8⟩ := layout34 (lit := 0xAC000008) vd vs1 vs2 vm k1 k2 (by decide : _ = 43 * 67108864 + 8) (by decide) (by decide)
  refine decodeWord_of_raw (w := BitVec.ofNat 32 (0xAC000008 + vd.toNat * 0x200000 + vs1.toNat * 0x10000 + vs2.toNat * 0x800 + vm.toNat * 0x100 + k1.toNat * 0x40 + k2.toNat * 0x20))
    ((decodeRaw_2B h0).trans ((decode2B_vorVv h1).trans ?_)) hw
  rw [h2, h3, h4, h5, h6, h7, h8]
  rfl
theorem vorVx (vd : BitVec 5) (vs1 : BitVec 5) (rs2 : BitVec 5) (vm : BitVec 3) (k1 : BitVec 1) (k2 : BitVec 1) : Statement (.vorVx vd vs1 rs2 vm k1 k2) := by
  intro _ hw
  obtain ⟨h0, h1, h2, h3, h4, h5, h6, h7, h8⟩ := layout34 (lit := 0xAC000009) vd vs1 rs2 vm k1 k2 (by decide : _ = 43 * 67108864 + 9) (by decide) (by decide)
  refine decodeWord_of_raw (w := BitVec.ofNat 32 (0xAC000009 + vd.toNat * 0x200000 + vs1.toNat * 0x10000 + rs2.toNat * 0x800 + vm.toNat * 0x100 + k1.toNat * 0x40 + k2.toNat * 0x20))
    ((decodeRaw_2B h0).trans ((decode2B_vorVx h1).trans ?_)) hw
  rw [h2, h3, h4, h5, h6, h7, h8]
  rfl
theorem vxorVv (vd : BitVec 5) (vs1 : BitVec 5) (vs2 : BitVec 5) (vm : BitVec 3) (k1 : BitVec 1) (k2 : BitVec 1) : Statement (.vxorVv vd vs1 vs2 vm k1 k2) := by
  intro _ hw
  obtain ⟨h0, h1, h2, h3, h4, h5, h6, h7, h8⟩ := layout34 (lit := 0xAC00000A) vd vs1 vs2 vm k1 k2 (by decide : _ = 43 * 67108864 + 10) (by decide) (by decide)
  refine decodeWord_of_raw (w := BitVec.ofNat 32 (0xAC00000A + vd.toNat * 0x200000 + vs1.toNat * 0x10000 + vs2.toNat * 0x800 + vm.toNat * 0x100 + k1.toNat * 0x40 + k2.toNat * 0x20))
    ((decodeRaw_2B h0).trans ((decode2B_vxorVv h1).trans ?_)) hw
  rw [h2, h3, h4, h5, h6, h7, h8]
  rfl
theorem vxorVx (vd : BitVec 5) (vs1 : BitVec 5) (rs2 : BitVec 5) (vm : BitVec 3) (k1 : BitVec 1) (k2 : BitVec 1) : Statement (.vxorVx vd vs1 rs2 vm k1 k2) := by
  intro _ hw
  obtain ⟨h0, h1, h2, h3, h4, h5, h6, h7, h8⟩ := layout34 (lit := 0xAC00000B) vd vs1 rs2 vm k1 k2 (by decide : _ = 43 * 67108864 + 11) (by decide) (by decide)
  refine decodeWord_of_raw (w := BitVec.ofNat 32 (0xAC00000B + vd.toNat * 0x200000 + vs1.toNat * 0x10000 + rs2.toNat * 0x800 + vm.toNat * 0x100 + k1.toNat * 0x40 + k2.toNat * 0x20))
    ((decodeRaw_2B h0).trans ((decode2B_vxorVx h1).trans ?_)) hw
  rw [h2, h3, h4, h5, h6, h7, h8]
  rfl
theorem vxorVi (vd : BitVec 5) (vs1 : BitVec 5) (imm5 : BitVec 5) (vm : BitVec 3) (k1 : BitVec 1) (k2 : BitVec 1) : Statement (.vxorVi vd vs1 imm5 vm k1 k2) := by
  intro _ hw
  obtain ⟨h0, h1, h2, h3, h4, h5, h6, h7, h8⟩ := layout34 (lit := 0xAC00000C) vd vs1 imm5 vm k1 k2 (by decide : _ = 43 * 67108864 + 12) (by decide) (by decide)
  refine decodeWord_of_raw (w := BitVec.ofNat 32 (0xAC00000C + vd.toNat * 0x200000 + vs1.toNat * 0x10000 + imm5.toNat * 0x800 + vm.toNat * 0x100 + k1.toNat * 0x40 + k2.toNat * 0x20))
    ((decodeRaw_2B h0).trans ((decode2B_vxorVi h1).trans ?_)) hw
  rw [h2, h3, h4, h5, h6, h7, h8]
  rfl
theorem vsllVv (vd : BitVec 5) (vs1 : BitVec 5) (vs2 : BitVec 5) (vm : BitVec 3) (k1 : BitVec 1) (k2 : BitVec 1) : Statement (.vsllVv vd vs1 vs2 vm k1 k2) := by
  intro _ hw
  obtain ⟨h0, h1, h2, h3, h4, h5, h6, h7, h8⟩ := layout34 (lit := 0xAC00000D) vd vs1 vs2 vm k1 k2 (by decide : _ = 43 * 67108864 + 13) (by decide) (by decide)
  refine decodeWord_of_raw (w := BitVec.ofNat 32 (0xAC00000D + vd.toNat * 0x200000 + vs1.toNat * 0x10000 + vs2.toNat * 0x800 + vm.toNat * 0x100 + k1.toNat * 0x40 + k2.toNat * 0x20))
    ((decodeRaw_2B h0).trans ((decode2B_vsllVv h1).trans ?_)) hw
  rw [h2, h3, h4, h5, h6, h7, h8]
  rfl
theorem vsllVi (vd : BitVec 5) (vs1 : BitVec 5) (imm5 : BitVec 5) (vm : BitVec 3) (k1 : BitVec 1) (k2 : BitVec 1) : Statement (.vsllVi vd vs1 imm5 vm k1 k2) := by
  intro _ hw
  obtain ⟨h0, h1, h2, h3, h4, h5, h6, h7, h8⟩ := layout34 (lit := 0xAC00000E) vd vs1 imm5 vm k1 k2 (by decide : _ = 43 * 67108864 + 14) (by decide) (by decide)
  refine decodeWord_of_raw (w := BitVec.ofNat 32 (0xAC00000E + vd.toNat * 0x200000 + vs1.toNat * 0x10000 + imm5.toNat * 0x800 + vm.toNat * 0x100 + k1.toNat * 0x40 + k2.toNat * 0x20))
    ((decodeRaw_2B h0).trans ((decode2B_vsllVi h1).trans ?_)) hw
  rw [h2, h3, h4, h5, h6, h7, h8]
  rfl
theorem vsrVv (vd : BitVec 5) (vs1 : BitVec 5) (vs2 : BitVec 5) (vm : BitVec 3) (k1 : BitVec 1) (k2 : BitVec 1) : Statement (.vsrVv vd vs1 vs2 vm k1 k2) := by
  intro _ hw
  obtain ⟨h0, h1, h2, h3, h4, h5, h6, h7, h8⟩ := layout34 (lit := 0xAC00000F) vd vs1 vs2 vm k1 k2 (by decide : _ = 43 * 67108864 + 15) (by decide) (by decide)
  refine decodeWord_of_raw (w := BitVec.ofNat 32 (0xAC00000F + vd.toNat * 0x200000 + vs1.toNat * 0x10000 + vs2.toNat * 0x800 + vm.toNat * 0x100 + k1.toNat * 0x40 + k2.toNat * 0x20))
    ((decodeRaw_2B h0).trans ((decode2B_vsrVv h1).trans ?_)) hw
  rw [h2, h3, h4, h5, h6, h7, h8]
  rfl
theorem vsrVi (vd : BitVec 5) (vs1 : BitVec 5) (imm5 : BitVec 5) (vm : BitVec 3) (k1 : BitVec 1) (k2 : BitVec 1) : Statement (.vsrVi vd vs1 imm5 vm k1 k2) := by
  intro _ hw
  obtain ⟨h0, h1, h2, h3, h4, h5, h6, h7, h8⟩ := layout34 (lit := 0xAC000010) vd vs1 imm5 vm k1 k2 (by decide : _ = 43 * 67108864 + 16) (by decide) (by decide)
  refine decodeWord_of_raw (w := BitVec.ofNat 32 (0xAC000010 + vd.toNat * 0x200000 + vs1.toNat * 0x10000 + imm5.toNat * 0x800 + vm.toNat * 0x100 + k1.toNat * 0x40 + k2.toNat * 0x20))
    ((decodeRaw_2B h0).trans ((decode2B_vsrVi h1).trans ?_)) hw
  rw [h2, h3, h4, h5, h6, h7, h8]
  rfl
theorem vminVv (vd : BitVec 5) (vs1 : BitVec 5) (vs2 : BitVec 5) (vm : BitVec 3) (k1 : BitVec 1) (k2 : BitVec 1) : Statement (.vminVv vd vs1 vs2 vm k1 k2) := by
  intro _ hw
  obtain ⟨h0, h1, h2, h3, h4, h5, h6, h7, h8⟩ := layout34 (lit := 0xAC000011) vd vs1 vs2 vm k1 k2 (by decide : _ = 43 * 67108864 + 17) (by decide) (by decide)
  refine decodeWord_of_raw (w := BitVec.ofNat 32 (0xAC000011 + vd.toNat * 0x200000 + vs1.toNat * 0x10000 + vs2.toNat * 0x800 + vm.toNat * 0x100 + k1.toNat * 0x40 + k2.toNat * 0x20))
    ((decodeRaw_2B h0).trans ((decode2B_vminVv h1).trans ?_)) hw
  rw [h2, h3, h4, h5, h6, h7, h8]
  rfl
theorem vminVx (vd : BitVec 5) (vs1 : BitVec 5) (rs2 : BitVec 5) (vm : BitVec 3) (k1 : BitVec 1) (k2 : BitVec 1) : Statement (.vminVx vd vs1 rs2 vm k1 k2) := by
  intro _ hw
  obtain ⟨h0, h1, h2, h3, h4, h5, h6, h7, h8⟩ := layout34 (lit := 0xAC000012) vd vs1 rs2 vm k1 k2 (by decide : _ = 43 * 67108864 + 18) (by decide) (by decide)
  refine decodeWord_of_raw (w := BitVec.ofNat 32 (0xAC000012 + vd.toNat * 0x200000 + vs1.toNat * 0x10000 + rs2.toNat * 0x800 + vm.toNat * 0x100 + k1.toNat * 0x40 + k2.toNat * 0x20))
    ((decodeRaw_2B h0).trans ((decode2B_vminVx h1).trans ?_)) hw
  rw [h2, h3, h4, h5, h6, h7, h8]
  rfl
theorem vmaxVv (vd : BitVec 5) (vs1 : BitVec 5) (vs2 : BitVec 5) (vm : BitVec 3) (k1 : BitVec 1) (k2 : BitVec 1) : Statement (.vmaxVv vd vs1 vs2 vm k1 k2) := by
  intro _ hw
  obtain ⟨h0, h1, h2, h3, h4, h5, h6, h7, h8⟩ := layout34 (lit := 0xAC000013) vd vs1 vs2 vm k1 k2 (by decide : _ = 43 * 67108864 + 19) (by decide) (by decide)
  refine decodeWord_of_raw (w := BitVec.ofNat 32 (0xAC000013 + vd.toNat * 0x200000 + vs1.toNat * 0x10000 + vs2.toNat * 0x800 + vm.toNat * 0x100 + k1.toNat * 0x40 + k2.toNat * 0x20))
    ((decodeRaw_2B h0).trans ((decode2B_vmaxVv h1).trans ?_)) hw
  rw [h2, h3, h4, h5, h6, h7, h8]
  rfl
theorem vmaxVx (vd : BitVec 5) (vs1 : BitVec 5) (rs2 : BitVec 5) (vm : BitVec 3) (k1 : BitVec 1) (k2 : BitVec 1) : Statement (.vmaxVx vd vs1 rs2 vm k1 k2) := by
  intro _ hw
  obtain ⟨h0, h1, h2, h3, h4, h5, h6, h7, h8⟩ := layout34 (lit := 0xAC000014) vd vs1 rs2 vm k1 k2 (by decide : _ = 43 * 67108864 + 20) (by decide) (by decide)
  refine decodeWord_of_raw (w := BitVec.ofNat 32 (0xAC000014 + vd.toNat * 0x200000 + vs1.toNat * 0x10000 + rs2.toNat * 0x800 + vm.toNat * 0x100 + k1.toNat * 0x40 + k2.toNat * 0x20))
    ((decodeRaw_2B h0).trans ((decode2B_vmaxVx h1).trans ?_)) hw
  rw [h2, h3, h4, h5, h6, h7, h8]
  rfl
theorem vmulVv (vd : BitVec 5) (vs1 : BitVec 5) (vs2 : BitVec 5) (vm : BitVec 3) (k1 : BitVec 1) (k2 : BitVec 1) : Statement (.vmulVv vd vs1 vs2 vm k1 k2) := by
  intro _ hw
  obtain ⟨h0, h1, h2, h3, h4, h5, h6, h7, h8⟩ := layout34 (lit := 0xAC000015) vd vs1 vs2 vm k1 k2 (by decide : _ = 43 * 67108864 + 21) (by decide) (by decide)
  refine decodeWord_of_raw (w := BitVec.ofNat 32 (0xAC000015 + vd.toNat * 0x200000 + vs1.toNat * 0x10000 + vs2.toNat * 0x800 + vm.toNat * 0x100 + k1.toNat * 0x40 + k2.toNat * 0x20))
    ((decodeRaw_2B h0).trans ((decode2B_vmulVv h1).trans ?_)) hw
  rw [h2, h3, h4, h5, h6, h7, h8]
  rfl
theorem vmulVx (vd : BitVec 5) (vs1 : BitVec 5) (rs2 : BitVec 5) (vm : BitVec 3) (k1 : BitVec 1) (k2 : BitVec 1) : Statement (.vmulVx vd vs1 rs2 vm k1 k2) := by
  intro _ hw
  obtain ⟨h0, h1, h2, h3, h4, h5, h6, h7, h8⟩ := layout34 (lit := 0xAC000016) vd vs1 rs2 vm k1 k2 (by decide : _ = 43 * 67108864 + 22) (by decide) (by decide)
  refine decodeWord_of_raw (w := BitVec.ofNat 32 (0xAC000016 + vd.toNat * 0x200000 + vs1.toNat * 0x10000 + rs2.toNat * 0x800 + vm.toNat * 0x100 + k1.toNat * 0x40 + k2.toNat * 0x20))
    ((decodeRaw_2B h0).trans ((decode2B_vmulVx h1).trans ?_)) hw
  rw [h2, h3, h4, h5, h6, h7, h8]
  rfl
theorem vmulhVv (vd : BitVec 5) (vs1 : BitVec 5) (vs2 : BitVec 5) (vm : BitVec 3) (k1 : BitVec 1) (k2 : BitVec 1) : Statement (.vmulhVv vd vs1 vs2 vm k1 k2) := by
  intro _ hw
  obtain ⟨h0, h1, h2, h3, h4, h5, h6, h7, h8⟩ := layout34 (lit := 0xAC000017) vd vs1 vs2 vm k1 k2 (by decide : _ = 43 * 67108864 + 23) (by decide) (by decide)
  refine decodeWord_of_raw (w := BitVec.ofNat 32 (0xAC000017 + vd.toNat * 0x200000 + vs1.toNat * 0x10000 + vs2.toNat * 0x800 + vm.toNat * 0x100 + k1.toNat * 0x40 + k2.toNat * 0x20))
    ((decodeRaw_2B h0).trans ((decode2B_vmulhVv h1).trans ?_)) hw
  rw [h2, h3, h4, h5, h6, h7, h8]
  rfl
theorem vmaccVv (vd : BitVec 5) (vs1 : BitVec 5) (vs2 : BitVec 5) (vm : BitVec 3) (k1 : BitVec 1) (k2 : BitVec 1) : Statement (.vmaccVv vd vs1 vs2 vm k1 k2) := by
  intro _ hw
  obtain ⟨h0, h1, h2, h3, h4, h5, h6, h7, h8⟩ := layout34 (lit := 0xAC000018) vd vs1 vs2 vm k1 k2 (by decide : _ = 43 * 67108864 + 24) (by decide) (by decide)
  refine decodeWord_of_raw (w := BitVec.ofNat 32 (0xAC000018 + vd.toNat * 0x200000 + vs1.toNat * 0x10000 + vs2.toNat * 0x800 + vm.toNat * 0x100 + k1.toNat * 0x40 + k2.toNat * 0x20))
    ((decodeRaw_2B h0).trans ((decode2B_vmaccVv h1).trans ?_)) hw
  rw [h2, h3, h4, h5, h6, h7, h8]
  rfl
theorem vmaccVx (vd : BitVec 5) (vs1 : BitVec 5) (rs2 : BitVec 5) (vm : BitVec 3) (k1 : BitVec 1) (k2 : BitVec 1) : Statement (.vmaccVx vd vs1 rs2 vm k1 k2) := by
  intro _ hw
  obtain ⟨h0, h1, h2, h3, h4, h5, h6, h7, h8⟩ := layout34 (lit := 0xAC000019) vd vs1 rs2 vm k1 k2 (by decide : _ = 43 * 67108864 + 25) (by decide) (by decide)
  refine decodeWord_of_raw (w := BitVec.ofNat 32 (0xAC000019 + vd.toNat * 0x200000 + vs1.toNat * 0x10000 + rs2.toNat * 0x800 + vm.toNat * 0x100 + k1.toNat * 0x40 + k2.toNat * 0x20))
    ((decodeRaw_2B h0).trans ((decode2B_vmaccVx h1).trans ?_)) hw
  rw [h2, h3, h4, h5, h6, h7, h8]
  rfl
theorem vsaddVv (vd : BitVec 5) (vs1 : BitVec 5) (vs2 : BitVec 5) (vm : BitVec 3) (k1 : BitVec 1) (k2 : BitVec 1) : Statement (.vsaddVv vd vs1 vs2 vm k1 k2) := by
  intro _ hw
  obtain ⟨h0, h1, h2, h3, h4, h5, h6, h7, h8⟩ := layout34 (lit := 0xAC00001A) vd vs1 vs2 vm k1 k2 (by decide : _ = 43 * 67108864 + 26) (by decide) (by decide)
  refine decodeWord_of_raw (w := BitVec.ofNat 32 (0xAC00001A + vd.toNat * 0x200000 + vs1.toNat * 0x10000 + vs2.toNat * 0x800 + vm.toNat * 0x100 + k1.toNat * 0x40 + k2.toNat * 0x20))
    ((decodeRaw_2B h0).trans ((decode2B_vsaddVv h1).trans ?_)) hw
  rw [h2, h3, h4, h5, h6, h7, h8]
  rfl
theorem vssubVv (vd : BitVec 5) (vs1 : BitVec 5) (vs2 : BitVec 5) (vm : BitVec 3) (k1 : BitVec 1) (k2 : BitVec 1) : Statement (.vssubVv vd vs1 vs2 vm k1 k2) := by
  intro _ hw
  obtain ⟨h0, h1, h2, h3, h4, h5, h6, h7, h8⟩ := layout34 (lit := 0xAC00001B) vd vs1 vs2 vm k1 k2 (by decide : _ = 43 * 67108864 + 27) (by decide) (by decide)
  refine decodeWord_of_raw (w := BitVec.ofNat 32 (0xAC00001B + vd.toNat * 0x200000 + vs1.toNat * 0x10000 + vs2.toNat * 0x800 + vm.toNat * 0x100 + k1.toNat * 0x40 + k2.toNat * 0x20))
    ((decodeRaw_2B h0).trans ((decode2B_vssubVv h1).trans ?_)) hw
  rw [h2, h3, h4, h5, h6, h7, h8]
  rfl
theorem vmergeVv (vd : BitVec 5) (vs1 : BitVec 5) (vs2 : BitVec 5) (vm : BitVec 3) (k1 : BitVec 1) (k2 : BitVec 1) : Statement (.vmergeVv vd vs1 vs2 vm k1 k2) := by
  intro _ hw
  obtain ⟨h0, h1, h2, h3, h4, h5, h6, h7, h8⟩ := layout34 (lit := 0xAC00001C) vd vs1 vs2 vm k1 k2 (by decide : _ = 43 * 67108864 + 28) (by decide) (by decide)
  refine decodeWord_of_raw (w := BitVec.ofNat 32 (0xAC00001C + vd.toNat * 0x200000 + vs1.toNat * 0x10000 + vs2.toNat * 0x800 + vm.toNat * 0x100 + k1.toNat * 0x40 + k2.toNat * 0x20))
    ((decodeRaw_2B h0).trans ((decode2B_vmergeVv h1).trans ?_)) hw
  rw [h2, h3, h4, h5, h6, h7, h8]
  rfl
theorem vmvVx (vd : BitVec 5) (rs2 : BitVec 5) (vm : BitVec 3) (k1 : BitVec 1) (k2 : BitVec 1) : Statement (.vmvVx vd rs2 vm k1 k2) := by
  intro _ hw
  obtain ⟨h0, h1, h2, h3, h4, h5, h6, h7, h8⟩ := layout35 (lit := 0xAC00001D) vd rs2 vm k1 k2 (by decide : _ = 43 * 67108864 + 29) (by decide) (by decide)
  refine decodeWord_of_raw (w := BitVec.ofNat 32 (0xAC00001D + vd.toNat * 0x200000 + rs2.toNat * 0x800 + vm.toNat * 0x100 + k1.toNat * 0x40 + k2.toNat * 0x20))
    ((decodeRaw_2B h0).trans ((decode2B_vmvVx h1).trans ?_)) hw
  rw [h2, h3, h4, h5, h6, h7, h8]
  rfl
theorem vmvVi (vd : BitVec 5) (imm5 : BitVec 5) (vm : BitVec 3) (k1 : BitVec 1) (k2 : BitVec 1) : Statement (.vmvVi vd imm5 vm k1 k2) := by
  intro _ hw
  obtain ⟨h0, h1, h2, h3, h4, h5, h6, h7, h8⟩ := layout35 (lit := 0xAC00001E) vd imm5 vm k1 k2 (by decide : _ = 43 * 67108864 + 30) (by decide) (by decide)
  refine decodeWord_of_raw (w := BitVec.ofNat 32 (0xAC00001E + vd.toNat * 0x200000 + imm5.toNat * 0x800 + vm.toNat * 0x100 + k1.toNat * 0x40 + k2.toNat * 0x20))
    ((decodeRaw_2B h0).trans ((decode2B_vmvVi h1).trans ?_)) hw
  rw [h2, h3, h4, h5, h6, h7, h8]
  rfl
theorem vfaddVv (vd : BitVec 5) (vs1 : BitVec 5) (vs2 : BitVec 5) (vm : BitVec 3) (x : BitVec 1) (k1 : BitVec 1) (k2 : BitVec 1) : Statement (.vfaddVv vd vs1 vs2 vm x k1 k2) := by
  intro _ hw
  obtain ⟨h0, h1, h2, h3, h4, h5, h6, h7, h8⟩ := layout36 (lit := 0xB0000000) vd vs1 vs2 vm x k1 k2 (by decide : _ = 44 * 67108864 + 0) (by decide) (by decide)
  refine decodeWord_of_raw (w := BitVec.ofNat 32 (0xB0000000 + vd.toNat * 0x200000 + vs1.toNat * 0x10000 + vs2.toNat * 0x800 + vm.toNat * 0x100 + x.toNat * 0x80 + k1.toNat * 0x40 + k2.toNat * 0x20))
    ((decodeRaw_2C h0).trans ((decode2C_vfaddVv h1).trans ?_)) hw
  rw [h2, h3, h4, h5, h6, h7, h8]
theorem vfaddVx (vd : BitVec 5) (vs1 : BitVec 5) (rs2 : BitVec 5) (vm : BitVec 3) (x : BitVec 1) (k1 : BitVec 1) (k2 : BitVec 1) : Statement (.vfaddVx vd vs1 rs2 vm x k1 k2) := by
  intro _ hw
  obtain ⟨h0, h1, h2, h3, h4, h5, h6, h7, h8⟩ := layout36 (lit := 0xB0000001) vd vs1 rs2 vm x k1 k2 (by decide : _ = 44 * 67108864 + 1) (by decide) (by decide)
  refine decodeWord_of_raw (w := BitVec.ofNat 32 (0xB0000001 + vd.toNat * 0x200000 + vs1.toNat * 0x10000 + rs2.toNat * 0x800 + vm.toNat * 0x100 + x.toNat * 0x80 + k1.toNat * 0x40 + k2.toNat * 0x20))
    ((decodeRaw_2C h0).trans ((decode2C_vfaddVx h1).trans ?_)) hw
  rw [h2, h3, h4, h5, h6, h7, h8]
theorem vfsubVv (vd : BitVec 5) (vs1 : BitVec 5) (vs2 : BitVec 5) (vm : BitVec 3) (x : BitVec 1) (k1 : BitVec 1) (k2 : BitVec 1) : Statement (.vfsubVv vd vs1 vs2 vm x k1 k2) := by
  intro _ hw
  obtain ⟨h0, h1, h2, h3, h4, h5, h6, h7, h8⟩ := layout36 (lit := 0xB0000002) vd vs1 vs2 vm x k1 k2 (by decide : _ = 44 * 67108864 + 2) (by decide) (by decide)
  refine decodeWord_of_raw (w := BitVec.ofNat 32 (0xB0000002 + vd.toNat * 0x200000 + vs1.toNat * 0x10000 + vs2.toNat * 0x800 + vm.toNat * 0x100 + x.toNat * 0x80 + k1.toNat * 0x40 + k2.toNat * 0x20))
    ((decodeRaw_2C h0).trans ((decode2C_vfsubVv h1).trans ?_)) hw
  rw [h2, h3, h4, h5, h6, h7, h8]
theorem vfsubVx (vd : BitVec 5) (vs1 : BitVec 5) (rs2 : BitVec 5) (vm : BitVec 3) (x : BitVec 1) (k1 : BitVec 1) (k2 : BitVec 1) : Statement (.vfsubVx vd vs1 rs2 vm x k1 k2) := by
  intro _ hw
  obtain ⟨h0, h1, h2, h3, h4, h5, h6, h7, h8⟩ := layout36 (lit := 0xB0000003) vd vs1 rs2 vm x k1 k2 (by decide : _ = 44 * 67108864 + 3) (by decide) (by decide)
  refine decodeWord_of_raw (w := BitVec.ofNat 32 (0xB0000003 + vd.toNat * 0x200000 + vs1.toNat * 0x10000 + rs2.toNat * 0x800 + vm.toNat * 0x100 + x.toNat * 0x80 + k1.toNat * 0x40 + k2.toNat * 0x20))
    ((decodeRaw_2C h0).trans ((decode2C_vfsubVx h1).trans ?_)) hw
  rw [h2, h3, h4, h5, h6, h7, h8]
theorem vfrsubVx (vd : BitVec 5) (vs1 : BitVec 5) (rs2 : BitVec 5) (vm : BitVec 3) (x : BitVec 1) (k1 : BitVec 1) (k2 : BitVec 1) : Statement (.vfrsubVx vd vs1 rs2 vm x k1 k2) := by
  intro _ hw
  obtain ⟨h0, h1, h2, h3, h4, h5, h6, h7, h8⟩ := layout36 (lit := 0xB0000004) vd vs1 rs2 vm x k1 k2 (by decide : _ = 44 * 67108864 + 4) (by decide) (by decide)
  refine decodeWord_of_raw (w := BitVec.ofNat 32 (0xB0000004 + vd.toNat * 0x200000 + vs1.toNat * 0x10000 + rs2.toNat * 0x800 + vm.toNat * 0x100 + x.toNat * 0x80 + k1.toNat * 0x40 + k2.toNat * 0x20))
    ((decodeRaw_2C h0).trans ((decode2C_vfrsubVx h1).trans ?_)) hw
  rw [h2, h3, h4, h5, h6, h7, h8]
theorem vfmulVv (vd : BitVec 5) (vs1 : BitVec 5) (vs2 : BitVec 5) (vm : BitVec 3) (x : BitVec 1) (k1 : BitVec 1) (k2 : BitVec 1) : Statement (.vfmulVv vd vs1 vs2 vm x k1 k2) := by
  intro _ hw
  obtain ⟨h0, h1, h2, h3, h4, h5, h6, h7, h8⟩ := layout36 (lit := 0xB0000005) vd vs1 vs2 vm x k1 k2 (by decide : _ = 44 * 67108864 + 5) (by decide) (by decide)
  refine decodeWord_of_raw (w := BitVec.ofNat 32 (0xB0000005 + vd.toNat * 0x200000 + vs1.toNat * 0x10000 + vs2.toNat * 0x800 + vm.toNat * 0x100 + x.toNat * 0x80 + k1.toNat * 0x40 + k2.toNat * 0x20))
    ((decodeRaw_2C h0).trans ((decode2C_vfmulVv h1).trans ?_)) hw
  rw [h2, h3, h4, h5, h6, h7, h8]
theorem vfmulVx (vd : BitVec 5) (vs1 : BitVec 5) (rs2 : BitVec 5) (vm : BitVec 3) (x : BitVec 1) (k1 : BitVec 1) (k2 : BitVec 1) : Statement (.vfmulVx vd vs1 rs2 vm x k1 k2) := by
  intro _ hw
  obtain ⟨h0, h1, h2, h3, h4, h5, h6, h7, h8⟩ := layout36 (lit := 0xB0000006) vd vs1 rs2 vm x k1 k2 (by decide : _ = 44 * 67108864 + 6) (by decide) (by decide)
  refine decodeWord_of_raw (w := BitVec.ofNat 32 (0xB0000006 + vd.toNat * 0x200000 + vs1.toNat * 0x10000 + rs2.toNat * 0x800 + vm.toNat * 0x100 + x.toNat * 0x80 + k1.toNat * 0x40 + k2.toNat * 0x20))
    ((decodeRaw_2C h0).trans ((decode2C_vfmulVx h1).trans ?_)) hw
  rw [h2, h3, h4, h5, h6, h7, h8]
theorem vfdivVv (vd : BitVec 5) (vs1 : BitVec 5) (vs2 : BitVec 5) (vm : BitVec 3) (x : BitVec 1) (k1 : BitVec 1) (k2 : BitVec 1) : Statement (.vfdivVv vd vs1 vs2 vm x k1 k2) := by
  intro _ hw
  obtain ⟨h0, h1, h2, h3, h4, h5, h6, h7, h8⟩ := layout36 (lit := 0xB0000007) vd vs1 vs2 vm x k1 k2 (by decide : _ = 44 * 67108864 + 7) (by decide) (by decide)
  refine decodeWord_of_raw (w := BitVec.ofNat 32 (0xB0000007 + vd.toNat * 0x200000 + vs1.toNat * 0x10000 + vs2.toNat * 0x800 + vm.toNat * 0x100 + x.toNat * 0x80 + k1.toNat * 0x40 + k2.toNat * 0x20))
    ((decodeRaw_2C h0).trans ((decode2C_vfdivVv h1).trans ?_)) hw
  rw [h2, h3, h4, h5, h6, h7, h8]
theorem vfdivVx (vd : BitVec 5) (vs1 : BitVec 5) (rs2 : BitVec 5) (vm : BitVec 3) (x : BitVec 1) (k1 : BitVec 1) (k2 : BitVec 1) : Statement (.vfdivVx vd vs1 rs2 vm x k1 k2) := by
  intro _ hw
  obtain ⟨h0, h1, h2, h3, h4, h5, h6, h7, h8⟩ := layout36 (lit := 0xB0000008) vd vs1 rs2 vm x k1 k2 (by decide : _ = 44 * 67108864 + 8) (by decide) (by decide)
  refine decodeWord_of_raw (w := BitVec.ofNat 32 (0xB0000008 + vd.toNat * 0x200000 + vs1.toNat * 0x10000 + rs2.toNat * 0x800 + vm.toNat * 0x100 + x.toNat * 0x80 + k1.toNat * 0x40 + k2.toNat * 0x20))
    ((decodeRaw_2C h0).trans ((decode2C_vfdivVx h1).trans ?_)) hw
  rw [h2, h3, h4, h5, h6, h7, h8]
theorem vfsqrt (vd : BitVec 5) (vs1 : BitVec 5) (vm : BitVec 3) (x : BitVec 1) (k1 : BitVec 1) : Statement (.vfsqrt vd vs1 vm x k1) := by
  intro _ hw
  obtain ⟨h0, h1, h2, h3, h4, h5, h6, h7, h8⟩ := layout37 (lit := 0xB0000009) vd vs1 vm x k1 (by decide : _ = 44 * 67108864 + 9) (by decide) (by decide)
  refine decodeWord_of_raw (w := BitVec.ofNat 32 (0xB0000009 + vd.toNat * 0x200000 + vs1.toNat * 0x10000 + vm.toNat * 0x100 + x.toNat * 0x80 + k1.toNat * 0x40))
    ((decodeRaw_2C h0).trans ((decode2C_vfsqrt h1).trans ?_)) hw
  rw [h2, h3, h4, h5, h6, h7, h8]
  rfl
theorem vfmaccVv (vd : BitVec 5) (vs1 : BitVec 5) (vs2 : BitVec 5) (vm : BitVec 3) (x : BitVec 1) (k1 : BitVec 1) (k2 : BitVec 1) : Statement (.vfmaccVv vd vs1 vs2 vm x k1 k2) := by
  intro _ hw
  obtain ⟨h0, h1, h2, h3, h4, h5, h6, h7, h8⟩ := layout36 (lit := 0xB000000A) vd vs1 vs2 vm x k1 k2 (by decide : _ = 44 * 67108864 + 10) (by decide) (by decide)
  refine decodeWord_of_raw (w := BitVec.ofNat 32 (0xB000000A + vd.toNat * 0x200000 + vs1.toNat * 0x10000 + vs2.toNat * 0x800 + vm.toNat * 0x100 + x.toNat * 0x80 + k1.toNat * 0x40 + k2.toNat * 0x20))
    ((decodeRaw_2C h0).trans ((decode2C_vfmaccVv h1).trans ?_)) hw
  rw [h2, h3, h4, h5, h6, h7, h8]
theorem vfmaccVx (vd : BitVec 5) (vs1 : BitVec 5) (rs2 : BitVec 5) (vm : BitVec 3) (x : BitVec 1) (k1 : BitVec 1) (k2 : BitVec 1) : Statement (.vfmaccVx vd vs1 rs2 vm x k1 k2) := by
  intro _ hw
  obtain ⟨h0, h1, h2, h3, h4, h5, h6, h7, h8⟩ := layout36 (lit := 0xB000000B) vd vs1 rs2 vm x k1 k2 (by decide : _ = 44 * 67108864 + 11) (by decide) (by decide)
  refine decodeWord_of_raw (w := BitVec.ofNat 32 (0xB000000B + vd.toNat * 0x200000 + vs1.toNat * 0x10000 + rs2.toNat * 0x800 + vm.toNat * 0x100 + x.toNat * 0x80 + k1.toNat * 0x40 + k2.toNat * 0x20))
    ((decodeRaw_2C h0).trans ((decode2C_vfmaccVx h1).trans ?_)) hw
  rw [h2, h3, h4, h5, h6, h7, h8]
theorem vfnmsacVv (vd : BitVec 5) (vs1 : BitVec 5) (vs2 : BitVec 5) (vm : BitVec 3) (x : BitVec 1) (k1 : BitVec 1) (k2 : BitVec 1) : Statement (.vfnmsacVv vd vs1 vs2 vm x k1 k2) := by
  intro _ hw
  obtain ⟨h0, h1, h2, h3, h4, h5, h6, h7, h8⟩ := layout36 (lit := 0xB000000C) vd vs1 vs2 vm x k1 k2 (by decide : _ = 44 * 67108864 + 12) (by decide) (by decide)
  refine decodeWord_of_raw (w := BitVec.ofNat 32 (0xB000000C + vd.toNat * 0x200000 + vs1.toNat * 0x10000 + vs2.toNat * 0x800 + vm.toNat * 0x100 + x.toNat * 0x80 + k1.toNat * 0x40 + k2.toNat * 0x20))
    ((decodeRaw_2C h0).trans ((decode2C_vfnmsacVv h1).trans ?_)) hw
  rw [h2, h3, h4, h5, h6, h7, h8]
theorem vfnmsacVx (vd : BitVec 5) (vs1 : BitVec 5) (rs2 : BitVec 5) (vm : BitVec 3) (x : BitVec 1) (k1 : BitVec 1) (k2 : BitVec 1) : Statement (.vfnmsacVx vd vs1 rs2 vm x k1 k2) := by
  intro _ hw
  obtain ⟨h0, h1, h2, h3, h4, h5, h6, h7, h8⟩ := layout36 (lit := 0xB000000D) vd vs1 rs2 vm x k1 k2 (by decide : _ = 44 * 67108864 + 13) (by decide) (by decide)
  refine decodeWord_of_raw (w := BitVec.ofNat 32 (0xB000000D + vd.toNat * 0x200000 + vs1.toNat * 0x10000 + rs2.toNat * 0x800 + vm.toNat * 0x100 + x.toNat * 0x80 + k1.toNat * 0x40 + k2.toNat * 0x20))
    ((decodeRaw_2C h0).trans ((decode2C_vfnmsacVx h1).trans ?_)) hw
  rw [h2, h3, h4, h5, h6, h7, h8]
theorem vfminVv (vd : BitVec 5) (vs1 : BitVec 5) (vs2 : BitVec 5) (vm : BitVec 3) (x : BitVec 1) (k1 : BitVec 1) (k2 : BitVec 1) : Statement (.vfminVv vd vs1 vs2 vm x k1 k2) := by
  intro _ hw
  obtain ⟨h0, h1, h2, h3, h4, h5, h6, h7, h8⟩ := layout36 (lit := 0xB000000E) vd vs1 vs2 vm x k1 k2 (by decide : _ = 44 * 67108864 + 14) (by decide) (by decide)
  refine decodeWord_of_raw (w := BitVec.ofNat 32 (0xB000000E + vd.toNat * 0x200000 + vs1.toNat * 0x10000 + vs2.toNat * 0x800 + vm.toNat * 0x100 + x.toNat * 0x80 + k1.toNat * 0x40 + k2.toNat * 0x20))
    ((decodeRaw_2C h0).trans ((decode2C_vfminVv h1).trans ?_)) hw
  rw [h2, h3, h4, h5, h6, h7, h8]
theorem vfminVx (vd : BitVec 5) (vs1 : BitVec 5) (rs2 : BitVec 5) (vm : BitVec 3) (x : BitVec 1) (k1 : BitVec 1) (k2 : BitVec 1) : Statement (.vfminVx vd vs1 rs2 vm x k1 k2) := by
  intro _ hw
  obtain ⟨h0, h1, h2, h3, h4, h5, h6, h7, h8⟩ := layout36 (lit := 0xB000000F) vd vs1 rs2 vm x k1 k2 (by decide : _ = 44 * 67108864 + 15) (by decide) (by decide)
  refine decodeWord_of_raw (w := BitVec.ofNat 32 (0xB000000F + vd.toNat * 0x200000 + vs1.toNat * 0x10000 + rs2.toNat * 0x800 + vm.toNat * 0x100 + x.toNat * 0x80 + k1.toNat * 0x40 + k2.toNat * 0x20))
    ((decodeRaw_2C h0).trans ((decode2C_vfminVx h1).trans ?_)) hw
  rw [h2, h3, h4, h5, h6, h7, h8]
theorem vfmaxVv (vd : BitVec 5) (vs1 : BitVec 5) (vs2 : BitVec 5) (vm : BitVec 3) (x : BitVec 1) (k1 : BitVec 1) (k2 : BitVec 1) : Statement (.vfmaxVv vd vs1 vs2 vm x k1 k2) := by
  intro _ hw
  obtain ⟨h0, h1, h2, h3, h4, h5, h6, h7, h8⟩ := layout36 (lit := 0xB0000010) vd vs1 vs2 vm x k1 k2 (by decide : _ = 44 * 67108864 + 16) (by decide) (by decide)
  refine decodeWord_of_raw (w := BitVec.ofNat 32 (0xB0000010 + vd.toNat * 0x200000 + vs1.toNat * 0x10000 + vs2.toNat * 0x800 + vm.toNat * 0x100 + x.toNat * 0x80 + k1.toNat * 0x40 + k2.toNat * 0x20))
    ((decodeRaw_2C h0).trans ((decode2C_vfmaxVv h1).trans ?_)) hw
  rw [h2, h3, h4, h5, h6, h7, h8]
theorem vfmaxVx (vd : BitVec 5) (vs1 : BitVec 5) (rs2 : BitVec 5) (vm : BitVec 3) (x : BitVec 1) (k1 : BitVec 1) (k2 : BitVec 1) : Statement (.vfmaxVx vd vs1 rs2 vm x k1 k2) := by
  intro _ hw
  obtain ⟨h0, h1, h2, h3, h4, h5, h6, h7, h8⟩ := layout36 (lit := 0xB0000011) vd vs1 rs2 vm x k1 k2 (by decide : _ = 44 * 67108864 + 17) (by decide) (by decide)
  refine decodeWord_of_raw (w := BitVec.ofNat 32 (0xB0000011 + vd.toNat * 0x200000 + vs1.toNat * 0x10000 + rs2.toNat * 0x800 + vm.toNat * 0x100 + x.toNat * 0x80 + k1.toNat * 0x40 + k2.toNat * 0x20))
    ((decodeRaw_2C h0).trans ((decode2C_vfmaxVx h1).trans ?_)) hw
  rw [h2, h3, h4, h5, h6, h7, h8]
theorem vfsgnjVv (vd : BitVec 5) (vs1 : BitVec 5) (vs2 : BitVec 5) (vm : BitVec 3) (k1 : BitVec 1) (k2 : BitVec 1) : Statement (.vfsgnjVv vd vs1 vs2 vm k1 k2) := by
  intro _ hw
  obtain ⟨h0, h1, h2, h3, h4, h5, h6, h7, h8⟩ := layout34 (lit := 0xB0000012) vd vs1 vs2 vm k1 k2 (by decide : _ = 44 * 67108864 + 18) (by decide) (by decide)
  refine decodeWord_of_raw (w := BitVec.ofNat 32 (0xB0000012 + vd.toNat * 0x200000 + vs1.toNat * 0x10000 + vs2.toNat * 0x800 + vm.toNat * 0x100 + k1.toNat * 0x40 + k2.toNat * 0x20))
    ((decodeRaw_2C h0).trans ((decode2C_vfsgnjVv h1).trans ?_)) hw
  rw [h2, h3, h4, h5, h6, h7, h8]
  rfl
theorem vfsgnjnVv (vd : BitVec 5) (vs1 : BitVec 5) (vs2 : BitVec 5) (vm : BitVec 3) (k1 : BitVec 1) (k2 : BitVec 1) : Statement (.vfsgnjnVv vd vs1 vs2 vm k1 k2) := by
  intro _ hw
  obtain ⟨h0, h1, h2, h3, h4, h5, h6, h7, h8⟩ := layout34 (lit := 0xB0000013) vd vs1 vs2 vm k1 k2 (by decide : _ = 44 * 67108864 + 19) (by decide) (by decide)
  refine decodeWord_of_raw (w := BitVec.ofNat 32 (0xB0000013 + vd.toNat * 0x200000 + vs1.toNat * 0x10000 + vs2.toNat * 0x800 + vm.toNat * 0x100 + k1.toNat * 0x40 + k2.toNat * 0x20))
    ((decodeRaw_2C h0).trans ((decode2C_vfsgnjnVv h1).trans ?_)) hw
  rw [h2, h3, h4, h5, h6, h7, h8]
  rfl
theorem vfsgnjxVv (vd : BitVec 5) (vs1 : BitVec 5) (vs2 : BitVec 5) (vm : BitVec 3) (k1 : BitVec 1) (k2 : BitVec 1) : Statement (.vfsgnjxVv vd vs1 vs2 vm k1 k2) := by
  intro _ hw
  obtain ⟨h0, h1, h2, h3, h4, h5, h6, h7, h8⟩ := layout34 (lit := 0xB0000014) vd vs1 vs2 vm k1 k2 (by decide : _ = 44 * 67108864 + 20) (by decide) (by decide)
  refine decodeWord_of_raw (w := BitVec.ofNat 32 (0xB0000014 + vd.toNat * 0x200000 + vs1.toNat * 0x10000 + vs2.toNat * 0x800 + vm.toNat * 0x100 + k1.toNat * 0x40 + k2.toNat * 0x20))
    ((decodeRaw_2C h0).trans ((decode2C_vfsgnjxVv h1).trans ?_)) hw
  rw [h2, h3, h4, h5, h6, h7, h8]
  rfl
theorem vfrec (vd : BitVec 5) (vs1 : BitVec 5) (vm : BitVec 3) (x : BitVec 1) (k1 : BitVec 1) : Statement (.vfrec vd vs1 vm x k1) := by
  intro _ hw
  obtain ⟨h0, h1, h2, h3, h4, h5, h6, h7, h8⟩ := layout37 (lit := 0xB0000015) vd vs1 vm x k1 (by decide : _ = 44 * 67108864 + 21) (by decide) (by decide)
  refine decodeWord_of_raw (w := BitVec.ofNat 32 (0xB0000015 + vd.toNat * 0x200000 + vs1.toNat * 0x10000 + vm.toNat * 0x100 + x.toNat * 0x80 + k1.toNat * 0x40))
    ((decodeRaw_2C h0).trans ((decode2C_vfrec h1).trans ?_)) hw
  rw [h2, h3, h4, h5, h6, h7, h8]
  rfl
theorem vfrsqrt (vd : BitVec 5) (vs1 : BitVec 5) (vm : BitVec 3) (x : BitVec 1) (k1 : BitVec 1) : Statement (.vfrsqrt vd vs1 vm x k1) := by
  intro _ hw
  obtain ⟨h0, h1, h2, h3, h4, h5, h6, h7, h8⟩ := layout37 (lit := 0xB0000016) vd vs1 vm x k1 (by decide : _ = 44 * 67108864 + 22) (by decide) (by decide)
  refine decodeWord_of_raw (w := BitVec.ofNat 32 (0xB0000016 + vd.toNat * 0x200000 + vs1.toNat * 0x10000 + vm.toNat * 0x100 + x.toNat * 0x80 + k1.toNat * 0x40))
    ((decodeRaw_2C h0).trans ((decode2C_vfrsqrt h1).trans ?_)) hw
  rw [h2, h3, h4, h5, h6, h7, h8]
  rfl
theorem vfexp2 (vd : BitVec 5) (vs1 : BitVec 5) (vm : BitVec 3) (x : BitVec 1) (k1 : BitVec 1) : Statement (.vfexp2 vd vs1 vm x k1) := by
  intro _ hw
  obtain ⟨h0, h1, h2, h3, h4, h5, h6, h7, h8⟩ := layout37 (lit := 0xB0000017) vd vs1 vm x k1 (by decide : _ = 44 * 67108864 + 23) (by decide) (by decide)
  refine decodeWord_of_raw (w := BitVec.ofNat 32 (0xB0000017 + vd.toNat * 0x200000 + vs1.toNat * 0x10000 + vm.toNat * 0x100 + x.toNat * 0x80 + k1.toNat * 0x40))
    ((decodeRaw_2C h0).trans ((decode2C_vfexp2 h1).trans ?_)) hw
  rw [h2, h3, h4, h5, h6, h7, h8]
  rfl
theorem vfcvtI (vd : BitVec 5) (vs1 : BitVec 5) (vm : BitVec 3) (x : BitVec 1) (k1 : BitVec 1) : Statement (.vfcvtI vd vs1 vm x k1) := by
  intro _ hw
  obtain ⟨h0, h1, h2, h3, h4, h5, h6, h7, h8⟩ := layout38 (lit := 0xB0000018) vd vs1 vm x k1 (by decide : _ = 44 * 67108864 + 24 + 0 * 2048) (by decide) (by decide) (by decide)
  refine decodeWord_of_raw (w := BitVec.ofNat 32 (0xB0000018 + vd.toNat * 0x200000 + vs1.toNat * 0x10000 + vm.toNat * 0x100 + x.toNat * 0x80 + k1.toNat * 0x40))
    ((decodeRaw_2C h0).trans ((decode2C_vfcvtI h1 h2).trans ?_)) hw
  rw [h3, h4, h5, h6, h7, h8]
  rfl
theorem vfcvtUi (vd : BitVec 5) (vs1 : BitVec 5) (vm : BitVec 3) (x : BitVec 1) (k1 : BitVec 1) : Statement (.vfcvtUi vd vs1 vm x k1) := by
  intro _ hw
  obtain ⟨h0, h1, h2, h3, h4, h5, h6, h7, h8⟩ := layout38 (lit := 0xB0000818) vd vs1 vm x k1 (by decide : _ = 44 * 67108864 + 24 + 1 * 2048) (by decide) (by decide) (by decide)
  refine decodeWord_of_raw (w := BitVec.ofNat 32 (0xB0000818 + vd.toNat * 0x200000 + vs1.toNat * 0x10000 + vm.toNat * 0x100 + x.toNat * 0x80 + k1.toNat * 0x40))
    ((decodeRaw_2C h0).trans ((decode2C_vfcvtUi h1 h2).trans ?_)) hw
  rw [h3, h4, h5, h6, h7, h8]
  rfl
theorem vfcvtFi (vd : BitVec 5) (vs1 : BitVec 5) (vm : BitVec 3) (x : BitVec 1) (k1 : BitVec 1) : Statement (.vfcvtFi vd vs1 vm x k1) := by
  intro _ hw
  obtain ⟨h0, h1, h2, h3, h4, h5, h6, h7, h8⟩ := layout38 (lit := 0xB0001018) vd vs1 vm x k1 (by decide : _ = 44 * 67108864 + 24 + 2 * 2048) (by decide) (by decide) (by decide)
  refine decodeWord_of_raw (w := BitVec.ofNat 32 (0xB0001018 + vd.toNat * 0x200000 + vs1.toNat * 0x10000 + vm.toNat * 0x100 + x.toNat * 0x80 + k1.toNat * 0x40))
    ((decodeRaw_2C h0).trans ((decode2C_vfcvtFi h1 h2).trans ?_)) hw
  rw [h3, h4, h5, h6, h7, h8]
  rfl
theorem vfcvtFui (vd : BitVec 5) (vs1 : BitVec 5) (vm : BitVec 3) (x : BitVec 1) (k1 : BitVec 1) : Statement (.vfcvtFui vd vs1 vm x k1) := by
  intro _ hw
  obtain ⟨h0, h1, h2, h3, h4, h5, h6, h7, h8⟩ := layout38 (lit := 0xB0001818) vd vs1 vm x k1 (by decide : _ = 44 * 67108864 + 24 + 3 * 2048) (by decide) (by decide) (by decide)
  refine decodeWord_of_raw (w := BitVec.ofNat 32 (0xB0001818 + vd.toNat * 0x200000 + vs1.toNat * 0x10000 + vm.toNat * 0x100 + x.toNat * 0x80 + k1.toNat * 0x40))
    ((decodeRaw_2C h0).trans ((decode2C_vfcvtFui h1 h2).trans ?_)) hw
  rw [h3, h4, h5, h6, h7, h8]
  rfl
theorem vfcvtRint (vd : BitVec 5) (vs1 : BitVec 5) (vm : BitVec 3) (x : BitVec 1) (k1 : BitVec 1) : Statement (.vfcvtRint vd vs1 vm x k1) := by
  intro _ hw
  obtain ⟨h0, h1, h2, h3, h4, h5, h6, h7, h8⟩ := layout38 (lit := 0xB0002018) vd vs1 vm x k1 (by decide : _ = 44 * 67108864 + 24 + 4 * 2048) (by decide) (by decide) (by decide)
  refine decodeWord_of_raw (w := BitVec.ofNat 32 (0xB0002018 + vd.toNat * 0x200000 + vs1.toNat * 0x10000 + vm.toNat * 0x100 + x.toNat * 0x80 + k1.toNat * 0x40))
    ((decodeRaw_2C h0).trans ((decode2C_vfcvtRint h1 h2).trans ?_)) hw
  rw [h3, h4, h5, h6, h7, h8]
  rfl
theorem vfclass (vd : BitVec 5) (vs1 : BitVec 5) (vm : BitVec 3) (k1 : BitVec 1) : Statement (.vfclass vd vs1 vm k1) := by
  intro _ hw
  obtain ⟨h0, h1, h2, h3, h4, h5, h6, h7, h8⟩ := layout39 (lit := 0xB0000019) vd vs1 vm k1 (by decide : _ = 44 * 67108864 + 25) (by decide) (by decide)
  refine decodeWord_of_raw (w := BitVec.ofNat 32 (0xB0000019 + vd.toNat * 0x200000 + vs1.toNat * 0x10000 + vm.toNat * 0x100 + k1.toNat * 0x40))
    ((decodeRaw_2C h0).trans ((decode2C_vfclass h1).trans ?_)) hw
  rw [h2, h3, h4, h5, h6, h7, h8]
  rfl
theorem vslupVi (vd : BitVec 5) (vs1 : BitVec 5) (n : BitVec 5) (vm : BitVec 3) (k1 : BitVec 1) (k2 : BitVec 1) : Statement (.vslupVi vd vs1 n vm k1 k2) := by
  intro _ hw
  obtain ⟨h0, h1, h2, h3, h4, h5, h6, h7, h8⟩ := layout34 (lit := 0xB4000000) vd vs1 n vm k1 k2 (by decide : _ = 45 * 67108864 + 0) (by decide) (by decide)
  refine decodeWord_of_raw (w := BitVec.ofNat 32 (0xB4000000 + vd.toNat * 0x200000 + vs1.toNat * 0x10000 + n.toNat * 0x800 + vm.toNat * 0x100 + k1.toNat * 0x40 + k2.toNat * 0x20))
    ((decodeRaw_2D h0).trans ((decode2D_vslupVi h1).trans ?_)) hw
  rw [h2, h3, h4, h5, h6, h7, h8]
  rfl
theorem vsldnVi (vd : BitVec 5) (vs1 : BitVec 5) (n : BitVec 5) (vm : BitVec 3) (k1 : BitVec 1) (k2 : BitVec 1) : Statement (.vsldnVi vd vs1 n vm k1 k2) := by
  intro _ hw
  obtain ⟨h0, h1, h2, h3, h4, h5, h6, h7, h8⟩ := layout34 (lit := 0xB4000001) vd vs1 n vm k1 k2 (by decide : _ = 45 * 67108864 + 1) (by decide) (by decide)
  refine decodeWord_of_raw (w := BitVec.ofNat 32 (0xB4000001 + vd.toNat * 0x200000 + vs1.toNat * 0x10000 + n.toNat * 0x800 + vm.toNat * 0x100 + k1.toNat * 0x40 + k2.toNat * 0x20))
    ((decodeRaw_2D h0).trans ((decode2D_vsldnVi h1).trans ?_)) hw
  rw [h2, h3, h4, h5, h6, h7, h8]
  rfl
theorem vrgathVv (vd : BitVec 5) (vs1 : BitVec 5) (vs2 : BitVec 5) (vm : BitVec 3) (k1 : BitVec 1) (k2 : BitVec 1) : Statement (.vrgathVv vd vs1 vs2 vm k1 k2) := by
  intro _ hw
  obtain ⟨h0, h1, h2, h3, h4, h5, h6, h7, h8⟩ := layout34 (lit := 0xB4000002) vd vs1 vs2 vm k1 k2 (by decide : _ = 45 * 67108864 + 2) (by decide) (by decide)
  refine decodeWord_of_raw (w := BitVec.ofNat 32 (0xB4000002 + vd.toNat * 0x200000 + vs1.toNat * 0x10000 + vs2.toNat * 0x800 + vm.toNat * 0x100 + k1.toNat * 0x40 + k2.toNat * 0x20))
    ((decodeRaw_2D h0).trans ((decode2D_vrgathVv h1).trans ?_)) hw
  rw [h2, h3, h4, h5, h6, h7, h8]
  rfl
theorem vcompress (vd : BitVec 5) (vs1 : BitVec 5) (vm : BitVec 3) (k1 : BitVec 1) : Statement (.vcompress vd vs1 vm k1) := by
  intro _ hw
  obtain ⟨h0, h1, h2, h3, h4, h5, h6, h7, h8⟩ := layout39 (lit := 0xB4000003) vd vs1 vm k1 (by decide : _ = 45 * 67108864 + 3) (by decide) (by decide)
  refine decodeWord_of_raw (w := BitVec.ofNat 32 (0xB4000003 + vd.toNat * 0x200000 + vs1.toNat * 0x10000 + vm.toNat * 0x100 + k1.toNat * 0x40))
    ((decodeRaw_2D h0).trans ((decode2D_vcompress h1).trans ?_)) hw
  rw [h2, h3, h4, h5, h6, h7, h8]
  rfl
theorem vexpand (vd : BitVec 5) (vs1 : BitVec 5) (vm : BitVec 3) (k1 : BitVec 1) : Statement (.vexpand vd vs1 vm k1) := by
  intro _ hw
  obtain ⟨h0, h1, h2, h3, h4, h5, h6, h7, h8⟩ := layout39 (lit := 0xB4000004) vd vs1 vm k1 (by decide : _ = 45 * 67108864 + 4) (by decide) (by decide)
  refine decodeWord_of_raw (w := BitVec.ofNat 32 (0xB4000004 + vd.toNat * 0x200000 + vs1.toNat * 0x10000 + vm.toNat * 0x100 + k1.toNat * 0x40))
    ((decodeRaw_2D h0).trans ((decode2D_vexpand h1).trans ?_)) hw
  rw [h2, h3, h4, h5, h6, h7, h8]
  rfl
theorem viota (vd : BitVec 5) (ms : BitVec 5) (vm : BitVec 3) : Statement (.viota vd ms vm) := by
  intro _ hw
  obtain ⟨h0, h1, h2, h3, h4, h5, h6⟩ := layout40 (lit := 0xB4000005) vd ms vm (by decide : _ = 45 * 67108864 + 5) (by decide) (by decide)
  refine decodeWord_of_raw (w := BitVec.ofNat 32 (0xB4000005 + vd.toNat * 0x200000 + ms.toNat * 0x10000 + vm.toNat * 0x100))
    ((decodeRaw_2D h0).trans ((decode2D_viota h1).trans ?_)) hw
  rw [h2, h3, h4, h5, h6]
  rfl
theorem vid (vd : BitVec 5) (vm : BitVec 3) : Statement (.vid vd vm) := by
  intro _ hw
  obtain ⟨h0, h1, h2, h3, h4, h5⟩ := layout41 (lit := 0xB4000006) vd vm (by decide : _ = 45 * 67108864 + 6) (by decide) (by decide)
  refine decodeWord_of_raw (w := BitVec.ofNat 32 (0xB4000006 + vd.toNat * 0x200000 + vm.toNat * 0x100))
    ((decodeRaw_2D h0).trans ((decode2D_vid h1).trans ?_)) hw
  rw [h2, h3, h4, h5]
  rfl
theorem vmvVv (vd : BitVec 5) (vs1 : BitVec 5) (vm : BitVec 3) (k1 : BitVec 1) : Statement (.vmvVv vd vs1 vm k1) := by
  intro _ hw
  obtain ⟨h0, h1, h2, h3, h4, h5, h6, h7, h8⟩ := layout39 (lit := 0xB4000007) vd vs1 vm k1 (by decide : _ = 45 * 67108864 + 7) (by decide) (by decide)
  refine decodeWord_of_raw (w := BitVec.ofNat 32 (0xB4000007 + vd.toNat * 0x200000 + vs1.toNat * 0x10000 + vm.toNat * 0x100 + k1.toNat * 0x40))
    ((decodeRaw_2D h0).trans ((decode2D_vmvVv h1).trans ?_)) hw
  rw [h2, h3, h4, h5, h6, h7, h8]
  rfl
theorem vextx (rd : BitVec 5) (vs1 : BitVec 5) (rs2 : BitVec 5) (k1 : BitVec 1) (k2 : BitVec 1) : Statement (.vextx rd vs1 rs2 k1 k2) := by
  intro _ hw
  obtain ⟨h0, h1, h2, h3, h4, h5, h6, h7⟩ := layout42 (lit := 0xB4000008) rd vs1 rs2 k1 k2 (by decide : _ = 45 * 67108864 + 8) (by decide) (by decide)
  refine decodeWord_of_raw (w := BitVec.ofNat 32 (0xB4000008 + rd.toNat * 0x200000 + vs1.toNat * 0x10000 + rs2.toNat * 0x800 + k1.toNat * 0x40 + k2.toNat * 0x20))
    ((decodeRaw_2D h0).trans ((decode2D_vextx h1).trans ?_)) hw
  rw [h2, h3, h4, h5, h6, h7]
  rfl
theorem vinsx (vd : BitVec 5) (rs1 : BitVec 5) (rs2 : BitVec 5) (k1 : BitVec 1) (k2 : BitVec 1) : Statement (.vinsx vd rs1 rs2 k1 k2) := by
  intro _ hw
  obtain ⟨h0, h1, h2, h3, h4, h5, h6, h7⟩ := layout42 (lit := 0xB4000009) vd rs1 rs2 k1 k2 (by decide : _ = 45 * 67108864 + 9) (by decide) (by decide)
  refine decodeWord_of_raw (w := BitVec.ofNat 32 (0xB4000009 + vd.toNat * 0x200000 + rs1.toNat * 0x10000 + rs2.toNat * 0x800 + k1.toNat * 0x40 + k2.toNat * 0x20))
    ((decodeRaw_2D h0).trans ((decode2D_vinsx h1).trans ?_)) hw
  rw [h2, h3, h4, h5, h6, h7]
  rfl
theorem vredsum (vd : BitVec 5) (vs1 : BitVec 5) (vs2 : BitVec 5) (vm : BitVec 3) (k1 : BitVec 1) (k2 : BitVec 1) : Statement (.vredsum vd vs1 vs2 vm k1 k2) := by
  intro _ hw
  obtain ⟨h0, h1, h2, h3, h4, h5, h6, h7, h8⟩ := layout34 (lit := 0xB8000000) vd vs1 vs2 vm k1 k2 (by decide : _ = 46 * 67108864 + 0) (by decide) (by decide)
  refine decodeWord_of_raw (w := BitVec.ofNat 32 (0xB8000000 + vd.toNat * 0x200000 + vs1.toNat * 0x10000 + vs2.toNat * 0x800 + vm.toNat * 0x100 + k1.toNat * 0x40 + k2.toNat * 0x20))
    ((decodeRaw_2E h0).trans ((decode2E_vredsum h1).trans ?_)) hw
  rw [h2, h3, h4, h5, h6, h7, h8]
  rfl
theorem vredosum (vd : BitVec 5) (vs1 : BitVec 5) (vs2 : BitVec 5) (vm : BitVec 3) (k1 : BitVec 1) (k2 : BitVec 1) : Statement (.vredosum vd vs1 vs2 vm k1 k2) := by
  intro _ hw
  obtain ⟨h0, h1, h2, h3, h4, h5, h6, h7, h8⟩ := layout34 (lit := 0xB8000001) vd vs1 vs2 vm k1 k2 (by decide : _ = 46 * 67108864 + 1) (by decide) (by decide)
  refine decodeWord_of_raw (w := BitVec.ofNat 32 (0xB8000001 + vd.toNat * 0x200000 + vs1.toNat * 0x10000 + vs2.toNat * 0x800 + vm.toNat * 0x100 + k1.toNat * 0x40 + k2.toNat * 0x20))
    ((decodeRaw_2E h0).trans ((decode2E_vredosum h1).trans ?_)) hw
  rw [h2, h3, h4, h5, h6, h7, h8]
  rfl
theorem vredmin (vd : BitVec 5) (vs1 : BitVec 5) (vs2 : BitVec 5) (vm : BitVec 3) (k1 : BitVec 1) (k2 : BitVec 1) : Statement (.vredmin vd vs1 vs2 vm k1 k2) := by
  intro _ hw
  obtain ⟨h0, h1, h2, h3, h4, h5, h6, h7, h8⟩ := layout34 (lit := 0xB8000002) vd vs1 vs2 vm k1 k2 (by decide : _ = 46 * 67108864 + 2) (by decide) (by decide)
  refine decodeWord_of_raw (w := BitVec.ofNat 32 (0xB8000002 + vd.toNat * 0x200000 + vs1.toNat * 0x10000 + vs2.toNat * 0x800 + vm.toNat * 0x100 + k1.toNat * 0x40 + k2.toNat * 0x20))
    ((decodeRaw_2E h0).trans ((decode2E_vredmin h1).trans ?_)) hw
  rw [h2, h3, h4, h5, h6, h7, h8]
  rfl
theorem vredmax (vd : BitVec 5) (vs1 : BitVec 5) (vs2 : BitVec 5) (vm : BitVec 3) (k1 : BitVec 1) (k2 : BitVec 1) : Statement (.vredmax vd vs1 vs2 vm k1 k2) := by
  intro _ hw
  obtain ⟨h0, h1, h2, h3, h4, h5, h6, h7, h8⟩ := layout34 (lit := 0xB8000003) vd vs1 vs2 vm k1 k2 (by decide : _ = 46 * 67108864 + 3) (by decide) (by decide)
  refine decodeWord_of_raw (w := BitVec.ofNat 32 (0xB8000003 + vd.toNat * 0x200000 + vs1.toNat * 0x10000 + vs2.toNat * 0x800 + vm.toNat * 0x100 + k1.toNat * 0x40 + k2.toNat * 0x20))
    ((decodeRaw_2E h0).trans ((decode2E_vredmax h1).trans ?_)) hw
  rw [h2, h3, h4, h5, h6, h7, h8]
  rfl
theorem vredand (vd : BitVec 5) (vs1 : BitVec 5) (vs2 : BitVec 5) (vm : BitVec 3) (k1 : BitVec 1) (k2 : BitVec 1) : Statement (.vredand vd vs1 vs2 vm k1 k2) := by
  intro _ hw
  obtain ⟨h0, h1, h2, h3, h4, h5, h6, h7, h8⟩ := layout34 (lit := 0xB8000004) vd vs1 vs2 vm k1 k2 (by decide : _ = 46 * 67108864 + 4) (by decide) (by decide)
  refine decodeWord_of_raw (w := BitVec.ofNat 32 (0xB8000004 + vd.toNat * 0x200000 + vs1.toNat * 0x10000 + vs2.toNat * 0x800 + vm.toNat * 0x100 + k1.toNat * 0x40 + k2.toNat * 0x20))
    ((decodeRaw_2E h0).trans ((decode2E_vredand h1).trans ?_)) hw
  rw [h2, h3, h4, h5, h6, h7, h8]
  rfl
theorem vredor (vd : BitVec 5) (vs1 : BitVec 5) (vs2 : BitVec 5) (vm : BitVec 3) (k1 : BitVec 1) (k2 : BitVec 1) : Statement (.vredor vd vs1 vs2 vm k1 k2) := by
  intro _ hw
  obtain ⟨h0, h1, h2, h3, h4, h5, h6, h7, h8⟩ := layout34 (lit := 0xB8000005) vd vs1 vs2 vm k1 k2 (by decide : _ = 46 * 67108864 + 5) (by decide) (by decide)
  refine decodeWord_of_raw (w := BitVec.ofNat 32 (0xB8000005 + vd.toNat * 0x200000 + vs1.toNat * 0x10000 + vs2.toNat * 0x800 + vm.toNat * 0x100 + k1.toNat * 0x40 + k2.toNat * 0x20))
    ((decodeRaw_2E h0).trans ((decode2E_vredor h1).trans ?_)) hw
  rw [h2, h3, h4, h5, h6, h7, h8]
  rfl
theorem vredxor (vd : BitVec 5) (vs1 : BitVec 5) (vs2 : BitVec 5) (vm : BitVec 3) (k1 : BitVec 1) (k2 : BitVec 1) : Statement (.vredxor vd vs1 vs2 vm k1 k2) := by
  intro _ hw
  obtain ⟨h0, h1, h2, h3, h4, h5, h6, h7, h8⟩ := layout34 (lit := 0xB8000006) vd vs1 vs2 vm k1 k2 (by decide : _ = 46 * 67108864 + 6) (by decide) (by decide)
  refine decodeWord_of_raw (w := BitVec.ofNat 32 (0xB8000006 + vd.toNat * 0x200000 + vs1.toNat * 0x10000 + vs2.toNat * 0x800 + vm.toNat * 0x100 + k1.toNat * 0x40 + k2.toNat * 0x20))
    ((decodeRaw_2E h0).trans ((decode2E_vredxor h1).trans ?_)) hw
  rw [h2, h3, h4, h5, h6, h7, h8]
  rfl
theorem vamax (vd : BitVec 5) (vs1 : BitVec 5) (vs2 : BitVec 5) (vm : BitVec 3) (k1 : BitVec 1) (k2 : BitVec 1) : Statement (.vamax vd vs1 vs2 vm k1 k2) := by
  intro _ hw
  obtain ⟨h0, h1, h2, h3, h4, h5, h6, h7, h8⟩ := layout34 (lit := 0xB8000007) vd vs1 vs2 vm k1 k2 (by decide : _ = 46 * 67108864 + 7) (by decide) (by decide)
  refine decodeWord_of_raw (w := BitVec.ofNat 32 (0xB8000007 + vd.toNat * 0x200000 + vs1.toNat * 0x10000 + vs2.toNat * 0x800 + vm.toNat * 0x100 + k1.toNat * 0x40 + k2.toNat * 0x20))
    ((decodeRaw_2E h0).trans ((decode2E_vamax h1).trans ?_)) hw
  rw [h2, h3, h4, h5, h6, h7, h8]
  rfl
theorem vmseqVv (md : BitVec 5) (vs1 : BitVec 5) (vs2 : BitVec 5) (vm : BitVec 3) (k1 : BitVec 1) (k2 : BitVec 1) : Statement (.vmseqVv md vs1 vs2 vm k1 k2) := by
  intro _ hw
  obtain ⟨h0, h1, h2, h3, h4, h5, h6, h7, h8⟩ := layout34 (lit := 0xB8000008) md vs1 vs2 vm k1 k2 (by decide : _ = 46 * 67108864 + 8) (by decide) (by decide)
  refine decodeWord_of_raw (w := BitVec.ofNat 32 (0xB8000008 + md.toNat * 0x200000 + vs1.toNat * 0x10000 + vs2.toNat * 0x800 + vm.toNat * 0x100 + k1.toNat * 0x40 + k2.toNat * 0x20))
    ((decodeRaw_2E h0).trans ((decode2E_vmseqVv h1).trans ?_)) hw
  rw [h2, h3, h4, h5, h6, h7, h8]
  rfl
theorem vmsneVv (md : BitVec 5) (vs1 : BitVec 5) (vs2 : BitVec 5) (vm : BitVec 3) (k1 : BitVec 1) (k2 : BitVec 1) : Statement (.vmsneVv md vs1 vs2 vm k1 k2) := by
  intro _ hw
  obtain ⟨h0, h1, h2, h3, h4, h5, h6, h7, h8⟩ := layout34 (lit := 0xB8000009) md vs1 vs2 vm k1 k2 (by decide : _ = 46 * 67108864 + 9) (by decide) (by decide)
  refine decodeWord_of_raw (w := BitVec.ofNat 32 (0xB8000009 + md.toNat * 0x200000 + vs1.toNat * 0x10000 + vs2.toNat * 0x800 + vm.toNat * 0x100 + k1.toNat * 0x40 + k2.toNat * 0x20))
    ((decodeRaw_2E h0).trans ((decode2E_vmsneVv h1).trans ?_)) hw
  rw [h2, h3, h4, h5, h6, h7, h8]
  rfl
theorem vmsltVv (md : BitVec 5) (vs1 : BitVec 5) (vs2 : BitVec 5) (vm : BitVec 3) (k1 : BitVec 1) (k2 : BitVec 1) : Statement (.vmsltVv md vs1 vs2 vm k1 k2) := by
  intro _ hw
  obtain ⟨h0, h1, h2, h3, h4, h5, h6, h7, h8⟩ := layout34 (lit := 0xB800000A) md vs1 vs2 vm k1 k2 (by decide : _ = 46 * 67108864 + 10) (by decide) (by decide)
  refine decodeWord_of_raw (w := BitVec.ofNat 32 (0xB800000A + md.toNat * 0x200000 + vs1.toNat * 0x10000 + vs2.toNat * 0x800 + vm.toNat * 0x100 + k1.toNat * 0x40 + k2.toNat * 0x20))
    ((decodeRaw_2E h0).trans ((decode2E_vmsltVv h1).trans ?_)) hw
  rw [h2, h3, h4, h5, h6, h7, h8]
  rfl
theorem vmsleVv (md : BitVec 5) (vs1 : BitVec 5) (vs2 : BitVec 5) (vm : BitVec 3) (k1 : BitVec 1) (k2 : BitVec 1) : Statement (.vmsleVv md vs1 vs2 vm k1 k2) := by
  intro _ hw
  obtain ⟨h0, h1, h2, h3, h4, h5, h6, h7, h8⟩ := layout34 (lit := 0xB800000B) md vs1 vs2 vm k1 k2 (by decide : _ = 46 * 67108864 + 11) (by decide) (by decide)
  refine decodeWord_of_raw (w := BitVec.ofNat 32 (0xB800000B + md.toNat * 0x200000 + vs1.toNat * 0x10000 + vs2.toNat * 0x800 + vm.toNat * 0x100 + k1.toNat * 0x40 + k2.toNat * 0x20))
    ((decodeRaw_2E h0).trans ((decode2E_vmsleVv h1).trans ?_)) hw
  rw [h2, h3, h4, h5, h6, h7, h8]
  rfl
theorem vmseqVx (md : BitVec 5) (vs1 : BitVec 5) (rs2 : BitVec 5) (vm : BitVec 3) (k1 : BitVec 1) (k2 : BitVec 1) : Statement (.vmseqVx md vs1 rs2 vm k1 k2) := by
  intro _ hw
  obtain ⟨h0, h1, h2, h3, h4, h5, h6, h7, h8⟩ := layout34 (lit := 0xB800000C) md vs1 rs2 vm k1 k2 (by decide : _ = 46 * 67108864 + 12) (by decide) (by decide)
  refine decodeWord_of_raw (w := BitVec.ofNat 32 (0xB800000C + md.toNat * 0x200000 + vs1.toNat * 0x10000 + rs2.toNat * 0x800 + vm.toNat * 0x100 + k1.toNat * 0x40 + k2.toNat * 0x20))
    ((decodeRaw_2E h0).trans ((decode2E_vmseqVx h1).trans ?_)) hw
  rw [h2, h3, h4, h5, h6, h7, h8]
  rfl
theorem vmsneVx (md : BitVec 5) (vs1 : BitVec 5) (rs2 : BitVec 5) (vm : BitVec 3) (k1 : BitVec 1) (k2 : BitVec 1) : Statement (.vmsneVx md vs1 rs2 vm k1 k2) := by
  intro _ hw
  obtain ⟨h0, h1, h2, h3, h4, h5, h6, h7, h8⟩ := layout34 (lit := 0xB800000D) md vs1 rs2 vm k1 k2 (by decide : _ = 46 * 67108864 + 13) (by decide) (by decide)
  refine decodeWord_of_raw (w := BitVec.ofNat 32 (0xB800000D + md.toNat * 0x200000 + vs1.toNat * 0x10000 + rs2.toNat * 0x800 + vm.toNat * 0x100 + k1.toNat * 0x40 + k2.toNat * 0x20))
    ((decodeRaw_2E h0).trans ((decode2E_vmsneVx h1).trans ?_)) hw
  rw [h2, h3, h4, h5, h6, h7, h8]
  rfl
theorem vmsltVx (md : BitVec 5) (vs1 : BitVec 5) (rs2 : BitVec 5) (vm : BitVec 3) (k1 : BitVec 1) (k2 : BitVec 1) : Statement (.vmsltVx md vs1 rs2 vm k1 k2) := by
  intro _ hw
  obtain ⟨h0, h1, h2, h3, h4, h5, h6, h7, h8⟩ := layout34 (lit := 0xB800000E) md vs1 rs2 vm k1 k2 (by decide : _ = 46 * 67108864 + 14) (by decide) (by decide)
  refine decodeWord_of_raw (w := BitVec.ofNat 32 (0xB800000E + md.toNat * 0x200000 + vs1.toNat * 0x10000 + rs2.toNat * 0x800 + vm.toNat * 0x100 + k1.toNat * 0x40 + k2.toNat * 0x20))
    ((decodeRaw_2E h0).trans ((decode2E_vmsltVx h1).trans ?_)) hw
  rw [h2, h3, h4, h5, h6, h7, h8]
  rfl
theorem vmsleVx (md : BitVec 5) (vs1 : BitVec 5) (rs2 : BitVec 5) (vm : BitVec 3) (k1 : BitVec 1) (k2 : BitVec 1) : Statement (.vmsleVx md vs1 rs2 vm k1 k2) := by
  intro _ hw
  obtain ⟨h0, h1, h2, h3, h4, h5, h6, h7, h8⟩ := layout34 (lit := 0xB800000F) md vs1 rs2 vm k1 k2 (by decide : _ = 46 * 67108864 + 15) (by decide) (by decide)
  refine decodeWord_of_raw (w := BitVec.ofNat 32 (0xB800000F + md.toNat * 0x200000 + vs1.toNat * 0x10000 + rs2.toNat * 0x800 + vm.toNat * 0x100 + k1.toNat * 0x40 + k2.toNat * 0x20))
    ((decodeRaw_2E h0).trans ((decode2E_vmsleVx h1).trans ?_)) hw
  rw [h2, h3, h4, h5, h6, h7, h8]
  rfl
theorem vmsgtVx (md : BitVec 5) (vs1 : BitVec 5) (rs2 : BitVec 5) (vm : BitVec 3) (k1 : BitVec 1) (k2 : BitVec 1) : Statement (.vmsgtVx md vs1 rs2 vm k1 k2) := by
  intro _ hw
  obtain ⟨h0, h1, h2, h3, h4, h5, h6, h7, h8⟩ := layout34 (lit := 0xB8000010) md vs1 rs2 vm k1 k2 (by decide : _ = 46 * 67108864 + 16) (by decide) (by decide)
  refine decodeWord_of_raw (w := BitVec.ofNat 32 (0xB8000010 + md.toNat * 0x200000 + vs1.toNat * 0x10000 + rs2.toNat * 0x800 + vm.toNat * 0x100 + k1.toNat * 0x40 + k2.toNat * 0x20))
    ((decodeRaw_2E h0).trans ((decode2E_vmsgtVx h1).trans ?_)) hw
  rw [h2, h3, h4, h5, h6, h7, h8]
  rfl
theorem vmsgeVx (md : BitVec 5) (vs1 : BitVec 5) (rs2 : BitVec 5) (vm : BitVec 3) (k1 : BitVec 1) (k2 : BitVec 1) : Statement (.vmsgeVx md vs1 rs2 vm k1 k2) := by
  intro _ hw
  obtain ⟨h0, h1, h2, h3, h4, h5, h6, h7, h8⟩ := layout34 (lit := 0xB8000011) md vs1 rs2 vm k1 k2 (by decide : _ = 46 * 67108864 + 17) (by decide) (by decide)
  refine decodeWord_of_raw (w := BitVec.ofNat 32 (0xB8000011 + md.toNat * 0x200000 + vs1.toNat * 0x10000 + rs2.toNat * 0x800 + vm.toNat * 0x100 + k1.toNat * 0x40 + k2.toNat * 0x20))
    ((decodeRaw_2E h0).trans ((decode2E_vmsgeVx h1).trans ?_)) hw
  rw [h2, h3, h4, h5, h6, h7, h8]
  rfl
theorem vmand (md : BitVec 5) (ms1 : BitVec 5) (ms2 : BitVec 5) : Statement (.vmand md ms1 ms2) := by
  intro _ hw
  obtain ⟨h0, h1, h2, h3, h4, h5⟩ := layout43 (lit := 0xB8000012) md ms1 ms2 (by decide : _ = 46 * 67108864 + 18) (by decide) (by decide)
  refine decodeWord_of_raw (w := BitVec.ofNat 32 (0xB8000012 + md.toNat * 0x200000 + ms1.toNat * 0x10000 + ms2.toNat * 0x800))
    ((decodeRaw_2E h0).trans ((decode2E_vmand h1).trans ?_)) hw
  rw [h2, h3, h4, h5]
  rfl
theorem vmor (md : BitVec 5) (ms1 : BitVec 5) (ms2 : BitVec 5) : Statement (.vmor md ms1 ms2) := by
  intro _ hw
  obtain ⟨h0, h1, h2, h3, h4, h5⟩ := layout43 (lit := 0xB8000013) md ms1 ms2 (by decide : _ = 46 * 67108864 + 19) (by decide) (by decide)
  refine decodeWord_of_raw (w := BitVec.ofNat 32 (0xB8000013 + md.toNat * 0x200000 + ms1.toNat * 0x10000 + ms2.toNat * 0x800))
    ((decodeRaw_2E h0).trans ((decode2E_vmor h1).trans ?_)) hw
  rw [h2, h3, h4, h5]
  rfl
theorem vmxor (md : BitVec 5) (ms1 : BitVec 5) (ms2 : BitVec 5) : Statement (.vmxor md ms1 ms2) := by
  intro _ hw
  obtain ⟨h0, h1, h2, h3, h4, h5⟩ := layout43 (lit := 0xB8000014) md ms1 ms2 (by decide : _ = 46 * 67108864 + 20) (by decide) (by decide)
  refine decodeWord_of_raw (w := BitVec.ofNat 32 (0xB8000014 + md.toNat * 0x200000 + ms1.toNat * 0x10000 + ms2.toNat * 0x800))
    ((decodeRaw_2E h0).trans ((decode2E_vmxor h1).trans ?_)) hw
  rw [h2, h3, h4, h5]
  rfl
theorem vmandn (md : BitVec 5) (ms1 : BitVec 5) (ms2 : BitVec 5) : Statement (.vmandn md ms1 ms2) := by
  intro _ hw
  obtain ⟨h0, h1, h2, h3, h4, h5⟩ := layout43 (lit := 0xB8000015) md ms1 ms2 (by decide : _ = 46 * 67108864 + 21) (by decide) (by decide)
  refine decodeWord_of_raw (w := BitVec.ofNat 32 (0xB8000015 + md.toNat * 0x200000 + ms1.toNat * 0x10000 + ms2.toNat * 0x800))
    ((decodeRaw_2E h0).trans ((decode2E_vmandn h1).trans ?_)) hw
  rw [h2, h3, h4, h5]
  rfl
theorem vmpop (rd : BitVec 5) (ms : BitVec 5) (vm : BitVec 3) : Statement (.vmpop rd ms vm) := by
  intro _ hw
  obtain ⟨h0, h1, h2, h3, h4, h5, h6⟩ := layout40 (lit := 0xB8000016) rd ms vm (by decide : _ = 46 * 67108864 + 22) (by decide) (by decide)
  refine decodeWord_of_raw (w := BitVec.ofNat 32 (0xB8000016 + rd.toNat * 0x200000 + ms.toNat * 0x10000 + vm.toNat * 0x100))
    ((decodeRaw_2E h0).trans ((decode2E_vmpop h1).trans ?_)) hw
  rw [h2, h3, h4, h5, h6]
  rfl
theorem vmfirst (rd : BitVec 5) (ms : BitVec 5) (vm : BitVec 3) : Statement (.vmfirst rd ms vm) := by
  intro _ hw
  obtain ⟨h0, h1, h2, h3, h4, h5, h6⟩ := layout40 (lit := 0xB8000017) rd ms vm (by decide : _ = 46 * 67108864 + 23) (by decide) (by decide)
  refine decodeWord_of_raw (w := BitVec.ofNat 32 (0xB8000017 + rd.toNat * 0x200000 + ms.toNat * 0x10000 + vm.toNat * 0x100))
    ((decodeRaw_2E h0).trans ((decode2E_vmfirst h1).trans ?_)) hw
  rw [h2, h3, h4, h5, h6]
  rfl
theorem vhaar (vd : BitVec 5) (vs1 : BitVec 5) (lev : BitVec 5) (k1 : BitVec 1) (k2 : BitVec 1) : Statement (.vhaar vd vs1 lev k1 k2) := by
  intro _ hw
  obtain ⟨h0, h1, h2, h3, h4, h5, h6, h7⟩ := layout42 (lit := 0xBC000000) vd vs1 lev k1 k2 (by decide : _ = 47 * 67108864 + 0) (by decide) (by decide)
  refine decodeWord_of_raw (w := BitVec.ofNat 32 (0xBC000000 + vd.toNat * 0x200000 + vs1.toNat * 0x10000 + lev.toNat * 0x800 + k1.toNat * 0x40 + k2.toNat * 0x20))
    ((decodeRaw_2F h0).trans ((decode2F_vhaar h1).trans ?_)) hw
  rw [h2, h3, h4, h5, h6, h7]
  rfl
theorem vihaar (vd : BitVec 5) (vs1 : BitVec 5) (k1 : BitVec 1) : Statement (.vihaar vd vs1 k1) := by
  intro _ hw
  obtain ⟨h0, h1, h2, h3, h4, h5, h6⟩ := layout44 (lit := 0xBC000001) vd vs1 k1 (by decide : _ = 47 * 67108864 + 1) (by decide) (by decide)
  refine decodeWord_of_raw (w := BitVec.ofNat 32 (0xBC000001 + vd.toNat * 0x200000 + vs1.toNat * 0x10000 + k1.toNat * 0x40))
    ((decodeRaw_2F h0).trans ((decode2F_vihaar h1).trans ?_)) hw
  rw [h2, h3, h4, h5, h6]
  rfl
theorem thset (hd : BitVec 5) (rs1 : BitVec 5) (rs2 : BitVec 5) (k1 : BitVec 1) (k2 : BitVec 1) : Statement (.thset hd rs1 rs2 k1 k2) := by
  intro _ hw
  obtain ⟨h0, h1, h2, h3, h4, h5, h6, h7⟩ := layout42 (lit := 0xBC000002) hd rs1 rs2 k1 k2 (by decide : _ = 47 * 67108864 + 2) (by decide) (by decide)
  refine decodeWord_of_raw (w := BitVec.ofNat 32 (0xBC000002 + hd.toNat * 0x200000 + rs1.toNat * 0x10000 + rs2.toNat * 0x800 + k1.toNat * 0x40 + k2.toNat * 0x20))
    ((decodeRaw_2F h0).trans ((decode2F_thset h1).trans ?_)) hw
  rw [h2, h3, h4, h5, h6, h7]
  rfl
theorem thget (rd : BitVec 5) (hs : BitVec 5) (n : BitVec 5) (k2 : BitVec 1) : Statement (.thget rd hs n k2) := by
  intro _ hw
  obtain ⟨h0, h1, h2, h3, h4, h5, h6⟩ := layout45 (lit := 0xBC000003) rd hs n k2 (by decide : _ = 47 * 67108864 + 3) (by decide) (by decide)
  refine decodeWord_of_raw (w := BitVec.ofNat 32 (0xBC000003 + rd.toNat * 0x200000 + hs.toNat * 0x10000 + n.toNat * 0x800 + k2.toNat * 0x20))
    ((decodeRaw_2F h0).trans ((decode2F_thget h1).trans ?_)) hw
  rw [h2, h3, h4, h5, h6]
  rfl
theorem dtagr (rd : BitVec 5) (vs1 : BitVec 5) (k1 : BitVec 1) : Statement (.dtagr rd vs1 k1) := by
  intro _ hw
  obtain ⟨h0, h1, h2, h3, h4, h5, h6⟩ := layout44 (lit := 0xBC000004) rd vs1 k1 (by decide : _ = 47 * 67108864 + 4) (by decide) (by decide)
  refine decodeWord_of_raw (w := BitVec.ofNat 32 (0xBC000004 + rd.toNat * 0x200000 + vs1.toNat * 0x10000 + k1.toNat * 0x40))
    ((decodeRaw_2F h0).trans ((decode2F_dtagr h1).trans ?_)) hw
  rw [h2, h3, h4, h5, h6]
  rfl
theorem dtagw (vd : BitVec 5) (rs1 : BitVec 5) (k1 : BitVec 1) : Statement (.dtagw vd rs1 k1) := by
  intro _ hw
  obtain ⟨h0, h1, h2, h3, h4, h5, h6⟩ := layout44 (lit := 0xBC000005) vd rs1 k1 (by decide : _ = 47 * 67108864 + 5) (by decide) (by decide)
  refine decodeWord_of_raw (w := BitVec.ofNat 32 (0xBC000005 + vd.toNat * 0x200000 + rs1.toNat * 0x10000 + k1.toNat * 0x40))
    ((decodeRaw_2F h0).trans ((decode2F_dtagw h1).trans ?_)) hw
  rw [h2, h3, h4, h5, h6]
  rfl
theorem dtagmk (md : BitVec 5) (rs1 : BitVec 5) (k1 : BitVec 1) : Statement (.dtagmk md rs1 k1) := by
  intro _ hw
  obtain ⟨h0, h1, h2, h3, h4, h5, h6⟩ := layout44 (lit := 0xBC000006) md rs1 k1 (by decide : _ = 47 * 67108864 + 6) (by decide) (by decide)
  refine decodeWord_of_raw (w := BitVec.ofNat 32 (0xBC000006 + md.toNat * 0x200000 + rs1.toNat * 0x10000 + k1.toNat * 0x40))
    ((decodeRaw_2F h0).trans ((decode2F_dtagmk h1).trans ?_)) hw
  rw [h2, h3, h4, h5, h6]
  rfl
theorem dtagma (md : BitVec 5) (vs1 : BitVec 5) (k1 : BitVec 1) : Statement (.dtagma md vs1 k1) := by
  intro _ hw
  obtain ⟨h0, h1, h2, h3, h4, h5, h6⟩ := layout44 (lit := 0xBC000007) md vs1 k1 (by decide : _ = 47 * 67108864 + 7) (by decide) (by decide)
  refine decodeWord_of_raw (w := BitVec.ofNat 32 (0xBC000007 + md.toNat * 0x200000 + vs1.toNat * 0x10000 + k1.toNat * 0x40))
    ((decodeRaw_2F h0).trans ((decode2F_dtagma h1).trans ?_)) hw
  rw [h2, h3, h4, h5, h6]
  rfl
theorem vld (vd : BitVec 5) (rs1 : BitVec 5) (qn : BitVec 5) (vm : BitVec 3) (stream : BitVec 3) (fmt : BitVec 5) : Statement (.vld vd rs1 qn vm stream fmt) := by
  intro _ hw
  obtain ⟨h0, h1, h2, h3, h4, h5, h6⟩ := layout46 (lit := 0xC0000000) vd rs1 qn vm stream fmt (by decide : _ = 48 * 67108864) (by decide)
  refine decodeWord_of_raw (w := BitVec.ofNat 32 (0xC0000000 + vd.toNat * 0x200000 + rs1.toNat * 0x10000 + qn.toNat * 0x800 + vm.toNat * 0x100 + stream.toNat * 0x20 + fmt.toNat))
    ((decodeRaw_vld h0).trans ?_) hw
  rw [h1, h2, h3, h4, h5, h6]
theorem vst (vd : BitVec 5) (rs1 : BitVec 5) (qn : BitVec 5) (vm : BitVec 3) (stream : BitVec 3) (fmt : BitVec 5) : Statement (.vst vd rs1 qn vm stream fmt) := by
  intro _ hw
  obtain ⟨h0, h1, h2, h3, h4, h5, h6⟩ := layout46 (lit := 0xC4000000) vd rs1 qn vm stream fmt (by decide : _ = 49 * 67108864) (by decide)
  refine decodeWord_of_raw (w := BitVec.ofNat 32 (0xC4000000 + vd.toNat * 0x200000 + rs1.toNat * 0x10000 + qn.toNat * 0x800 + vm.toNat * 0x100 + stream.toNat * 0x20 + fmt.toNat))
    ((decodeRaw_vst h0).trans ?_) hw
  rw [h1, h2, h3, h4, h5, h6]
theorem vlds (vd : BitVec 5) (rs1 : BitVec 5) (rs2 : BitVec 5) (vm : BitVec 3) (stream : BitVec 3) (fmt : BitVec 5) : Statement (.vlds vd rs1 rs2 vm stream fmt) := by
  intro _ hw
  obtain ⟨h0, h1, h2, h3, h4, h5, h6⟩ := layout46 (lit := 0xC8000000) vd rs1 rs2 vm stream fmt (by decide : _ = 50 * 67108864) (by decide)
  refine decodeWord_of_raw (w := BitVec.ofNat 32 (0xC8000000 + vd.toNat * 0x200000 + rs1.toNat * 0x10000 + rs2.toNat * 0x800 + vm.toNat * 0x100 + stream.toNat * 0x20 + fmt.toNat))
    ((decodeRaw_vlds h0).trans ?_) hw
  rw [h1, h2, h3, h4, h5, h6]
theorem vsts (vd : BitVec 5) (rs1 : BitVec 5) (rs2 : BitVec 5) (vm : BitVec 3) (stream : BitVec 3) (fmt : BitVec 5) : Statement (.vsts vd rs1 rs2 vm stream fmt) := by
  intro _ hw
  obtain ⟨h0, h1, h2, h3, h4, h5, h6⟩ := layout46 (lit := 0xCC000000) vd rs1 rs2 vm stream fmt (by decide : _ = 51 * 67108864) (by decide)
  refine decodeWord_of_raw (w := BitVec.ofNat 32 (0xCC000000 + vd.toNat * 0x200000 + rs1.toNat * 0x10000 + rs2.toNat * 0x800 + vm.toNat * 0x100 + stream.toNat * 0x20 + fmt.toNat))
    ((decodeRaw_vsts h0).trans ?_) hw
  rw [h1, h2, h3, h4, h5, h6]
theorem vldx (vd : BitVec 5) (rs1 : BitVec 5) (vs2 : BitVec 5) (vm : BitVec 3) (stream : BitVec 3) (fmt : BitVec 5) : Statement (.vldx vd rs1 vs2 vm stream fmt) := by
  intro _ hw
  obtain ⟨h0, h1, h2, h3, h4, h5, h6⟩ := layout46 (lit := 0xD0000000) vd rs1 vs2 vm stream fmt (by decide : _ = 52 * 67108864) (by decide)
  refine decodeWord_of_raw (w := BitVec.ofNat 32 (0xD0000000 + vd.toNat * 0x200000 + rs1.toNat * 0x10000 + vs2.toNat * 0x800 + vm.toNat * 0x100 + stream.toNat * 0x20 + fmt.toNat))
    ((decodeRaw_vldx h0).trans ?_) hw
  rw [h1, h2, h3, h4, h5, h6]
theorem vstx (vd : BitVec 5) (rs1 : BitVec 5) (vs2 : BitVec 5) (vm : BitVec 3) (stream : BitVec 3) (fmt : BitVec 5) : Statement (.vstx vd rs1 vs2 vm stream fmt) := by
  intro _ hw
  obtain ⟨h0, h1, h2, h3, h4, h5, h6⟩ := layout46 (lit := 0xD4000000) vd rs1 vs2 vm stream fmt (by decide : _ = 53 * 67108864) (by decide)
  refine decodeWord_of_raw (w := BitVec.ofNat 32 (0xD4000000 + vd.toNat * 0x200000 + rs1.toNat * 0x10000 + vs2.toNat * 0x800 + vm.toNat * 0x100 + stream.toNat * 0x20 + fmt.toNat))
    ((decodeRaw_vstx h0).trans ?_) hw
  rw [h1, h2, h3, h4, h5, h6]
theorem vamoadd (vd : BitVec 5) (rs1 : BitVec 5) (vs2 : BitVec 5) (vm : BitVec 3) (stream : BitVec 3) (ord : BitVec 1) : Statement (.vamoadd vd rs1 vs2 vm stream ord) := by
  intro _ hw
  obtain ⟨h0, h1, h2, h3, h4, h5, h6, h7⟩ := layout47 (lit := 0xD8000000) vd rs1 vs2 vm stream ord (by decide : _ = 54 * 67108864 + 0) (by decide) (by decide)
  refine decodeWord_of_raw (w := BitVec.ofNat 32 (0xD8000000 + vd.toNat * 0x200000 + rs1.toNat * 0x10000 + vs2.toNat * 0x800 + vm.toNat * 0x100 + stream.toNat * 0x20 + ord.toNat * 0x10))
    ((decodeRaw_36 h0).trans ((decode36_vamoadd h1).trans ?_)) hw
  rw [h2, h3, h4, h5, h6, h7]
theorem vamoand (vd : BitVec 5) (rs1 : BitVec 5) (vs2 : BitVec 5) (vm : BitVec 3) (stream : BitVec 3) (ord : BitVec 1) : Statement (.vamoand vd rs1 vs2 vm stream ord) := by
  intro _ hw
  obtain ⟨h0, h1, h2, h3, h4, h5, h6, h7⟩ := layout47 (lit := 0xD8000001) vd rs1 vs2 vm stream ord (by decide : _ = 54 * 67108864 + 1) (by decide) (by decide)
  refine decodeWord_of_raw (w := BitVec.ofNat 32 (0xD8000001 + vd.toNat * 0x200000 + rs1.toNat * 0x10000 + vs2.toNat * 0x800 + vm.toNat * 0x100 + stream.toNat * 0x20 + ord.toNat * 0x10))
    ((decodeRaw_36 h0).trans ((decode36_vamoand h1).trans ?_)) hw
  rw [h2, h3, h4, h5, h6, h7]
theorem vamoor (vd : BitVec 5) (rs1 : BitVec 5) (vs2 : BitVec 5) (vm : BitVec 3) (stream : BitVec 3) (ord : BitVec 1) : Statement (.vamoor vd rs1 vs2 vm stream ord) := by
  intro _ hw
  obtain ⟨h0, h1, h2, h3, h4, h5, h6, h7⟩ := layout47 (lit := 0xD8000002) vd rs1 vs2 vm stream ord (by decide : _ = 54 * 67108864 + 2) (by decide) (by decide)
  refine decodeWord_of_raw (w := BitVec.ofNat 32 (0xD8000002 + vd.toNat * 0x200000 + rs1.toNat * 0x10000 + vs2.toNat * 0x800 + vm.toNat * 0x100 + stream.toNat * 0x20 + ord.toNat * 0x10))
    ((decodeRaw_36 h0).trans ((decode36_vamoor h1).trans ?_)) hw
  rw [h2, h3, h4, h5, h6, h7]
theorem vamoxor (vd : BitVec 5) (rs1 : BitVec 5) (vs2 : BitVec 5) (vm : BitVec 3) (stream : BitVec 3) (ord : BitVec 1) : Statement (.vamoxor vd rs1 vs2 vm stream ord) := by
  intro _ hw
  obtain ⟨h0, h1, h2, h3, h4, h5, h6, h7⟩ := layout47 (lit := 0xD8000003) vd rs1 vs2 vm stream ord (by decide : _ = 54 * 67108864 + 3) (by decide) (by decide)
  refine decodeWord_of_raw (w := BitVec.ofNat 32 (0xD8000003 + vd.toNat * 0x200000 + rs1.toNat * 0x10000 + vs2.toNat * 0x800 + vm.toNat * 0x100 + stream.toNat * 0x20 + ord.toNat * 0x10))
    ((decodeRaw_36 h0).trans ((decode36_vamoxor h1).trans ?_)) hw
  rw [h2, h3, h4, h5, h6, h7]
theorem vamomin (vd : BitVec 5) (rs1 : BitVec 5) (vs2 : BitVec 5) (vm : BitVec 3) (stream : BitVec 3) (ord : BitVec 1) : Statement (.vamomin vd rs1 vs2 vm stream ord) := by
  intro _ hw
  obtain ⟨h0, h1, h2, h3, h4, h5, h6, h7⟩ := layout47 (lit := 0xD8000004) vd rs1 vs2 vm stream ord (by decide : _ = 54 * 67108864 + 4) (by decide) (by decide)
  refine decodeWord_of_raw (w := BitVec.ofNat 32 (0xD8000004 + vd.toNat * 0x200000 + rs1.toNat * 0x10000 + vs2.toNat * 0x800 + vm.toNat * 0x100 + stream.toNat * 0x20 + ord.toNat * 0x10))
    ((decodeRaw_36 h0).trans ((decode36_vamomin h1).trans ?_)) hw
  rw [h2, h3, h4, h5, h6, h7]
theorem vamomax (vd : BitVec 5) (rs1 : BitVec 5) (vs2 : BitVec 5) (vm : BitVec 3) (stream : BitVec 3) (ord : BitVec 1) : Statement (.vamomax vd rs1 vs2 vm stream ord) := by
  intro _ hw
  obtain ⟨h0, h1, h2, h3, h4, h5, h6, h7⟩ := layout47 (lit := 0xD8000005) vd rs1 vs2 vm stream ord (by decide : _ = 54 * 67108864 + 5) (by decide) (by decide)
  refine decodeWord_of_raw (w := BitVec.ofNat 32 (0xD8000005 + vd.toNat * 0x200000 + rs1.toNat * 0x10000 + vs2.toNat * 0x800 + vm.toNat * 0x100 + stream.toNat * 0x20 + ord.toNat * 0x10))
    ((decodeRaw_36 h0).trans ((decode36_vamomax h1).trans ?_)) hw
  rw [h2, h3, h4, h5, h6, h7]
theorem vamoswp (vd : BitVec 5) (rs1 : BitVec 5) (vs2 : BitVec 5) (vm : BitVec 3) (stream : BitVec 3) (ord : BitVec 1) : Statement (.vamoswp vd rs1 vs2 vm stream ord) := by
  intro _ hw
  obtain ⟨h0, h1, h2, h3, h4, h5, h6, h7⟩ := layout47 (lit := 0xD8000006) vd rs1 vs2 vm stream ord (by decide : _ = 54 * 67108864 + 6) (by decide) (by decide)
  refine decodeWord_of_raw (w := BitVec.ofNat 32 (0xD8000006 + vd.toNat * 0x200000 + rs1.toNat * 0x10000 + vs2.toNat * 0x800 + vm.toNat * 0x100 + stream.toNat * 0x20 + ord.toNat * 0x10))
    ((decodeRaw_36 h0).trans ((decode36_vamoswp h1).trans ?_)) hw
  rw [h2, h3, h4, h5, h6, h7]
theorem vldq (vd : BitVec 5) (rs1 : BitVec 5) (stream : BitVec 3) : Statement (.vldq vd rs1 stream) := by
  intro _ hw
  obtain ⟨h0, h1, h2, h3, h4, h5, h6⟩ := layout48 (lit := 0xDC000000) vd rs1 stream (by decide : _ = 55 * 67108864 + 0 * 2048) (by decide) (by decide)
  refine decodeWord_of_raw (w := BitVec.ofNat 32 (0xDC000000 + vd.toNat * 0x200000 + rs1.toNat * 0x10000 + stream.toNat * 0x20))
    ((decodeRaw_37 h0).trans ((decode37_vldq h1).trans ?_)) hw
  rw [h2, h3, h4, h5, h6]
  rfl
theorem vldff (vd : BitVec 5) (rs1 : BitVec 5) (vm : BitVec 3) (stream : BitVec 3) (fmt : BitVec 4) : Statement (.vldff vd rs1 vm stream fmt) := by
  intro _ hw
  obtain ⟨h0, h1, h2, h3, h4, h5, h6, h7⟩ := layout49 (lit := 0xDC000800) vd rs1 vm stream fmt (by decide : _ = 55 * 67108864 + 1 * 2048) (by decide) (by decide)
  refine decodeWord_of_raw (w := BitVec.ofNat 32 (0xDC000800 + vd.toNat * 0x200000 + rs1.toNat * 0x10000 + vm.toNat * 0x100 + stream.toNat * 0x20 + fmt.toNat))
    ((decodeRaw_37 h0).trans ((decode37_vldff h1).trans ?_)) hw
  rw [h2, h3, h4, h5, h6, h7]
  rfl
theorem vstw (vd : BitVec 5) (rs1 : BitVec 5) (lev : BitVec 3) (stream : BitVec 3) (fmt : BitVec 4) : Statement (.vstw vd rs1 lev stream fmt) := by
  intro _ hw
  obtain ⟨h0, h1, h2, h3, h4, h5, h6, h7⟩ := layout49 (lit := 0xDC001000) vd rs1 lev stream fmt (by decide : _ = 55 * 67108864 + 2 * 2048) (by decide) (by decide)
  refine decodeWord_of_raw (w := BitVec.ofNat 32 (0xDC001000 + vd.toNat * 0x200000 + rs1.toNat * 0x10000 + lev.toNat * 0x100 + stream.toNat * 0x20 + fmt.toNat))
    ((decodeRaw_37 h0).trans ((decode37_vstw h1).trans ?_)) hw
  rw [h2, h3, h4, h5, h6, h7]
  rfl
theorem vldw (vd : BitVec 5) (rs1 : BitVec 5) (lev : BitVec 3) (stream : BitVec 3) (fmt : BitVec 4) : Statement (.vldw vd rs1 lev stream fmt) := by
  intro _ hw
  obtain ⟨h0, h1, h2, h3, h4, h5, h6, h7⟩ := layout49 (lit := 0xDC001800) vd rs1 lev stream fmt (by decide : _ = 55 * 67108864 + 3 * 2048) (by decide) (by decide)
  refine decodeWord_of_raw (w := BitVec.ofNat 32 (0xDC001800 + vd.toNat * 0x200000 + rs1.toNat * 0x10000 + lev.toNat * 0x100 + stream.toNat * 0x20 + fmt.toNat))
    ((decodeRaw_37 h0).trans ((decode37_vldw h1).trans ?_)) hw
  rw [h2, h3, h4, h5, h6, h7]
  rfl
theorem opr (acc : BitVec 3) (vs1 : BitVec 5) (vs2 : BitVec 5) (rm : BitVec 3) (ty : BitVec 2) (z : BitVec 1) : Statement (.opr acc vs1 vs2 rm ty z) := by
  intro _ hw
  obtain ⟨h0, h1, h2, h3, h4, h5, h6, h7, h8⟩ := layout50 (lit := 0xE0000000) acc vs1 vs2 rm ty z (by decide : _ = 56 * 67108864 + 0) (by decide) (by decide)
  refine decodeWord_of_raw (w := BitVec.ofNat 32 (0xE0000000 + acc.toNat * 0x800000 + vs1.toNat * 0x10000 + vs2.toNat * 0x800 + rm.toNat * 0x100 + ty.toNat * 0x40 + z.toNat * 0x20))
    ((decodeRaw_38 h0).trans ((decode38_opr h1).trans ?_)) hw
  rw [h2, h3, h4, h5, h6, h7, h8]
  rfl
theorem opl (acc : BitVec 3) (pair : BitVec 2) (rm : BitVec 3) (g : BitVec 2) (z : BitVec 1) : Statement (.opl acc pair rm g z) := by
  intro _ hw
  obtain ⟨h0, h1, h2, h3, h4, h5, h6, h7⟩ := layout51 (lit := 0xE0000001) acc pair rm g z (by decide : _ = 56 * 67108864 + 1) (by decide) (by decide)
  refine decodeWord_of_raw (w := BitVec.ofNat 32 (0xE0000001 + acc.toNat * 0x800000 + pair.toNat * 0x200000 + rm.toNat * 0x100 + g.toNat * 0x40 + z.toNat * 0x20))
    ((decodeRaw_38 h0).trans ((decode38_opl h1).trans ?_)) hw
  rw [h2, h3, h4, h5, h6, h7]
  rfl
theorem tzero (acc : BitVec 3) (rm : BitVec 3) : Statement (.tzero acc rm) := by
  intro _ hw
  obtain ⟨h0, h1, h2, h3, h4, h5⟩ := layout52 (lit := 0xE0000002) acc rm (by decide : _ = 56 * 67108864 + 2) (by decide) (by decide)
  refine decodeWord_of_raw (w := BitVec.ofNat 32 (0xE0000002 + acc.toNat * 0x800000 + rm.toNat * 0x100))
    ((decodeRaw_38 h0).trans ((decode38_tzero h1).trans ?_)) hw
  rw [h2, h3, h4, h5]
  rfl
theorem tmovv (acc : BitVec 3) (col : BitVec 2) (rs1 : BitVec 5) (vd : BitVec 5) (ty : BitVec 2) : Statement (.tmovv acc col rs1 vd ty) := by
  intro _ hw
  obtain ⟨h0, h1, h2, h3, h4, h5, h6, h7, h8⟩ := layout53 (lit := 0xE0000003) acc col rs1 vd ty (by decide : _ = 56 * 67108864 + 3) (by decide) (by decide)
  refine decodeWord_of_raw (w := BitVec.ofNat 32 (0xE0000003 + acc.toNat * 0x800000 + col.toNat * 0x200000 + rs1.toNat * 0x10000 + vd.toNat * 0x800 + ty.toNat * 0x40))
    ((decodeRaw_38 h0).trans ((decode38_tmovv h1).trans ?_)) hw
  rw [h2, h3, h4, h5, h6, h7, h8]
  rfl
theorem tamax (acc : BitVec 3) (col : BitVec 2) (vd : BitVec 5) (rm : BitVec 3) : Statement (.tamax acc col vd rm) := by
  intro _ hw
  obtain ⟨h0, h1, h2, h3, h4, h5, h6, h7⟩ := layout54 (lit := 0xE0000004) acc col vd rm (by decide : _ = 56 * 67108864 + 4) (by decide) (by decide)
  refine decodeWord_of_raw (w := BitVec.ofNat 32 (0xE0000004 + acc.toNat * 0x800000 + col.toNat * 0x200000 + vd.toNat * 0x800 + rm.toNat * 0x100))
    ((decodeRaw_38 h0).trans ((decode38_tamax h1).trans ?_)) hw
  rw [h2, h3, h4, h5, h6, h7]
  rfl
theorem scalex (qd : BitVec 5) (vs1 : BitVec 5) (fmt : BitVec 5) (rm : BitVec 3) (half : BitVec 2) : Statement (.scalex qd vs1 fmt rm half) := by
  intro _ hw
  obtain ⟨h0, h1, h2, h3, h4, h5, h6, h7⟩ := layout55 (lit := 0xE0000005) qd vs1 fmt rm half (by decide : _ = 56 * 67108864 + 5) (by decide) (by decide)
  refine decodeWord_of_raw (w := BitVec.ofNat 32 (0xE0000005 + qd.toNat * 0x200000 + vs1.toNat * 0x10000 + fmt.toNat * 0x800 + rm.toNat * 0x100 + half.toNat * 0x40))
    ((decodeRaw_38 h0).trans ((decode38_scalex h1).trans ?_)) hw
  rw [h2, h3, h4, h5, h6, h7]
  rfl
theorem trel (unit : BitVec 3) (kind : BitVec 2) : Statement (.trel unit kind) := by
  intro _ hw
  obtain ⟨h0, h1, h2, h3, h4⟩ := layout56 (lit := 0xE0000006) unit kind (by decide : _ = 56 * 67108864 + 6) (by decide) (by decide)
  refine decodeWord_of_raw (w := BitVec.ofNat 32 (0xE0000006 + unit.toNat * 0x800000 + kind.toNat * 0x200000))
    ((decodeRaw_38 h0).trans ((decode38_trel h1).trans ?_)) hw
  rw [h2, h3, h4]
  rfl
theorem thaar (acc : BitVec 3) (lev : BitVec 5) : Statement (.thaar acc lev) := by
  intro _ hw
  obtain ⟨h0, h1, h2, h3, h4, h5⟩ := layout57 (lit := 0xE0000008) acc lev (by decide : _ = 56 * 67108864 + 8) (by decide) (by decide)
  refine decodeWord_of_raw (w := BitVec.ofNat 32 (0xE0000008 + acc.toNat * 0x800000 + lev.toNat * 0x10000))
    ((decodeRaw_38 h0).trans ((decode38_thaar h1).trans ?_)) hw
  rw [h2, h3, h4, h5]
  rfl
theorem tihaar (acc : BitVec 3) : Statement (.tihaar acc) := by
  intro _ hw
  obtain ⟨h0, h1, h2, h3⟩ := layout58 (lit := 0xE0000009) acc (by decide : _ = 56 * 67108864 + 9) (by decide) (by decide)
  refine decodeWord_of_raw (w := BitVec.ofNat 32 (0xE0000009 + acc.toNat * 0x800000))
    ((decodeRaw_38 h0).trans ((decode38_tihaar h1).trans ?_)) hw
  rw [h2, h3]
  rfl
theorem opld (qs : BitVec 3) (latch : BitVec 2) (rs1 : BitVec 5) (rs2 : BitVec 5) (lf : BitVec 3) (depth : BitVec 2) (sc : BitVec 1) : Statement (.opld qs latch rs1 rs2 lf depth sc) := by
  intro _ hw
  obtain ⟨h0, h1, h2, h3, h4, h5, h6, h7, h8⟩ := layout59 (lit := 0xE4000000) qs latch rs1 rs2 lf depth sc (by decide : _ = 57 * 67108864 + 0) (by decide) (by decide)
  refine decodeWord_of_raw (w := BitVec.ofNat 32 (0xE4000000 + qs.toNat * 0x800000 + latch.toNat * 0x200000 + rs1.toNat * 0x10000 + rs2.toNat * 0x800 + lf.toNat * 0x100 + depth.toNat * 0x40 + sc.toNat * 0x20))
    ((decodeRaw_39 h0).trans ((decode39_opld h1).trans ?_)) hw
  rw [h2, h3, h4, h5, h6, h7, h8]
theorem opldx (pitch : BitVec 5) (rs1 : BitVec 5) (vs2 : BitVec 5) (lf : BitVec 3) (latch : BitVec 2) (sc : BitVec 1) : Statement (.opldx pitch rs1 vs2 lf latch sc) := by
  intro _ hw
  obtain ⟨h0, h1, h2, h3, h4, h5, h6, h7⟩ := layout60 (lit := 0xE4000001) pitch rs1 vs2 lf latch sc (by decide : _ = 57 * 67108864 + 1) (by decide) (by decide)
  refine decodeWord_of_raw (w := BitVec.ofNat 32 (0xE4000001 + pitch.toNat * 0x200000 + rs1.toNat * 0x10000 + vs2.toNat * 0x800 + lf.toNat * 0x100 + latch.toNat * 0x40 + sc.toNat * 0x20))
    ((decodeRaw_39 h0).trans ((decode39_opldx h1).trans ?_)) hw
  rw [h2, h3, h4, h5, h6, h7]
theorem tld (acc : BitVec 3) (qs : BitVec 2) (rs1 : BitVec 5) (rs2 : BitVec 5) (rm : BitVec 3) (ty : BitVec 2) (sc : BitVec 1) : Statement (.tld acc qs rs1 rs2 rm ty sc) := by
  intro _ hw
  obtain ⟨h0, h1, h2, h3, h4, h5, h6, h7, h8⟩ := layout59 (lit := 0xE4000002) acc qs rs1 rs2 rm ty sc (by decide : _ = 57 * 67108864 + 2) (by decide) (by decide)
  refine decodeWord_of_raw (w := BitVec.ofNat 32 (0xE4000002 + acc.toNat * 0x800000 + qs.toNat * 0x200000 + rs1.toNat * 0x10000 + rs2.toNat * 0x800 + rm.toNat * 0x100 + ty.toNat * 0x40 + sc.toNat * 0x20))
    ((decodeRaw_39 h0).trans ((decode39_tld h1).trans ?_)) hw
  rw [h2, h3, h4, h5, h6, h7, h8]
theorem tst (acc : BitVec 3) (qs : BitVec 2) (rs1 : BitVec 5) (rs2 : BitVec 5) (rm : BitVec 3) (ty : BitVec 2) (sc : BitVec 1) : Statement (.tst acc qs rs1 rs2 rm ty sc) := by
  intro _ hw
  obtain ⟨h0, h1, h2, h3, h4, h5, h6, h7, h8⟩ := layout59 (lit := 0xE4000003) acc qs rs1 rs2 rm ty sc (by decide : _ = 57 * 67108864 + 3) (by decide) (by decide)
  refine decodeWord_of_raw (w := BitVec.ofNat 32 (0xE4000003 + acc.toNat * 0x800000 + qs.toNat * 0x200000 + rs1.toNat * 0x10000 + rs2.toNat * 0x800 + rm.toNat * 0x100 + ty.toNat * 0x40 + sc.toNat * 0x20))
    ((decodeRaw_39 h0).trans ((decode39_tst h1).trans ?_)) hw
  rw [h2, h3, h4, h5, h6, h7, h8]
theorem tsave (unit : BitVec 3) (kind : BitVec 2) (rs1 : BitVec 5) : Statement (.tsave unit kind rs1) := by
  intro _ hw
  obtain ⟨h0, h1, h2, h3, h4, h5⟩ := layout61 (lit := 0xE4000004) unit kind rs1 (by decide : _ = 57 * 67108864 + 4) (by decide) (by decide)
  refine decodeWord_of_raw (w := BitVec.ofNat 32 (0xE4000004 + unit.toNat * 0x800000 + kind.toNat * 0x200000 + rs1.toNat * 0x10000))
    ((decodeRaw_39 h0).trans ((decode39_tsave h1).trans ?_)) hw
  rw [h2, h3, h4, h5]
  rfl
theorem trestore (unit : BitVec 3) (kind : BitVec 2) (rs1 : BitVec 5) : Statement (.trestore unit kind rs1) := by
  intro _ hw
  obtain ⟨h0, h1, h2, h3, h4, h5⟩ := layout61 (lit := 0xE4000005) unit kind rs1 (by decide : _ = 57 * 67108864 + 5) (by decide) (by decide)
  refine decodeWord_of_raw (w := BitVec.ofNat 32 (0xE4000005 + unit.toNat * 0x800000 + kind.toNat * 0x200000 + rs1.toNat * 0x10000))
    ((decodeRaw_39 h0).trans ((decode39_trestore h1).trans ?_)) hw
  rw [h2, h3, h4, h5]
  rfl
theorem tstw (acc : BitVec 3) (hn : BitVec 2) (rs1 : BitVec 5) (lev : BitVec 5) (ty : BitVec 2) (sc : BitVec 1) : Statement (.tstw acc hn rs1 lev ty sc) := by
  intro _ hw
  obtain ⟨h0, h1, h2, h3, h4, h5, h6, h7, h8⟩ := layout62 (lit := 0xE4000008) acc hn rs1 lev ty sc (by decide : _ = 57 * 67108864 + 8) (by decide) (by decide)
  refine decodeWord_of_raw (w := BitVec.ofNat 32 (0xE4000008 + acc.toNat * 0x800000 + hn.toNat * 0x200000 + rs1.toNat * 0x10000 + lev.toNat * 0x800 + ty.toNat * 0x40 + sc.toNat * 0x20))
    ((decodeRaw_39 h0).trans ((decode39_tstw h1).trans ?_)) hw
  rw [h2, h3, h4, h5, h6, h7, h8]
  rfl
theorem tldw (acc : BitVec 3) (rs1 : BitVec 5) : Statement (.tldw acc rs1) := by
  intro _ hw
  obtain ⟨h0, h1, h2, h3, h4, h5⟩ := layout57 (lit := 0xE4000009) acc rs1 (by decide : _ = 57 * 67108864 + 9) (by decide) (by decide)
  refine decodeWord_of_raw (w := BitVec.ofNat 32 (0xE4000009 + acc.toNat * 0x800000 + rs1.toNat * 0x10000))
    ((decodeRaw_39 h0).trans ((decode39_tldw h1).trans ?_)) hw
  rw [h2, h3, h4, h5]
  rfl
theorem cpy (rdst : BitVec 5) (rsrc : BitVec 5) (rlen : BitVec 5) (queue : BitVec 3) (wm : BitVec 1) : Statement (.cpy rdst rsrc rlen queue wm) := by
  intro _ hw
  obtain ⟨h0, h1, h2, h3, h4, h5, h6, h7⟩ := layout63 (lit := 0xE8000000) rdst rsrc rlen queue wm (by decide : _ = 58 * 67108864 + 0) (by decide) (by decide)
  refine decodeWord_of_raw (w := BitVec.ofNat 32 (0xE8000000 + rdst.toNat * 0x200000 + rsrc.toNat * 0x10000 + rlen.toNat * 0x800 + queue.toNat * 0x100 + wm.toNat * 0x20))
    ((decodeRaw_3A h0).trans ((decode3A_cpy h1).trans ?_)) hw
  rw [h2, h3, h4, h5, h6, h7]
  rfl
theorem cpyt (rdst : BitVec 5) (rsrc : BitVec 5) (vlay : BitVec 5) (queue : BitVec 3) (nofill : BitVec 1) (wm : BitVec 1) : Statement (.cpyt rdst rsrc vlay queue nofill wm) := by
  intro _ hw
  obtain ⟨h0, h1, h2, h3, h4, h5, h6, h7, h8⟩ := layout34 (lit := 0xE8000001) rdst rsrc vlay queue nofill wm (by decide : _ = 58 * 67108864 + 1) (by decide) (by decide)
  refine decodeWord_of_raw (w := BitVec.ofNat 32 (0xE8000001 + rdst.toNat * 0x200000 + rsrc.toNat * 0x10000 + vlay.toNat * 0x800 + queue.toNat * 0x100 + nofill.toNat * 0x40 + wm.toNat * 0x20))
    ((decodeRaw_3A h0).trans ((decode3A_cpyt h1).trans ?_)) hw
  rw [h2, h3, h4, h5, h6, h7, h8]
  rfl
theorem gath (rdst : BitVec 5) (rsrc : BitVec 5) (vidx : BitVec 5) (queue : BitVec 3) (wm : BitVec 1) : Statement (.gath rdst rsrc vidx queue wm) := by
  intro _ hw
  obtain ⟨h0, h1, h2, h3, h4, h5, h6, h7⟩ := layout63 (lit := 0xE8000002) rdst rsrc vidx queue wm (by decide : _ = 58 * 67108864 + 2) (by decide) (by decide)
  refine decodeWord_of_raw (w := BitVec.ofNat 32 (0xE8000002 + rdst.toNat * 0x200000 + rsrc.toNat * 0x10000 + vidx.toNat * 0x800 + queue.toNat * 0x100 + wm.toNat * 0x20))
    ((decodeRaw_3A h0).trans ((decode3A_gath h1).trans ?_)) hw
  rw [h2, h3, h4, h5, h6, h7]
  rfl
theorem scat (rdst : BitVec 5) (rsrc : BitVec 5) (vidx : BitVec 5) (queue : BitVec 3) (wm : BitVec 1) : Statement (.scat rdst rsrc vidx queue wm) := by
  intro _ hw
  obtain ⟨h0, h1, h2, h3, h4, h5, h6, h7⟩ := layout63 (lit := 0xE8000003) rdst rsrc vidx queue wm (by decide : _ = 58 * 67108864 + 3) (by decide) (by decide)
  refine decodeWord_of_raw (w := BitVec.ofNat 32 (0xE8000003 + rdst.toNat * 0x200000 + rsrc.toNat * 0x10000 + vidx.toNat * 0x800 + queue.toNat * 0x100 + wm.toNat * 0x20))
    ((decodeRaw_3A h0).trans ((decode3A_scat h1).trans ?_)) hw
  rw [h2, h3, h4, h5, h6, h7]
  rfl
theorem qfence (rs : BitVec 5) (queue : BitVec 3) : Statement (.qfence rs queue) := by
  intro _ hw
  obtain ⟨h0, h1, h2, h3, h4, h5, h6⟩ := layout64 (lit := 0xE8000004) rs queue (by decide : _ = 58 * 67108864 + 4) (by decide) (by decide)
  refine decodeWord_of_raw (w := BitVec.ofNat 32 (0xE8000004 + rs.toNat * 0x10000 + queue.toNat * 0x100))
    ((decodeRaw_3A h0).trans ((decode3A_qfence h1).trans ?_)) hw
  rw [h2, h3, h4, h5, h6]
  rfl
theorem csig (raddr : BitVec 5) (rval : BitVec 5) (rbar : BitVec 5) (queue : BitVec 3) : Statement (.csig raddr rval rbar queue) := by
  intro _ hw
  obtain ⟨h0, h1, h2, h3, h4, h5, h6⟩ := layout65 (lit := 0xE8000008) raddr rval rbar queue (by decide : _ = 58 * 67108864 + 8) (by decide) (by decide)
  refine decodeWord_of_raw (w := BitVec.ofNat 32 (0xE8000008 + raddr.toNat * 0x200000 + rval.toNat * 0x10000 + rbar.toNat * 0x800 + queue.toNat * 0x100))
    ((decodeRaw_3A h0).trans ((decode3A_csig h1).trans ?_)) hw
  rw [h2, h3, h4, h5, h6]
  rfl
theorem cchk (cont : BitVec 1) (rseed : BitVec 5) (rexp : BitVec 5) (queue : BitVec 3) (verify : BitVec 1) (kind : BitVec 2) : Statement (.cchk cont rseed rexp queue verify kind) := by
  intro _ hw
  obtain ⟨h0, h1, h2, h3, h4, h5, h6, h7, h8⟩ := layout66 (lit := 0xE8000009) cont rseed rexp queue verify kind (by decide : _ = 58 * 67108864 + 9) (by decide) (by decide)
  refine decodeWord_of_raw (w := BitVec.ofNat 32 (0xE8000009 + cont.toNat * 0x200000 + rseed.toNat * 0x10000 + rexp.toNat * 0x800 + queue.toNat * 0x100 + verify.toNat * 0x80 + kind.toNat * 0x20))
    ((decodeRaw_3A h0).trans ((decode3A_cchk h1).trans ?_)) hw
  rw [h2, h3, h4, h5, h6, h7, h8]
  rfl
theorem cxf (rscale : BitVec 5) (rdesc : BitVec 5) (queue : BitVec 3) : Statement (.cxf rscale rdesc queue) := by
  intro _ hw
  obtain ⟨h0, h1, h2, h3, h4, h5, h6⟩ := layout40 (lit := 0xE800000A) rscale rdesc queue (by decide : _ = 58 * 67108864 + 10) (by decide) (by decide)
  refine decodeWord_of_raw (w := BitVec.ofNat 32 (0xE800000A + rscale.toNat * 0x200000 + rdesc.toNat * 0x10000 + queue.toNat * 0x100))
    ((decodeRaw_3A h0).trans ((decode3A_cxf h1).trans ?_)) hw
  rw [h2, h3, h4, h5, h6]
  rfl
theorem cfill (rsrc : BitVec 5) (queue : BitVec 3) : Statement (.cfill rsrc queue) := by
  intro _ hw
  obtain ⟨h0, h1, h2, h3, h4, h5, h6⟩ := layout64 (lit := 0xE800000B) rsrc queue (by decide : _ = 58 * 67108864 + 11) (by decide) (by decide)
  refine decodeWord_of_raw (w := BitVec.ofNat 32 (0xE800000B + rsrc.toNat * 0x10000 + queue.toNat * 0x100))
    ((decodeRaw_3A h0).trans ((decode3A_cfill h1).trans ?_)) hw
  rw [h2, h3, h4, h5, h6]
  rfl
theorem crow (rsrc : BitVec 5) (rpitch : BitVec 5) (queue : BitVec 3) : Statement (.crow rsrc rpitch queue) := by
  intro _ hw
  obtain ⟨h0, h1, h2, h3, h4, h5, h6⟩ := layout67 (lit := 0xE800000C) rsrc rpitch queue (by decide : _ = 58 * 67108864 + 12) (by decide) (by decide)
  refine decodeWord_of_raw (w := BitVec.ofNat 32 (0xE800000C + rsrc.toNat * 0x10000 + rpitch.toNat * 0x800 + queue.toNat * 0x100))
    ((decodeRaw_3A h0).trans ((decode3A_crow h1).trans ?_)) hw
  rw [h2, h3, h4, h5, h6]
  rfl
theorem cqst (rd : BitVec 5) (queue : BitVec 3) (clr : BitVec 1) : Statement (.cqst rd queue clr) := by
  intro _ hw
  obtain ⟨h0, h1, h2, h3, h4, h5, h6⟩ := layout68 (lit := 0xE800000D) rd queue clr (by decide : _ = 58 * 67108864 + 13) (by decide) (by decide)
  refine decodeWord_of_raw (w := BitVec.ofNat 32 (0xE800000D + rd.toNat * 0x200000 + queue.toNat * 0x100 + clr.toNat * 0x20))
    ((decodeRaw_3A h0).trans ((decode3A_cqst h1).trans ?_)) hw
  rw [h2, h3, h4, h5, h6]
  rfl
theorem hostEnqueue (tower : Nat) (queue : Nat) (last : BitVec 64) : Statement (.hostEnqueue tower queue last) := fun h => nomatch h
theorem launchAccept (tower : Nat) : Statement (.launchAccept tower) := fun h => nomatch h
theorem forwardedRecordArrival (tower : Nat) : Statement (.forwardedRecordArrival tower) := fun h => nomatch h
theorem taskDispatch (tower : Nat) : Statement (.taskDispatch tower) := fun h => nomatch h
theorem loaderBind (core : Nat) (obj : Nat) (entry : Nat) (level : Nat) : Statement (.loaderBind core obj entry level) := fun h => nomatch h
theorem taskRecordArrival (core : Nat) : Statement (.taskRecordArrival core) := fun h => nomatch h
theorem channelBind (core : Nat) : Statement (.channelBind core) := fun h => nomatch h
theorem preemptDelayExpiry (tower : Nat) (queue : Nat) : Statement (.preemptDelayExpiry tower queue) := fun h => nomatch h
theorem supervisorMessageArrival (core : Nat) (msg : List (BitVec 64)) : Statement (.supervisorMessageArrival core msg) := fun h => nomatch h
theorem supervisorMessageTake (core : Nat) : Statement (.supervisorMessageTake core) := fun h => nomatch h
theorem resumeSend (tower : Nat) (index : Nat) (core : Nat) (slot : Nat) : Statement (.resumeSend tower index core slot) := fun h => nomatch h
theorem taskRetire (core : Nat) (slot : Nat) : Statement (.taskRetire core slot) := fun h => nomatch h
theorem killDone (core : Nat) (slot : Nat) : Statement (.killDone core slot) := fun h => nomatch h
theorem tileZeroDone (core : Nat) (unit : Nat) : Statement (.tileZeroDone core unit) := fun h => nomatch h
theorem sliceStart (core : Nat) : Statement (.sliceStart core) := fun h => nomatch h
theorem sliceRetire (core : Nat) : Statement (.sliceRetire core) := fun h => nomatch h
theorem engineAccept (core : Nat) (slot : Nat) : Statement (.engineAccept core slot) := fun h => nomatch h
theorem engineTransfer (cluster : Nat) (queue : Nat) (index : Nat) (count : Nat) : Statement (.engineTransfer cluster queue index count) := fun h => nomatch h
theorem engineComplete (cluster : Nat) (queue : Nat) : Statement (.engineComplete cluster queue) := fun h => nomatch h
theorem qfenceComplete (cluster : Nat) (queue : Nat) : Statement (.qfenceComplete cluster queue) := fun h => nomatch h
theorem geyserSlot (tower : Nat) : Statement (.geyserSlot tower) := fun h => nomatch h
theorem waitaWake (core : Nat) (slot : Nat) : Statement (.waitaWake core slot) := fun h => nomatch h
theorem waitaTimeout (core : Nat) (slot : Nat) : Statement (.waitaTimeout core slot) := fun h => nomatch h
theorem bwaitWake (core : Nat) (slot : Nat) : Statement (.bwaitWake core slot) := fun h => nomatch h
theorem bwaitTimeout (core : Nat) (slot : Nat) : Statement (.bwaitTimeout core slot) := fun h => nomatch h
theorem joinwWake (core : Nat) (slot : Nat) : Statement (.joinwWake core slot) := fun h => nomatch h
theorem yieldEnd (core : Nat) (slot : Nat) : Statement (.yieldEnd core slot) := fun h => nomatch h
theorem wqryAnswer (tower : Nat) : Statement (.wqryAnswer tower) := fun h => nomatch h
theorem watchdogExpire (core : Nat) (slot : Nat) (cycles : BitVec 64) : Statement (.watchdogExpire core slot cycles) := fun h => nomatch h
theorem faultRecordWrite (tower : Nat) : Statement (.faultRecordWrite tower) := fun h => nomatch h
theorem fqansWrite (tower : Nat) (value : BitVec 64) : Statement (.fqansWrite tower value) := fun h => nomatch h
theorem fqheadWrite (tower : Nat) (value : BitVec 64) : Statement (.fqheadWrite tower value) := fun h => nomatch h
theorem tinvWrite (tower : Nat) (value : BitVec 64) : Statement (.tinvWrite tower value) := fun h => nomatch h
theorem tinvComplete (tower : Nat) : Statement (.tinvComplete tower) := fun h => nomatch h
theorem keyLoad (tower : Nat) (value : BitVec 64) : Statement (.keyLoad tower value) := fun h => nomatch h
theorem keyErase (tower : Nat) (value : BitVec 64) : Statement (.keyErase tower value) := fun h => nomatch h
theorem keyOperationDone (tower : Nat) : Statement (.keyOperationDone tower) := fun h => nomatch h
theorem lfrzWrite (tower : Nat) (value : BitVec 64) : Statement (.lfrzWrite tower value) := fun h => nomatch h
theorem snapshotGo (tower : Nat) (value : BitVec 64) : Statement (.snapshotGo tower value) := fun h => nomatch h
theorem snapshotDone (tower : Nat) : Statement (.snapshotDone tower) := fun h => nomatch h
theorem lrstWrite (tower : Nat) (value : BitVec 64) : Statement (.lrstWrite tower value) := fun h => nomatch h
theorem bretryWrite (tower : Nat) (value : BitVec 64) : Statement (.bretryWrite tower value) := fun h => nomatch h
theorem codeHeapWrite (tower : Nat) (value : BitVec 64) : Statement (.codeHeapWrite tower value) := fun h => nomatch h
theorem oclaimWrite (core : Nat) (slot : Nat) (value : BitVec 64) : Statement (.oclaimWrite core slot value) := fun h => nomatch h
theorem einjWrite (core : Nat) (value : BitVec 64) : Statement (.einjWrite core value) := fun h => nomatch h
theorem bkeyWrite (core : Nat) (value : BitVec 64) : Statement (.bkeyWrite core value) := fun h => nomatch h
theorem wmWrite (core : Nat) (slot : Nat) (channel : Nat) (value : BitVec 64) : Statement (.wmWrite core slot channel value) := fun h => nomatch h
theorem lpartWrite (core : Nat) (value : BitVec 64) : Statement (.lpartWrite core value) := fun h => nomatch h
theorem ownerWrite (core : Nat) (latches : Bool) (value : BitVec 64) : Statement (.ownerWrite core latches value) := fun h => nomatch h
theorem registerWrite (tower : Nat) (firmware : Bool) (offset : BitVec 64) (value : BitVec 64) : Statement (.registerWrite tower firmware offset value) := fun h => nomatch h
theorem autumnEntry (layer : Nat) : Statement (.autumnEntry layer) := fun h => nomatch h
theorem winterEntry (layer : Nat) : Statement (.winterEntry layer) := fun h => nomatch h
theorem powerUpDone (layer : Nat) : Statement (.powerUpDone layer) := fun h => nomatch h
theorem springEnd (layer : Nat) : Statement (.springEnd layer) := fun h => nomatch h
theorem replicaResyncEnd (layer : Nat) : Statement (.replicaResyncEnd layer) := fun h => nomatch h
theorem powerManagerTick (tower : Nat) (estimates : List Nat) : Statement (.powerManagerTick tower estimates) := fun h => nomatch h
theorem hostMemAccess (address : BitVec 64) (data : List (BitVec 8)) (length : Nat) (atomic : Bool) : Statement (.hostMemAccess address data length atomic) := fun h => nomatch h
theorem hostApertureAccess (offset : BitVec 64) (data : List (BitVec 8)) (length : Nat) : Statement (.hostApertureAccess offset data length) := fun h => nomatch h
theorem translationRequest (core : Nat) (slot : Nat) : Statement (.translationRequest core slot) := fun h => nomatch h
theorem translationReply (tower : Nat) (reply : Nat) (place : Nat) : Statement (.translationReply tower reply place) := fun h => nomatch h
theorem objectAdmit (tower : Nat) (image : List (BitVec 64)) : Statement (.objectAdmit tower image) := fun h => nomatch h
theorem packageReset : Statement (.packageReset) := fun h => nomatch h
theorem towerReset (tower : Nat) : Statement (.towerReset tower) := fun h => nomatch h
theorem bootStep (tower : Nat) (ok : Bool) (time : BitVec 32) : Statement (.bootStep tower ok time) := fun h => nomatch h
theorem ualinkPortDown (tower : Nat) (port : Nat) : Statement (.ualinkPortDown tower port) := fun h => nomatch h
theorem nonInstructionWord (word : BitVec 32) : Statement (.nonInstructionWord word) := fun h => nomatch h
theorem ualinkPeerAccess (address : BitVec 64) (kind : Nat) (operand : BitVec 64) (expected : BitVec 64) : Statement (.ualinkPeerAccess address kind operand expected) := fun h => nomatch h
theorem ualinkPortUp (tower : Nat) (port : Nat) : Statement (.ualinkPortUp tower port) := fun h => nomatch h
theorem firmwareMailboxRequest (tower : Nat) (kind : Nat) (value : BitVec 64) : Statement (.firmwareMailboxRequest tower kind value) := fun h => nomatch h
theorem fclrWrite (tower : Nat) : Statement (.fclrWrite tower) := fun h => nomatch h

end Sys2Proof.Laws.RoundTrip
end

