-- ==== Sys2Proof/Tests/Slice0.lean ====
section
/-!
SUPPORT. Tests of the syntax, of well-formedness and of the decoder. Words come from the specification: those of its encoding
tables and listings as printed there, and one word for every instruction put together from its row's fixed bits and field places.
-/
namespace Sys2Proof.Tests

/-- Each word decodes to the instruction beside it. -/
noncomputable def reads (l : List (Half × Instr)) : Bool := l.all fun p => decide (decodeWord p.1 = .instr p.2)

/-- Every instruction of the list is refused by the check of well-formedness. -/
def refuses (l : List Instr) : Bool := l.all fun i => !i.wf

/-- Every word of the list is refused by the decoder for this reason. -/
noncomputable def rejects (r : Reject) (l : List Half) : Bool := l.all fun w => decide (decodeWord w = .reject r)

/-! ### Ill-formed terms, one for each check of `Instr.wf` -/

theorem test_wf_signalling_immediate : refuses [.faddi 1 2 0x7F81, .fmuli 1 2 0xFFBF] := by decide
theorem test_wf_csr_listed : refuses [.csrrw 1 2 0x000, .csrrs 1 2 0x00A, .csrrci 1 2 0x110, .csrrwi 1 2 0x140] := by decide
theorem test_wf_scope : refuses [.aadd 1 2 3 7 0 0, .acas 1 2 3 7 3 1, .afadd 1 2 3 7 0 0, .fence 1 7] := by decide
theorem test_wf_fence_order : refuses [.fence 0 2] := by decide
theorem test_wf_sbar_mask : refuses [.sbar 0] := by decide
theorem test_wf_pqpop_pair : refuses [.pqpop 5 6 5] := by decide
theorem test_wf_mask_registers : refuses [.vmseqVv 0 1 2 0 0 0, .vmsltVx 8 1 2 0 0 0, .vmand 1 8 0, .vmor 1 0 8, .vmxor 0 1 2,
  .vmpop 1 8 0, .vmfirst 1 9 0, .viota 1 8 0, .dtagmk 0 1 0, .dtagma 8 1 0] := by decide
theorem test_wf_unused_mark : refuses [.vmvVx 1 2 0 1 0, .vmvVi 1 2 0 1 0] := by decide
theorem test_wf_levels : refuses [.vhaar 1 2 6 0 0, .thaar 1 6, .vstw 1 2 6 0 8, .vldw 1 2 7 0 8, .tstw 1 0 2 6 0 0] := by decide
theorem test_wf_thresholds : refuses [.thset 4 1 2 0 0, .thget 1 4 0 0, .thget 1 0 2 0] := by decide
theorem test_wf_vector_formats : refuses [.vld 1 2 0 0 0 0x03, .vld 1 2 0 0 0 0x0B, .vld 1 2 1 0 0 0x0A, .vst 1 2 16 0 0 0x1C,
  .vst 1 2 0 0 0 0x1A, .vlds 1 2 3 0 0 0x1C, .vsts 1 2 3 0 0 0x0F, .vldx 1 2 3 0 0 0x0B, .vldff 1 2 0 0 0xF, .vldq 16 1 0,
  .vstw 1 2 3 0 9, .vldw 1 2 3 0 0xE] := by decide
theorem test_wf_array : refuses [.opr 0 1 2 0 2 0, .opl 0 0 0 3 0, .tmovv 0 2 1 2 0, .tmovv 0 0 1 2 2, .tamax 0 2 1 0,
  .scalex 16 1 0 0 0, .scalex 1 1 0x08 0 0, .scalex 1 1 0 0 2, .trel 4 1, .tsave 0 2 1, .trestore 0 3 1] := by decide
theorem test_wf_latch_fills : refuses [.opld 0 0 1 2 7 0 0, .opld 0 0 1 2 1 3 0, .opld 1 0 1 2 0 0 0, .opld 0 0 1 2 0 0 1,
  .opldx 1 2 3 7 0 0, .opldx 1 2 3 0 0 1] := by decide
theorem test_wf_tile_formats : refuses [.tld 0 0 1 2 0 1 1, .tst 0 1 1 2 0 2 0, .tstw 1 0 2 5 1 1] := by decide
theorem test_wf_engine : refuses [.csig 0 1 2 3, .cchk 0 1 2 3 0 3, .cchk 1 0 2 3 0 0, .cchk 0 1 2 3 1 0, .cchk 1 1 2 3 0 1,
  .scat 1 2 3 0 1] := by decide

/-! ### Words that are no instruction (R102) -/

theorem test_reject_illegal_major : rejects .illegalMajor [0x00000000, 0x00000001, 0xFC000000, 0xFFFFFFFF] := by decide
theorem test_reject_reserved_major : rejects .reservedMajor [0xEC000000, 0xF0000001, 0xF8000000] := by decide
/-- SYSOP 6 and 7 (R135), a bit set in a reserved field of TRET, fn11 0x07F of major 0x01, SCAT with W (R251). -/
theorem test_reject_check3 : ([0x94000006, 0x94000007, 0x94010009, 0x0400007F, 0xE94B4123] : List Half).all
    (fun w => match decodeWord w with | .reject .illegalMajor | .reject .reservedMajor | .instr _ => false | _ => true) = true := by
  decide

/-! ### Words printed in the specification -/

/-- The tables of worked encodings and the listing under R134. -/
theorem test_words_scalar : reads [(0x08A6FFFC, .addi 5 6 0xFFFC), (0x68BE0010, .std 5 30 16), (0x70E0FFFD, .bne 7 0 0xFFFD),
    (0x87E00040, .jal 31 64), (0x24A00002, .lih 5 2), (0x054B6015, .divu 10 11 12), (0x20A600BF, .srai 5 6 63),
    (0x2CA63900, .fadd 5 6 7 1), (0x2CA63828, .flt 5 6 7 0), (0x94A00011, .csrrs 5 0 1), (0x08A04C4A, .addi 5 0 0x4C4A),
    (0x94050070, .csrrw 0 5 7), (0x94000030, .csrrw 0 0 3), (0x90CB0003, .strip 6 11 3), (0x8D66FFFD, .subbnz 11 6 0xFFFD),
    (0x881F0000, .jalr 0 31 0), (0x08000000, .addi 0 0 0), (0x2D8B4005, .fmac 12 11 8 0), (0x9187_0007, .strip 12 7 7)] := by decide
theorem test_words_system : reads [(0x94012348, .trap 0x1234), (0x94000009, .tret), (0x941CE80A, .csave 28 29),
    (0x941D000B, .crestore 29), (0x9400000C, .tdiscard), (0x9400000D, .tfail), (0x94000E18, .trap 0x00E1),
    (0x941C10E0, .csrrw 0 28 0x10E)] := by decide
theorem test_words_sync : reads [(0x98A63920, .aadd 5 6 7 2 1 0), (0x990A49E9, .acas 8 10 9 3 3 0), (0x9CAA321F, .waita 5 10 6 31),
    (0x9CCA0300, .barr 6 10), (0x9CEA340C, .bwait 7 10 6 12), (0xA00A5800, .spawn 10 11), (0xA18A5868, .ckmark 12 10 11 3),
    (0xA40A3032, .gst 10 6 3), (0x9C00000A, .fence 1 2), (0x9C000014, .fence 2 4), (0x9C00001D, .fence 3 5), (0x9C000105, .sbar 5),
    (0x9C0F0500, .bjoin 15), (0x9C0F0501, .bleave 15), (0x9E2DA21F, .waita 17 13 20 31), (0x9CEF341F, .bwait 7 15 6 31)] := by decide
theorem test_words_vector : reads [(0xAC65E802, .vaddVi 3 5 0x1D 0 0 0), (0xB109638B, .vfmaccVx 8 9 12 3 1 0 0),
    (0xB844310A, .vmsltVv 2 4 6 1 0 0), (0xA8C53800, .vsetvl 6 5 7), (0xC089181F, .vld 4 9 3 0 0 0x1F),
    (0xD0894140, .vldx 4 9 8 1 2 0), (0xD8893270, .vamoadd 4 9 6 2 3 1), (0xB4610800, .vslupVi 3 1 1 0 0 0),
    (0xB041202A, .vfmaccVv 2 1 4 0 0 0 1), (0xB0211825, .vfmulVv 1 1 3 0 0 0 1), (0xB041400B, .vfmaccVx 2 1 8 0 0 0 0),
    (0xB5026808, .vextx 8 2 13 0 0)] := by decide
theorem test_words_array : reads [(0xE0086060, .opr 0 8 12 0 1 1), (0xE1400321, .opl 2 2 3 0 1), (0xE0707805, .scalex 3 16 0xF 0 0),
    (0xE4AA5B20, .opld 1 1 10 11 3 0 1), (0xE68C6983, .tst 5 0 12 13 1 2 0), (0xBC882800, .vhaar 4 8 5 0 0),
    (0xBC453002, .thset 2 5 6 0 0), (0xDC8A1508, .vstw 4 10 5 0 8), (0xE1850008, .thaar 3 5), (0xE5CB2848, .tstw 3 2 11 5 1 0),
    (0xE60B0009, .tldw 4 11), (0xE2000009, .tihaar 4)] := by decide
theorem test_words_engine : reads [(0xE94B6220, .cpy 10 11 12 2 1), (0xE94B4121, .cpyt 10 11 8 1 0 1), (0xE9AE7A08, .csig 13 14 15 2),
    (0xE82082C9, .cchk 1 0 16 2 1 2), (0xE8050304, .qfence 5 3), (0xE8000249, .cchk 0 0 0 2 0 2), (0xE8200249, .cchk 1 0 0 2 0 2),
    (0xE8202AC9, .cchk 1 0 5 2 1 2), (0xE94B3220, .cpy 10 11 6 2 1)] := by decide
/-- The bytes in memory of `BNE x7, x0, .-12`, lowest address first. -/
theorem test_bytes_little_endian : decodeBytes [0xFD, 0xFF, 0xE0, 0x70] = .instr (.bne 7 0 0xFFFD) := by decide

/-! ### One word for every instruction, by family -/

theorem test_decode_integer_1 : reads [
    (0x04443000, .add 2 4 6), (0x04443001, .sub 2 4 6), (0x04443002, .and 2 4 6), (0x04443003, .or 2 4 6),
    (0x04443004, .xor 2 4 6), (0x04443005, .andn 2 4 6), (0x04443006, .sll 2 4 6), (0x04443007, .srl 2 4 6),
    (0x04443008, .sra 2 4 6), (0x04443009, .ror 2 4 6), (0x0444300A, .slt 2 4 6), (0x0444300B, .sltu 2 4 6),
    (0x0444300C, .min 2 4 6), (0x0444300D, .max 2 4 6), (0x0444300E, .minu 2 4 6), (0x0444300F, .maxu 2 4 6),
    (0x04443010, .mul 2 4 6), (0x04443011, .mulh 2 4 6), (0x04443012, .mulhu 2 4 6), (0x04443013, .mulhsu 2 4 6),
    (0x04443014, .div 2 4 6), (0x04443015, .divu 2 4 6), (0x04443016, .rem 2 4 6), (0x04443017, .remu 2 4 6),
    (0x04443018, .sh1add 2 4 6), (0x04443019, .sh2add 2 4 6), (0x0444301A, .sh3add 2 4 6)] := by decide

theorem test_decode_integer_2 : reads [
    (0x0444001B, .clz 2 4), (0x0444001C, .ctz 2 4), (0x0444001D, .cpop 2 4), (0x08448001, .addi 2 4 0x8001),
    (0x0C448001, .andi 2 4 0x8001), (0x10448001, .ori 2 4 0x8001), (0x14448001, .xori 2 4 0x8001),
    (0x18448001, .slti 2 4 0x8001), (0x1C448001, .sltiu 2 4 0x8001), (0x20440021, .slli 2 4 0x21),
    (0x20440061, .srli 2 4 0x21), (0x204400A1, .srai 2 4 0x21), (0x204400E1, .rori 2 4 0x21), (0x24500001, .lih 2 0x100001),
    (0x28500001, .addpc 2 0x100001), (0x38448001, .muli 2 4 0x8001)] := by decide

theorem test_decode_scalar_fp : reads [
    (0x2C443100, .fadd 2 4 6 1), (0x2C443101, .fsub 2 4 6 1), (0x2C443102, .fmul 2 4 6 1), (0x2C443103, .fdiv 2 4 6 1),
    (0x2C440104, .fsqrt 2 4 1), (0x2C443105, .fmac 2 4 6 1), (0x2C443106, .fmin 2 4 6 1), (0x2C443107, .fmax 2 4 6 1),
    (0x2C443108, .feq 2 4 6 1), (0x2C443128, .flt 2 4 6 1), (0x2C443148, .fle 2 4 6 1), (0x2C443168, .funord 2 4 6 1),
    (0x2C440109, .fclass 2 4 1), (0x2C44010A, .fcvtI32 2 4 1), (0x2C44012A, .fcvtUi32 2 4 1), (0x2C44014A, .fcvtI64 2 4 1),
    (0x2C44016A, .fcvtUi64 2 4 1), (0x2C44018A, .fcvtFI64 2 4 1), (0x2C4401AA, .fcvtFUi64 2 4 1), (0x2C4401CA, .fcvtFF 2 4 1),
    (0x2C44310B, .fsgnj 2 4 6 1), (0x2C44312B, .fsgnjn 2 4 6 1), (0x2C44314B, .fsgnjx 2 4 6 1),
    (0x30448001, .faddi 2 4 0x8001), (0x34448001, .fmuli 2 4 0x8001)] := by decide

theorem test_decode_memory : reads [
    (0x3C44028A, .vsetvli 2 4 0x28a), (0x40448001, .ldb 2 4 0x8001), (0x44448001, .ldbu 2 4 0x8001),
    (0x48448001, .ldh 2 4 0x8001), (0x4C448001, .ldhu 2 4 0x8001), (0x50448001, .ldw 2 4 0x8001),
    (0x54448001, .ldwu 2 4 0x8001), (0x58448001, .ldd 2 4 0x8001), (0x5C448001, .stb 2 4 0x8001),
    (0x60448001, .sth 2 4 0x8001), (0x64448001, .stw 2 4 0x8001), (0x68448001, .std 2 4 0x8001)] := by decide

theorem test_decode_control : reads [
    (0x6C448001, .beq 2 4 0x8001), (0x70448001, .bne 2 4 0x8001), (0x74448001, .blt 2 4 0x8001),
    (0x78448001, .bge 2 4 0x8001), (0x7C448001, .bltu 2 4 0x8001), (0x80448001, .bgeu 2 4 0x8001),
    (0x84500001, .jal 2 0x100001), (0x88448001, .jalr 2 4 0x8001), (0x8C448001, .subbnz 2 4 0x8001),
    (0x90440008, .strip 2 4 8)] := by decide

theorem test_decode_system : reads [
    (0x94440010, .csrrw 2 4 1), (0x94440011, .csrrs 2 4 1), (0x94440012, .csrrc 2 4 1), (0x94440013, .csrrwi 2 4 1),
    (0x94440014, .csrrsi 2 4 1), (0x94440015, .csrrci 2 4 1), (0x94012348, .trap 0x1234), (0x94000009, .tret),
    (0x9404300A, .csave 4 6), (0x9404000B, .crestore 4), (0x9400000C, .tdiscard), (0x9400000D, .tfail)] := by decide

theorem test_decode_atomic : reads [
    (0x984431B0, .aadd 2 4 6 3 1 1), (0x984431B1, .aand 2 4 6 3 1 1), (0x984431B2, .aor 2 4 6 3 1 1),
    (0x984431B3, .axor 2 4 6 3 1 1), (0x984431B4, .amin 2 4 6 3 1 1), (0x984431B5, .amax 2 4 6 3 1 1),
    (0x984431B6, .aminu 2 4 6 3 1 1), (0x984431B7, .amaxu 2 4 6 3 1 1), (0x984431B8, .aswap 2 4 6 3 1 1),
    (0x984431B9, .acas 2 4 6 3 1 1), (0x984431BA, .afadd 2 4 6 3 1 1)] := by decide

theorem test_decode_sync : reads [
    (0x9C00000B, .fence 1 3), (0x9C000105, .sbar 5), (0x9C44321F, .waita 2 4 6 0x1f), (0x9C440300, .barr 2 4),
    (0x9C44341F, .bwait 2 4 6 0x1f), (0x9C040500, .bjoin 4), (0x9C040501, .bleave 4), (0x9C443600, .pqpush 2 4 6),
    (0x9C443601, .pqpop 2 4 6), (0xA0043000, .spawn 4 6), (0xA0000001, .tcommit), (0xA0440022, .kill 2 4 1),
    (0xA0040003, .wqry 4), (0xA0000004, .doneTask), (0xA0000005, .yield), (0xA0440006, .joinw 2 4),
    (0xA0443108, .ckmark 2 4 6 8), (0xA0000309, .ckroll 1 8), (0xA000030A, .ckcommit 1 8), (0xA040010B, .ckstat 2 8),
    (0xA4440000, .gslot 2 4), (0xA4440001, .grel 2 4), (0xA4043032, .gst 4 6 3), (0xA4443013, .gamo 2 4 6 1),
    (0xA4400004, .gframe 2)] := by decide

theorem test_decode_vconfig : reads [
    (0xA8443000, .vsetvl 2 4 6), (0xA8403001, .vlmaxq 2 6)] := by decide

theorem test_decode_vint_1 : reads [
    (0xAC443360, .vaddVv 2 4 6 3 1 1), (0xAC443361, .vaddVx 2 4 6 3 1 1), (0xAC443362, .vaddVi 2 4 6 3 1 1),
    (0xAC443363, .vsubVv 2 4 6 3 1 1), (0xAC443364, .vsubVx 2 4 6 3 1 1), (0xAC443365, .vrsubVi 2 4 6 3 1 1),
    (0xAC443366, .vandVv 2 4 6 3 1 1), (0xAC443367, .vandVx 2 4 6 3 1 1), (0xAC443368, .vorVv 2 4 6 3 1 1),
    (0xAC443369, .vorVx 2 4 6 3 1 1), (0xAC44336A, .vxorVv 2 4 6 3 1 1), (0xAC44336B, .vxorVx 2 4 6 3 1 1),
    (0xAC44336C, .vxorVi 2 4 6 3 1 1), (0xAC44336D, .vsllVv 2 4 6 3 1 1), (0xAC44336E, .vsllVi 2 4 6 3 1 1),
    (0xAC44336F, .vsrVv 2 4 6 3 1 1), (0xAC443370, .vsrVi 2 4 6 3 1 1), (0xAC443371, .vminVv 2 4 6 3 1 1),
    (0xAC443372, .vminVx 2 4 6 3 1 1), (0xAC443373, .vmaxVv 2 4 6 3 1 1), (0xAC443374, .vmaxVx 2 4 6 3 1 1),
    (0xAC443375, .vmulVv 2 4 6 3 1 1), (0xAC443376, .vmulVx 2 4 6 3 1 1), (0xAC443377, .vmulhVv 2 4 6 3 1 1),
    (0xAC443378, .vmaccVv 2 4 6 3 1 1), (0xAC443379, .vmaccVx 2 4 6 3 1 1), (0xAC44337A, .vsaddVv 2 4 6 3 1 1)] := by decide

theorem test_decode_vint_2 : reads [
    (0xAC44337B, .vssubVv 2 4 6 3 1 1), (0xAC44337C, .vmergeVv 2 4 6 3 1 1), (0xAC40333D, .vmvVx 2 6 3 0 1),
    (0xAC40333E, .vmvVi 2 6 3 0 1)] := by decide

theorem test_decode_vfp_1 : reads [
    (0xB04433E0, .vfaddVv 2 4 6 3 1 1 1), (0xB04433E1, .vfaddVx 2 4 6 3 1 1 1), (0xB04433E2, .vfsubVv 2 4 6 3 1 1 1),
    (0xB04433E3, .vfsubVx 2 4 6 3 1 1 1), (0xB04433E4, .vfrsubVx 2 4 6 3 1 1 1), (0xB04433E5, .vfmulVv 2 4 6 3 1 1 1),
    (0xB04433E6, .vfmulVx 2 4 6 3 1 1 1), (0xB04433E7, .vfdivVv 2 4 6 3 1 1 1), (0xB04433E8, .vfdivVx 2 4 6 3 1 1 1),
    (0xB04403C9, .vfsqrt 2 4 3 1 1), (0xB04433EA, .vfmaccVv 2 4 6 3 1 1 1), (0xB04433EB, .vfmaccVx 2 4 6 3 1 1 1),
    (0xB04433EC, .vfnmsacVv 2 4 6 3 1 1 1), (0xB04433ED, .vfnmsacVx 2 4 6 3 1 1 1), (0xB04433EE, .vfminVv 2 4 6 3 1 1 1),
    (0xB04433EF, .vfminVx 2 4 6 3 1 1 1), (0xB04433F0, .vfmaxVv 2 4 6 3 1 1 1), (0xB04433F1, .vfmaxVx 2 4 6 3 1 1 1),
    (0xB0443372, .vfsgnjVv 2 4 6 3 1 1), (0xB0443373, .vfsgnjnVv 2 4 6 3 1 1), (0xB0443374, .vfsgnjxVv 2 4 6 3 1 1),
    (0xB04403D5, .vfrec 2 4 3 1 1), (0xB04403D6, .vfrsqrt 2 4 3 1 1), (0xB04403D7, .vfexp2 2 4 3 1 1),
    (0xB04403D8, .vfcvtI 2 4 3 1 1), (0xB0440BD8, .vfcvtUi 2 4 3 1 1), (0xB04413D8, .vfcvtFi 2 4 3 1 1)] := by decide

theorem test_decode_vfp_2 : reads [
    (0xB0441BD8, .vfcvtFui 2 4 3 1 1), (0xB04423D8, .vfcvtRint 2 4 3 1 1), (0xB0440359, .vfclass 2 4 3 1)] := by decide

theorem test_decode_vperm : reads [
    (0xB4443360, .vslupVi 2 4 6 3 1 1), (0xB4443361, .vsldnVi 2 4 6 3 1 1), (0xB4443362, .vrgathVv 2 4 6 3 1 1),
    (0xB4440343, .vcompress 2 4 3 1), (0xB4440344, .vexpand 2 4 3 1), (0xB4440305, .viota 2 4 3), (0xB4400306, .vid 2 3),
    (0xB4440347, .vmvVv 2 4 3 1), (0xB4443068, .vextx 2 4 6 1 1), (0xB4443069, .vinsx 2 4 6 1 1)] := by decide

theorem test_decode_vmask : reads [
    (0xB8443360, .vredsum 2 4 6 3 1 1), (0xB8443361, .vredosum 2 4 6 3 1 1), (0xB8443362, .vredmin 2 4 6 3 1 1),
    (0xB8443363, .vredmax 2 4 6 3 1 1), (0xB8443364, .vredand 2 4 6 3 1 1), (0xB8443365, .vredor 2 4 6 3 1 1),
    (0xB8443366, .vredxor 2 4 6 3 1 1), (0xB8443367, .vamax 2 4 6 3 1 1), (0xB8443368, .vmseqVv 2 4 6 3 1 1),
    (0xB8443369, .vmsneVv 2 4 6 3 1 1), (0xB844336A, .vmsltVv 2 4 6 3 1 1), (0xB844336B, .vmsleVv 2 4 6 3 1 1),
    (0xB844336C, .vmseqVx 2 4 6 3 1 1), (0xB844336D, .vmsneVx 2 4 6 3 1 1), (0xB844336E, .vmsltVx 2 4 6 3 1 1),
    (0xB844336F, .vmsleVx 2 4 6 3 1 1), (0xB8443370, .vmsgtVx 2 4 6 3 1 1), (0xB8443371, .vmsgeVx 2 4 6 3 1 1),
    (0xB8443012, .vmand 2 4 6), (0xB8443013, .vmor 2 4 6), (0xB8443014, .vmxor 2 4 6), (0xB8443015, .vmandn 2 4 6),
    (0xB8440316, .vmpop 2 4 3), (0xB8440317, .vmfirst 2 4 3)] := by decide

theorem test_decode_haar : reads [
    (0xBC442860, .vhaar 2 4 5 1 1), (0xBC440041, .vihaar 2 4 1), (0xBC443062, .thset 2 4 6 1 1), (0xBC420823, .thget 2 2 1 1),
    (0xBC440044, .dtagr 2 4 1), (0xBC440045, .dtagw 2 4 1), (0xBC440046, .dtagmk 2 4 1), (0xBC440047, .dtagma 2 4 1)] := by decide

theorem test_decode_vmem : reads [
    (0xC044335C, .vld 2 4 6 3 2 0x1c), (0xC444335C, .vst 2 4 6 3 2 0x1c), (0xC844334A, .vlds 2 4 6 3 2 10),
    (0xCC443342, .vsts 2 4 6 3 2 2), (0xD0443348, .vldx 2 4 6 3 2 8), (0xD4443349, .vstx 2 4 6 3 2 9),
    (0xD8443350, .vamoadd 2 4 6 3 2 1), (0xD8443351, .vamoand 2 4 6 3 2 1), (0xD8443352, .vamoor 2 4 6 3 2 1),
    (0xD8443353, .vamoxor 2 4 6 3 2 1), (0xD8443354, .vamomin 2 4 6 3 2 1), (0xD8443355, .vamomax 2 4 6 3 2 1),
    (0xD8443356, .vamoswp 2 4 6 3 2 1), (0xDC440040, .vldq 2 4 2), (0xDC440B48, .vldff 2 4 3 2 8),
    (0xDC441348, .vstw 2 4 3 2 8), (0xDC441B48, .vldw 2 4 3 2 8)] := by decide

theorem test_decode_array : reads [
    (0xE2843360, .opr 5 4 6 3 1 1), (0xE2A00361, .opl 5 1 3 1 1), (0xE2800302, .tzero 5 3), (0xE2A43043, .tmovv 5 1 4 6 1),
    (0xE2A03304, .tamax 5 1 6 3), (0xE0446345, .scalex 2 4 12 3 1), (0xE1A00006, .trel 3 1), (0xE2850008, .thaar 5 5),
    (0xE2800009, .tihaar 5), (0xE6A43360, .opld 5 1 4 6 3 1 1), (0xE4443661, .opldx 2 4 6 6 1 1),
    (0xE6A433A2, .tld 5 1 4 6 3 2 1), (0xE6A433A3, .tst 5 1 4 6 3 2 1), (0xE5240004, .tsave 2 1 4),
    (0xE4A40005, .trestore 1 1 4), (0xE6A428A8, .tstw 5 1 4 5 2 1), (0xE6840009, .tldw 5 4)] := by decide

theorem test_decode_engine : reads [
    (0xE8443320, .cpy 2 4 6 3 1), (0xE8443361, .cpyt 2 4 6 3 1 1), (0xE8443322, .gath 2 4 6 3 1),
    (0xE8443303, .scat 2 4 6 3 0), (0xE8040304, .qfence 4 3), (0xE8443308, .csig 2 4 6 3), (0xE82033C9, .cchk 1 0 6 3 1 2),
    (0xE844030A, .cxf 2 4 3), (0xE804030B, .cfill 4 3), (0xE804330C, .crow 4 6 3), (0xE840032D, .cqst 2 3 1)] := by decide

end Sys2Proof.Tests
end

