-- ==== Sys2Proof/Tests/Steps.lean ====
section
/-!
SUPPORT. Tests of single steps on small states. The expected values are worked examples and tables of the specification, or were
worked out by hand from its rules.
-/
namespace Sys2Proof.Tests
open Sys2Proof.Machine

set_option Elab.async false

/-- A register file with the listed values. -/
def xs (l : List (Nat × Word)) : Vector Word 32 := l.foldl (fun v p => v.set! p.1 p.2) (Vector.replicate 32 0)

/-- Vector registers with the listed 32-bit lanes. -/
def vs (l : List (Nat × List Nat)) : Vector VReg 32 :=
  l.foldl (fun v p => v.set! p.1 (BitVec.ofNat 1024 (p.2.foldr (fun e acc => e + 2 ^ 32 * acc) 0))) (Vector.replicate 32 0)

/-- A post-commit task at PC 0x100. -/
def th : Thread := { occ := .task, post := true, pc := 0x100 }

/-- Core 0 runs the thread in slot 0 with all four lane groups; XB is 0x1000, EVEC 0x800, OVH 0x900; the layer is in Summer. -/
def on (t : Thread) : State :=
  { layers := [(0, { season := .summer, powered := true })]
    cores := [(0, { threads := #v[t, {}, {}, {}], xb := 0x1000, evec := 0x800, ovh := 0x900, lpart := 0x000F000F })] }

/-- What the state shows after an instruction. -/
noncomputable def after {α : Type} (i : Instr) (s : State) (f : State → α) : Option α :=
  match exec i s with
  | .next t => some (f t)
  | _ => none

/-- The value of rd afterwards. -/
noncomputable def giving (i : Instr) (rd : BitVec 5) (l : List (Nat × Word)) : Option Word :=
  after i (on { th with x := xs l }) fun t => t.x rd

/-- The value of rd and FCSR afterwards, from an FCSR. -/
noncomputable def fp (i : Instr) (rd : BitVec 5) (l : List (Nat × Word)) (fcsr : Word := 0) : Option (Word × Word) :=
  after i (on { th with x := xs l, fcsr := fcsr }) fun t => (t.x rd, t.me.fcsr)

/-- The trap taken: cause, EVAL, EVAL2, EPC and PC; nothing where the thread is not in level S. -/
def trapOf (t : State) : List Word :=
  if t.me.level == .S then [t.me.ecause, t.me.eval, t.me.eval2, t.me.epc, t.me.pc] else []

/-- The first n 32-bit lanes of a vector register. -/
def lanesOf (t : State) (r n : Nat) : List Nat := (List.range n).map fun i => fld (t.me.v.getD r 0) (32 * i) 32

/-! ### Scalar integer forms (R115 to R119) -/

theorem test_add_wraps : after (.add 3 1 2) (on { th with x := xs [(1, 0xFFFFFFFFFFFFFFFF), (2, 2)] })
    (fun t => (t.x 3, t.x 1, t.me.pc, t.me.retired)) = some (1, 0xFFFFFFFFFFFFFFFF, 0x104, 1) := by decide +kernel
theorem test_add_x0 : after (.add 0 1 1) (on { th with x := xs [(1, 5)] }) (fun t => (t.x 0, t.x 1, t.me.pc)) = some (0, 5, 0x104) := by decide +kernel
theorem test_sub_source_is_destination : giving (.sub 1 2 1) 1 [(1, 3), (2, 1)] = some 0xFFFFFFFFFFFFFFFE := by decide +kernel
theorem test_andn : giving (.andn 3 1 2) 3 [(1, 0xFF), (2, 0x0F)] = some 0xF0 := by decide +kernel
theorem test_sra_amount_mod_64 : giving (.sra 3 1 2) 3 [(1, 0xFFFFFFFFFFFFFFF8), (2, 65)] = some 0xFFFFFFFFFFFFFFFC := by decide +kernel
theorem test_ror : giving (.ror 3 1 2) 3 [(1, 3), (2, 1)] = some 0x8000000000000001 := by decide +kernel
theorem test_slt_signed : giving (.slt 3 1 2) 3 [(1, 0xFFFFFFFFFFFFFFFF), (2, 0)] = some 1 := by decide +kernel
theorem test_sltu_unsigned : giving (.sltu 3 1 2) 3 [(1, 0xFFFFFFFFFFFFFFFF), (2, 0)] = some 0 := by decide +kernel
theorem test_mulhsu : giving (.mulhsu 3 1 2) 3 [(1, 0xFFFFFFFFFFFFFFFF), (2, 0xFFFFFFFFFFFFFFFF)] = some 0xFFFFFFFFFFFFFFFF := by decide +kernel
theorem test_mulhu : giving (.mulhu 3 1 2) 3 [(1, 0xFFFFFFFFFFFFFFFF), (2, 0xFFFFFFFFFFFFFFFF)] = some 0xFFFFFFFFFFFFFFFE := by decide +kernel
theorem test_div_toward_zero : giving (.div 3 1 2) 3 [(1, 0xFFFFFFFFFFFFFFF9), (2, 2)] = some 0xFFFFFFFFFFFFFFFD := by decide +kernel
theorem test_div_overflow : giving (.div 3 1 2) 3 [(1, 0x8000000000000000), (2, 0xFFFFFFFFFFFFFFFF)] = some 0x8000000000000000 := by decide +kernel
theorem test_rem_sign : giving (.rem 3 1 2) 3 [(1, 0xFFFFFFFFFFFFFFF9), (2, 2)] = some 0xFFFFFFFFFFFFFFFF := by decide +kernel
theorem test_remu_zero : giving (.remu 3 1 2) 3 [(1, 7)] = some 7 := by decide +kernel
theorem test_sh3add : giving (.sh3add 3 1 2) 3 [(1, 5), (2, 2)] = some 42 := by decide +kernel
theorem test_clz_zero : giving (.clz 3 1) 3 [] = some 64 := by decide +kernel
theorem test_ctz : giving (.ctz 3 1) 3 [(1, 0x48)] = some 3 := by decide +kernel
theorem test_addi_negative : giving (.addi 5 6 0xFFFC) 5 [(6, 3)] = some 0xFFFFFFFFFFFFFFFF := by decide +kernel
theorem test_andi_zero_extends : giving (.andi 5 6 0xFFFF) 5 [(6, 0xFFFFFFFFFFFFFFFF)] = some 0xFFFF := by decide +kernel
theorem test_sltiu_extends_then_compares : giving (.sltiu 5 6 0xFFFF) 5 [(6, 0xFFFF)] = some 1 := by decide +kernel
theorem test_lih : giving (.lih 5 2) 5 [] = some 0x20000 := by decide +kernel
theorem test_addpc_negative : giving (.addpc 5 0x1FFFFC) 5 [] = some 0xFC := by decide +kernel

/-! ### Scalar floating point (R120 to R126) -/

theorem test_fcvt_i32 : fp (.fcvtI32 3 1 0) 3 [(1, 0xC0600000)] = some (0xFFFFFFFFFFFFFFFC, 8) := by decide +kernel
theorem test_fcvt_i32_clamps : fp (.fcvtI32 3 1 0) 3 [(1, 0x4F32D05E)] = some (0x7FFFFFFF, 0x100) := by decide +kernel
theorem test_fcvt_ui32_rounds_first : fp (.fcvtUi32 3 1 0) 3 [(1, 0xBE800000)] = some (0, 8) := by decide +kernel
theorem test_fadd_f64 : fp (.fadd 3 1 2 1) 3 [(1, 0x3FF0000000000000), (2, 0x4000000000000000)] = some (0x4008000000000000, 0) := by decide +kernel
theorem test_fadd_f32_upper_half_ignored : fp (.fadd 3 1 2 0) 3 [(1, 0xFFFFFFFF3F800000), (2, 0x3F800000)] = some (0x40000000, 0) := by decide +kernel
theorem test_fdiv_by_zero : fp (.fdiv 3 1 2 0) 3 [(1, 0x3F800000), (2, 0x80000000)] = some (0xFF800000, 0x40) := by decide +kernel
theorem test_fmul_overflow_rtz : fp (.fmul 3 1 1 0) 3 [(1, 0x7F000000)] 1 = some (0x7F7FFFFF, 0x29) := by decide +kernel
theorem test_fsqrt_negative_zero : fp (.fsqrt 3 1 0) 3 [(1, 0x80000000)] = some (0x80000000, 0) := by decide +kernel
theorem test_fmac_infinity_times_zero : fp (.fmac 3 1 2 0) 3 [(1, 0x7F800000), (3, 0x7FC00000)] = some (0x7FC00000, 0x80) := by decide +kernel
theorem test_fmin_zeros : fp (.fmin 3 1 2 0) 3 [(2, 0x80000000)] = some (0x80000000, 0) := by decide +kernel
theorem test_flt_quiet_nan : fp (.flt 3 1 2 0) 3 [(1, 0x7FC00000)] = some (0, 0x80) := by decide +kernel
theorem test_feq_quiet_nan : fp (.feq 3 1 2 0) 3 [(1, 0x7FC00000)] = some (0, 0) := by decide +kernel
theorem test_fclass : fp (.fclass 3 1 1) 3 [(1, 0x8000000000000001)] = some (4, 0) := by decide +kernel
theorem test_fsgnjx : fp (.fsgnjx 3 1 2 0) 3 [(1, 0xFF812345), (2, 0x80000000)] = some (0x7F812345, 0) := by decide +kernel
/-- A flag whose enable is set traps with rd unwritten and the flag set (R126); TE bit 3 enables DZ. -/
theorem test_fdiv_traps : after (.fdiv 3 1 2 0) (on { th with x := xs [(1, 0x3F800000), (3, 7)], fcsr := 0x2000 })
    (fun t => (trapOf t, t.x 3, t.me.fcsr)) = some ([0xC, 0, 8, 0x100, 0x800], 7, 0x2040) := by decide +kernel

/-! ### Loads, stores and their checks (R127 to R129) -/

theorem test_store_then_bytes : after (.stw 2 1 4) (on { th with x := xs [(1, 0x2000), (2, 0x1122334455667788)] })
    (fun t => ((List.range 4).map (fun i => t.byte (privBase 0 + 0x2004 + i)), t.byte (privBase 0 + 0x2008))) =
      some ([0x88, 0x77, 0x66, 0x55], 0) := by decide +kernel
theorem test_load_sign_extends : after (.ldh 3 1 0)
    ((on { th with x := xs [(1, 0x2000)] }).setBytes (privBase 0 + 0x2000) [0x01, 0x80]) (fun t => t.x 3) = some 0xFFFFFFFFFFFF8001 := by decide +kernel
theorem test_load_misaligned : after (.ldw 3 1 2) (on { th with x := xs [(1, 0x2000), (3, 9)] }) (fun t => (trapOf t, t.x 3)) =
    some ([4, 0x2002, 0, 0x100, 0x800], 9) := by decide +kernel
theorem test_load_below_xb : after (.ldd 3 1 0) (on { th with x := xs [(1, 0xFF8)] }) trapOf =
    some [8, 0xFF8, 0, 0x100, 0x800] := by decide +kernel
theorem test_store_no_window : after (.stb 3 1 0) (on { th with x := xs [(1, 0x80000)] }) (fun t => (trapOf t, t.me.estat)) =
    some ([6, 0x80000, 0, 0x100, 0x800], 0x10) := by decide +kernel
/-- Stores to the own private scratchpad are not logged and do not commit (R30). -/
theorem test_private_store_unlogged : after (.stb 2 1 1) (on { th with post := false, x := xs [(1, 0x2000), (2, 0xFF)] })
    (fun t => (t.myCluster.log.map fun e => (e.addr, e.old), t.me.post)) = some ([], false) := by decide +kernel

/-! ### Branches and jumps (R130, R131, R134) -/

theorem test_bne_backwards : after (.bne 7 0 0xFFFD) (on { th with x := xs [(7, 1)] }) (fun t => t.me.pc) = some 0xF4 := by decide +kernel
theorem test_blt_signed : after (.blt 1 2 2) (on { th with x := xs [(1, 0xFFFFFFFFFFFFFFFF)] }) (fun t => t.me.pc) = some 0x108 := by decide +kernel
theorem test_bltu_falls_through : after (.bltu 1 2 2) (on { th with x := xs [(1, 0xFFFFFFFFFFFFFFFF)] }) (fun t => t.me.pc) = some 0x104 := by decide +kernel
theorem test_jal : after (.jal 31 64) (on th) (fun t => (t.x 31, t.me.pc)) = some (0x104, 0x200) := by decide +kernel
theorem test_jalr_old_source : after (.jalr 1 1 4) (on { th with x := xs [(1, 0x300)] }) (fun t => (t.x 1, t.me.pc)) =
    some (0x104, 0x304) := by decide +kernel
theorem test_jalr_misaligned : after (.jalr 1 2 2) (on { th with x := xs [(1, 7), (2, 0x300)] }) (fun t => (trapOf t, t.x 1)) =
    some ([4, 0x302, 0, 0x100, 0x800], 7) := by decide +kernel
/-- The last row of the table under R134. -/
theorem test_subbnz_falls_through : after (.subbnz 11 6 0xFFFD) (on { th with x := xs [(6, 8), (11, 8)] }) (fun t => (t.x 11, t.me.pc)) =
    some (0, 0x104) := by decide +kernel

/-! ### CSRs, lanes and strips (R26, R53 to R60, R133, R135) -/

theorem test_csrrs_zero_writes_nothing : after (.csrrs 5 0 0x030) (on th) (fun t => t.me.pc) = some 0x104 := by decide +kernel
theorem test_csrrw_fcsr_rm_kept : after (.csrrw 5 1 0x001) (on { th with x := xs [(1, 0xFFFFFFFFFFFF0006)], fcsr := 0x2 })
    (fun t => (t.x 5, t.me.fcsr)) = some (2, 2) := by decide +kernel
theorem test_csrrw_vtype_illegal : after (.csrrw 0 1 0x002) (on { th with x := xs [(1, 0x40)] }) (fun t => t.readCsr 0x002) =
    some 0x8000000000000000 := by decide +kernel
theorem test_csr_privileged : after (.csrrs 5 0 0x100) (on th) trapOf = some [3, 0, 4, 0x100, 0x800] := by decide +kernel
/-- STRIP of pass 2 of the example under R134: VL 16 with 4-byte entries for x10 and x12, 16 lanes. -/
theorem test_strip_pass_2 : after (.strip 6 11 3)
    (let s := on { th with x := xs [(10, 0x100000), (12, 0x101000), (11, 24)], vl := 16, spset := 0x4C4A }
     s.modMyCore fun c => { c with lpart := 0x00030003 }) (fun t => (t.me.vl, t.x 6, t.x 10, t.x 12, t.x 11)) =
    some (16, 16, 0x100040, 0x101040, 24) := by decide +kernel
/-- The LPART values of the worked example under R28: the stencil's STRIP, the walker's VSETVL, the stencil's later STRIP. -/
theorem test_lane_boundaries : lpBoundary 15 0 0x0000000000C30087 0 = 0x0000040000C30083 ∧
    lpBoundary 15 0 0x0000040000C30083 1 = 0x0000040000C300C3 ∧ lpBoundary 15 0 0x0000000000070003 0 = 0x0000000000070007 := by decide +kernel


/-! ### Vector forms (R139 to R163) -/

/-- A mask register with the listed bits for 32 lanes: bit i in lane i. -/
def maskOf (b : Nat) : VReg := BitVec.ofNat 1024 (((List.range 32).map fun i => if b.testBit i then 2 ^ (32 * i) else 0).foldl (· + ·) 0)

/-- The base state with an element type, a length, vector registers and m1. -/
def vec (ty vl : Nat) (l : List (Nat × List Nat)) (m1 : Nat := 0) (x : List (Nat × Word) := []) : State :=
  on { th with
    vtype := BitVec.ofNat 64 (0x280 + ty), vl := BitVec.ofNat 64 vl, v := vs l, x := xs x, vlive := 0xFFFFFFFF
    m := (Vector.replicate 8 0).set! 1 (maskOf m1), mlive := 2 }

/-- Bits 0 to n − 1 of a mask register of 32 lanes. -/
def maskBits (t : State) (r n : Nat) : List Nat := (List.range n).map fun i => fld (t.me.m.getD r 0) (32 * i) 1

/-- The first lanes of vd, ESTART and the flags afterwards. -/
noncomputable def lanesAfter (i : Instr) (s : State) (vd n : Nat) : Option (List Nat × Word × Word) :=
  after i s fun t => (lanesOf t vd n, t.me.estart, t.me.fcsr)

theorem test_vadd_vv : lanesAfter (.vaddVv 1 2 3 0 0 0) (vec 2 3 [(1, [9, 9, 9, 9]), (2, [1, 2, 3, 4]), (3, [0xFFFFFFFF, 5, 6, 7])]) 1 4 =
    some ([0, 7, 9, 9], 0, 0) := by decide +kernel
theorem test_vadd_masked : lanesAfter (.vaddVx 1 2 7 1 0 0) (vec 2 3 [(1, [9, 9, 9]), (2, [1, 2, 3])] 5 [(7, 10)]) 1 3 =
    some ([11, 9, 13], 0, 0) := by decide +kernel
theorem test_vrsub_vi : lanesAfter (.vrsubVi 1 2 31 0 0 0) (vec 2 1 [(2, [1])]) 1 1 = some ([0xFFFFFFFE], 0, 0) := by decide +kernel
theorem test_vsr_signed : lanesAfter (.vsrVi 1 2 4 0 0 0) (vec 2 1 [(2, [0x80000000])]) 1 1 = some ([0xF8000000], 0, 0) := by decide +kernel
theorem test_vsr_unsigned : lanesAfter (.vsrVi 1 2 4 0 0 0) (vec 6 1 [(2, [0x80000000])]) 1 1 = some ([0x08000000], 0, 0) := by decide +kernel
theorem test_vmulh : lanesAfter (.vmulhVv 1 2 2 0 0 0) (vec 2 1 [(2, [0xFFFFFFFF])]) 1 1 = some ([0], 0, 0) := by decide +kernel
theorem test_vmacc_reads_vd : lanesAfter (.vmaccVv 1 2 3 0 0 0) (vec 2 1 [(1, [5]), (2, [6]), (3, [7])]) 1 1 = some ([47], 0, 0) := by decide +kernel
/-- A clamped sum sets SAT, bit 8 of FCSR. -/
theorem test_vsadd_clamps : lanesAfter (.vsaddVv 1 2 2 0 0 0) (vec 2 1 [(2, [0x7FFFFFFF])]) 1 1 = some ([0x7FFFFFFF], 0, 0x100) := by decide +kernel
theorem test_vmerge_selects : lanesAfter (.vmergeVv 1 2 3 1 0 0) (vec 2 2 [(1, [9, 9]), (2, [1, 2]), (3, [3, 4])] 1) 1 2 =
    some ([3, 2], 0, 0) := by decide +kernel
theorem test_vmv_copies_bits : lanesAfter (.vmvVx 1 7 0 0 0) (vec 0xA 1 [] 0 [(7, 0x12345678FF800001)]) 1 1 =
    some ([0xFF800001], 0, 0) := by decide +kernel
/-- Of 34 elements of two bytes, elements 32 and 33 lie in the upper halves of lanes 0 and 1 (R139). -/
theorem test_vmv_half_elements : lanesAfter (.vmvVi 1 3 0 0 0) (vec 1 34 []) 1 3 = some ([0x30003, 0x30003, 3], 0, 0) := by decide +kernel

theorem test_vfadd : lanesAfter (.vfaddVv 1 2 3 0 0 0 0) (vec 0xA 1 [(2, [0x3F800000]), (3, [0x40000000])]) 1 1 =
    some ([0x40400000], 0, 0) := by decide +kernel
theorem test_vfrsub : lanesAfter (.vfrsubVx 1 2 7 0 0 0 0) (vec 0xA 1 [(2, [0x3F800000])] 0 [(7, 0x40000000)]) 1 1 =
    some ([0x3F800000], 0, 0) := by decide +kernel
theorem test_vfnmsac : lanesAfter (.vfnmsacVv 1 2 3 0 0 0 0) (vec 0xA 1 [(1, [0x40C00000]), (2, [0x40000000]), (3, [0x40400000])]) 1 1 =
    some ([0], 0, 0) := by decide +kernel
theorem test_vfrec_zero : lanesAfter (.vfrec 1 2 0 0 0) (vec 0xA 1 [(2, [0x80000000])]) 1 1 = some ([0xFF800000], 0, 0x40) := by decide +kernel
theorem test_vfrsqrt_minus_zero : lanesAfter (.vfrsqrt 1 2 0 0 0) (vec 0xA 1 [(2, [0x80000000])]) 1 1 = some ([0xFF800000], 0, 0x40) := by decide +kernel
theorem test_vfexp2_integer : lanesAfter (.vfexp2 1 2 0 0 0) (vec 0xA 2 [(2, [0x40400000, 0xC3150000])]) 1 2 =
    some ([0x41000000, 1], 0, 0) := by decide +kernel
theorem test_vfcvt_rint : lanesAfter (.vfcvtRint 1 2 0 0 0) (vec 0xA 2 [(2, [0x40200000, 0x40000000])]) 1 2 =
    some ([0x40000000, 0x40000000], 0, 8) := by decide +kernel
/-- An enabled DZ traps at its element with ESTART naming it, elements below written (R142). -/
theorem test_vfdiv_traps : after (.vfdivVv 1 2 3 0 0 0 0)
    (let s := vec 0xA 3 [(1, [9, 9, 9]), (2, [0x3F800000, 0x3F800000, 0x3F800000]), (3, [0x40000000, 0, 0x40000000])]
     s.modMe fun t => { t with fcsr := 0x2000 }) (fun t => (t.me.ecause, t.me.estart, lanesOf t 1 3)) =
    some (0xC, 1, [0x3F000000, 9, 9]) := by decide +kernel

theorem test_vslup_fills : lanesAfter (.vslupVi 1 2 2 0 0 0)
    ((vec 2 4 [(2, [1, 2, 3, 4])]).modMe fun t => { t with vfill := 7 }) 1 4 = some ([7, 7, 1, 2], 0, 0) := by decide +kernel
theorem test_vrgath : lanesAfter (.vrgathVv 1 2 3 0 0 0) (vec 2 3 [(2, [10, 11, 12]), (3, [2, 3, 0])]) 1 3 = some ([12, 0, 10], 0, 0) := by decide +kernel
theorem test_vcompress : lanesAfter (.vcompress 1 2 1 0) (vec 2 4 [(1, [9, 9, 9, 9]), (2, [1, 2, 3, 4])] 10) 1 4 =
    some ([2, 4, 9, 9], 0, 0) := by decide +kernel
theorem test_vexpand : lanesAfter (.vexpand 1 2 1 0) (vec 2 4 [(1, [9, 9, 9, 9]), (2, [1, 2, 3, 4])] 10) 1 4 =
    some ([9, 1, 9, 2], 0, 0) := by decide +kernel
theorem test_viota : lanesAfter (.viota 2 1 0) (vec 2 4 [] 5) 2 4 = some ([0, 1, 1, 2], 0, 0) := by decide +kernel
theorem test_vextx_sign : after (.vextx 3 2 7 0 0) (vec 2 0 [(2, [1, 0x80000000])] 0 [(7, 1)]) (fun t => t.x 3) =
    some 0xFFFFFFFF80000000 := by decide +kernel
theorem test_vinsx_one_element : lanesAfter (.vinsx 1 8 7 0 0) (vec 2 3 [(1, [1, 2, 3])] 0 [(7, 1), (8, 0x1FFFFFFFF)]) 1 3 =
    some ([1, 0xFFFFFFFF, 3], 0, 0) := by decide +kernel
theorem test_vredsum_start : lanesAfter (.vredsum 1 2 3 0 0 0) (vec 2 3 [(2, [1, 2, 3, 50]), (3, [100, 7])]) 1 1 = some ([106], 0, 0) := by decide +kernel
/-- The pairwise tree and the sequential sum of R88 on 2^24, 1, 1, −2^24 with start −0: (2^24 + 1) + (1 − 2^24) against ((2^24 + 1) + 1) − 2^24. -/
theorem test_vredsum_tree : lanesAfter (.vredsum 1 2 3 0 0 0)
    (vec 0xA 4 [(2, [0x4B800000, 0x3F800000, 0x3F800000, 0xCB800000]), (3, [0x80000000])]) 1 1 = some ([0x3F800000], 0, 8) := by decide +kernel
theorem test_vredosum : lanesAfter (.vredosum 1 2 3 0 0 0)
    (vec 0xA 4 [(2, [0x4B800000, 0x3F800000, 0x3F800000, 0xCB800000]), (3, [0x80000000])]) 1 1 = some ([0], 0, 8) := by decide +kernel
theorem test_vredsum_empty : lanesAfter (.vredsum 1 2 3 0 0 0) (vec 0xA 0 [(3, [0x80000000])]) 1 1 = some ([0x80000000], 0, 0) := by decide +kernel
theorem test_vamax_nan : lanesAfter (.vamax 1 2 3 0 0 0) (vec 0xA 1 [(2, [0xFF800001])]) 1 1 = some ([0x7FC00000], 0, 0) := by decide +kernel
theorem test_vmsne_unordered : after (.vmsneVv 2 1 2 0 0 0) (vec 0xA 2 [(1, [0x7FC00000, 0]), (2, [0, 0x80000000])])
    (fun t => (maskBits t 2 2, t.me.fcsr)) = some ([1, 0], 0) := by decide +kernel
theorem test_vmsge_signed : after (.vmsgeVx 2 1 7 0 0 0) (vec 2 2 [(1, [0xFFFFFFFF, 3])] 0 [(7, 0)]) (fun t => maskBits t 2 2) =
    some [0, 1] := by decide +kernel
theorem test_vmandn : after (.vmandn 2 0 1) (vec 2 3 [] 2) (fun t => maskBits t 2 4) = some [1, 0, 1, 0] := by decide +kernel
theorem test_vmpop : after (.vmpop 3 1 0) (vec 2 3 [] 0xFA) (fun t => t.x 3) = some 1 := by decide +kernel
theorem test_vmfirst_none : after (.vmfirst 3 1 0) (vec 2 3 [] 0xF8) (fun t => t.x 3) = some 0xFFFFFFFFFFFFFFFF := by decide +kernel

theorem test_vst_bytes : after (.vst 1 5 0 0 0 5) (vec 2 2 [(1, [0x11112222, 0x33334444])] 0 [(5, 0x2000)])
    (fun t => (List.range 6).map fun i => t.byte (privBase 0 + 0x2000 + i)) = some [0xFF, 0xFF, 0xFF, 0xFF, 0, 0] := by decide +kernel
theorem test_vld_widens : lanesAfter (.vld 1 5 0 0 0 0)
    ((vec 2 3 [] 0 [(5, 0x2000)]).setBytes (privBase 0 + 0x2000) [0x80, 0x7F, 1]) 1 3 = some ([0xFFFFFF80, 0x7F, 1], 0, 0) := by decide +kernel
theorem test_vlds_negative_stride : lanesAfter (.vlds 1 5 6 0 0 2)
    ((vec 2 2 [] 0 [(5, 0x2004), (6, 0xFFFFFFFFFFFFFFFC)]).setBytes (privBase 0 + 0x2000) [1, 0, 0, 0, 2]) 1 2 = some ([2, 1], 0, 0) := by decide +kernel
/-- The highest index leaves its value (R161). -/
theorem test_vstx_same_place : after (.vstx 1 5 2 0 0 2) (vec 2 2 [(1, [7, 8]), (2, [4, 4])] 0 [(5, 0x2000)])
    (fun t => t.byte (privBase 0 + 0x2004)) = some 8 := by decide +kernel
/-- VLDFF stops before the element that has no memory, and VL tells how far it came (R163). -/
theorem test_vldff_shortens : after (.vldff 1 5 0 0 2) (vec 2 4 [(1, [9, 9, 9, 9])] 0 [(5, 0x7FFF8)])
    (fun t => (t.me.vl, lanesOf t 1 4, t.me.ecause)) = some (2, [0, 0, 9, 9], 0) := by decide +kernel
theorem test_vld_misaligned_element : after (.vlds 1 5 6 0 0 2) (vec 2 2 [(1, [9, 9])] 0 [(5, 0x2000), (6, 2)])
    (fun t => (t.me.ecause, t.me.eval, t.me.estart, lanesOf t 1 2)) = some (4, 0x2002, 1, [0, 9]) := by decide +kernel
/-- The E4M3 block of R85: under code 0x80 the element 1,000 saturates to 0x7E and 3.3 becomes 0x3D; SAT and NX are set. -/
theorem test_scaled_store : after (.vst 1 5 2 0 0 0x1C)
    ((vec 0xA 2 [(1, [0x447A0000, 0x40533333])] 0 [(5, 0x2000)]).modMe fun t => { t with q := t.q.set! 2 0x80 })
    (fun t => (t.byte (privBase 0 + 0x2000), t.byte (privBase 0 + 0x2001), t.me.fcsr &&& 0x108)) = some (0x7E, 0x3D, 0x108) := by decide +kernel
theorem test_vamoadd_returns_old : after (.vamoadd 1 5 2 0 0 0)
    ((vec 6 2 [(1, [1, 1]), (2, [0, 0])] 0 [(5, 0x2000)]).setBytes (privBase 0 + 0x2000) [10]) (fun t => t.byte (privBase 0 + 0x2000)) =
    some 12 := by decide +kernel


/-! ### The Haar domain and the array (R84 to R90, R167 to R210) -/

/-- The column of the example under R90 in FP32: 4 at positions 0 to 15, but 4.5 at 5, and 2 from 16. -/
def column : List Nat := (List.replicate 16 0x40800000).set 5 0x40900000 ++ List.replicate 16 0x40000000

/-- Its coefficient rows in FP32, as the table under R90 gives them. -/
def coefficients : List Nat :=
  ((((((List.replicate 32 0).set 0 0x40410000).set 1 0x3F820000).set 2 0x3D000000).set 4 0xBD800000).set 9 0x3E000000).set 18 0xBE800000

theorem test_vhaar : after (.vhaar 1 2 5 0 0) (vec 0xA 0 [(2, column)]) (fun t => (lanesOf t 1 32, t.me.vtag.getD 1 0, t.me.fcsr)) =
    some (coefficients, 0xFFFFFFFF0000000B, 0) := by decide +kernel
theorem test_vihaar : after (.vihaar 1 2 0)
    ((vec 0xA 0 [(2, coefficients)]).modMe fun t => { t with vtag := t.vtag.set! 2 0xFFFFFFFF0000000B })
    (fun t => (lanesOf t 1 32, t.me.vtag.getD 1 0)) = some (column, 0) := by decide +kernel
theorem test_vhaar_domain : after (.vhaar 1 2 5 0 0)
    ((vec 0xA 0 []).modMe fun t => { t with vtag := t.vtag.set! 2 0xFFFFFFFF0000000B }) trapOf =
    some [0xA, 2, 0xFFFFFFFF0000000B, 0x100, 0x800] := by decide +kernel
/-- Thresholds T1 = 0.25, T2 = 0.125, T3 = 0.125, T4 = 0.0625, T5 = 0.5 keep rows 0, 1, 9 and 18; bytes of rows 2 and 9. -/
theorem test_vstw_thresholds : after (.vstw 2 5 5 0 8)
    ((vec 0xA 0 [(2, column)] 0 [(5, 0x2000)]).modMe fun t => { t with h := t.h.set! 0 0x13F003D803E003E003E80 })
    (fun t => [0, 1, 2, 4, 9, 18].map fun r => t.byte (privBase 0 + 0x2001 + 2 * r)) = some [0x40, 0x3F, 0, 0, 0x3E, 0xBE] := by decide +kernel
theorem test_thset : after (.thset 2 1 3 0 0) (on { th with x := xs [(1, 0x3D803E003E003E80), (3, 0xFFFFFFFFFFFF3F00)] })
    (fun t => t.me.h.getD 2 0) = some 0x13F003D803E003E003E80 := by decide +kernel
theorem test_dtagma : after (.dtagma 2 3 0) ((vec 2 0 []).modMe fun t => { t with vtag := t.vtag.set! 3 0xFFFFFFFF00000007 })
    (fun t => maskBits t 2 6) = some [1, 1, 1, 1, 0, 0] := by decide +kernel
theorem test_dtagw_level_6 : after (.dtagw 2 3 0) (vec 2 0 [] 0 [(3, 0xD)]) (fun t => (t.me.ecause, t.me.eval2, t.me.vtag.getD 2 0)) =
    some (1, 7, 0) := by decide +kernel

/-- Core 0 with one started slice, a tile of equal elements, and latches la0 and lb0 whose element rows all hold `w`. -/
def array (op : SliceOp) (rows : List Nat) (tile : Nat) (fmt : Byte) (w : Word) : State :=
  (on { th with wait := .slices }).modMyCore fun c =>
    { c with
      slices := [{ slot := 0, acc := 0, op := op, num := 0, rows := rows, last := true, tag := 0, started := true }]
      acc := c.acc.set! 0 (Vector.replicate 32 (BitVec.ofNat 1024 ((List.replicate 32 tile).foldr (fun e r => e + 2 ^ 32 * r) 0)))
      latch := #v[l, {}, l, {}] }
where
  /-- A full latch. -/
  l : Latch := { data := Vector.replicate 32 w, scale := Vector.replicate 32 0x7F, fmt := fmt, filled := 4, depth := 4 }

/-- Column 0 of three rows of tile 0, the depth left in la0, the flags. -/
def tileOf (t : State) : List Nat × Nat × Word :=
  ([0, 1, 9].map fun r => fld ((t.myCore.acc.getD 0 (Vector.replicate 32 0)).getD r 0) 0 32, (t.myCore.latch.getD 0 {}).depth, t.me.fcsr)

/-- The example of R87: with FP8 operands 2^24 takes the group sum 2 in one rounding. -/
theorem test_group_sum : after (.sliceRetire 0) (array (.opl 0 0 1 2 false) [1, 9] 0x4B800000 0xC 0x3838383838383838) (fun t => (tileOf t).1) =
    some [0x4B800000, 0x4B800001, 0x4B800001] := by decide +kernel
/-- The example of R87: with BF16 operands each k-step rounds on its own and 2^24 stays. -/
theorem test_bf16_steps : after (.sliceRetire 0) (array (.opl 0 2 2 1 false) [1] 0x4B800000 8 0x3F803F803F803F80) tileOf =
    some ([0x4B800000, 0x4B800000, 0x4B800000], 2, 8) := by decide +kernel
/-- The trap of the example under R195: +∞ in row 17 of A and +0 in row 5 of B. -/
theorem test_slice_traps : after (.sliceRetire 0)
    ((array (.opr true false ((List.replicate 32 0x3F80).set 17 0x7F80) ((List.replicate 32 0x3F80).set 5 0)) [16, 17, 18, 19] 0 8 0).modMe
      fun t => { t with fcsr := 0x4000 }) (fun t => (trapOf t, t.me.fcsr &&& 0x80)) = some ([0xC, 0x1105, 0x511, 0x100, 0x800], 0x80) := by
  decide +kernel
/-- The row mask of the example under R195 gives slices of rows 0 to 3 and 8 to 11, and of rows 16 to 19. -/
theorem test_opr_packs_rows : after (.opr 1 8 12 1 1 0) (vec 8 0 [] 0xF0F0F)
    (fun t => t.myCore.slices.map fun x => (x.num, x.rows, x.last)) =
    some [(0, [0, 1, 2, 3, 8, 9, 10, 11], false), (1, [16, 17, 18, 19], true)] := by decide +kernel
theorem test_tzero_rows : after (.sliceRetire 0) (array .tzero [1] 0x3F800000 8 0) (fun t => (tileOf t).1) =
    some [0x3F800000, 0, 0x3F800000] := by decide +kernel
/-- A tile another slot owns traps with cause 0x0B (R60). -/
theorem test_tile_not_owned : after (.tzero 0 0) ((on th).modMyCore fun c => { c with town := 0x86 }) (fun t => (t.me.ecause, t.me.eval)) =
    some (0xB, 0) := by decide +kernel
theorem test_tldw_misaligned : after (.tldw 0 5) (on { th with x := xs [(5, 0x2020)] }) trapOf = some [4, 0x2020, 0, 0x100, 0x800] := by
  decide +kernel


/-! ### Atomics, barriers, heaps, tasks and checkpoints (R269 to R287) -/

/-- The base state with scalar registers and one doubleword in the own cluster scratchpad at 0x100200. -/
def clus (l : List (Nat × Word)) (w : Word) : State := (on { th with x := xs l }).setDword (clusterBase 0 0 + 0x200) w

/-- The doubleword at 0x100200, rd and PC. -/
noncomputable def word (i : Instr) (s : State) (rd : BitVec 5) : Option (Word × Word × Word) :=
  after i s fun t => (t.dword (clusterBase 0 0 + 0x200), t.x rd, t.me.pc)

theorem test_aadd_w : word (.aadd 3 1 2 1 0 1) (clus [(1, 0x100200), (2, 1)] 0x55FFFFFFFF) 3 = some (0x5500000000, 0xFFFFFFFFFFFFFFFF, 0x104) := by
  decide +kernel
theorem test_amax_signed : word (.amax 3 1 2 1 0 0) (clus [(1, 0x100200), (2, 0xFFFFFFFFFFFFFFFF)] 5) 3 = some (5, 5, 0x104) := by decide +kernel
theorem test_acas_fails : word (.acas 3 1 2 1 0 0) (clus [(1, 0x100200), (2, 9), (3, 4)] 5) 3 = some (5, 5, 0x104) := by decide +kernel
theorem test_acas_same_register : word (.acas 2 1 2 1 0 0) (clus [(1, 0x100200), (2, 5)] 5) 2 = some (5, 5, 0x104) := by decide +kernel
theorem test_afadd_f32 : word (.afadd 3 1 2 1 0 1) (clus [(1, 0x100200), (2, 0x3F800000)] 0x40000000) 3 = some (0x40400000, 0x40000000, 0x104) := by
  decide +kernel
theorem test_waita_wakes_at_once : word (.waita 3 1 2 31) (clus [(1, 0x100200), (2, 0xF0), (3, 0xFF)] 0x1234) 3 = some (0x1234, 0x1234, 0x104) := by
  decide +kernel
theorem test_waita_waits : after (.waita 3 1 2 31) (clus [(1, 0x100200), (2, 0x34), (3, 0xFF)] 0x1234) (fun t => (t.me.pc, t.me.wait)) =
    some (0x100, .waita 3 0x100200 0xFF 0x34 none) := by decide +kernel
/-- Step 3 of the table under R278. -/
theorem test_barr_completes : word (.barr 3 1) (clus [(1, 0x100200)] 0x20003) 3 = some (0x100000003, 0x10000, 0x104) := by decide +kernel
theorem test_barr_expect_0 : after (.barr 3 1) (clus [(1, 0x100200), (3, 7)] 0x20000) (fun t => (trapOf t, t.x 3)) =
    some ([0x10, 0x100200, 4, 0x100, 0x800], 7) := by decide +kernel
/-- Steps 4 and 6, and a token ahead. -/
theorem test_bwait_ok : word (.bwait 3 1 2 31) (clus [(1, 0x100200), (2, 0)] 0x100000003) 3 = some (0x100000003, 0x100000000, 0x104) := by
  decide +kernel
theorem test_bwait_ahead : after (.bwait 3 1 2 31) (clus [(1, 0x100200), (2, 2)] 0x100000003) trapOf =
    some [0x10, 0x100200, 1, 0x100, 0x800] := by decide +kernel
theorem test_bleave_unregistered : after (.bleave 1) (clus [(1, 0x100200)] 3) trapOf = some [0x10, 0x100200, 3, 0x100, 0x800] := by decide +kernel
theorem test_bjoin : after (.bjoin 1) (clus [(1, 0x100200)] 3) (fun t => (t.dword (clusterBase 0 0 + 0x208), t.me.pc)) = some (1, 0x104) := by
  decide +kernel

/-- A heap of capacity 4 with no entry, at 0x10000040 in the own Onsen. -/
theorem test_pqpop_empty : after (.pqpop 3 1 2)
    ((on { th with x := xs [(1, 0x10000040), (2, 9)] }).setDword (layerAperture 0 + 0x10000040) 0x400000000) (fun t => (t.x 3, t.x 2)) =
    some (0x8000000000000000, 0) := by decide +kernel
theorem test_pqpush_full : after (.pqpush 3 1 2)
    ((on { th with x := xs [(1, 0x10000040), (3, 9)] }).setDword (layerAperture 0 + 0x10000040) 0x400000004) (fun t => t.x 3) =
    some 1 := by decide +kernel
theorem test_pqpush_malformed : after (.pqpush 3 1 2) (on { th with x := xs [(1, 0x10000040)] }) trapOf =
    some [0x10, 0x10000040, 5, 0x100, 0x800] := by decide +kernel
theorem test_ckroll_unmarked : after (.ckroll 0 5) (on th) trapOf = some [0x10, 5, 6, 0x100, 0x800] := by decide +kernel
theorem test_spawn_count : after (.spawn 1 2) (on { th with x := xs [(1, 0x2000), (2, 0x100000000)] }) trapOf =
    some [1, 0, 7, 0x100, 0x800] := by decide +kernel
theorem test_wqry_queues : after (.wqry 1) (on { th with x := xs [(1, 0x2000)] }) (fun t => (t.myTower.wqry.map (·.addr), t.me.pc)) =
    some ([privBase 0 + 0x2000], 0x104) := by decide +kernel
theorem test_fence : after (.fence 1 2) (on th) (fun t => t.me.pc) = some 0x104 := by decide +kernel

/-! ### Traps and returns (R297 to R316) -/

theorem test_trap : after (.trap 0x1234) (on th) trapOf = some [0x14, 0x1234, 0, 0x100, 0x800] := by decide +kernel
theorem test_tret : after .tret (on { th with level := .S, epc := 0x240, estat := 0 }) (fun t => (t.me.pc, t.me.level == .T)) =
    some (0x240, true) := by decide +kernel
theorem test_tret_privileged : after .tret (on th) (fun t => t.me.ecause) = some 3 := by decide +kernel

/-! ### Geyser and the engines (R234 to R268) -/

theorem test_gst_pends : after (.gst 1 2 3) (on { th with x := xs [(1, 0x30000008), (2, 7)] })
    (fun t => (t.me.pc, t.myTower.gpend.map fun g => (g.off, g.size))) = some (0x104, [(8, 8)]) := by decide +kernel
theorem test_gst_outside : after (.gst 1 2 3) (on { th with x := xs [(1, 0x40000000)] }) trapOf =
    some [6, 0x40000000, 0, 0x100, 0x800] := by decide +kernel
theorem test_gst_poisoned : after (.gst 1 2 3) ((on { th with x := xs [(1, 0x30000008)] }).modTower 0 fun w => { w with regionPoison := true })
    trapOf = some [0x11, 0x30000008, 0, 0x100, 0x800] := by decide +kernel
theorem test_cpy_queues : after (.cpy 1 2 3 0 0) (on { th with x := xs [(1, 0x100000), (2, 0x101000), (3, 64)] })
    (fun t => (t.me.pc, (t.myCluster.queues.getD 0 []).map fun c => (c.dst, c.src, c.len))) = some (0x104, [(0x100000, 0x101000, 64)]) := by
  decide +kernel
theorem test_csig_stages : after (.csig 1 2 0 3) (on { th with x := xs [(1, 0x100000), (2, 9)] }) (fun t =>
    ((t.me.staging.getD 3 {}).sigAddr, (t.me.staging.getD 3 {}).sigVal)) = some (0x100000, 9) := by decide +kernel
theorem test_crc32c : crc32c 0 [0x31, 0x32, 0x33, 0x34, 0x35, 0x36, 0x37, 0x38, 0x39] = 0xE3069283 := by decide +kernel


/-! ### Device steps, translation and the step function -/

/-- Item 9 of the 5 × 4 grid with w = 2 (R41). -/
theorem test_wqry_answer : after (.wqryAnswer 0)
    ((on th).modTower 0 fun w => { w with
      pools := [(3, { rows := 5, cols := 4, w := 2, cursor := 9, launch := some 1 })],
      wqry := [{ core := 0, slot := 0, stamp := 0, addr := privBase 0 + 0x2000, launch := 1 }] })
    (fun t => (t.dword (privBase 0 + 0x2000), t.myTower.wqry.length, t.myTower.poolRead 3 3)) = some (0x900030000, 0, 10) := by decide +kernel
theorem test_wqry_exhausted : after (.wqryAnswer 0)
    ((on th).modTower 0 fun w => { w with
      pools := [(3, { rows := 5, cols := 4, w := 2, cursor := 20, launch := some 1 })],
      wqry := [{ core := 0, slot := 0, stamp := 0, addr := privBase 0 + 0x2000, launch := 1 }] })
    (fun t => t.dword (privBase 0 + 0x2000)) = some 0xFFFFFFFFFFFFFFFF := by decide +kernel

/-- The tables of the example under R382 for address space 5, with 7 in cluster 3's scratchpad. -/
def translated (x1 : Word) : State :=
  let s := on { th with x := xs [(1, x1)],
                        task := some { launch := 0, index := 0, words := [], queue := 0, level := 0, asn := 5, groups := 4, tiles := 0,
                                       psize := 0, savep := 0, lease := 0, stamp := 0, join := 0 } }
  let s1 := s.modTower 0 fun w => { w with asd := [(5, 0x1000001)] }
  [(0x1000000, 0x1010003), (0x1010200, 0x1011003), (0x1011000, 0x1012003), (0x1012000, 0x100041800005), (0x100041800000, 7)].foldl
    (fun st (p : Nat × Word) => st.setDword p.1 p.2) s1

theorem test_walk : after (.ldd 3 1 0) (translated 0x1000000000) (fun t => (t.x 3, t.me.pc)) = some (7, 0x104) := by decide +kernel
theorem test_read_only_page : after (.std 3 1 0) (translated 0x1000000000) (fun t => (trapOf t, t.myTower.faults.length)) =
    some ([6, 0x1000000000, 0, 0x100, 0x800], 0) := by decide +kernel
/-- Another page of the same table has no entry: the thread is suspended, and a fault record goes out (R303, R386). -/
theorem test_page_fault : after (.ldd 3 1 0) (translated 0x1000010000) (fun t => (t.me.pc, t.me.level == .T, match t.me.wait with
    | .suspended f => (f.va, f.write, f.level) | _ => (0, false, 9))) = some (0x100, true, 0x1000010000, false, 3) := by decide +kernel

theorem test_tinv_scope_3 : after (.tinvWrite 0 0x3000000000000000) (on th) (fun t => (t.controlRead 0 0x68)) = some 2 := by decide +kernel
theorem test_lfrz : after (.lfrzWrite 1 1) (on th) (fun t => (t.controlRead 1 0x18, t.controlRead 0 0x18)) = some (3, 0) := by decide +kernel
theorem test_einj_needs_enable : after (.einjWrite 0 1) (on th) (fun t => t.myCore.einj) = some 0 := by decide +kernel
theorem test_tower_reset : after (.towerReset 0) (on th) (fun t => (t.layer 0).season.code) = some 0 := by decide +kernel
theorem test_winter : after (.winterEntry 0) ((on th).modLayer 0 fun l => { l with season := .autumn }) (fun t => (t.layer 0).season == .summer) =
    some false := by decide +kernel
theorem test_geyser_slot : after (.geyserSlot 0)
    ((on th).modTower 0 fun w => { w with
      gslot := 8
      leases := [(8, 0, 0)],
      gpend := [{ core := 0, slot := 0, engine := none, off := 16, op := .write 1 0xAB, size := 1 }] })
    (fun t => t.byte (mirrorBase 0 + 16)) = some 0xAB := by decide +kernel

/-- ADDI x5, x6, −4 (the word of R110's table) is fetched and runs as the first instruction after reset: x5 = −4, PC = 4. -/
theorem test_step : (match step (State.reset.withFetchWord 32 (encode (.addi 5 6 0xFFFC)).toNat) with
    | .next t => some (t.x 5, t.me.pc, t.steps)
    | _ => none) = some (0xFFFFFFFFFFFFFFFC, 4, 1) := by decide +kernel
theorem test_no_such_agent : (match step { State.reset with agenda := [.port 2560 .A [0]] } with
    | .fault .noSuchAgent => true
    | _ => false) = true := by decide +kernel

end Sys2Proof.Tests
end

