-- ==== Sys2Proof/Tests/Witnesses.lean ====
section
/-!
SUPPORT. Witnesses: for each obligation that has hypotheses a concrete state and operands that meet them together, clause by
clause where it has several. The states are built on the small state of the step tests.
-/
namespace Sys2Proof.Tests
open Sys2Proof.Machine

set_option Elab.async false

/-! ### Ways to show that an access passes -/

/-- The place of an access that passes. -/
def placeOf : Got → Option Place
  | .val p => some p
  | _ => none

theorem val_of {r : Got × State} {p : Place} (h : placeOf r.1 = some p) : r = (.val p, r.2) := by
  obtain ⟨g, t⟩ := r
  cases g <;> simp_all [placeOf]

/-- The cause with EVAL2 of an access that traps. -/
def causeOf : Got → Option (Nat × Word)
  | .trap c e => some (c, e)
  | _ => none

theorem trap_of {r : Got × State} {c : Nat} {e : Word} (h : causeOf r.1 = some (c, e)) : r = (.trap c e, r.2) := by
  obtain ⟨g, t⟩ := r
  cases g <;> simp_all [causeOf]

/-- The places of a list of accesses that all pass, and the state that the checks leave. -/
def passRun (use : Use) (n strm : Nat) (allow : Window → Bool) (ea : Nat → Word) : List Nat → State → Option (List Place × State)
  | [], s => some ([], s)
  | i :: r, s => match s.check (ea i) n use strm allow with
    | (.val p, s1) => (passRun use n strm allow ea r s1).map fun x => (p :: x.1, x.2)
    | _ => none

theorem passes_of {use : Use} {n strm : Nat} {allow : Window → Bool} {ea : Nat → Word} {l : List Nat} {s : State}
    {r : List Place × State} (h : passRun use n strm allow ea l s = some r) : s.passes use n strm allow ea l r.1 r.2 := by
  induction l generalizing s r with
  | nil => simp only [passRun, Option.some.injEq] at h; subst h; exact ⟨rfl, rfl⟩
  | cons i l ih =>
    unfold passRun at h
    split at h
    · rename_i p s1 e
      obtain ⟨x, h1, h2⟩ := Option.map_eq_some_iff.mp h
      subst h2
      exact ⟨p, x.1, s1, rfl, e, ih h1⟩
    · cases h

/-- Accesses that pass: their places and the state left, by evaluation. -/
theorem passes_run {use : Use} {n strm : Nat} {allow : Window → Bool} {ea : Nat → Word} {l : List Nat} {s : State}
    (h : (passRun use n strm allow ea l s).isSome = true) :
    s.passes use n strm allow ea l ((passRun use n strm allow ea l s).get h).1 ((passRun use n strm allow ea l s).get h).2 :=
  passes_of (Option.some_get h).symm

/-- The places of a list of stores that all pass and are made, and the state they leave. -/
def storeRun (n strm : Nat) (ea : Nat → Word) (bs : Nat → Nat → List Byte) (half : Nat → Option Nat) :
    List Nat → State → List (Nat × Nat) → Option (List Place × State)
  | [], s, _ => some ([], s)
  | i :: r, s, done => match s.check (ea i) n .store strm storeWindows with
    | (.val p, s1) => match s1.storePart p (bs i (s1.loaded p n)) done (half i) with
      | .inl (s2, d) => (storeRun n strm ea bs half r s2 d).map fun x => (p :: x.1, x.2)
      | .inr _ => none
    | _ => none

theorem stored_of {n strm : Nat} {ea : Nat → Word} {bs : Nat → Nat → List Byte} {half : Nat → Option Nat} {l : List Nat}
    {s : State} {done : List (Nat × Nat)}
    {r : List Place × State} (h : storeRun n strm ea bs half l s done = some r) : s.stored n strm ea bs half l done r.1 r.2 := by
  induction l generalizing s done r with
  | nil => simp only [storeRun, Option.some.injEq] at h; subst h; exact ⟨rfl, rfl⟩
  | cons i l ih =>
    unfold storeRun at h
    split at h
    · rename_i p s1 e
      split at h
      · rename_i s2 d e2
        obtain ⟨x, h1, h2⟩ := Option.map_eq_some_iff.mp h
        subst h2
        exact ⟨p, x.1, s1, s2, d, rfl, e, e2, ih h1⟩
      · cases h
    · cases h

/-- Stores that pass: their places and the state left, by evaluation. -/
theorem stored_run {n strm : Nat} {ea : Nat → Word} {bs : Nat → Nat → List Byte} {half : Nat → Option Nat} {l : List Nat}
    {s : State} {done : List (Nat × Nat)}
    (h : (storeRun n strm ea bs half l s done).isSome = true) :
    s.stored n strm ea bs half l done ((storeRun n strm ea bs half l s done).get h).1 ((storeRun n strm ea bs half l s done).get h).2 :=
  stored_of (Option.some_get h).symm

/-! ### Encoding, the step, traps -/

theorem witness_DecodeOfEncode : (Instr.addi 31 0 0x8000).encoded = true ∧ (Instr.addi 31 0 0x8000).wf = true := by decide +kernel
theorem witness_EncodeOfDecode : decodeWord 0x94000009 = .instr .tret := by decide +kernel

/-- The base state with a word at PC 0xFFC, the last below XB = 0x1000. -/
def fetching (w : Nat) : State := (on { th with pc := 0xFFC }).setBytes (privBase 0 + 0xFFC) (leBytes 4 w)

theorem ready_fetching : (fetching 0x94000009).ready ∧ (fetching 0).ready :=
  by unfold State.ready; decide +kernel
theorem witness_StepRunsDecodedInstruction_runs : (fetching 0x94000009).ready ∧ (fetching 0x94000009).me.pc < (fetching 0x94000009).myCore.xb ∧
    decodeBytes ((fetching 0x94000009).bytes (privBase 0 + 0xFFC) 4) = .instr .tret := ⟨ready_fetching.1, by decide +kernel⟩
theorem witness_StepRunsDecodedInstruction_rejects : (fetching 0).ready ∧
    decodeBytes ((fetching 0).bytes (privBase 0 + 0xFFC) 4) = .reject .illegalMajor := ⟨ready_fetching.2, by decide +kernel⟩
theorem witness_StepTakesTurns_port : ({ on th with agenda := [.port 2559 .B [0, 3]] } : State).agenda = .port 2559 .B [0, 3] :: [] ∧
    2559 < coreCount ∧ (on th).readyFor 0 .A [0] = [] ∧ (on th).readyFor 0 .A [1, 2, 3] = [] ∧
    (fetching 0x94000009).readyFor 0 .A [0] ≠ [] ∧ (fetching 0x94000009).overdue 0 .A 0 = false := by decide +kernel
theorem witness_StepTakesTurns_upset : ({ on th with agenda := [.upset (.memory 0x1000 true)] } : State).agenda = .upset (.memory 0x1000 true) :: [] ∧
    (Upset.memory 0x1000 true).present = true := by decide +kernel
theorem witness_StepTakesTurns_event : ({ on th with agenda := [.event (.geyserSlot 1)] } : State).agenda = .event (.geyserSlot 1) :: [] ∧
    (Instr.geyserSlot 1).schedulable = true := by decide +kernel
theorem witness_StepTakesTurns_invalid : Turn.valid (.port 2560 .A [0]) = false ∧
    Turn.valid (.event .tret) = false := by decide +kernel
theorem witness_StepTakesTurns_idle : State.reset.agenda = [] ∧ State.reset.me.occ = .free ∧
    (on { th with wait := .slices }).agenda = [] ∧ (on { th with wait := .slices }).me.wait ≠ .none := by decide +kernel
theorem witness_StepTakesTurns_overlay : (on { th with pc := 0x1000 }).ready ∧ (on { th with pc := 0x1000 }).me.level = .T ∧
    (on { th with pc := 0x1000 }).myCore.xb ≤ (on { th with pc := 0x1000 }).me.pc :=
  by unfold State.ready; decide +kernel
theorem witness_ResetCsrValues : 2559 < coreCount := by decide
theorem witness_StepKeepsWellFormed : State.reset.wf = true ∧ ∃ t, step State.reset = .next t :=
  ⟨by decide +kernel, ⟨_, rfl⟩⟩

/-- A thread at level S, in a task or bound by a message. -/
def sup (o : Occ := .task) : State := on { th with occ := o, level := .S, post := true, epc := 0x240 }

theorem witness_ScalarRegisterBanks : (on th).me.level = .T ∧ (31 : BitVec 5) ≠ 0 ∧ (sup).me.level = .S ∧ (27 : BitVec 5).toNat < 28 ∧
    28 ≤ (28 : BitVec 5).toNat := by decide +kernel
theorem witness_TrapEntry : (on th).me.level = .T := by decide
theorem witness_DoubleFaultAndReturn : (sup).me.level = .S ∧ (sup).me.pc.toNat < 2 ^ 56 ∧ (sup).me.occ ≠ .message ∧
    (sup .message).me.level = .S ∧ (sup .message).me.occ = .message := by decide +kernel
theorem witness_TrapsBeforeExecution : (on th).me.level = .T ∧ fld (0xFC000000 : Half) 26 6 = 0x3F ∧ fld (0xEC000000 : Half) 26 6 = 0x3B ∧
    fld (0xF8000000 : Half) 26 6 = 0x3E ∧ fld (0x04000000 : Half) 26 6 = 1 ∧ fld (0xE8000000 : Half) 26 6 = 0x3A ∧
    0x100 ≤ (0x100 : BitVec 12).toNat ∧ (on { th with regErr := [⟨⟨2, 31⟩, 0, 5⟩, ⟨⟨2, 31⟩, 0, 9⟩] }).me.level = .T ∧
    (on { th with regErr := [⟨⟨2, 31⟩, 0, 5⟩, ⟨⟨2, 31⟩, 0, 9⟩] }).me.regErr.contains ⟨⟨2, (31 : BitVec 5).toNat⟩, 0, 9⟩ = true := by decide +kernel

/-! ### Scalar forms -/

theorem sound_on (t : Thread) (h : t.regErr = []) : (on t).sound := by
  have e : ((on t).core 0).unitErr = [] := rfl
  have hh : ∀ n ∈ [0x050, 0x051, 0x061], (⟨3, n⟩ : RegRef).home 0 = some 0 := by decide
  have c : (on t).cur = 0 := rfl
  exact ⟨h, e, fun n hn => by simp only [State.marksOf, c, hh n hn, e, List.filter_nil]⟩

theorem witness_IntegerForms : (on th).sound ∧ (on { th with x := xs [(1, BitVec.intMin 64), (2, BitVec.allOnes 64)] }).sound ∧
    (on { th with x := xs [(1, BitVec.intMin 64), (2, BitVec.allOnes 64)] }).x 1 = BitVec.intMin 64 ∧
    (on { th with x := xs [(1, BitVec.intMin 64), (2, BitVec.allOnes 64)] }).x 2 = BitVec.allOnes 64 ∧ (on th).x 3 = 0 :=
  ⟨sound_on _ rfl, sound_on _ rfl, by decide +kernel⟩
theorem witness_ScalarFpForms : (on th).sound := sound_on _ rfl
/-- Operands of the special cases, in FP32: NaNs, infinities, zeros, a negative number, a number and its opposite. -/
theorem witness_FpRules_cases :
    (FP32.decode 0x7F800001).isNan = true ∧ (FP32.decode 0x7F800001).isSig = true ∧ (FP32.decode 0x7F800000).isInf = true ∧
    (FP32.decode 0x80000000).isZero = true ∧ (FP32.decode 0x80000000).neg = true ∧ (FP32.decode 0xBF800000).neg = true ∧
    (FP32.decode 0xBF800000).isZero = false ∧ (FP32.decode 0xBF800000).isNan = false ∧
    (FP32.decode 0xBF800000) = (FP32.decode 0x3F800000).flip ∧ (FP32.decode 0xBF800000).lt (FP32.decode 0x3F800000) = true := by
  decide +kernel
theorem witness_FpRules_overflow : 2 ^ FP32.mb ≤ 2 ^ 23 ∧ (FP32.maxE : Int) - FP32.bias + 1 - FP32.mb ≤ 105 := by decide +kernel
theorem witness_FpRules_held : 0xFFFFFFFF < 2 ^ FP32.width ∧ 0x7F800000 < 2 ^ FP32.width ∧ (FP32.decode 0x7F800000).isNan = false := by
  decide +kernel
/-- 33/16 between two codes of FP8 E4M3, which holds 2 and 9/4; an integer beyond INT8; a sum of DS8 that is a power of two, and one that is not. -/
theorem witness_FpRules_elements :
    (let q : Int := 1 - (E4M3.bias : Int) - E4M3.mb
     let num := 33 * 2 ^ ((-4 : Int) - q).toNat
     E4M3.units 0x40 * 2 ^ (q - -4).toNat ≤ num ∧ num < E4M3.units 0x41 * 2 ^ (q - -4).toNat) ∧
    ((2, 8, 7, 127) : Nat × Nat × Nat × Nat) ≠ (8, 8, 7, 127) ∧ (0x7FC0 : Nat) < 2 ^ (1 + 8 + 7) ∧ (0x80 : Nat) < 2 ^ 8 ∧
    128 * 2 ^ ((-((2 : Int) + 6)).toNat) < 33 * 2 ^ ((2 : Int) + 6).toNat ∧ (∃ b < 256, ∃ k < 7, (ds8Sum b).natAbs = 2 ^ k) ∧
    (∃ b < 256, ds8Sum b ≠ 0 ∧ ∀ k < 7, (ds8Sum b).natAbs ≠ 2 ^ k) ∧ (elemVal 8 0x7FC0).isNan = true ∧ (elemVal 0xC 0x38).isNan = false ∧
    fmtOf 8 = some BF16 ∧ elemVal 0xD 0x7C = .inf false ∧ elemVal 0xC 0x38 = .fin false 8 (-3) false ∧ 2 ^ 3 ≤ 8 ∧ 8 < 2 ^ (3 + 1) ∧
    0x7FF0000000000000 < 2 ^ FP64.width := by decide +kernel

/-! ### Scalar memory -/

theorem calm_on (t : Thread) (h : ∀ c : Fin 8, t.rewound[c] = none) : (on t).calm := by
  refine ⟨rfl, fun c => ⟨?_, h c⟩⟩
  intro e he
  have hq : (on t).myCluster.queues[c] = [] := by
    have : (on t).myCluster = ({} : Cluster) := rfl
    rw [this]; exact Vector.getElem_replicate _
  rw [hq] at he; cases he

/-- The base state with x1 at the last doubleword of the private scratchpad, of the cluster scratchpad, or another address. -/
def at1 (a : Word) : State := on { th with x := xs [(1, a), (2, 0x1122334455667788)] }

theorem witness_AccessChecks_local : (at1 0).calm ∧ (∀ w, w ≠ .coreWin → w ≠ .region → storeWindows w = true) ∧ (0x7FFF8 : Word).toNat % 8 = 0 ∧ (at1 0).localAt 0x7FFF8 = some (privBase 0 + 0x7FFF8) ∧
    (at1 0).localAt 0x1000 = some (privBase 0 + 0x1000) ∧ (at1 0).localAt 0x8FFFF8 = some (clusterBase 0 0 + 0x7FFFF8) ∧
    (at1 0).localAt 0x2FFFFFF8 = some (layerAperture 0 + 0x2FFFFFF8) :=
  ⟨calm_on _ fun _ => by decide +revert, by intro w h1 h2; cases w <;> simp_all [storeWindows], by decide +kernel⟩
theorem witness_AccessChecks_passes : (at1 0).check 0x7FFF8 8 .load 0 loadWindows =
    (.val { win := .priv, addr := privBase 0 + 0x7FFF8 }, ((at1 0).check 0x7FFF8 8 .load 0 loadWindows).2) := val_of (by decide +kernel)
theorem witness_AccessChecks_global : (translated 0).check 0x1000000000 8 .load 0 loadWindows =
    (.val { win := .glob, addr := 0x100041800000 }, ((translated 0).check 0x1000000000 8 .load 0 loadWindows).2) := val_of (by decide +kernel)
theorem witness_ScalarLoads : (at1 0x100000).sound ∧ (at1 0x100000).check ((at1 0x100000).x 1 + BitVec.ofInt 64 (-8 : BitVec 16).toInt + 8) 8 .load 0
    loadWindows = (.val { win := .clus, addr := clusterBase 0 0 }, ((at1 0x100000).check ((at1 0x100000).x 1 + BitVec.ofInt 64
      (-8 : BitVec 16).toInt + 8) 8 .load 0 loadWindows).2) := ⟨sound_on _ rfl, val_of (by decide +kernel)⟩
theorem witness_ScalarStores : (at1 0x7FFF8).sound ∧ Memory.wf (at1 0x7FFF8).mem = true ∧ (at1 0x7FFF8).myCluster.ckpts = [] ∧
    (at1 0x7FFF8).check ((at1 0x7FFF8).x 1 + BitVec.ofInt 64 (0 : BitVec 16).toInt) 8 .store 0 storeWindows =
      (.val { win := .priv, addr := privBase 0 + 0x7FFF8 }, ((at1 0x7FFF8).check ((at1 0x7FFF8).x 1 + BitVec.ofInt 64 (0 : BitVec 16).toInt)
        8 .store 0 storeWindows).2) := ⟨sound_on _ rfl, by decide +kernel, by decide +kernel, val_of (by decide +kernel)⟩
/-- A region that the store at 0x100000 meets, with so many entries in its log: none, one short of full, full. -/
def regioned (n : Nat) : State := (at1 0x100000).modCluster 0 fun k =>
  { k with ckpts := [{ id := 3, base := clusterBase 0 0, len := 64, logBase := layerAperture 0 + 0x10000000, count := n }] }
theorem witness_ScalarStores_marked : (∀ n ∈ [0, 4095, 4096], (regioned n).me.level = .T ∧ Memory.wf (regioned n).mem = true ∧ (regioned n).sound ∧
      (∃ m, (regioned n).myCluster.ckpts = [m] ∧ m.count = n ∧ m.base ≤ clusterBase 0 0 ∧ clusterBase 0 0 < m.base + m.len ∧
        hbmEnd ≤ m.logBase ∧ m.logBase + 16 * m.count + 16 ≤ clusterBase 0 0)) ∧
    (∀ n ∈ [0, 4096], placeOf ((regioned n).check ((regioned n).x 1 + BitVec.ofInt 64 (0 : BitVec 16).toInt) 8 .store 0 storeWindows).1 =
      some { win := .clus, addr := clusterBase 0 0 }) ∧ Window.clus.logged = true :=
  ⟨by
    intro n hn
    simp only [List.mem_cons, List.not_mem_nil, or_false] at hn
    obtain rfl | rfl | rfl := hn <;> exact ⟨rfl, by decide +kernel, ⟨rfl, rfl, by decide +kernel⟩, _, rfl, by decide +kernel⟩,
    by decide +kernel, rfl⟩
/-- The addresses of the clauses: misaligned; no window; at or above 2^52; the region; below XB. -/
theorem witness_ScalarAccessFaults : (at1 0x7FFF9).sound ∧ (at1 0).me.level = .T ∧ (0x7FFF9 : Word).toNat % 8 ≠ 0 ∧
    (0x80000 ≤ 0x80000 ∧ ¬(0x100000 ≤ 0x80000) ∧ 0x80000 < 2 ^ 32) ∧ 2 ^ 52 ≤ (0x10000000000000 : Word).toNat ∧
    (at1 0).myCore.xb.toNat = 0x1000 := ⟨sound_on _ rfl, by decide +kernel⟩
/-- What a walk comes to. -/
def failOf : Walk → Option (Nat × Nat × Word)
  | .fail k l e => some (k, l, e)
  | .leaf _ => none
theorem witness_ScalarAccessFaults_walk : (translated 0x1000010000).sound ∧ failOf ((translated 0x1000010000).xlate 0 5 0x1000010000).1 = some (0, 3, 0) ∧
    (translated 0x1000010000).asnOf 0 0 = 5 ∧ (0x1000010000 : Word).toNat % 8 = 0 ∧ 2 ^ 32 ≤ (0x1000010000 : Word).toNat :=
  ⟨⟨rfl, rfl, by decide +kernel⟩, by decide +kernel⟩
/-- At level S the same accesses fail. -/
theorem witness_ScalarAccessFaults_level : let s := (at1 0x7FFF9).modMe fun t => { t with level := .S }
    s.sound ∧ s.me.level = .S ∧ ((s.xlate 0 5 0x1000010000).1 matches .fail _ _ _) = true ∧
    (let g := (translated 0x1000010000).modMe fun t => { t with level := .S }
     g.sound ∧ g.me.level = .S ∧ (failOf (g.xlate 0 5 0x1000010000).1).isSome = true) := by
  refine ⟨⟨rfl, rfl, by decide +kernel⟩, rfl, by decide +kernel, ⟨rfl, rfl, by decide +kernel⟩, rfl, by decide +kernel⟩
theorem witness_ScalarAccessFaults_leaf : ((translated 0).xlate 0 5 0x1000000000).1 = .leaf ⟨5, 0x1000000000, 65536, 0x100041800005⟩ ∧
    bit (0x100041800005 : Word) 3 = false := by decide +kernel
/-- A task that has logged two words, one of them twice. -/
def logged : State := (on { th with post := false }).modCluster 0 fun c => { c with log := [⟨0, 0, clusterBase 0 0, 1⟩,
  ⟨0, 0, clusterBase 0 0, 2⟩, ⟨1, 0, clusterBase 0 0 + 8, 3⟩] }
theorem witness_RollbackRestores : Memory.wf logged.mem = true ∧ (logged.cluster (clusterOf 0)).ckpts = [] ∧
    (∀ e ∈ (logged.cluster (clusterOf 0)).log.filter (fun e => e.core == 0 && e.slot == 0), e.addr % 8 = 0) ∧
    (logged.cluster (clusterOf 0)).log.filter (fun e => e.core == 0 && e.slot == 0) =
      [] ++ ⟨0, 0, clusterBase 0 0, 1⟩ :: [⟨0, 0, clusterBase 0 0, 2⟩] := by decide +kernel
theorem witness_BranchesAndJumps : (at1 0x300).sound ∧ ((at1 0x300).x 1 + BitVec.ofInt 64 (4 : BitVec 16).toInt).toNat % 4 = 0 ∧
    ((at1 0x300).x 1 + BitVec.ofInt 64 (2 : BitVec 16).toInt).toNat % 4 ≠ 0 ∧ (at1 0x300).me.level = .T := ⟨sound_on _ rfl, by decide +kernel⟩

/-! ### CSRs, lanes, vector configuration -/

theorem witness_CsrForms : (on th).sound ∧ (0x0FF : BitVec 12).toNat < 0x100 ∧ (sup).sound ∧ (sup).me.level = .S ∧
    (on th).myCore.zeroing = [] ∧ vtypeLegal 0x28A = true ∧ vtypeLegal 0x28B = false := ⟨sound_on _ rfl, by decide, sound_on _ rfl, by decide +kernel⟩
/-- Tile 7: unowned; owned by the thread's context 0; by context 127; being zeroed. -/
def tile7 (own : Nat) (z : List Nat) : State := (on th).modMyCore fun c => { c with town := BitVec.ofNat 64 (own * 2 ^ 56), zeroing := z }
theorem witness_TileTagTouch : (tile7 0 []).sound ∧ (tile7 0 []).me.level = .T ∧ (0x017 : BitVec 12).toNat = 0x010 + 7 ∧
    (tile7 0 [7]).myCore.zeroing.contains 7 = true ∧ (tile7 127 []).myCore.zeroing.contains 7 = false ∧ (tile7 127 []).myCore.ownerByte 7 < 128 ∧
    (tile7 128 []).myCore.ownerByte 7 % 128 = fld (tile7 128 []).me.ctxid 0 7 ∧ 128 ≤ (tile7 128 []).myCore.ownerByte 7 ∧
    (tile7 255 []).myCore.ownerByte 7 % 128 ≠ fld (tile7 255 []).me.ctxid 0 7 := ⟨⟨rfl, rfl, by decide +kernel⟩, by decide +kernel⟩
/-- The same at level S. -/
theorem witness_TileTagTouch_level : let s := (tile7 255 []).modMe fun t => { t with level := .S }
    s.sound ∧ s.me.level = .S ∧ s.myCore.zeroing.contains 7 = false ∧ 128 ≤ s.myCore.ownerByte 7 ∧
    s.myCore.ownerByte 7 % 128 ≠ fld s.me.ctxid 0 7 := ⟨⟨rfl, rfl, by decide +kernel⟩, by decide +kernel⟩
/-- The base state with a lane partition: no group for slot 0 in LPART 0, all four in 0x000F000F, growing to two in 0x30001. -/
def lanes (lp : Word) (ty : Word := 0x28A) : State := (on { th with vtype := ty }).modMyCore fun c => { c with lpart := lp }
theorem witness_LaneBoundaryAndStrip : (lanes 0).sound ∧ (lanes 0).boundary.lanes = 0 ∧ (lanes 0).me.level = .T ∧
    (lanes 0x30001).boundary.lanes = 16 ∧ force (lpBoundary 15 0 0x30001 0) 0 ≠ force (0x30001 : Word) 0 ∧
    force (lpBoundary 15 0 0xF000F 0) 0 = force (0xF000F : Word) 0 ∧ vill (lanes 0x30001).me.vtype = false ∧
    vill (lanes 0xF000F villImage).me.vtype = true ∧ (lanes 0xF000F villImage).boundary.lanes ≠ 0 := ⟨⟨rfl, rfl, by decide +kernel⟩, by decide +kernel⟩
theorem witness_VectorConfiguration : (lanes 0).sound ∧ (lanes 0).boundary.lanes = 0 ∧ (lanes 0xF000F).boundary.lanes ≠ 0 ∧
    (lanes 0xF000F).lanes ≠ 0 ∧ vill (lanes 0xF000F).me.vtype = false := ⟨⟨rfl, rfl, by decide +kernel⟩, by decide +kernel⟩


/-! ### Vector forms -/

theorem vecReady_int : (vec 2 4 [(2, [1, 2, 3, 4]), (3, [4, 3, 2, 0x80000000])] 5).vecReady := ⟨⟨rfl, rfl, by decide +kernel⟩, by decide +kernel⟩
theorem vecReady_fp : (vec 0xA 4 [(2, [0x3F800000, 0, 0x7F800001, 0]), (3, [0x40000000, 0])] 5 [(7, 0x3F800001)]).vecReady :=
  ⟨⟨rfl, rfl, by decide +kernel⟩, by decide +kernel⟩
/-- 32-bit integers in v2 and v3 under VL 4, m1 selecting elements 0 and 2. -/
def vi : State := vec 2 4 [(2, [1, 2, 3, 4]), (3, [4, 3, 2, 0x80000000])] 5
/-- FP32 numbers in v2 and v3 under VL 4, and a scalar that BF16 does not hold. -/
def vf : State := vec 0xA 4 [(2, [0x3F800000, 0, 0x7F800001, 0]), (3, [0x40000000, 0])] 5 [(7, 0x3F800001)]
/-- The same thread state with a change. -/
def vfWith (f : Thread → Thread) : State := vf.modMe f

theorem witness_VectorIntegerForms : vi.vecReady ∧ aligned vi.vctx 1 = true ∧ aligned vi.vctx 2 = true ∧ aligned vi.vctx 31 = true ∧
    vi.vctx.isInt = true ∧ vi.domain vi.vctx .nonLinear [2, 3] none 1 = .inl 0 ∧ vi.domain vi.vctx .nonLinear [2] none 1 = .inl 0 ∧
    vi.domain vi.vctx .nonLinear [2, 3, 1] none 1 = .inl 0 ∧ vi.domain vi.vctx .nonLinear [2, 1] none 1 = .inl 0 ∧
    vi.domain vi.vctx .like [2, 3] (some 1) 0 = .inl 0 := ⟨vecReady_int, by decide +kernel⟩
theorem witness_VectorFpForms : vf.vecReady ∧ vf.vctx.et = 0xA ∧ aligned vf.vctx 1 = true ∧ aligned vf.vctx 2 = true ∧
    aligned vf.vctx 3 = true ∧ vf.domain vf.vctx .like [2, 3] (some 1) 0 = .inl 0 ∧ vf.domain vf.vctx .nonLinear [2, 3, 1] (some 1) 1 = .inl 0 ∧
    vf.domain vf.vctx .negate [2, 3] (some 1) 1 = .inl 0 ∧ vf.domain vf.vctx .nonLinear [2] (some 1) 1 = .inl 0 ∧
    (∀ e < 4, vf.vctx.ran vf.me 1 true e = true → enabled vf.me.fcsr (fAdd FP32 .rne (vf.vctx.get vf.me 2 e) (vf.vctx.get vf.me 3 e)).2 = 0) :=
  ⟨vecReady_fp, by decide +kernel⟩
theorem witness_VectorFpForms_cases : 0x7F800001 < 2 ^ FP32.width ∧ (FP32.decode 0x7F800001).isNan = true ∧ (FP32.decode 0x80000000).isZero = true ∧
    (FP32.decode 0xFF800000).isInf = true ∧ (FP32.decode 0xFF800000).neg = true ∧ (FP32.decode 0xFF800000).isZero = false ∧
    FP32.decode 0x42FE0000 = .fin false 16646144 (-17) false ∧ 127 ≤ FP32.bias ∧
    (16646144 : Int) * 2 ^ (-17 : Int).toNat = 127 * 2 ^ (17 : Int).toNat := by decide +kernel
/-- 3 and 1.5: a finite number that is an integer, and one that is none. -/
theorem witness_VectorFpForms_finite : FP32.decode 0x40400000 = .fin false 12582912 (-22) false ∧ FP32.decode 0x3FC00000 = .fin false 12582912 (-23) false ∧
    (12582912 : Int) * 2 ^ (-22 : Int).toNat = 3 * 2 ^ (22 : Int).toNat ∧ ¬(8388608 ∣ 12582912) ∧ 0x40400000 < 2 ^ FP32.width ∧
    (let q := min (-22 : Int) (-22 + -23)
     (12582912 : Int) * 2 ^ (-22 - q).toNat - 12582912 * 12582912 * 2 ^ (-22 + -23 - q).toNat ≠ 0) := by decide +kernel
/-- BF16 elements, a scalar that conversion rounds, NX enabled or not. -/
def vb (fcsr : Word) : State := (vec 8 4 [] 0 [(7, 0x3F800001)]).modMe fun t => { t with fcsr := fcsr }
theorem witness_VectorScalarFpForms : (vb 0).vecReady ∧ (vb 0x400).vecReady ∧ (vb 0).vctx.et = 8 ∧ (vb 0x400).vctx.et = 8 ∧
    aligned (vb 0).vctx 1 = true ∧ (vb 0).domain (vb 0).vctx .bias [2] (some 1) 0 = .inl 0 ∧ (vb 0).domain (vb 0).vctx .one [2] (some 1) 0 = .inl 0 ∧
    (vb 0).domain (vb 0).vctx .like [2, 1] (some 1) 0 = .inl 0 ∧ enabled (vb 0).me.fcsr ((FP32.decode 0x3F800001).arith BF16 .rne).2 = 0 ∧
    enabled (vb 0x400).me.fcsr ((FP32.decode 0x3F800001).arith BF16 .rne).2 ≠ 0 ∧ (vb 0x400).me.level = .T :=
  ⟨⟨⟨rfl, rfl, by decide +kernel⟩, by decide +kernel⟩, ⟨⟨rfl, rfl, by decide +kernel⟩, by decide +kernel⟩, by decide +kernel⟩
/-- A VTYPE, a lane partition and the tags of v2 and v3. -/
def vt (ty : Word) (lp : Word) (g2 g3 : Word) (tagIgn : Word := 0) : State :=
  (on { th with vtype := ty, dctl := tagIgn, vtag := ((Vector.replicate 32 0).set! 2 g2).set! 3 g3 }).modMyCore fun c => { c with lpart := lp }
/-- VILL; a register that LMUL 1 does not admit; no lanes; a Haar-tagged first, and second source. -/
theorem witness_VectorTraps_checks : (vt villImage 0xF000F 0 0).sound ∧ (vt villImage 0xF000F 0 0).me.level = .T ∧
    vill (vt villImage 0xF000F 0 0).me.vtype = true ∧ vill (vt 0x292 0xF000F 0 0).me.vtype = false ∧
    (aligned (vt 0x292 0xF000F 0 0).vctx 1) = false ∧ (vt 0x282 0 0 0).lanes = 0 ∧ (vt 0x282 0 0 0).vctx.isInt = true ∧
    (vt 0x282 0xF000F 1 0).lanes ≠ 0 ∧ bit (vt 0x282 0xF000F 1 0).me.dctl 0 = false ∧ bit ((vt 0x282 0xF000F 1 0).me.vtag.getD 2 0) 0 = true ∧
    bit ((vt 0x282 0xF000F 0 1).me.vtag.getD 2 0) 0 = false ∧ bit ((vt 0x282 0xF000F 0 1).me.vtag.getD 3 0) 0 = true :=
  ⟨⟨rfl, rfl, by decide +kernel⟩, by decide +kernel⟩
/-- Tags of the clauses on domains: equal levels with different masks; different levels; TAGIGN. -/
theorem witness_VectorTraps_domains :
    (0xF0000000B : Word).toNat % 16 = (0x30000000B : Word).toNat % 16 ∧ bit (0xF0000000B : Word) 0 = true ∧
    (0xF0000000B : Word).toNat % 16 ≠ (0xF00000009 : Word).toNat % 16 ∧ bit (vt 0x28A 0xF000F 0xF0000000B 0x30000000B 1).me.dctl 0 = true ∧
    bit (vt 0x28A 0xF000F 0xF0000000B 0xF00000009).me.dctl 0 = false := by decide +kernel
/-- Division with DZ enabled: element 1 divides 1 by 0, element 0 raises nothing. -/
def vz : State := (vec 0xA 3 [(2, [0x3F800000, 0x3F800000, 0]), (3, [0x40000000, 0, 0])]).modMe fun t => { t with fcsr := 0x2000 }
theorem witness_VectorTraps_element : vz.vecReady ∧ vz.me.level = .T ∧ vz.me.restart = none ∧ vz.vctx.et = 0xA ∧ vz.vctx.ftz = false ∧
    vz.domain vz.vctx .nonLinear [2, 3] (some 1) 0 = .inl 0 ∧ vz.vctx.ran vz.me 0 true 1 = true ∧
    enabled vz.me.fcsr (fDiv vz.vctx.fmt vz.vctx.rm (vz.vctx.get vz.me 2 1) (vz.vctx.get vz.me 3 1)).2 ≠ 0 ∧
    (∀ i < 1, vz.vctx.ran vz.me 0 true i = true → enabled vz.me.fcsr (fDiv vz.vctx.fmt vz.vctx.rm (vz.vctx.get vz.me 2 i)
      (vz.vctx.get vz.me 3 i)).2 = 0) := ⟨⟨⟨rfl, rfl, by decide +kernel⟩, by decide +kernel⟩, by decide +kernel⟩
theorem witness_VectorPermutes : vi.vecReady ∧ aligned vi.vctx 1 = true ∧ groupsMeet vi.vctx 1 2 = false ∧ groupsMeet vi.vctx 1 3 = false ∧
    vi.domain { vi.vctx with estart := 0 } .nonLinear [2] none 1 = .inl 0 ∧ vi.domain { vi.vctx with estart := 0 } .nonLinear [2, 3] none 1 = .inl 0 ∧
    vi.vctx.isInt = true ∧ (7 : BitVec 5).toNat ≤ 7 ∧ vi.domain vi.vctx .one [2] (some 1) 1 = .inl 0 ∧
    (vi.x 0).toNat < vi.vctx.vl ∧ vi.vctx.vl ≤ (vf.x 7).toNat := ⟨vecReady_int, by decide +kernel⟩
theorem witness_VectorReductions : vf.vecReady ∧ vf.vctx.et = 0xA ∧ vi.vctx.et ∈ [0, 1, 2, 4, 5, 6] ∧ vi.vecReady ∧ aligned vf.vctx 1 = true ∧
    vf.domain { vf.vctx with estart := 0 } .nonLinear [2, 3] none 0 = .inl 0 ∧ vf.domain { vf.vctx with estart := 0 } .blind [2, 3] none 0 = .inl 0 ∧
    (enabled vf.me.fcsr (fAdd FP32 .rne 0x40000000 0x7F800001).2 = 0) ∧
    (enabled (0x4000 : Word) (fAdd FP32 .rne 0x40000000 0x7F800001).2 ≠ 0) := ⟨vecReady_fp, by decide +kernel, by decide +kernel, vecReady_int, by decide +kernel⟩
theorem witness_VectorMaskForms : vf.vecReady ∧ 1 ≤ (1 : BitVec 5).toNat ∧ (7 : BitVec 5).toNat ≤ 7 ∧ aligned vf.vctx 2 = true ∧
    vf.domain vf.vctx .nonLinear [2, 3] none 0 = .inl 0 ∧ vf.domain vf.vctx .nonLinear [2] none 0 = .inl 0 ∧
    enabled vf.me.fcsr ((FP32.decode 0x3F800001).arith BF16 .rne).2 = 0 := ⟨vecReady_fp, by decide +kernel⟩

/-- Two words of the private scratchpad before its end, and VL 4. -/
def ve : State := vec 2 4 [(1, [9, 9, 9, 9]), (2, [0, 4, 8, 12])] 0 [(5, 0x7FFF8), (6, 0x2000)]
theorem vecReady_ve : ve.vecReady := ⟨⟨rfl, rfl, by decide +kernel⟩, by decide +kernel⟩
theorem witness_VectorLoads : ve.vecReady ∧
    (∃ ps s1, ve.passes .load 4 0 loadWindows (fun i => ve.x 6 + BitVec.ofNat 64 (i * 4)) [0, 1, 2, 3] ps s1) ∧ ve.me.restart = none ∧
    aligned ve.vctx 1 = true ∧ aligned ve.vctx 2 = true ∧ groupsMeet ve.vctx 1 2 = false ∧ bit (2 : BitVec 5) 4 = false ∧
    bit (0x1C : BitVec 5) 4 = true ∧ vf.vctx.et = 0xA := ⟨vecReady_ve, ⟨_, _, passes_run (by decide +kernel)⟩, by decide +kernel⟩
/-- Element 2 of four lies beyond the scratchpad; VLDQ's eight doublewords pass. -/
theorem witness_VectorLoads_stops : ((2 : Nat) ∈ (List.range ve.vctx.vl).filter (fun i => ve.vctx.estart ≤ i && ve.vctx.active ve.me 0 i) ∧
    ve.vctx.et ≤ 6 ∧ (15 : BitVec 5).toNat < 16 ∧ ve.me.level = .T) ∧
    (∃ ps s1, ve.passes .load 8 0 loadWindows (fun i => ve.x 6 + BitVec.ofNat 64 (8 * i)) (List.range 8) ps s1) ∧
    ∃ ps s1 s2, ve.passes .load 4 0 loadWindows (fun i => ve.x 5 + BitVec.ofNat 64 (i * 4)) [0, 1] ps s1 ∧
      s1.check (ve.x 5 + BitVec.ofNat 64 (2 * 4)) 4 .load 0 loadWindows = (.trap 5 0, s2) :=
  ⟨by decide +kernel, ⟨_, _, passes_run (by decide +kernel)⟩, _, _, _, passes_run (by decide +kernel), trap_of (by decide +kernel)⟩
/-- The four words cross the end of the only page that has a translation: element 2 lies on the next. -/
def vp : State := { translated 0 with cores := (ve.modMe fun t => { t with x := xs [(5, 0x100000FFF8)], task := (translated 0).me.task }).cores }
theorem witness_VectorLoads_fault : vp.vecReady ∧ ∃ ps s1 s2 f, vp.passes .load 4 0 loadWindows (fun i => vp.x 5 + BitVec.ofNat 64 (i * 4)) [0, 1] ps s1 ∧
    s1.check (vp.x 5 + BitVec.ofNat 64 (2 * 4)) 4 .load 0 loadWindows = (.fault f, s2) :=
  ⟨⟨⟨rfl, rfl, by decide +kernel⟩, by decide +kernel⟩, _, _, _, _, passes_run (by decide +kernel), by rfl⟩
theorem witness_VectorStores : ve.vecReady ∧ (∃ ps s1,
      ve.stored 4 0 (fun i => ve.x 6 + BitVec.ofNat 64 (i * 4)) (fun i _ => leBytes 4 (ve.vctx.get ve.me 1 i)) (fun _ => none) [0, 1, 2, 3] [] ps s1 ∧
      ∀ p ∈ ps, p.ro = false ∧ (p.key = .random 0 ∨ hbmEnd ≤ p.addr)) ∧
    ve.me.restart = none ∧ Memory.wf ve.mem = true ∧ ve.myCluster.ckpts = [] ∧ aligned ve.vctx 1 = true :=
  ⟨vecReady_ve, ⟨_, _, stored_run (by decide +kernel), by decide +kernel⟩, by decide +kernel⟩
/-- A part of a pre-commit task's store: an empty log, a full one, and words that the instruction has touched or written. -/
theorem witness_VectorStores_part : let s := on { th with post := false }
    s.myCluster.ckpts = [] ∧ s.preCommit = true ∧ (clusterBase 0 0 + 4) % 4 = 0 ∧ s.myCluster.log.length < 4096 ∧
    (s.modCluster 0 fun c => { c with log := List.replicate 4096 ⟨1, 0, 0, 0⟩ }).myCluster.log.length = 4096 ∧
    (let w := (clusterBase 0 0 + 4) / 8 * 8
     let d := (8 * clusterBase 0 0, 8 * clusterBase 0 0 + 32)
     d.1 < 8 * w + 64 ∧ 8 * w < d.2 ∧ d.2 ≤ 8 * (clusterBase 0 0 + 4)) := by decide +kernel
theorem uncaptured_of {s : State} (h : s.me.task = none) : s.uncaptured := fun _ _ e => by rw [h] at e; cases e
theorem witness_VectorAtomics : ve.vecReady ∧ ve.calm ∧ ve.uncaptured ∧ ve.me.restart = none ∧ Memory.wf ve.mem = true ∧ ve.myCluster.ckpts = [] ∧
    ve.vctx.sew = 32 ∧ ve.vctx.et = 2 ∧ vf.vctx.et = 0xA ∧
    (∀ i ∈ [0, 1, 2, 3], (ve.x 6 + BitVec.ofNat 64 (ve.vctx.get ve.me 2 i)).toNat % 4 = 0 ∧
      (ve.localAt (ve.x 6 + BitVec.ofNat 64 (ve.vctx.get ve.me 2 i)).toNat).isSome = true) :=
  ⟨vecReady_ve, calm_on _ fun _ => by decide +revert, uncaptured_of rfl, by decide +kernel⟩

/-! ### The Haar domain -/

/-- The column of R90, spatial or tagged, with 32 or 16 elements in a register. -/
def vh (tag : Word) (lp : Word := 0xF000F) : State :=
  ((vec 0xA 0 [(2, column)] 0 [(5, 0x2000)]).modMe fun t => { t with vtag := t.vtag.set! 2 tag }).modMyCore fun c => { c with lpart := lp }
theorem vecReady_vh : (vh 0).vecReady ∧ (vh 0xFFFFFFFF0000000B).vecReady ∧ (vh 0 0x30003).vecReady :=
  ⟨⟨⟨rfl, rfl, by decide +kernel⟩, by decide +kernel⟩, ⟨⟨rfl, rfl, by decide +kernel⟩, by decide +kernel⟩, ⟨rfl, rfl, by decide +kernel⟩, by decide +kernel⟩
theorem witness_HaarForms : (vh 0).vecReady ∧ (5 : BitVec 5).toNat ≤ 5 ∧ (vh 0).vctx.et = 0xA ∧ aligned (vh 0).vctx 1 = true ∧ 32 ≤ (vh 0).vctx.vlmax ∧
    bit ((vh 0).me.vtag.getD 2 0) 0 = false ∧ bit ((vh 0xFFFFFFFF0000000B).me.vtag.getD 2 0) 0 = true ∧ (vh 0 0x30003).vctx.vlmax < 32 ∧
    (vh 0).me.level = .T ∧ (∀ j < 32, enabled (vh 0).me.fcsr (hRound FP32 .rne ((haarFwd 5 ((List.range 32).map fun i =>
      (FP32.decode ((vh 0).vctx.get (vh 0).me 2 i), 0))).getD j hZero)).2 = 0) := ⟨vecReady_vh.1, by decide +kernel⟩
theorem witness_HaarForms_exact : (5 : Nat) ≤ 5 ∧ (List.replicate 32 ((.fin true 3 2 false, 0) : HVal)).length = 32 ∧
    ∀ i < 32, ((List.replicate 32 ((.fin true 3 2 false, 0) : HVal)).getD i hZero).1.is (-6) 1 ∧
      ((List.replicate 32 ((.fin true 3 2 false, 0) : HVal)).getD i hZero).2 = 0 := by
  refine ⟨Nat.le_refl _, rfl, fun i hi => ?_⟩
  have h : (List.replicate 32 ((.fin true 3 2 false, 0) : HVal)).getD i hZero = (.fin true 3 2 false, 0) := by
    rw [List.getD_eq_getElem?_getD, List.getElem?_replicate, if_pos hi]; rfl
  rw [h]; exact ⟨⟨true, 3, 1, rfl, by decide⟩, rfl⟩
theorem witness_ThresholdAndTagForms : (vh 0).vecReady ∧ (3 : BitVec 5).toNat ≤ 3 ∧ (1 : BitVec 5).toNat ≤ 1 ∧ aligned (vh 0).vctx 31 = true ∧
    fld (0xB : Word) 1 3 ≤ 5 ∧ 5 < fld (0xD : Word) 1 3 ∧ (vh 0).me.level = .T := ⟨vecReady_vh.1, by decide +kernel⟩
theorem witness_HaarColumns : (vh 0).vecReady ∧ ((8 : BitVec 4).toNat ∈ [0xA, 8, 0xC, 0xD] ∧ Memory.wf (vh 0).mem = true ∧ (vh 0).myCluster.ckpts = [] ∧
    (vh 0).vctx.et = 0xA ∧ 32 ≤ (vh 0).vctx.vlmax ∧ fld (0xFFFFFFFF0000000B : Word) 1 3 = 5) ∧
    (∃ ps s1, (vh 0).passes .load 2 0 loadWindows (fun i => (vh 0).x 5 + BitVec.ofNat 64 (i * 2)) (List.range 32) ps s1 ∧
      ∀ p ∈ ps, p.dcls = false) ∧
    ∃ ps s1, (vh 0).passes .store 2 0 storeWindows (fun i => (vh 0).x 5 + BitVec.ofNat 64 (i * 2)) (List.range 32) ps s1 ∧
      ∀ p ∈ ps, p.dcls = false ∧ (p.key = .random 0 ∨ hbmEnd ≤ p.addr) :=
  ⟨vecReady_vh.1, by decide +kernel, ⟨_, _, passes_run (by decide +kernel), by decide +kernel⟩, _, _, passes_run (by decide +kernel), by decide +kernel⟩


/-! ### The array -/

theorem claims_of {s : State} {l : List Nat} (h : (s.claims l).2.isNone = true) : s.claims l = ((s.claims l).1, none) := by
  generalize s.claims l = r at h
  obtain ⟨a, b⟩ := r
  cases b <;> simp_all
theorem inl_of {α β : Type} {r : α ⊕ β} (h : r.isLeft = true) : ∃ a, r = .inl a := by
  cases r <;> simp_all

/-- A latch filled with 4-bit, 8-bit or 16-bit elements. -/
def full (fmt : Byte) (n : Nat) : Latch := { fmt := fmt, filled := n, depth := n }
/-- The state of `vh` with latches la0, la1, lb0, lb1 of BF16, FP4, FP4 and FP8, and a pitch in x6. -/
def mx (f0 f2 : Byte) (n : Nat) : State :=
  ((vh 0).modMe fun t => { t with x := xs [(5, 0x2000), (6, 0x100)] }).modMyCore fun c => { c with town := 0x80, lown := 0x80808080, latch := #v[full f0 n, {}, full f2 n, {}] }
theorem armed_mx : (mx 8 8 4).armed ∧ (mx 0xF 7 16).armed ∧ (mx 0xC 7 8).armed :=
  ⟨⟨⟨rfl, rfl, by decide +kernel⟩, by decide +kernel⟩, ⟨⟨rfl, rfl, by decide +kernel⟩, by decide +kernel⟩, ⟨rfl, rfl, by decide +kernel⟩, by decide +kernel⟩
theorem witness_SliceForms_opr : (mx 8 8 4).armed ∧ (mx 8 8 4).claims [0] = (((mx 8 8 4).claims [0]).1, none) ∧
    (∃ g, ((mx 8 8 4).claims [0]).1.oprTag 0 2 2 (((List.range 32).filter fun i => (0 : BitVec 3) == 0 || (mx 8 8 4).me.maskBit (mx 8 8 4).lanes 0 i).foldl
      (fun m i => m + 2 ^ i) 0) true = .inl g) ∧ vill (mx 8 8 4).me.vtype = false ∧
    (mx 8 8 4).me.legal = true ∧ (2 : BitVec 5).toNat % 2 ^ fld (mx 8 8 4).me.vtype 4 3 = 0 ∧
    32 ≤ (mx 8 8 4).lanes * 32 / 32 * 2 ^ fld (mx 8 8 4).me.vtype 4 3 :=
  ⟨armed_mx.1, claims_of (by decide +kernel), inl_of (by decide +kernel), by decide +kernel⟩
/-- A tile that another context owns, one being zeroed, a latch of another context, a group of 16 elements, latches of mixed kinds. -/
theorem witness_SliceForms_refused : let owned (t l : Word) : State := (mx 8 8 4).modMyCore fun c => { c with town := t, lown := l }
    (128 ≤ (owned 0x81 0).myCore.ownerByte 0 ∧ (owned 0x81 0).myCore.ownerByte 0 % 128 ≠ fld (mx 8 8 4).me.ctxid 0 7) ∧
    (owned 0x80 0x81).myCore.ownerByte 0 = 128 + fld (mx 8 8 4).me.ctxid 0 7 ∧ 128 ≤ (owned 0x80 0x81).myCore.ownerByte 8 ∧
    (owned 0x80 0x81).myCore.ownerByte 8 % 128 ≠ 0 ∧ (owned 0x81 0).myCore.zeroing = [] ∧ (mx 8 8 4).me.level = .T ∧
    ((mx 8 8 4).modMyCore fun c => { c with zeroing := [0] }).myCore.zeroing.contains 0 = true ∧ (vh 0 0x30003).lanes * 32 / 32 < 32 ∧
    (((mx 8 7 8).claims [0, 8, 10]).1.myCore.latch.toList.map fun l => l.fmt.toNat % 16) = [8, 8, 7, 8] := by decide +kernel
/-- The tags of OPR's operands and of its tile: spatial, or Haar with three levels, with DCTL or without. -/
theorem witness_SliceForms_tags : let g : Word := 0xFFFFFFFF00000007
    let s (d : Word) : State := (on { th with dctl := d, vtag := (Vector.replicate 32 0).set! 2 g }).modMyCore fun c => { c with ttag := c.ttag.set! 1 g }
    bit ((s 0).me.vtag.getD 2 0) 0 = true ∧ bit ((s 0).me.vtag.getD 3 0) 0 = false ∧ bit (s 0).me.dctl 0 = false ∧ bit (s 1).me.dctl 0 = true ∧
    fld ((s 0).myCore.ttag.getD 1 0) 0 4 = fld g 0 4 ∧ fld ((s 0).myCore.ttag.getD 0 0) 0 4 ≠ fld g 0 4 := by decide +kernel
/-- The depths that OPL takes with BF16, with two 4-bit or 6-bit formats, and with a mixed pair. -/
theorem witness_SliceForms_opl : (mx 8 8 4).claims [0, 8, 10] = (((mx 8 8 4).claims [0, 8, 10]).1, none) ∧
    (mx 0xF 7 16).claims [0, 8, 10] = (((mx 0xF 7 16).claims [0, 8, 10]).1, none) ∧ (mx 0xC 7 8).claims [0, 8, 10] = (((mx 0xC 7 8).claims [0, 8, 10]).1, none) ∧
    ((((mx 8 8 4).claims [0, 8, 10]).1.myCore.latch.getD 0 {}).fmt.toNat % 16 = 8 ∧ 4 * 1 ≤ (((mx 8 8 4).claims [0, 8, 10]).1.myCore.latch.getD 2 {}).depth) ∧
    ((((mx 0xF 7 16).claims [0, 8, 10]).1.myCore.latch.getD 2 {}).fmt.toNat % 16 = 7 ∧ 4 * 4 ≤ (((mx 0xF 7 16).claims [0, 8, 10]).1.myCore.latch.getD 0 {}).depth) ∧
    ((((mx 0xC 7 8).claims [0, 8, 10]).1.myCore.latch.getD 0 {}).fmt.toNat % 16 = 0xC ∧ 4 * 2 ≤ (((mx 0xC 7 8).claims [0, 8, 10]).1.myCore.latch.getD 0 {}).depth) :=
  ⟨claims_of (by decide +kernel), claims_of (by decide +kernel), claims_of (by decide +kernel), by decide +kernel⟩
/-- TLD and TST of the two rows that m1 selects. -/
theorem witness_SliceForms_memory :
    let s := ((mx 8 8 4).modMe fun t => { t with m := t.m.set! 1 (maskOf 0x201) }).claims [0] |>.1
    let es : List Nat := [0, 9].flatMap fun i => (List.range 32).map fun j => 32 * i + j
    (s.modMe id).me.level = .T ∧
    (∃ ps s2, s.passes .load 2 0 tileLoadWindows (fun e => s.x 5 + BitVec.ofNat 64 (e / 32) * s.x 6 + BitVec.ofNat 64 (e % 32 * 2)) es ps s2) ∧
    ∃ ps s2, s.passes .store 2 0 tileStoreWindows (fun e => s.x 5 + BitVec.ofNat 64 (e / 32) * s.x 6 + BitVec.ofNat 64 (e % 32 * 2)) es ps s2 :=
  ⟨by decide +kernel, ⟨_, _, passes_run (by decide +kernel)⟩, _, _, passes_run (by decide +kernel)⟩

/-- Two waiting slices on one tile whose rows meet: only the first may start. -/
def waiting : State := (array .tzero [1, 9] 0 8 0).modMyCore fun c =>
  { c with slices := (c.slices.map fun x => { x with started := false, last := false }) ++
      [{ slot := 0, acc := 0, op := .tzero, num := 1, rows := [9], last := true, tag := 0, started := false }] }
theorem witness_SliceSteps_start : ((waiting.core 0).slices.filter Slice.started).length < 4 ∧
    (∃ x post, (waiting.core 0).slices = [] ++ x :: post ∧ x.started = false) := ⟨by decide +kernel, _, _, rfl, rfl⟩
/-- A last slice that starts lets its thread go on while no trap enable is set; an enabled flag traps. -/
theorem witness_SliceSteps_goesOn : (∃ x, (waiting.core 0).slices.getLast? = some x ∧ x.last = true ∧ x.slot < 4 ∧ x.acc < 8 ∧ x.released = false) ∧
    (waiting.thread 0 0).wait = .slices ∧ fld (waiting.thread 0 0).fcsr 10 5 = 0 ∧ (waiting.thread 0 0).level = .T ∧
    enabled (0x4000 : Word) (accumulate 0 [(.inf false, .fin false 0 0 false)]).2 ≠ 0 := ⟨⟨_, rfl, by decide +kernel⟩, by decide +kernel⟩
theorem witness_SliceSteps_retire (op : SliceOp) (hop : op = .tzero ∨ op = .opr true false [0x3F80] [0x3F80] ∨ op = .opl 0 2 2 1 false ∨
      op = .tst 0x2000 0x100 0xA false 0) :
    let s := array op [1, 9] 0x4B800000 8 0x3F803F803F803F80
    ∃ x rest, (s.core 0).slices = x :: rest ∧ x.started = true ∧ x.slot < 4 ∧ x.acc < 8 ∧ (∀ i ∈ x.rows, i < 32) ∧ x.rows.Pairwise (· < ·) ∧
      (s.thread 0 x.slot).wait = .slices ∧ Memory.wf s.mem = true ∧ (s.cluster (clusterOf 0)).ckpts = [] ∧ x.last = true ∧
      (match x.op with
       | .tst b p _ _ _ => ∀ i ∈ x.rows, ((s.as 0 x.slot).localAt (b + BitVec.ofNat 64 i * p).toNat).isSome
       | _ => True) := by
  rcases hop with h | h | h | h <;> subst h <;> exact ⟨_, _, rfl, by decide +kernel⟩
/-- A slice whose thread has gone on, in a cluster with a marked region; and TST without one. -/
theorem witness_SliceSteps_released : let s := (array (.tst 0x2000 0x100 0xA false 0) [1] 0 8 0).modMyCore fun c =>
      { c with slices := c.slices.map fun x => { x with released := true } }
    (∃ x, (s.core 0).slices = [x] ∧ x.released = true ∧ x.started = true ∧ x.last = true) ∧
    ((array (.tst 0x2000 0x100 0xA false 0) [1] 0 8 0).cluster (clusterOf 0)).ckpts = [] := ⟨⟨_, rfl, by decide +kernel⟩, by decide +kernel⟩
theorem witness_SliceSteps_flags : enabled (array .tzero [1] 0 8 0).me.fcsr (accumulate 0x4B800000 [(.fin false 1 0 false, .fin false 1 0 false)]).2 = 0 := by
  decide +kernel
/-- Terms of one exponent; a NaN; ∞ × 0; infinities of both signs; of one sign. -/
theorem witness_SliceSteps_sums : (FP32.decode 0x40400000).is 12582912 (-22) ∧ (FVal.fin true 2 (-11) false).is (-2) (-11) ∧ (FVal.fin false 1 (-11) false).is 1 (-11) ∧
    (FP32.decode 0x7FC00000).isNan = true ∧ (FP32.decode 0x7F800000).isInf = true ∧ (FP32.decode 0xFF800000).neg = true ∧
    (FP32.decode 0).isZero = true ∧ (FP32.decode 0x7F800001).isSig = true :=
  ⟨⟨false, 12582912, 0, by decide +kernel, by decide⟩, ⟨true, 2, 0, rfl, by decide⟩, ⟨false, 1, 0, rfl, by decide⟩, by decide +kernel⟩

theorem witness_ArrayWholeForms : (mx 8 8 4).armed ∧ (mx 8 8 4).claims [0] = (((mx 8 8 4).claims [0]).1, none) ∧
    (mx 8 8 4).claims [8] = (((mx 8 8 4).claims [8]).1, none) ∧
    ((mx 8 8 4).claims [0]).1.unitWaits true 0 = false ∧ vill (mx 8 8 4).me.vtype = false ∧ (mx 8 8 4).me.legal = true ∧
    (2 : BitVec 5).toNat % 2 ^ fld (mx 8 8 4).me.vtype 4 3 = 0 ∧ 32 ≤ (mx 8 8 4).lanes * 2 ^ fld (mx 8 8 4).me.vtype 4 3 ∧
    ((mx 8 8 4).claims [8]).1.unitWaits false 8 = false ∧ ((mx 8 8 4).claims [0]).1.unitWaits false 0 = false ∧ (15 : BitVec 5).toNat ≤ 15 ∧
    enabled (mx 8 8 4).me.fcsr (fOF ||| fSU) = 0 :=
  ⟨armed_mx.1, claims_of (by decide +kernel), claims_of (by decide +kernel), by decide +kernel⟩
/-- A slice that has not retired stands on tile 0: the forms on it wait. -/
theorem witness_ArrayWholeForms_waits : let s := (mx 8 8 4).modMyCore fun c => { c with slices := (waiting.core 0).slices }
    s.claims [0] = ((s.claims [0]).1, none) ∧ (s.claims [0]).1.unitWaits true 0 = true ∧ (s.claims [0]).1.unitWaits false 0 = true ∧
    (let r := (mx 8 8 4).modMyCore fun c => { c with zeroing := [9], lown := 0 }
     r.unitWaits false 9 = true) := ⟨claims_of (by decide +kernel), by decide +kernel⟩
/-- A fill of la0 with FP4 (lf 6), and with BF16 (lf 0): a row of a latch is eight bytes or four halfwords. -/
theorem witness_ArrayWholeForms_fill :
    let s := ((mx 8 8 4).claims [8]).1
    (∃ ps s2, s.passes .load 1 0 fillWindows (fun e => s.x 5 + BitVec.ofNat 64 (e / 8) * s.x 6 + BitVec.ofNat 64 (e % 8 * 1)) (List.range (32 * 8)) ps s2) ∧
    ∃ ps s2, s.passes .load 2 0 fillWindows (fun e => s.x 5 + BitVec.ofNat 64 (e / 4) * s.x 6 + BitVec.ofNat 64 (e % 4 * 2)) (List.range (32 * 4)) ps s2 :=
  ⟨⟨_, _, passes_run (by decide +kernel)⟩, _, _, passes_run (by decide +kernel)⟩

theorem witness_TileHaarForms : (mx 8 8 4).armed ∧ (5 : BitVec 5).toNat ≤ 5 ∧ (mx 8 8 4).claims [0] = (((mx 8 8 4).claims [0]).1, none) ∧
    ((mx 8 8 4).claims [0]).1.unitWaits false 0 = false ∧ bit ((mx 8 8 4).claims [0]).1.myCore.ttag[0]! 0 = false ∧
    bit (0xFFFFFFFF00000003 : Word) 0 = true ∧ fld (0xFFFFFFFF00000003 : Word) 1 3 = 1 ∧ (mx 8 8 4).me.level = .T ∧
    enabled (mx 8 8 4).me.fcsr (0 : Flags) = 0 :=
  ⟨armed_mx.1, by decide, claims_of (by decide +kernel), by decide +kernel⟩
theorem witness_TileHaarForms_tstw : ((mx 8 8 4).x 5).toNat % 64 = 0 ∧ (mx 8 8 4).calm ∧ ((mx 8 8 4).claims [0]).1.calm ∧ (mx 8 8 4).myCluster.ckpts = [] ∧
    Memory.wf (mx 8 8 4).mem = true ∧ ∀ b < 64 + 1024 * 4, (mx 8 8 4).localAt (((mx 8 8 4).x 5).toNat + b) = some (privBase 0 + 0x2000 + b) := by
  have hc : (mx 8 8 4).calm := calm_on _ fun _ => by decide +revert
  refine ⟨by decide +kernel, hc, ?_, by decide +kernel, by decide +kernel, fun b hb => ?_⟩
  · exact calm_on _ fun _ => by decide +revert
  · have h1 : ((mx 8 8 4).x 5).toNat = 0x2000 := by decide +kernel
    have h2 : (mx 8 8 4).myCore.xb.toNat = 0x1000 := by decide +kernel
    have h3 : (mx 8 8 4).cur = 0 := by decide +kernel
    unfold State.localAt
    rw [h1, h2, h3, if_pos (by omega)]
    simp [Nat.add_assoc]
set_option maxRecDepth 20000 in
/-- A header of the spatial domain in FP32 passes the checks of TLDW; one with level 6 fails them. -/
theorem witness_TileHaarForms_tldw :
    let good : Word := BitVec.ofNat 64 (16 * 0xA)
    let bad : Word := 12
    (fld good 1 3 ≤ 5 ∧ fld good 4 4 ∈ [0xA, 8, 0xC, 0xD] ∧ bit good 11 = false ∧ bit good 8 = false ∧ bit good 0 = false ∧ fld good 1 3 = 0 ∧
      fld (0xFFFFFFFF : Word) 0 32 = 0xFFFFFFFF ∧ fld good 12 52 = 0) ∧ ¬(fld bad 1 3 ≤ 5) ∧
    let s := ((mx 8 8 4).claims [0]).1
    (∃ hs s2, s.passes .load 8 0 tileLoadWindows (fun k => s.x 5 + BitVec.ofNat 64 (8 * k)) (List.range 8) hs s2) ∧
    ∃ ps s2, s.passes .load 4 0 tileLoadWindows (fun e => s.x 5 + BitVec.ofNat 64 (64 + e * 4)) (List.range 1024) ps s2 :=
  ⟨by decide +kernel, by decide +kernel, ⟨_, _, passes_run (by decide +kernel)⟩, _, _, passes_run (by decide +kernel)⟩
theorem witness_TileRecords : (mx 8 8 4).armed ∧ Memory.wf (mx 8 8 4).mem = true ∧ (mx 8 8 4).me.level = .T ∧
    ((mx 8 8 4).modMe fun t => { t with level := .S }).armed ∧ ((mx 8 8 4).modMe fun t => { t with level := .S }).me.level = .S ∧
    (mx 8 8 4).unitWaits false 0 = false ∧ (mx 8 8 4).unitWaits false 11 = false ∧ ((mx 8 8 4).x 5).toNat % 64 = 0 :=
  ⟨armed_mx.1, by decide +kernel, by decide +kernel, ⟨⟨rfl, rfl, by decide +kernel⟩, by decide +kernel⟩, by decide +kernel⟩
set_option maxRecDepth 20000 in
/-- The places of a latch's record, and of a tile's. -/
theorem witness_TileRecords_places :
    let s := (mx 8 8 4).modMe fun t => { t with level := .S }
    ∃ ps s1, s.passes .store 8 0 recordWindows (fun k => s.x 5 + BitVec.ofNat 64 (8 * k)) (List.range 40) ps s1 ∧
      (∀ p ∈ ps, p.ro = false ∧ (p.key = .random 0 ∨ hbmEnd ≤ p.addr)) ∧
    ∃ qs s2, s.passes .load 8 0 recordWindows (fun k => s.x 5 + BitVec.ofNat 64 (8 * k)) (List.range 520) qs s2 :=
  ⟨_, _, passes_run (by decide +kernel), by decide +kernel, _, _, passes_run (by decide +kernel)⟩
/-- A latch record of format 0x20 is malformed; a slice stands on the tile that is to be saved. -/
theorem witness_TileRecords_malformed : let w38 : Word := 0x2000000000
    ¬(fld w38 32 8 < 32) ∧ ((mx 8 8 4).modMyCore fun c => { c with slices := (waiting.core 0).slices }).unitWaits false 0 = true ∧
    (let good : Word := 0x04040800000000
     fld good 32 8 = 8 ∧ fld good 40 8 = 4 ∧ fld good 48 8 ≤ 4 ∧ fld good 56 8 = 0) := by decide +kernel

end Sys2Proof.Tests
end

