-- ==== Sys2Proof/Tests/SystemWitnesses.lean ====
section
/-!
SUPPORT. Witnesses, continued: contexts, atomics, checkpoints, the stack broadcast, synchronisation, tasks, engines, Lahar, the
supervisor, the control block, power and reset. The states are built on the small state of the step tests.
-/
namespace Sys2Proof.Tests
open Sys2Proof.Machine

set_option Elab.async false

/-! ### Context switches -/

/-- The places of a block's pieces, where all pass. -/
def blockRun (a : Word) (use : Use) (l : List Nat) (s : State) : Option (State × List (Nat × Place)) :=
  match blockPlaces a use l s with
  | (s1, .inl ps) => some (s1, ps)
  | _ => none
theorem blocks_run {a : Word} {use : Use} {l : List Nat} {s : State} (h : (blockRun a use l s).isSome = true) :
    blockPlaces a use l s = (((blockRun a use l s).get h).1, .inl ((blockRun a use l s).get h).2) := by
  have hs : blockRun a use l s = some ((blockRun a use l s).get h) := (Option.some_get h).symm
  generalize (blockRun a use l s).get h = r at hs
  unfold blockRun at hs
  split at hs
  · rename_i e; simp only [Option.some.injEq] at hs; subst hs; exact e
  · cases hs

/-- A trapped post-commit task of address space 5 with a live vector register and a private page; its block at 0x1000000000 is
writable; x2 holds a context number. -/
def saving : State := ((translated 0).modMe fun t =>
  { t with level := .S, vlive := 4, x := xs [(1, 0x1000000000), (2, 4)], task := t.task.map fun i => { i with pbase := 0x10000, psize := 0x1000 } })
    |>.setDword 0x1012000 0x10004180000D
theorem witness_ContextSave : saving.sound ∧ saving.me.level = .S ∧ saving.cur < coreCount ∧ saving.me.occ = .task ∧ saving.me.occ ≠ .message ∧
    saving.me.task = some ⟨0, 0, [], 0, 0, 5, 4, 0, 0x10000, 0x1000, 0, 0, 0, 0, none⟩ ∧ (saving.x 1).toNat % 4096 = 0 ∧ 2 ^ 32 ≤ (saving.x 1).toNat ∧
    (saving.x 1).toNat < 2 ^ 52 ∧ 4 ≤ (saving.x 2).toNat ∧ (saving.x 2).toNat ≤ 127 ∧ saving.me.post = true ∧ saving.saveWaits = false ∧
    Memory.wf saving.mem = true := ⟨⟨rfl, rfl, by decide +kernel⟩, by decide +kernel⟩
theorem witness_ContextSave_places : ∃ ps s1, blockPlaces (saving.x 1) .store [0, 1, 0xB] saving = (s1, .inl ps) ∧
    (∀ p ∈ ps, s1.powerWaits p.2.addr = false ∧ p.2.ro = false ∧ p.2.addr % 4096 = 0 ∧
      (p.2.addr + 4096 ≤ privBase saving.cur ∨ privBase saving.cur + 0x80000 ≤ p.2.addr)) ∧ (ps.map fun p => p.2.addr).Nodup :=
  ⟨_, _, blocks_run (by decide +kernel), by decide +kernel⟩
/-- The block stands in a layer without power; a message's slot has no task to fail. -/
theorem witness_ContextSave_waits : let s := saving.modLayer 0 fun l => { l with season := .spring, powered := false }
    s.sound ∧ (∃ ps s1, blockPlaces (s.x 1) .store [0, 1, 0xB] s = (s1, .inl ps) ∧ ∃ p ∈ ps, s1.powerWaits p.2.addr = true) ∧
    s.me.task.map TaskInfo.psize = some 0x1000 ∧ s.saveWaits = false ∧
    (saving.modTower 0 fun w => { w with gpend := [{ core := 0, slot := 0, engine := none, off := 0, op := .add 1, size := 8 }] }).saveWaits = true :=
  ⟨⟨rfl, rfl, by decide +kernel⟩, ⟨_, _, blocks_run (by decide +kernel), by decide +kernel⟩, by decide +kernel⟩
/-- A slot that a resume message holds, with a block at 0x1000000000 whose header is that of context 4 with 8 lanes, or empty. -/
def resuming (w0 : Word) : State := (saving.modMe fun t => { t with occ := .message, resume := some 4 }).modTower 0 (fun w =>
  { w with saved := [{ ctx := 4, info := ⟨0, 0, [], 0, 0, 5, 1, 0, 0, 0, 0, 0, 0, 0, none⟩, taskid := 0, block := 0x1000000000, core := 0, res := 0
                       savedUnits := 0, groups := 1, prio := 0, sent := some (0, 0) }] }) |>.setDword 0x100041800000 w0
theorem witness_ContextRestore : saving.sound ∧ saving.me.level = .S ∧ saving.resuming = none ∧ (resuming 0).sound ∧ (resuming 0).me.level = .S ∧
    (resuming 0).resuming.isSome = true ∧ ((resuming 0).x 1).toNat % 4096 = 0 ∧ 2 ^ 32 ≤ ((resuming 0).x 1).toNat ∧
    ((resuming 0).x 1).toNat < 2 ^ 52 := ⟨⟨rfl, rfl, by decide +kernel⟩, by decide +kernel, by decide +kernel, ⟨rfl, rfl, by decide +kernel⟩, by decide +kernel⟩
/-- The first page is found, and its header is refused (0) or accepted (version 1, context 4, 8 lanes). -/
theorem witness_ContextRestore_places : (∃ ps s1, blockPlaces ((resuming 0).x 1) .load [0] (resuming 0) = (s1, .inl ps) ∧
      (∀ p ∈ ps, s1.powerWaits p.2.addr = false ∧ s1.poisoned p.2.addr 4096 = false) ∧ fld (s1.blockWord ps 0) 0 16 ≠ 1) ∧
    ∃ ps s1, blockPlaces ((resuming 0x800040001).x 1) .load [0] (resuming 0x800040001) = (s1, .inl ps) ∧
      ((∀ p ∈ ps, s1.powerWaits p.2.addr = false ∧ s1.poisoned p.2.addr 4096 = false) ∧
        (∀ k < 50, s1.blockWord ps (8 * k) = if k = 0 then 0x800040001 else 0) ∧ fld (0x800040001 : Word) 0 16 = 1 ∧
        fld (0x800040001 : Word) 32 6 = 8 ∧ fld (0x800040001 : Word) 16 7 = 4 ∧ 8 / 8 ≤ pop4 (force s1.myCore.lpart s1.curSlot)) ∧
      ∃ qs s2, blockPlaces ((resuming 0x800040001).x 1) .load [0] s1 = (s2, .inl qs) ∧
        (∀ p ∈ qs, s2.powerWaits p.2.addr = false ∧ s2.poisoned p.2.addr 4096 = false) ∧ look qs 0 = look ps 0 :=
  ⟨⟨_, _, blocks_run (by decide +kernel), by decide +kernel⟩, _, _, blocks_run (by decide +kernel), by decide +kernel, _, _,
    blocks_run (by decide +kernel), by decide +kernel⟩
/-- Its block's layer may lack power, and Lahar may be frozen. -/
theorem witness_ContextRestore_waits : let s := (resuming 0x800040001).modLayer 0 fun l => { l with season := .spring, powered := false }
    s.sound ∧ (∃ ps s1, blockPlaces (s.x 1) .load [0] s = (s1, .inl ps) ∧ ∃ p ∈ ps, s1.powerWaits p.2.addr = true) ∧ s.resuming.isSome = true ∧
    ((resuming 0x800040001).modTower 0 fun w => { w with lfrz := true }).myTower.lfrz = true ∧ (resuming 0).myTower.lfrz = false :=
  ⟨⟨rfl, rfl, by decide +kernel⟩, ⟨_, _, blocks_run (by decide +kernel), by decide +kernel⟩, by decide +kernel⟩

/-! ### Atomics, checkpoints, the stack broadcast -/

theorem witness_ScalarAtomics : (clus [(1, 0x100200)] 5).sound ∧ (clus [(1, 0x100200)] 5).uncaptured ∧ Memory.wf (clus [(1, 0x100200)] 5).mem = true ∧
    (clus [(1, 0x100200)] 5).myCluster.ckpts = [] ∧ (clus [(1, 0x100200)] 5).releaseWaits 5 = false ∧
    (clus [(1, 0x100200)] 5).check ((clus [(1, 0x100200)] 5).x 1) 8 .atomic 0 storeWindows =
      (.val { win := .clus, addr := clusterBase 0 0 + 0x200 }, ((clus [(1, 0x100200)] 5).check ((clus [(1, 0x100200)] 5).x 1) 8 .atomic 0 storeWindows).2) :=
  ⟨⟨rfl, rfl, by decide +kernel⟩, uncaptured_of rfl, by decide +kernel, by decide +kernel, by decide +kernel, val_of (by decide +kernel)⟩
/-- An atomic before commit on a location that is logged, with room in the log and with none; and one at a global location. -/
theorem witness_ScalarAtomics_logs : let s := (clus [(1, 0x100200)] 5).modMe fun t => { t with post := false }
    s.preCommit = true ∧ Window.logged .clus = true ∧ decide (4096 < s.myCluster.log.length + 1) = false ∧
    decide (4096 < (s.modCluster 0 fun c => { c with log := List.replicate 4096 ⟨1, 0, 0, 0⟩ }).myCluster.log.length + 1) = true ∧
    placeOf ((translated 0).check 0x1000000000 8 .load 0 loadWindows).1 = some { win := .glob, addr := 0x100041800000 } := by decide +kernel
/-- An atomic on an SA page, with a broadcast of the thread under way that a release at `.pkg` awaits and one at `.stack` does not. -/
def shared : State := ((translated 0x1000000000).setDword 0x1012000 (BitVec.ofNat 64 (hostBase + 0x4D))).modTower 0 fun w =>
  { w with gpend := [{ core := 0, slot := 0, engine := none, off := 0, op := .add 1, size := 8 }] }
theorem witness_ScalarAtomics_sa : shared.sound ∧ ∃ p s1, shared.check (shared.x 1) 8 .atomic 0 storeWindows = (.val p, s1) ∧ p.sa = true ∧
    shared.releaseWaits 3 = false ∧ s1.releaseWaits (max 3 5) = true :=
  ⟨⟨rfl, rfl, by decide +kernel⟩, { win := .glob, addr := hostBase, sa := true }, _, val_of (by decide +kernel), by decide +kernel⟩
/-- A misaligned atomic traps, and a release behind an own copy waits. -/
theorem witness_ScalarAtomics_traps : (clus [(1, 0x100204)] 5).check ((clus [(1, 0x100204)] 5).x 1) 8 .atomic 0 storeWindows =
    (.trap 4 0, ((clus [(1, 0x100204)] 5).check ((clus [(1, 0x100204)] 5).x 1) 8 .atomic 0 storeWindows).2) ∧ (clus [(1, 0x100204)] 5).me.level = .T :=
  ⟨trap_of (by decide +kernel), rfl⟩
theorem witness_ScalarAtomics_release : bit (2 : BitVec 2) 1 = true ∧
    ((on th).modTower 0 fun w => { w with gpend := [{ core := 0, slot := 0, engine := none, off := 0, op := .add 1, size := 8 }] }).releaseWaits 5 = true := by
  decide +kernel
/-- A cluster with mark 2 of 64 bytes at 0x100000, its log in Onsen at 0x10010000 holding one entry, and addresses for another mark in
x1 to x3. -/
def marked : State := ((on { th with x := xs [(1, 0x100400), (2, 64), (3, 0x10020000)] }).modCluster 0 fun c =>
  { c with ckpts := [{ id := 2, base := clusterBase 0 0, len := 64, logBase := layerAperture 0 + 0x10010000, count := 1 }] })
    |>.setDword (layerAperture 0 + 0x10010000) 0x100008
theorem witness_Checkpoints : marked.sound ∧ marked.me.occ ≠ .message ∧ (marked.myCluster.ckpts.find? fun m => m.id == 3) = none ∧
    (marked.x 1).toNat % 8 = 0 ∧ (marked.x 2).toNat % 8 = 0 ∧ (marked.x 2).toNat ≠ 0 ∧ 0x100000 ≤ (marked.x 1).toNat ∧
    (marked.x 1).toNat + (marked.x 2).toNat ≤ 0x900000 ∧ (marked.x 3).toNat % 64 = 0 ∧ 0x10000000 ≤ (marked.x 3).toNat ∧
    (marked.x 3).toNat + 65536 ≤ 0x30000000 ∧
    (let pb := clusterBase 0 0 + 0x400
     let pl := layerAperture 0 + 0x10020000
     (pb + 64 ≤ pl ∨ pl + 65536 ≤ pb) ∧ ∀ m ∈ marked.myCluster.ckpts, (pb + 64 ≤ m.base ∨ m.base + m.len ≤ pb) ∧
      (pb + 64 ≤ m.logBase ∨ m.logBase + 65536 ≤ pb) ∧ (pl + 65536 ≤ m.base ∨ m.base + m.len ≤ pl) ∧
      (pl + 65536 ≤ m.logBase ∨ m.logBase + 65536 ≤ pl)) ∧ marked.me.level = .T ∧ ¬((0x900000 : Word).toNat + 8 ≤ 0x900000) ∧
    ¬(∃ g ∈ marked.myTower.gpend, g.core = marked.cur) :=
  ⟨⟨rfl, rfl, by decide +kernel⟩, by decide +kernel⟩
/-- A region at 0x100020 meets the marked one of 64 bytes; a write of the thread may be pending. -/
theorem witness_Checkpoints_overlap : (∀ m ∈ marked.myCluster.ckpts, m.len ≠ 0) ∧
    ¬(∀ m ∈ marked.myCluster.ckpts, clusterBase 0 0 + 0x20 + 64 ≤ m.base ∨ m.base + m.len ≤ clusterBase 0 0 + 0x20) ∧
    (marked.modTower 0 fun w => { w with gpend := [{ core := 0, slot := 0, engine := none, off := 0, op := .add 1, size := 8 }] }).myTower.gpend.any
      (fun g => g.core == marked.cur && g.slot == marked.curSlot.val && g.engine == none) = true := by decide +kernel
theorem witness_Checkpoints_roll : ∃ m, (marked.myCluster.ckpts.find? fun m => m.id == 2) = some m ∧ marked.implicitCommit.releaseWaits 3 = false ∧
    Memory.wf marked.mem = true ∧ m.base % 8 = 0 ∧ (m.base + m.len ≤ m.logBase ∨ m.logBase + 65536 ≤ m.base) ∧ m.count ≤ 4096 ∧ hbmEnd ≤ m.base ∧
    hbmEnd ≤ m.logBase ∧ ∀ i < m.count, (localPlace marked.cur false (marked.dword (m.logBase + 16 * i)).toNat).map Place.addr =
      some (clusterBase 0 0 + 8) ∧ (clusterBase 0 0 + 8) % 8 = 0 ∧ m.base ≤ clusterBase 0 0 + 8 ∧ clusterBase 0 0 + 8 + 8 ≤ m.base + m.len :=
  ⟨_, rfl, by decide +kernel⟩

/-- A thread at the region, with leases and a pending write. -/
def geyser (a : Word) (p : List GWrite := []) (ls : List (Nat × Nat × Nat) := [(8, 0, 0), (9, 1, 0)]) : State :=
  (on { th with x := xs [(1, a), (2, 7)], glease := 1 }).modTower 0 fun w => { w with leases := ls, gpend := p }
/-- A write of the thread, and an addition with a destination. -/
def gw : GWrite := { core := 0, slot := 0, engine := none, off := 16, op := .write 0xFF 7, size := 8 }
def ga : GWrite := { core := 0, slot := 0, engine := none, off := 8, op := .add 5, rd := some 3, size := 8 }
theorem witness_GeyserForms : (geyser 0x31FFFFF8).sound ∧ (geyser 0x31FFFFF8).me.occ ≠ .message ∧ ((geyser 0x31FFFFF8).x 1).toNat % 8 = 0 ∧
    0x30000000 ≤ ((geyser 0x31FFFFF8).x 1).toNat ∧ ((geyser 0x31FFFFF8).x 1).toNat < 0x32000000 ∧ (geyser 0x31FFFFF8).myTower.regionPoison = false ∧
    (geyser 0x31FFFFF8).me.level = .T ∧ ((geyser 0).myTower.gpend.filter fun g => g.core == 0 && g.slot == 0) = [] ∧
    ((geyser 0 [gw]).myTower.gpend.filter fun g => g.core == 0 && g.slot == 0) ≠ [] ∧
    ((geyser 0 [gw]).myTower.gpend.filter fun g => g.engine.isNone).length < 16 ∧ min ((geyser 1).x 1).toNat (geyser 1).me.glease ≠ 0 ∧
    (∀ l ∈ (geyser 1).myTower.leases, l.1 < 256) ∧ ((geyser 1).myTower.leases.map Prod.fst).Nodup ∧
    ((geyser 0x31FFFFF8).modTower 0 fun w => { w with regionPoison := true }).myTower.regionPoison = true ∧ (geyser 0).lanes ≠ 0 ∧
    (31 : BitVec 5).toNat + (128 / 4 - 1) / 32 ≤ 31 := ⟨⟨rfl, rfl, by decide +kernel⟩, by decide +kernel⟩
/-- Slot 8 leased by the thread with a write due, or not leased; commons slot 240 for a thread without leases. -/
def slotted (p : List GWrite) (ls : List (Nat × Nat × Nat)) (k gl : Nat) (wt : Wait) : State :=
  ((geyser 0 p ls).modTower 0 fun w => { w with gslot := k }).modMe fun t => { t with glease := gl, wait := wt }
/-- A beat of engine queue 1, and one that must not pass it. -/
def gb (o : Nat) : GWrite := { gw with engine := some 1, off := o }
theorem witness_GeyserSlots : (slotted [gw] [] 8 0 .none).dueWrite 0 = none ∧ (slotted [ga, gw] [(8, 0, 0)] 8 1 .none).dueWrite 0 = some ga ∧
    (slotted [ga] [] 240 0 (.gamo 3 none)).dueWrite 0 = some ga ∧ gw.slot < 4 ∧ towerOf gw.core = 0 ∧
    (slotted [gb 0, gb 128] [(8, 0, 0)] 8 1 .none).dueWrite 0 = some (gb 0) ∧ gw.engine = none ∧
    Memory.wf (slotted [gw] [] 8 0 .none).mem = true ∧ (slotted [gw] [(8, 0, 0)] 8 1 .none).me.task = none ∧ gw.off + 8 ≤ 0x2000000 ∧
    (slotted [ga] [] 240 0 (.gamo 3 none)).me.wait = .gamo 3 none ∧ ga.rd = some 3 ∧ (slotted [] [] 7 0 .none).dueWrite 0 = none ∧
    layerAperture 0 + 0x30000000 ∈ mirrorBase 0 :: ((List.range 8).filter fun l =>
      let y := (slotted [ga] [] 240 0 (.gamo 3 none)).layer (0 * 8 + l)
      !y.stale && (y.season == .summer || y.season == .autumn)).map fun l => layerAperture (0 * 8 + l) + 0x30000000 := by decide +kernel
theorem witness_GeyserSlots_mask : ∀ i, 8 ≤ i → bit (0xFF : BitVec 128) i = false := by
  intro i h
  unfold bit
  by_cases h2 : i < 128
  · have : ∀ j : Fin 128, 8 ≤ j.val → (0xFF : BitVec 128).getLsbD j = false := by decide +kernel
    exact this ⟨i, h2⟩ h
  · exact BitVec.getLsbD_of_ge _ _ (by omega)


/-! ### Waiting, barriers, heaps -/

theorem witness_SyncForms_waita : (clus [(1, 0x100200), (2, 0x34), (3, 0xFF)] 0x1234).sound ∧ (clus [(1, 0x100200), (2, 0x34), (3, 0xFF)] 0x1234).uncaptured ∧
    Memory.wf (clus [(1, 0x100200), (2, 0x34), (3, 0xFF)] 0x1234).mem = true ∧
    ((0x1234 : Word) ^^^ 0x34) &&& 0xFF = 0 ∧ ((0x1234 : Word) ^^^ 0xF0) &&& 0xFF ≠ 0 ∧
    (let s := clus [(1, 0x100200), (2, 0x34), (3, 0xFF)] 0x1234
     s.check (s.x 1) 8 .load 0 loadWindows = (.val { win := .clus, addr := clusterBase 0 0 + 0x200 }, (s.check (s.x 1) 8 .load 0 loadWindows).2)) :=
  ⟨⟨rfl, rfl, by decide +kernel⟩, uncaptured_of rfl, by decide +kernel, by decide +kernel, by decide +kernel, val_of (by decide +kernel)⟩
/-- BWAIT on a barrier of the cluster and on a word of the private scratchpad; tokens ahead, at, one and two phases behind phase 2. -/
theorem witness_SyncForms_bwait :
    (let s := clus [(1, 0x100200)] 0x200000003
     s.check (s.x 1) 16 .load 0 loadWindows = (.val { win := .clus, addr := clusterBase 0 0 + 0x200 }, (s.check (s.x 1) 16 .load 0 loadWindows).2) ∧
       fld (s.dword (clusterBase 0 0 + 0x200)) 32 16 = 2 ∧ bit (s.dword (clusterBase 0 0 + 0x200)) 48 = false) ∧
    (let s := clus [(1, 0x2000)] 0
     s.check (s.x 1) 16 .load 0 loadWindows = (.val { win := .priv, addr := privBase 0 + 0x2000 }, (s.check (s.x 1) 16 .load 0 loadWindows).2) ∧
       s.me.level = .T) ∧
    32768 ≤ (2 + 65536 - 3) % 65536 ∧ (2 + 65536 - 0) % 65536 = 2 ∧ (2 + 65536 - 1) % 65536 = 1 ∧ (2 + 65536 - 2) % 65536 = 0 :=
  ⟨⟨val_of (by decide +kernel), by decide +kernel⟩, ⟨val_of (by decide +kernel), by decide +kernel⟩, by decide⟩
/-- The barrier of R278's example, and one that expects no arrival; a thread with no registration and one with eight. -/
theorem witness_SyncForms_barr :
    (let s := clus [(1, 0x100200)] 0x20003
     let c := s.check (s.x 1) 16 .atomic 0 loadWindows
     c = (.val { win := .clus, addr := clusterBase 0 0 + 0x200 }, c.2) ∧ c.2.releaseWaits (homeScope s.cur (clusterBase 0 0 + 0x200)) = false ∧
       s.me.occ ≠ .message ∧ fld (s.dword (clusterBase 0 0 + 0x200)) 0 16 ≠ 0 ∧ s.me.regs.contains 0x100200 = false ∧ s.me.regs.length < 8 ∧
       fld (0x20000 : Word) 0 16 = 0 ∧ s.me.level = .T) ∧
    (on { th with regs := [1, 2, 3, 4, 5, 6, 7, 8] }).me.regs.length = 8 ∧ (on { th with regs := [0x100200] }).me.regs.contains 0x100200 = true ∧
    Window.clus ≠ .region := ⟨⟨val_of (by decide +kernel), by decide +kernel⟩, by decide +kernel⟩
/-- A heap of capacity 4 in Onsen with two entries, with none, full, and a malformed one. -/
def heap (w0 : Word) : State := (on { th with x := xs [(1, 0x10000040), (2, 5), (3, 9)] }).setDword (layerAperture 0 + 0x10000040) w0
theorem check_heap : let s := heap 0x400000002
    let c := s.check (s.x 1) 64 .atomic 0 loadWindows
    c = (.val { win := .onsen, addr := layerAperture 0 + 0x10000040 }, c.2) ∧ c.2.releaseWaits 3 = false := ⟨val_of (by decide +kernel), by decide +kernel⟩
theorem witness_SyncForms_heap : (heap 0x400000002).sound ∧ (heap 0x400000002).uncaptured ∧ Memory.wf (heap 0x400000002).mem = true ∧
    (let w (i : Nat) : Word := (heap 0x400000002).dword (layerAperture 0 + 0x10000040 + 8 * i)
     fld (w 0) 0 32 ≤ fld (w 0) 32 32 ∧ fld (w 0) 32 32 ≠ 0 ∧ fld (w 0) 32 32 ≤ 65536 ∧ fld (w 1) 1 63 = 0 ∧ ∀ i < 6, w (i + 2) = 0) ∧
    ((heap 0x400000002).x 1).toNat + 64 + 16 * 4 ≤ 0x30000000 ∧ fld (0x400000002 : Word) 0 32 < fld (0x400000002 : Word) 32 32 ∧
    fld (0x400000002 : Word) 0 32 ≠ 0 ∧ fld (0x400000004 : Word) 0 32 = fld (0x400000004 : Word) 32 32 ∧ fld (0x400000000 : Word) 0 32 = 0 ∧
    ¬(fld (0x400000005 : Word) 0 32 ≤ fld (0x400000005 : Word) 32 32) ∧ (2 : BitVec 5) ≠ 3 :=
  ⟨⟨rfl, rfl, by decide +kernel⟩, uncaptured_of rfl, by decide +kernel⟩

/-- The second word of the first entry is lost. -/
theorem witness_SyncForms_lost : let s : State := { heap 0x400000002 with poison := [layerAperture 0 + 0x10000088] }
    s.sound ∧ s.uncaptured ∧ Memory.wf s.mem = true ∧ s.me.level = .T ∧ s.poisoned (layerAperture 0 + 0x10000040 + (64 + 8 * 1)) 8 = true ∧
    s.poisoned (layerAperture 0 + 0x10000040 + 64) 8 = false ∧ ∃ c, s.check (s.x 1) 64 .atomic 0 loadWindows =
      (.val { win := .onsen, addr := layerAperture 0 + 0x10000040 }, c) ∧ c.releaseWaits 3 = false :=
  ⟨⟨rfl, rfl, by decide +kernel⟩, uncaptured_of rfl, by decide +kernel, by decide +kernel, by decide +kernel, by decide +kernel,
    _, val_of (by decide +kernel), by decide +kernel⟩

/-! ### Tasks -/

theorem witness_TaskForms : (on th).sound ∧ (on th).me.occ = .task ∧ (on th).preCommit = false ∧ (on { th with post := false }).preCommit = true ∧
    (on th).implicitCommit.releaseWaits 5 = false ∧ (on th).myTower.lfrz = false ∧ ((on th).myTower.queues.getD 7 {}).ring.length < 64 ∧
    ((on th).modTower 0 fun w => { w with lfrz := true }).myTower.lfrz = true := ⟨⟨rfl, rfl, by decide +kernel⟩, by decide +kernel⟩
theorem witness_TaskForms_spawn : let s := on { th with x := xs [(1, 0x2000), (2, 5)] }
    (s.x 2).toNat < 2 ^ 32 ∧ s.x 2 ≠ 0 ∧ s.x 3 = 0 ∧
    (∃ ps s1, s.passes .load 8 0 ownWindows (fun k => s.x 1 + BitVec.ofNat 64 (8 * k)) (List.range 16) ps s1 ∧ s1.implicitCommit.releaseWaits 5 = false) ∧
    s.check (s.x 1) 8 .store 0 ownWindows = (.val { win := .priv, addr := privBase 0 + 0x2000 }, (s.check (s.x 1) 8 .store 0 ownWindows).2) :=
  ⟨by decide +kernel, by decide +kernel, by decide +kernel, ⟨_, _, passes_run (by decide +kernel), by decide +kernel⟩, val_of (by decide +kernel)⟩
/-- JOINW finds the word 7 at the page's start, and 0 beyond it. -/
theorem witness_TaskForms_joinw : (let s := translated 0x1000000000
     let c := s.check (s.x 1) 32 .load 0 globWindow
     c = (.val { win := .glob, addr := 0x100041800000 }, c.2) ∧ leNat (s.bytesKey (.random 0) 0x100041800000 8) = 7) ∧
    (let s := translated 0x1000000020
     let c := s.check (s.x 1) 32 .load 0 globWindow
     c = (.val { win := .glob, addr := 0x100041800020 }, c.2) ∧ leNat (s.bytesKey (.random 0) 0x100041800020 8) = 0) :=
  ⟨⟨val_of (by decide +kernel), by decide +kernel⟩, val_of (by decide +kernel), by decide +kernel⟩
/-- Two tasks of one address space: launch 3 in slot 0 or another, launch 3 in slot 1; x1 names every task of the launch in a slot. -/
def killing (own slot : Nat) : State :=
  let task (l : Nat) : TaskInfo := ⟨l, 0, [], 0, 0, 5, 1, 0, 0, 0, 0, 0, 0, 0, none⟩
  ((on { th with task := some (task own), x := xs [(1, BitVec.ofNat 64 (slot * 2 ^ 32))] }).modMyCore fun c =>
    { c with threads := c.threads.set! 1 { th with task := some (task 3) } }).modTower 0 fun w =>
      { w with launches := [(3, ⟨[], 0, 5, 2, 2, 2, 0, 0, 0, [], false, none⟩), (4, ⟨[], 0, 5, 1, 1, 1, 0, 0, 0, [], false, none⟩), (6, ⟨[], 0, 5, 1, 0, 0, 0, 0, 0, [], false, none⟩)] }
theorem witness_TaskForms_kill : (killing 4 3).sound ∧ ((killing 4 3).tower 0).lfrz = false ∧ fld ((killing 4 3).x 1) 32 12 = 3 ∧
    fld ((killing 4 3).x 1) 44 4 = 0 ∧ fld ((killing 4 3).x 1) 49 15 = 0 ∧
    (look ((killing 4 3).implicitCommit.tower 0).launches 3).map Launch.asn = some ((killing 4 3).asnOf 0 0) ∧
    ((killing 4 3).thread 0 1).occ = .task ∧ ((killing 4 3).thread 0 1).task.map TaskInfo.launch = some 3 ∧ ((killing 4 3).thread 0 1).wait = .none ∧
    (killing 3 3).me.task.map TaskInfo.launch = some 3 ∧ fld (0x8000300000000 : Word) 49 15 ≠ 0 := ⟨⟨rfl, rfl, by decide +kernel⟩, by decide +kernel⟩
theorem witness_TaskForms_killWaits :
    (let r := (killing 4 3).implicitCommit.killTasks 0 3 true 0
     r.2.threads = [(0, 1, 0)] ∧ r.1.killWaits r.2.threads (r.2.jobs.map fun j => 2 * j) = true) ∧
    (let r := (killing 4 6).implicitCommit.killTasks 0 6 true 0
     r.2.threads = [] ∧ r.1.killWaits r.2.threads (r.2.jobs.map fun j => 2 * j) = false) := by decide +kernel
/-- Launch 3 with six tasks, four not dispatched yet: one in a slot, one saved, one in the inbox. -/
def scattered : State :=
  let task : TaskInfo := ⟨3, 2, [], 0, 0, 5, 1, 0, 0, 0, 0, 0, 0, 0, none⟩
  ((killing 4 3).modMyCore fun c => { c with inbox := [{ chan := 0, words := [], task := some task }] }).modTower 0 fun w =>
    { w with launches := [(3, ⟨[], 0, 5, 6, 3, 3, 0, 1, 0, [], false, none⟩)]
             saved := [{ ctx := 4, info := task, taskid := 1, block := 0, core := 0, res := 0, savedUnits := 0, groups := 1, prio := 0 }] }
theorem witness_TaskForms_killCount : let w := scattered.tower 0
    (look (scattered.implicitCommit.tower 0).launches 3).map Launch.asn = some (scattered.asnOf 0 0) ∧
    0 + (w.saved.filter fun sv => sv.info.launch == 3).length < 6 ∧ (w.saved.filter fun sv => sv.info.launch == 3).length = 1 ∧
    (∀ p ∈ scattered.cores, ∀ m ∈ p.2.inbox ++ p.2.net, m.ctx ≠ none → m.task = none) ∧ (scattered.cores.map Prod.fst).Nodup ∧
    (scattered.implicitCommit.killTasks 0 3 true 0).2.count = 6 := by decide +kernel

/-- The other tower is named, with both running, and by a tower that runs alone. -/
theorem witness_TaskForms_reached : let s := (on { th with x := xs [(1, 0x1000000000000)] }).modTower 0 fun w => { w with bootStep := 20 }
    fld (s.x 1) 48 1 ≠ towerOf s.cur ∧ s.alone 0 = true ∧ s.sound ∧
    (s.modTower 0 fun w => { w with otherPresent := true }).alone 0 = false :=
  ⟨by decide +kernel, by decide +kernel, ⟨rfl, rfl, by decide +kernel⟩, by decide +kernel⟩

/-! ### The copy engines -/

/-- A thread that issues an engine command: destination, source, a length. -/
def eng (d a n : Word) : State := (vec 2 4 [(3, [0, 1])] 0 [(1, d), (2, a), (3, n)])
/-- A staging set of queue 0 for rows of 64 bytes. -/
def staged (g : Staging) (s : State) : State := s.modMe fun t => { t with staging := t.staging.set! 0 g }
/-- A command of the thread, and a full queue of them. -/
def cmd : EngCmd := { kind := .cpy, core := 0, slot := 0, taskid := 0, asn := 0, dst := 0x100000, src := 0x101000, len := 64, span := 64, units := 1 }
def queued (l : List EngCmd) (s : State) : State := s.modCluster 0 fun c => { c with queues := c.queues.set! 0 l }
theorem witness_EngineForms : (eng 0x100000 0x101000 64).sound ∧ (eng 0x100000 0x101000 64).me.occ ≠ .message ∧
    bit ((eng 0x100000 0x101000 64).x 2) 63 = false ∧ bit (0x8000000000000000 : Word) 63 = true ∧ (eng 0x100000 0x101000 64).me.level = .T ∧
    fld ((eng 0x100000 0x101000 64).x 3) 0 8 ≠ 0 ∧ fld (0x100 : Word) 0 8 = 0 ∧ (eng 0x100000 0x101000 64).myCluster.queues[0].length < 16 ∧
    16 ≤ ((queued (List.replicate 16 cmd) (eng 0x100000 0x101000 64)).myCluster.queues.getD 0 []).length ∧
    (eng 0x100000 0x101000 64).lanes ≠ 0 ∧ cmd.images = false ∧
    ({ cmd with st := { xf := 2 } } : EngCmd).images = true ∧ 1 ≤ 65535 ∧ cmd.kind = .cpy ∧ cmd.core = (eng 0x100000 0x101000 64).cur ∧
    (eng 0x100000 0x101000 64).me.staging[0] = cmd.st :=
  ⟨⟨rfl, rfl, by decide +kernel⟩, by decide +kernel⟩
theorem witness_EngineForms_cpy : (eng 0x100000 0x101000 64).operandsOk cmd 0 = true ∧ (eng 0x100000 0x101000 64).touchTrap cmd = none ∧
    (64 : Nat) < 2 ^ 32 ∧ 64 % cmd.unitLen.1 = 0 ∧ ((eng 0x100000 0x101000 64).touchTrap { cmd with dst := 0x80000 }).isSome = true ∧
    ¬(0x100000000 < 2 ^ 32) ∧ ((eng 0x100000 0x101000 64).dataTouches cmd).2 ++ cmd.sigTouch ≠ [] := by decide +kernel
/-- A box of two by one words passes the limits of CPYT; rows of 64 bytes those of GATH and SCAT. -/
theorem witness_EngineForms_boxes : (eng 0x2000 0x2100 0).vecReady ∧ (3 : BitVec 5).toNat % 2 ^ (eng 0x2000 0x2100 0).vctx.lmul = 0 ∧
    (let w4 : Half := 0x20020002
     fld w4 30 2 = 0 ∧ 1 ≤ fld w4 16 12 ∧ fld w4 16 12 ≤ 2048 ∧ 2 * 2 ^ fld w4 28 2 ≤ 2 ^ 24) ∧
    (staged { rowBytes := 64, rowPitch := 64 } (eng 0x2000 0x2100 0)).sound ∧
    (let c : EngCmd := { cmd with kind := .gath, index := [0, 1, 0, 0], len := 64, span := 256, st := { rowBytes := 64, rowPitch := 64 } }
     1 ≤ c.st.rowBytes.toNat ∧ c.st.rowBytes.toNat ≤ 65536 ∧ c.st.rowBytes.toNat % c.unitLen.1 = 0 ∧
       (eng 0x2000 0x2100 0).operandsOk c 0 = true ∧ (eng 0x2000 0x2100 0).touchTrap c = none) :=
  ⟨⟨⟨rfl, rfl, by decide +kernel⟩, by decide +kernel⟩, by decide +kernel, by decide +kernel, ⟨rfl, rfl, by decide +kernel⟩, by decide +kernel⟩

/-- Three FP32 elements make one and a half bytes of E2M1. -/
theorem witness_EngineForms_halves : 8 * 12 % memBits 0xA = 0 ∧ (12 * memBits 0xF + memBits 0xA - 1) / memBits 0xA = 2 ∧ memBits 0xF = 4 ∧ memBits 0xA = 32 := by decide
/-- The base state with a queue, the thread waiting or not. -/
def running (l : List EngCmd) (w : Wait := .none) : State := queued l (on { th with wait := w })
theorem witness_EngineSteps_accept : (0 : Nat) < coreCount ∧ (running [] (.engineFull 0 cmd)).me.wait = .engineFull 0 cmd ∧ cmd.core = 0 ∧ cmd.slot = 0 ∧
    ((running [] (.engineFull 0 cmd)).queueOf (clusterOf 0) 0).length < 16 ∧
    16 ≤ ((running (List.replicate 16 cmd) (.engineFull 0 cmd)).queueOf (clusterOf 0) 0).length ∧ cmd.kind ≠ .qfence ∧ (1 : BitVec 8) ≠ 0 ∧
    ∀ j e, (running [cmd]).me.wait ≠ .engineFull j e := by
  refine ⟨by decide, rfl, rfl, rfl, by decide +kernel, by decide +kernel, by decide, by decide, fun j e h => ?_⟩
  have h2 : (running [cmd]).me.wait = .none := by decide +kernel
  rw [h2] at h; cases h
theorem places_of {s : State} {c : EngCmd} {use : Use} {l : List (Word × Nat)} {e : EGot} (h : (s.engPlaces c use l).2 = e) :
    s.engPlaces c use l = ((s.engPlaces c use l).1, e) := by
  rw [← h]
theorem witness_EngineSteps_transfer : (((running [cmd]).queueOf 0 0)[0]? = some cmd ∧ ((running [cmd]).layer (0 / 20)).season = .summer ∧
    cmd.paused = false ∧ cmd.error = none ∧ cmd.kind ≠ .qfence ∧ cmd.images = false ∧ xfScaled cmd.st.xf = false ∧ cmd.pos < cmd.units ∧
    clusterOf cmd.core = 0 ∧ (cmd.unitAt cmd.pos).clip = false ∧ Memory.wf (running [cmd]).mem = true) ∧
    ∃ s1 s2 p d, (running [cmd]).engPlaces cmd .load (cuts (cmd.unitAt cmd.pos).src (cmd.unitAt cmd.pos).n) = (s1, .ok [(p, (cmd.unitAt cmd.pos).n)]) ∧
      s1.engPlaces cmd .store (cuts (cmd.unitAt cmd.pos).dst (cmd.unitAt cmd.pos).m) = (s2, .ok [(d, (cmd.unitAt cmd.pos).m)]) ∧ d.win ≠ .region ∧
      d.ro = false :=
  ⟨by decide +kernel, _, _, { win := .clus, addr := clusterBase 0 0 + 0x1000 }, { win := .clus, addr := clusterBase 0 0 }, places_of (by rfl),
    places_of (by rfl), by decide, rfl⟩
/-- A copy of two bytes has one unit to go after a transfer of one; a copy of one word has none. -/
theorem witness_EngineSteps_counts : (let c : EngCmd := { cmd with len := 2, span := 2, units := 2 }
    c.images = false ∧ after (.engineTransfer 0 0 0 1) (running [c]) (fun t => ((t.queueOf 0 0)[0]?).map fun e =>
      (decide (e ≠ c), e.error, e.paused, e.pos, e.units)) = some (some (true, none, false, 1, 2))) ∧
    after (.engineTransfer 0 0 0 1) (running [{ cmd with src := 0x80000 }]) (fun t => ((t.queueOf 0 0)[0]?).map fun e => e.error.isSome) =
      some (some true) := by decide +kernel
/-- Copies from 0x101000: to the region, converted from FP32 to BF16, scaled from FP32 to FP4 with its codes at 0x102000. -/
def regional : EngCmd := { cmd with dst := 0x30000040, units := 2, len := 16, span := 16 }
def converted : EngCmd := { cmd with st := { xf := 0x8A1 } }
def blocked : EngCmd := { cmd with len := 128, span := 16, st := { xf := 0x16A1 + 0x100, scaleAddr := 0x102000 } }
theorem witness_EngineSteps_region : regional.pos + 1 < regional.units ∧ ({ regional with pos := 1 } : EngCmd).pos + 1 = regional.units ∧ regional.emitted = false ∧
    (regional.unitAt 1).m ≠ 0 ∧ ∃ s1 s2 p d, (running [regional]).engPlaces regional .load (cuts (regional.unitAt 1).src (regional.unitAt 1).n) =
        (s1, .ok [(p, (regional.unitAt 1).n)]) ∧
      s1.engPlaces regional .store (cuts (regional.unitAt 1).dst (regional.unitAt 1).m) = (s2, .ok [(d, (regional.unitAt 1).m)]) ∧ d.win = .region ∧ d.ro = false :=
  ⟨by decide, by decide, rfl, by decide +kernel, _, _, { win := .clus, addr := clusterBase 0 0 + 0x1008 },
    { win := .region, addr := layerAperture 0 + 0x30000048 }, places_of (by rfl), places_of (by rfl), rfl, rfl⟩
theorem witness_EngineSteps_converts : ((let u := converted.unitAt 0
    let cnt := 8 * u.n / memBits (xfSrc converted.st.xf)
    xfKind converted.st.xf = 1 ∧ xfScaled converted.st.xf = false ∧ cnt * memBits (xfSrc converted.st.xf) = 8 * u.n ∧
      cnt * memBits (xfDst converted.st.xf) = 8 * u.m ∧ u.n ≠ 0) ∧
    xfScaled blocked.st.xf = true ∧ xfKind blocked.st.xf = 1 ∧ xfSrc blocked.st.xf = 0xA ∧ xfDst blocked.st.xf = 7 ∧ scaledFmt (xfDst blocked.st.xf) = true) ∧
    ∃ s1 s2 s3 p d k, (running [blocked]).engPlaces blocked .load (cuts (blocked.unitAt 0).src (blocked.unitAt 0).n) = (s1, .ok [(p, (blocked.unitAt 0).n)]) ∧
      s1.engPlaces blocked .store (cuts (blocked.unitAt 0).dst (blocked.unitAt 0).m) = (s2, .ok [(d, (blocked.unitAt 0).m)]) ∧
      s2.engPlaces { blocked with kind := .qfence } .store [(blocked.st.scaleAddr, 1)] = (s3, .ok [(k, 1)]) ∧ k.dcls = false ∧ d.win ≠ .region ∧ d.ro = false ∧ k.ro = false ∧ k.key = d.key ∧
      d.addr + (blocked.unitAt 0).m ≤ k.addr :=
  ⟨by decide +kernel, _, _, _,
    { win := .clus, addr := clusterBase 0 0 + 0x1000 }, { win := .clus, addr := clusterBase 0 0 }, { win := .clus, addr := clusterBase 0 0 + 0x2000 },
    places_of (by rfl), places_of (by rfl), places_of (by rfl), rfl, by decide, rfl, rfl, rfl, by decide +kernel⟩
/-- An elide of a dense Haar image in FP32 with 16 rows of 32 kept, and of one with a header of zeros, which is refused. -/
def eliding : EngCmd := { cmd with dst := 0x108000, len := 1, span := 4160, st := { xf := 2 } }
def imaged (w0 w1 : Word) : State := ((running [eliding]).setDword (clusterBase 0 0 + 0x1000) w0).setDword (clusterBase 0 0 + 0x1008) w1
theorem witness_EngineSteps_images : (eliding.images = true ∧ eliding.pos < eliding.units ∧ headerBad 0 0 = true ∧ headerBad 0xA1 0x55555555 = false ∧
    bit (0xA1 : Word) 0 = true ∧ bit (0xA1 : Word) 8 = decide (xfKind eliding.st.xf = 3) ∧ Memory.wf (imaged 0xA1 0x55555555).mem = true) ∧
    let s := imaged 0xA1 0x55555555
    let h : Place := { win := .clus, addr := clusterBase 0 0 + 0x1000 }
    (leNat (s.bytesKey h.key h.addr 8) = 0xA1 ∧ leNat (s.bytesKey h.key (h.addr + 8) 8) = 0x55555555) ∧
    ∃ s1 s2 s3 d, s.engPlaces eliding .load (cuts 0x101000 16) = (s1, .ok [(h, 16)]) ∧ s1.engPlaces eliding .load (cuts 0x101000 4160) = (s2, .ok [(h, 4160)]) ∧
      s2.engPlaces eliding .store (cuts 0x108000 2112) = (s3, .ok [(d, 2112)]) ∧ d.win ≠ .region ∧ d.ro = false :=
  ⟨by decide +kernel, by decide +kernel, _, _, _,
    { win := .clus, addr := clusterBase 0 0 + 0x8000 }, places_of (by rfl), places_of (by rfl), places_of (by rfl), by decide, rfl⟩
/-- The copy's source in no window, and on a page without a translation. -/
theorem witness_EngineSteps_stops : (∃ s1 a, (running [cmd]).engPlaces cmd .load (cuts 0x80000 64) = (s1, .bad a)) ∧
    ∃ s1 f, (running [cmd]).engPlaces cmd .load (cuts 0x1000000000 64) = (s1, .fault f) :=
  ⟨⟨_, _, places_of (by rfl)⟩, _, _, places_of (by rfl)⟩
/-- A box of one element that lies outside its array: the unit is clipped. -/
def clipped : EngCmd := { cmd with kind := .cpyt, dims := 1, layout := [4, 0, 0, 0, 0x20010000, 0, 0, 0], len := 4, span := 4 }
theorem witness_EngineSteps_clip : (clipped.unitAt 0).clip = true ∧ clipped.nofill = false ∧
    ∃ s1 s2 d, (running [clipped]).engPlaces clipped .load [] = (s1, .ok []) ∧
      s1.engPlaces clipped .store (cuts (clipped.unitAt 0).dst (clipped.unitAt 0).m) = (s2, .ok [(d, (clipped.unitAt 0).m)]) ∧ d.win ≠ .region ∧
      d.ro = false ∧ d.dcls = false :=
  ⟨by decide +kernel, rfl, _, _, { win := .clus, addr := clusterBase 0 0 }, rfl, places_of (by rfl), by decide, rfl, rfl⟩
theorem witness_EngineSteps_complete : (running []).queueOf 0 0 = [] ∧ (running [cmd]).queueOf 0 0 = [cmd] ∧ cmd.finished = false ∧
    (running [{ cmd with pos := 1 }]).queueOf 0 0 = { cmd with pos := 1 } :: [] ∧ { cmd with pos := 1 }.finished = true ∧ clusterOf cmd.core = 0 ∧
    cmd.st.sigAddr = 0 ∧ cmd.st.sigBar = 0 ∧ cmd.launch = none ∧
    localPlace 0 true (0x100200 : Word).toNat = some { win := .clus, addr := clusterBase 0 0 + 0x200 } := by decide +kernel
/-- A completion value at 0x100200. -/
theorem witness_EngineSteps_signal : let c := { cmd with pos := 1, st := { sigAddr := 0x100200, sigVal := 9 } }
    c.finished = true ∧ c.noSig = false ∧ ∃ s1 p, (running [c]).engPlaces { c with kind := .qfence, error := none } .store [(c.st.sigAddr, 8)] = (s1, .ok [(p, 8)]) :=
  ⟨by decide +kernel, rfl, _, { win := .clus, addr := clusterBase 0 0 + 0x200 }, places_of (by rfl)⟩
/-- A fence on its own queue that is its oldest entry, and one behind a copy. -/
theorem witness_EngineSteps_fence : let f := { cmd with kind := .qfence, mask := 1, stamp := 5 }
    ((running [f]).queueOf 0 0)[0]? = some f ∧ f.kind = .qfence ∧ (∀ j < 8, bit f.mask j = true → ∀ x ∈ (running [f]).queueOf 0 j, f.stamp ≤ x.stamp) ∧
    ¬(∀ j < 8, bit f.mask j = true → ∀ x ∈ (running [cmd, f]).queueOf 0 j, f.stamp ≤ x.stamp) := by decide +kernel

/-- The barrier of a command that has finished, at 0x100200, which an earlier copy has still to write, or has not; the barrier is lost. -/
def arriving : EngCmd := { cmd with pos := 1, stamp := 9, st := { sigBar := 0x100200 } }
theorem witness_EngineSteps_barrier : arriving.finished = true ∧ arriving.st.sigBar ≠ 0 ∧ arriving.st.sigAddr = 0 ∧ arriving.launch = none ∧
    (queued [arriving] ((on th).modCluster 0 fun k => { k with queues := k.queues.set! 1 [{ cmd with dst := 0x100200, stamp := 3 }] })).checkerHolds
      arriving 0x100200 16 true = true ∧
    (running [arriving]).checkerHolds arriving 0x100200 16 true = false ∧
    ({ running [arriving] with poison := [clusterBase 0 0 + 0x200] } : State).poisoned (clusterBase 0 0 + 0x200) 8 = true := by decide +kernel


/-! ### Lahar -/

/-- A core whose slots are free, with a tower. -/
def lahar (f : Tower → Tower) : State := ((on {}).modMyCore fun c => { c with lpart := 0 }).modTower 0 f
/-- A launch record of n items for every layer and cluster of tower 0 and every class, without pool or join object. -/
def launchRecord (n : Nat) : List Word :=
  (((List.replicate 16 0).set 2 (BitVec.ofNat 64 (n + 0xF * 2 ^ 32))).set 4 0xFFFFFFFFFFFFFFFF).set 5 0x3FFFFFFD
/-- A tower whose boot has ended, with a ring in queue 0. -/
def ringed (l : List QEntry) (w : Tower) : Tower := { w with bootStep := 20, queues := w.queues.set! 0 { ring := l } }
theorem witness_LaunchRecords_enqueue : (lahar id).myTower.bootStep ≠ 20 ∧ ((lahar (ringed [])).tower 0).bootStep = 20 ∧
    ((lahar (ringed [])).tower 0).lfrz = false ∧ (((lahar (ringed [])).tower 0).queues.getD 0 {}).ring.length < 64 ∧
    64 ≤ (((lahar (ringed (List.replicate 64 ⟨launchRecord 1, 5, 1, none, none⟩))).tower 0).queues.getD 0 {}).ring.length ∧
    ((lahar fun w => { ringed [] w with lfrz := true }).tower 0).lfrz = true ∧ ((lahar fun w => { ringed [] w with lfrz := true }).tower 0).held = [] ∧
    ∃ h ∈ ((lahar fun w => { ringed [] w with lfrz := true, held := [(0, 5, 0, [])] }).tower 0).held, h.1 = 0 := by decide +kernel
/-- A record that no cause of R370 applies to, of one item or none, and one whose level is not its queue's (cause 1). -/
def entry0 (r : List Word) : QEntry := { record := r, asn := 5, stamp := 1 }
def accepting (r : List Word) : State := lahar (ringed [entry0 r])
theorem witness_LaunchRecords_good : let s := accepting (launchRecord 1)
    let v (i : Nat) : Word := (launchRecord 1).getD i 0
    (s.tower 0).lfrz = false ∧ ((s.tower 0).queues.getD 0 {}).ring.find? (·.accepted.isNone) = some (entry0 (launchRecord 1)) ∧
    (∀ j < 64, j ≠ 0 → ((s.tower 0).queues.getD j {}).ring = []) ∧ (0 : Nat) % 8 ≠ 7 ∧
    (fld (v 2) 43 5 = 0 ∧ fld (v 2) 49 15 = 0 ∧ fld (v 5) 30 34 = 0 ∧ fld (v 6) 18 14 = 0 ∧ fld (v 7) 0 12 = 0) ∧ fld (v 2) 40 3 = 0 ∧
    (fld (v 2) 32 8 ≠ 0 ∧ fld (v 2) 36 4 = 0) ∧ fld (v 6) 0 6 = 0 ∧ fld (v 6) 6 4 = 0 ∧ fld (v 6) 10 8 = 0 ∧ v 1 = 0 ∧ v 3 = 0 ∧
    s.objOf 0 (fld (v 0) 32 32) = none ∧ s.replayRefused 0 5 (launchRecord 1) = false ∧
    (towerOf 0 = 0 ∧ s.present 0 = true ∧ bit (v 5) 0 = true ∧ bit (v 5) (2 + layerOf 0 % 8) = true ∧ bit (v 5) (10 + cluIdx 0) = true ∧
      bit (v 2) (32 + s.clsOf 0) = true ∧ s.clsOf 0 < 8 ∧ 1 ≤ pop4 (s.groupMask 0) ∧ (s.core 0).xb.toNat + 4096 ≤ 0x80000) ∧
    v 4 = 0xFFFFFFFFFFFFFFFF ∧ (s.tower 0).launches.length < 4096 ∧ fld (v 2) 0 32 ≠ 0 ∧ fld ((launchRecord 0).getD 2 0) 0 32 = 0 ∧
    bit (v 2) 48 = false ∧ (bit (v 5) 0 = true ∧ bit (v 5) 1 = false) := by decide +kernel
theorem witness_LaunchRecords_refused : let r := (launchRecord 1).set 2 0x010F00000001
    fld (r.getD 2 0) 40 3 ≠ 0 / 8 ∧ fld (r.getD 2 0) 43 5 = 0 ∧ fld (r.getD 2 0) 49 15 = 0 ∧ r.getD 3 0 = 0 ∧ (0 : Nat) % 8 ≠ 7 ∧
    ((accepting r).tower 0).lfrz = false := by decide +kernel
/-- A record for the other tower alone, and a record that came from there. -/
theorem witness_LaunchRecords_forwarded : let r := (launchRecord 1).set 5 0x3FFFFFFE
    bit (r.getD 5 0) 0 = false ∧ bit (r.getD 5 0) 1 = true ∧
    ((lahar fun w => { ringed [] w with forwarded := [(0, entry0 (launchRecord 1))] }).tower 0).forwarded = (0, entry0 (launchRecord 1)) :: [] ∧
    ((lahar fun w => { ringed [] w with forwarded := [(0, entry0 (launchRecord 1))] }).tower 0).bootStep = 20 ∧
    ((lahar fun w => { ringed [] w with lfrz := true }).tower 0).lfrz = true := by decide +kernel
/-- The record of a launch whose object has data on a page of a layer without power; once the page is powered, and once the data are loaded. -/
def dataObj (sp : List Nat := []) : CodeObj := { id := 0, portable := false, base := 16, data := [(0x1000000000, [1, 2])], spaces := sp }
def fed (o : CodeObj := dataObj) : State := (translated 0).modTower 0 fun w => { ringed [entry0 (launchRecord 1)] w with objects := [o] }
theorem witness_LaunchRecords_data : let s := fed.modLayer 0 fun l => { l with season := .spring, powered := false }
    s.objOf 0 (fld ((launchRecord 1).getD 0 0) 32 32) = some dataObj ∧ s.dataWaits 0 5 dataObj = some 0x100041800000 ∧
    fed.dataWaits 0 5 dataObj = none ∧ (5 ∈ (dataObj [5]).spaces) ∧ (fed (dataObj [5])).dataWaits 0 5 (dataObj [5]) = none := by decide +kernel
/-- A pool of 5 × 4 items in bands of two rows, at item 9 or exhausted, and a request of the task or of one that has gone. -/
def pooled (cursor stamp : Nat) : State := (on th).modTower 0 fun w =>
  { w with pools := [(3, { rows := 5, cols := 4, w := 2, cursor := cursor, launch := some 1 })]
           wqry := [{ core := 0, slot := 0, stamp := stamp, addr := privBase 0 + 0x2000, launch := 1 }] }
theorem witness_LaunchRecords_pools : ((pooled 9 0).tower 0).wqry = [⟨0, 0, 0, privBase 0 + 0x2000, 1⟩] ∧ ((pooled 9 0).tower 0).lfrz = false ∧
    look ((pooled 9 0).tower 0).launches 1 = none ∧ Memory.wf (pooled 9 0).mem = true ∧ hbmEnd ≤ privBase 0 + 0x2000 ∧
    (((pooled 9 0).tower 0).pools.find? fun p => p.2.launch == some 1) = some (3, ⟨5, 4, 2, 9, some 1⟩) ∧ 9 < 5 * 4 ∧ 5 * 4 ≤ 65535 ∧
    (((pooled 20 0).tower 0).pools.find? fun p => p.2.launch == some 1) = some (3, ⟨5, 4, 2, 20, some 1⟩) ∧ 5 * 4 ≤ 20 ∧
    ((pooled 9 0).thread 0 0).bindStamp = 0 ∧ ((pooled 9 7).thread 0 0).bindStamp ≠ 7 ∧ ((pooled 9 0).thread 0 0).wait = .none := by decide +kernel

/-- Launch 2 captures into a buffer of 1024 bytes at 0x1000000000, or replays the two records that it holds, of KIND 3 from cores 5 and 6. -/
def capturing (c : Capture) : State :=
  let s := ((translated 0).setDword 0x1012000 0x10004180000D).modTower 0 fun w => { w with launches := [(2, ⟨launchRecord 1, 0, 5, 1, 0, 0, 0, 0, 0, [], false, some c⟩)] }
  [(0, 2), (64, 0x503), (96, 0x603)].foldl (fun st (p : Nat × Word) => st.setDword (0x100041800000 + p.1) p.2) s
def buffer (used : Nat) : Capture := { replay := false, base := 0x1000000000, size := 1024, used := used }
theorem witness_LaunchRecords_capture :
    (look ((capturing (buffer 0)).tower 0).launches 2).map Launch.capture = some (some (buffer 0)) ∧ 64 + 32 * (0 + 1) ≤ (buffer 0).size ∧
    (buffer 30).size < 64 + 32 * (30 + 1) ∧ ({ buffer 0 with ovf := true } : Capture).ovf = true ∧
    ∃ p u q, (capturing (buffer 0)).calderaPlace 0 5 (0x1000000000 + 64) .store = .ok p ∧
      ((capturing (buffer 0)).write p.key p.addr (leBytes 8 0x503 ++ leBytes 8 0 ++ leBytes 8 0 ++ leBytes 8 0)).calderaPlace 0 5 0x1000000000 .store = .ok u ∧
      (capturing (buffer 30)).calderaPlace 0 5 (0x1000000000 + 8) .store = .ok q :=
  ⟨by decide +kernel, by decide, by decide, rfl, _, _, _, by rfl, by rfl, by rfl⟩
/-- The task of a captured launch adds at the cluster's word 0x100200, arrives at a barrier there, and takes from a heap. -/
def eventful (s : State) : State := (s.modMe fun t => { t with task := some ⟨2, 0, [], 0, 0, 5, 1, 0, 0, 0, 0, 0, 0, 0, none⟩ }).modTower 0 fun w =>
  { w with launches := [(2, ⟨launchRecord 1, 0, 5, 1, 0, 0, 0, 0, 0, [], false, some (buffer 0)⟩)] }
theorem witness_LaunchRecords_events : (let s := eventful (clus [(1, 0x100200)] 0x20003)
      s.sound ∧ s.me.occ ≠ .message ∧ Memory.wf s.mem = true ∧ towerOf s.cur = 0 ∧ s.me.task.map TaskInfo.launch = some 2 ∧ s.releaseWaits 5 = false ∧
      s.check (s.x 1) 8 .atomic 0 storeWindows = (.val { win := .clus, addr := clusterBase 0 0 + 0x200 }, (s.check (s.x 1) 8 .atomic 0 storeWindows).2) ∧
      s.myCluster.ckpts = [] ∧ physKind (clusterBase 0 0 + 0x200) = .cluster 0 ∧
      s.check (s.x 1) 16 .atomic 0 loadWindows = (.val { win := .clus, addr := clusterBase 0 0 + 0x200 }, (s.check (s.x 1) 16 .atomic 0 loadWindows).2) ∧
      (s.check (s.x 1) 16 .atomic 0 loadWindows).2.releaseWaits (homeScope s.cur (clusterBase 0 0 + 0x200)) = false ∧
      fld (s.dword (clusterBase 0 0 + 0x200)) 0 16 = 3 ∧ fld (s.dword (clusterBase 0 0 + 0x200)) 16 16 = 2) ∧
    (let s := eventful (heap 0x400000002)
     s.sound ∧ s.poison = [] ∧ s.check (s.x 1) 64 .atomic 0 loadWindows = (.val { win := .onsen, addr := layerAperture 0 + 0x10000040 },
        (s.check (s.x 1) 64 .atomic 0 loadWindows).2) ∧ (s.check (s.x 1) 64 .atomic 0 loadWindows).2.releaseWaits 3 = false) :=
  ⟨⟨⟨rfl, rfl, by decide +kernel⟩, by decide +kernel, by decide +kernel, by decide +kernel, by decide +kernel, by decide +kernel,
    val_of (by decide +kernel), by decide +kernel, by decide +kernel, val_of (by decide +kernel), by decide +kernel⟩,
    ⟨rfl, rfl, by decide +kernel⟩, rfl, val_of (by decide +kernel), by decide +kernel⟩
/-- An event of core 5 agrees with the first record, one of core 6 with the second only, one of core 7 with none. -/
theorem witness_LaunchRecords_replay : let s := capturing { buffer 0 with replay := true }
    (s.bufRead 0 5 0x1000000000 8).getD 0 = 2 ∧
    ((s.bufRecords 0 5 0x1000000000 2 2 0).filter fun r => r.kind != 6 && r.point s == (2, 0)).map (fun r => (r.kind, r.core, r.v0, fld r.v1 0 32)) =
      [(3, 5, 0, 0), (3, 6, 0, 0)] := by decide +kernel
/-- Without an end to its boot, and where tower 0 has stopped and the part is without its host link, an enqueue is dropped; this tower alone. -/
theorem witness_LaunchRecords_unlinked : ((lahar fun w => { ringed [] w with bootStep := 21 }).tower 0).bootStep = 21 ∧ (lahar fun w => { ringed [] w with otherPresent := true }).alone 0 = false ∧ (lahar (ringed [])).alone 0 = true ∧
    (((pooled 9 0).modThread 0 0 fun t => { t with wait := .retiring .done none }).thread 0 0).wait = .retiring .done none ∧ (pooled 9 0).me.occ = .task := by
  decide +kernel

/-- A launch at the head of queue 0 whose entry is bound to channel 5 of core 0. -/
def placing (w : Tower) : Tower :=
  { ringed [{ entry0 (launchRecord 2) with accepted := some 0 }] w with
    launches := [(0, ⟨launchRecord 2, 0, 5, 2, 0, 0, 0, 0, 0, [], false, none⟩)], binding := [((0, 0, 0, 0), 5)] }
theorem witness_TaskPlacement_eligible : ((lahar placing).core 0).resv = [] ∧ (lahar placing).eligible 0 0 (launchRecord 2) 0 0 = some 0x7F000 := by
  decide +kernel
theorem witness_TaskPlacement_dispatch : ((lahar placing).placement 0 0).map (fun x => (x.2.2.1, x.2.2.2.1, x.2.2.2.2)) = some (false, 0, 0x7F000) ∧
    ((lahar placing).tower 0).rr.getD 0 7 < 8 ∧ (∀ x < 64, 0 < x → (lahar placing).placement 0 x = none) ∧
    ((lahar placing).tower 0).lfrz = false ∧ (∀ x < 64, (lahar (ringed [])).placement 0 x = none) ∧
    (((lahar placing).tower 0).queues.getD 0 {}).returned = [] ∧
    (((lahar placing).tower 0).queues.getD 0 {}).ring = { entry0 (launchRecord 2) with accepted := some 0 } :: [] ∧
    (look ((lahar placing).tower 0).launches 0).bind Launch.nextIndex = some 0 :=
  by decide +kernel
/-- A task record under way, on its channel or in the inbox of a core that may bind it. -/
def coming (inbox : Bool) : State :=
  let i : TaskInfo := ⟨0, 0, (List.range 8).map (BitVec.ofNat 64), 0, 0, 5, 1, 0, 0x1000, 0x1000, 0, 0, 1, 0, none⟩
  let m : Msg := { chan := 5, words := i.words, task := some i }
  (lahar placing).modCore 0 fun c => { c with net := if inbox then [] else [m], inbox := if inbox then [m] else []
                                              hent := c.hent.set! 5 0x1000000240 }
theorem witness_TaskPlacement_arrival : (((coming false).core 0).net[0]?).map Msg.chan = some 5 ∧ ((coming false).core 0).inbox.length < 64 ∧
    ((coming false).layer (layerOf 0)).season = .summer ∧ (look ((coming false).tower 0).launches 0).map Launch.capture = some none := by decide +kernel
theorem witness_TaskPlacement_binding : ((coming true).thread 0 0).occ = .free ∧ ((coming true).core 0).resv = [] ∧
    bit (((coming true).core 0).hent.getD 5 0) 36 = true ∧ bit (((coming true).core 0).hent.getD 5 0) 35 = false ∧
    (((coming true).core 0).inbox.map Msg.chan) = [5] ∧ (((coming true).core 0).inbox.find? fun x => x.chan == 5).isSome = true ∧
    ((coming true).layer 0).season = .summer ∧ ((coming false).core 0).inbox = [] ∧
    (∀ h < 31, h ≠ 5 → ((coming true).core 0).inbox.all (fun m => m.chan != h) = true) := by decide +kernel
/-- A replay of a run in which task 0 was bound to slot 2 of core 0, which is open, or not. -/
def recorded (u : Thread) : State := ((coming true).modCore 0 fun c => { c with threads := c.threads.set! 2 u }).modTower 0 fun w =>
  { w with captured := [{ buffer := 0, fields := [], slots := [(0, 0, 2)] }]
           launches := [(0, ⟨launchRecord 2, 0, 5, 2, 0, 0, 0, 0, 0, [], false, some { buffer 0 with replay := true }⟩)] }
theorem witness_TaskPlacement_recorded : (∀ u ∈ [{}, th], ((recorded u).core 0).inbox.findSome? (fun m => m.task.bind fun i => (recorded u).recordedSlot 0 i) = some 2) ∧
    ((recorded {}).thread 0 2).occ = .free ∧ ((recorded th).thread 0 2).occ ≠ .free ∧ ((recorded th).layer 0).season = .summer ∧
    ((recorded {}).core 0).resv = [] ∧ bit (((recorded {}).core 0).hent.getD 5 0) 36 = true ∧
    ((coming true).core 0).inbox.findSome? (fun m => m.task.bind fun i => (coming true).recordedSlot 0 i) = none := by decide +kernel
/-- A message of channel 31 goes first. -/
theorem witness_TaskPlacement_first : let s := (coming true).modCore 0 fun c => { c with inbox := c.inbox ++ [{ chan := 31, words := [0x10], target := some 9 }] }
    (∃ m ∈ (s.core 0).inbox, m.chan = 31 ∧ s.takenAs 0 m ≠ .wait) ∧ ¬(∃ m ∈ ((coming true).core 0).inbox, m.chan = 31) ∧
    (∀ x ∈ ((coming false).core 0).net.take 0, x.chan = 31) := by decide +kernel
/-- Every slot of core 0 holds a task of level 0; a record of level 1 waits in queue 8. No other core has its entry bound. -/
def crowded (pdly : Nat) : State :=
  let i : TaskInfo := ⟨1, 0, [], 0, 0, 5, 1, 0, 0x1000, 0x1000, 0, 0, 1, 0, none⟩
  let t (k : Nat) : Thread := { th with post := false, task := some { i with pbase := 0x1000 * (k + 1) }, bindStamp := k }
  let r := (launchRecord 1).set 2 0x010F00000001
  ((lahar id).modCore 0 fun c => { c with threads := #v[t 0, t 1, t 2, t 3], lpart := 0x8421 }).modTower 0 fun w =>
    { w with pdly := pdly, binding := [((0, 0, 0, 1), 5)], launches := [(0, ⟨r, 8, 5, 1, 0, 0, 0, 0, 0, [], false, none⟩)]
             queues := w.queues.set! 8 { ring := [{ entry0 r with accepted := some 0 }] } }
/-- That the delay has passed rests on the clock, whose values are free. -/
theorem witness_TaskPlacement_preempt (h : 7 < Config.cyclesTo (crowded 7).steps - Config.cyclesTo (((crowded 7).tower 0).queues.getD 8 {}).since) :
    ((crowded 7).tower 0).pdly < Config.cyclesTo (crowded 7).steps - Config.cyclesTo (((crowded 7).tower 0).queues.getD 8 {}).since ∧
    ((crowded 7).tower 0).lfrz = false ∧ ((crowded 7).tower 0).pdly ≠ 0 ∧ ((crowded 7).headOf 0 8).isSome = true ∧ (crowded 7).placement 0 8 = none ∧
    ((crowded 7).tower 0).preempts = [] ∧ ((crowded 7).thread 0 3).occ = .task ∧ ((crowded 7).thread 0 3).post = false ∧
    (crowded 7).wouldFit 0 8 ((launchRecord 1).set 2 0x010F00000001) 1 0 3 = true ∧ ((crowded 0).tower 0).pdly = 0 := by
  have hp : ((crowded 7).tower 0).pdly = 7 := by decide +kernel
  exact ⟨by rw [hp]; exact h, by decide +kernel⟩


/-! ### A join object -/

/-- Tables of address space 5 with one leaf of 1 GiB at 0x1000000000, onto HBM at 0x40000000. -/
def joined (t : Thread) (f : Tower → Tower := id) : State :=
  { (on t).modTower 0 fun w => { f w with asd := [(5, 0x1000001)] } with
    mem := (((on th).setDword 0x1000000 0x1010003).setDword 0x1010200 0x4000000D).mem }

theorem locate_hbm (t : State) {a : Nat} (hb : a < 0x4000000000) : t.locate 0 a = some a := by
  have hk : physKind a = .hbm := by unfold physKind; rw [if_pos (Nat.lt_of_lt_of_le hb (by decide))]
  have hh : homeTower a = some 0 := by
    unfold homeTower
    rw [hk]
    exact congrArg some (Nat.div_eq_of_lt hb)
  unfold State.locate
  rw [hk]
  simp [hh]

/-- One step of a walk onto an entry that stands in HBM. -/
theorem walk_entry {t : State} {va level shift width table : Nat} {rest : List (Nat × Nat × Nat)} (a : Nat) (e : Word)
    (ha : table + 8 * (va / 2 ^ shift % 2 ^ width) = a) (hb : a < 0x4000000000) (hp : t.poison = [])
    (he : BitVec.ofNat 64 (leNat (t.bytesKey (.random t.key0) a 8)) = e) (hv : bit e 0 = true)
    (hm : t.malformed e level shift = false) : (t.walkFrom 0 5 0 va [] ((level, shift, width) :: rest) table).1 =
      if bit e 1 then (t.walkFrom 0 5 0 va [] rest (ptePA e)).1
      else .leaf { asn := 5, base := va / 2 ^ shift * 2 ^ shift, size := 2 ^ shift, leaf := e } := by
  have hl : t.locate 0 a = some a := locate_hbm t hb
  have hq : t.poisoned a 8 = false := by simp [State.poisoned, hp]
  have hh : a < hbmEnd := Nat.lt_of_lt_of_le hb (by decide)
  have hx : t.tableEntry 0 0 va (level, shift, width) table = .inl e := by
    unfold State.tableEntry
    simp only [ha, hl, hh, State.keyOf, if_true, hq, he, hv, hm]
    simp
  rw [State.walkFrom]
  simp only [List.find?_nil, hx]
  split <;> rfl

theorem malformed_same (s : State) {t : State} {e : Word} {level shift : Nat} (h : fld e 48 10 = 0) :
    t.malformed e level shift = s.malformed e level shift := by simp [State.malformed, h]

theorem joinAt_joined (u : Thread) (f : Tower → Tower) : (joined u f).joinAt 0 5 0x1000000040 { win := .glob, addr := 0x40000040 } := by
  have hr : ∀ t : State, t.key0 = 0 → (∀ key b, b / 64 ≠ 0x40000040 / 64 → t.byteKey key b = (joined u f).byteKey key b) →
      BitVec.ofNat 64 (leNat (t.bytesKey (.random t.key0) 0x1000000 8)) = 0x1010003 ∧
        BitVec.ofNat 64 (leNat (t.bytesKey (.random t.key0) 0x1010200 8)) = 0x4000000D := by
    intro t hk hb
    have hs : ∀ a, (∀ i < 8, (a + i) / 64 ≠ 0x40000040 / 64) → t.bytesKey (.random t.key0) a 8 = (joined u f).bytesKey (.random 0) a 8 := by
      intro a ha
      rw [hk]
      exact List.map_congr_left fun i hi => hb _ _ (ha i (List.mem_range.mp hi))
    have hj : ∀ a, (joined u f).bytesKey (.random 0) a 8 = (joined th).bytesKey (.random 0) a 8 := fun _ => rfl
    rw [hs _ (by omega), hs _ (by omega), hj, hj]
    decide +kernel
  have hwf : Memory.wf (joined th).mem = true := by decide +kernel
  refine ⟨rfl, hwf, by decide, rfl, fun l hl => absurd (hl.symm.trans (by decide +kernel : sramLayer 0x40000040 = none)) nofun, fun t hp hkeys hkey0 hpkg htow _ hbytes off ho => ?_⟩
  have hk0 : t.key0 = 0 := hkey0
  obtain ⟨h1, h2⟩ := hr t hk0 hbytes
  have hasd : look (t.tower 0).asd 5 = some 0x1000001 := by rw [(htow 0).1]; rfl
  have hlt : off < 64 := by simp only [List.mem_cons, List.not_mem_nil, or_false] at ho; omega
  have hw : t.walk 0 5 (0x1000000040 + off) = .leaf { asn := 5, base := 0x1000000000, size := 2 ^ 30, leaf := 0x4000000D } := by
    have hv1 : (0x1000000040 + off) / 2 ^ 39 % 2 ^ 13 = 0 := by omega
    have hv2 : (0x1000000040 + off) / 2 ^ 30 % 2 ^ 9 = 64 := by omega
    have hv3 : (0x1000000040 + off) / 2 ^ 30 * 2 ^ 30 = 0x1000000000 := by omega
    unfold State.walk State.walkWith
    rw [hasd]
    have hd : (bit (0x1000001 : Word) 0 && (inHbm (fld (0x1000001 : Word) 16 32 * 65536) || inHost (fld (0x1000001 : Word) 16 32 * 65536))) = true := by
      decide +kernel
    simp only [Option.getD_some, hd, if_true]
    rw [show fld (0x1000001 : Word) 48 10 = 0 by decide +kernel, show fld (0x1000001 : Word) 16 32 * 65536 = 0x1000000 by decide +kernel, walkLevels,
      walk_entry 0x1000000 0x1010003 (by rw [hv1]) (by decide) hp h1 (by decide +kernel) ((malformed_same (on th) (by decide +kernel)).trans (by decide +kernel))]
    rw [if_pos (by decide +kernel : bit (0x1010003 : Word) 1 = true), show ptePA (0x1010003 : Word) = 0x1010000 by decide +kernel,
      walk_entry 0x1010200 0x4000000D (by rw [hv2]) (by decide) hp h2 (by decide +kernel) ((malformed_same (on th) (by decide +kernel)).trans (by decide +kernel)), hv3]
    rfl
  have hn : (0x1000000040 : Word).toNat = 0x1000000040 := by decide
  unfold State.calderaPlace
  rw [hn, if_neg (by omega), hw]
  unfold State.leafPlace
  have hb : ptePA (0x4000000D : Word) = 0x40000000 := by decide +kernel
  have hl : t.locate 0 (0x40000040 + off) = some (0x40000040 + off) := locate_hbm t (by omega)
  have hx : 0x40000000 + (0x1000000040 + off - 0x1000000000) = 0x40000040 + off := by omega
  simp only [hb, hx, hl]
  rw [show fld (0x4000000D : Word) 48 10 = 0 by decide +kernel]
  have hro : t.readOnly (0x40000040 + off) = false := by
    unfold State.readOnly
    rw [Nat.mod_eq_of_lt (Nat.lt_of_lt_of_le (show 0x40000040 + off < 0x4000000000 by omega) (by decide)),
      physKind, if_pos (Nat.lt_of_lt_of_le (show 0x40000040 + off < 0x4000000000 by omega) (by decide))]
  simp only [ite_self, State.keyOf, if_true, hk0, hro]
  rfl

/-! ### Ends and waits -/

/-- A task of address space 5 that is leaving its slot, with a join object or none. -/
def leaving (e : Ending) (post : Bool) (join : Word) (regs : List Nat := []) (l : Bool := false) : State :=
  joined { th with wait := .retiring e none, post := post, regs := regs, task := some ⟨0, 0, [], 0, 0, 5, 1, 0, 0x1000, 0x1000, 0, 0, 1, join, none⟩ }
    fun w => { w with lfrz := l, launches := [(0, ⟨launchRecord 2, 0, 5, 2, 2, 2, 0, 0, 0, [], false, none⟩)] }
theorem witness_EndsAndWaits_retire : (0 : Nat) < coreCount ∧ ((leaving .done true 0).tower 0).lfrz = false ∧ (leaving .done true 0).me.occ = .task ∧
    (leaving .done true 0).me.wait = .retiring .done none ∧ (leaving .discarded false 0).me.wait = .retiring .discarded none ∧
    (leaving .discarded false 0).me.post = false ∧ (leaving .done true 0).me.regs = [] ∧ ((leaving .done true 0).tower 0).gpend = [] ∧
    (∀ j : Fin 8, (leaving .done true 0).myCluster.queues[j] = []) ∧ (leaving .done true 0).myCore.slices = [] ∧
    ((leaving .done true 0 [] true).tower 0).lfrz = true ∧ ((leaving .done true 0).tower 0).preempts = [] ∧
    ((look ((leaving .done true 0).tower 0).launches 0).map fun l => (l.retired + 1, l.count)) = some (1, 2) := by decide +kernel
/-- A join object of the task, whose tables stand; a barrier that it has registered with. -/
theorem witness_EndsAndWaits_join : (leaving .faulted true 0x1000000040).joinAt 0 5 0x1000000040 { win := .glob, addr := 0x40000040 } ∧
    (0x1000000040 : Word) ≠ 0 ∧ (leaving .faulted true 0x1000000040).me.wait = .retiring .faulted none ∧ (leaving .faulted true 0x1000000040).me.post = true ∧
    localPlace 0 false 0x100200 = some { win := .clus, addr := clusterBase 0 0 + 0x200 } ∧ Memory.wf (leaving .done true 0 [0x100200]).mem = true ∧
    (leaving .done true 0 [0x100200]).me.regs = [0x100200] := ⟨joinAt_joined _ _, by decide, rfl, rfl, by decide +kernel⟩
/-- A task that failed before its commit is rolled back first; a slot that a pre-emption of queue 0 freed, whose head still waits. -/
theorem witness_EndsAndWaits_rollback : (leaving .faulted false 0).me.post = false ∧ (leaving .faulted false 0).me.wait = .retiring .faulted none ∧
    ((leaving .faulted false 0x1000000040).rollback 0 0).joinAt 0 5 0x1000000040 { win := .glob, addr := 0x40000040 } ∧
    Memory.wf ((leaving .faulted false 0 [0x100200]).rollback 0 0).mem = true ∧
    (let s := (lahar placing).modTower 0 fun w => { w with preempts := [(0, 0, 0, 0, 0)] }
     (s.tower 0).preempts.filter (fun p => p.2.1 == 0 && p.2.2.1 == 0) = [(0, 0, 0, 0, 0)] ∧ s.waiting 0 0 (0, 0) = true) :=
  ⟨rfl, rfl, (joinAt_joined _ _ : (leaving .faulted false 0x1000000040).joinAt 0 5 0x1000000040 { win := .glob, addr := 0x40000040 }), by decide +kernel⟩
/-- The refusal of a record whose join object is there (R38, R371). -/
theorem witness_LaunchRecords_join : (joined {} (ringed [entry0 ((launchRecord 1).set 3 0x1000000040)])).joinAt 0 5 0x1000000040
    { win := .glob, addr := 0x40000040 } ∧ (launchRecord 1).getD 3 0 = 0 := ⟨joinAt_joined _ _, by decide⟩
/-- A slot that a message holds, with no context to resume, and with one whose launch has no join object. -/
theorem witness_EndsAndWaits_messages : let s := on { th with occ := .message, wait := .retiring .faulted none }
    let r := (resuming 0).modMe fun t => { t with wait := .retiring .faulted none }
    s.me.occ = .message ∧ s.me.wait = .retiring .faulted none ∧ s.me.resume = none ∧ r.me.occ = .message ∧ r.me.resume = some 4 ∧
    ((r.tower 0).saved.find? fun v => v.ctx == 4 && v.sent == some (0, 0)).isSome = true ∧ look (r.tower 0).launches 0 = none ∧
    ((r.tower 0).saved.map Saved.regs) = [[]] := by decide +kernel
/-- Waits that end, that go on, and limits that have passed or are not set. -/
def waits (w : Wait) : State := (on { th with wait := w }).setDword (clusterBase 0 0 + 0x200) 0x200000003
theorem witness_EndsAndWaits_waits : (∀ l : Option Nat, ∀ w ∈ [Wait.waita 3 0x100200 0xFF 0x34 l, .bwait 3 0x100200 2 l], (waits w).me.wait = w) ∧
    (let s := waits (.waita 3 0x100200 0xFF 0x34 (some 0))
     let c := (s.as 0 0).check 0x100200 8 .load 0 loadWindows
     c = (.val { win := .clus, addr := clusterBase 0 0 + 0x200 }, c.2)) ∧
    (let s := waits (.bwait 3 0x100200 2 (some 0))
     let c := (s.as 0 0).check 0x100200 16 .load 0 loadWindows
     c = (.val { win := .clus, addr := clusterBase 0 0 + 0x200 }, c.2) ∧ fld (s.dword (clusterBase 0 0 + 0x200)) 32 16 = 2) ∧
    (∃ d, (some 0 : Option Nat) = some d ∧ d ≤ Config.cyclesTo (on th).steps) ∧ (¬∃ d, (none : Option Nat) = some d ∧ d ≤ Config.cyclesTo (on th).steps) ∧
    ((0x200000003 : Word) ^^^ 0x34) &&& 0xFF ≠ 0 ∧ ((0x200000003 : Word) ^^^ 3) &&& 0xFF = 0 ∧ (on th).me.level = .T := by
  refine ⟨fun l w hw => ?_, val_of (by decide +kernel), ⟨val_of (by decide +kernel), by decide +kernel⟩, ⟨0, rfl, Nat.zero_le _⟩, ?_, by decide, by decide, rfl⟩
  · simp only [List.mem_cons, List.not_mem_nil, or_false] at hw
    rcases hw with h | h <;> subst h <;> rfl
  · rintro ⟨d, h, -⟩; cases h
theorem witness_EndsAndWaits_others :
    (let s := translated 0x1000000000
     let r := s.modMe fun t => { t with wait := .joinw 3 0x1000000000 }
     let c := (r.as 0 0).check 0x1000000000 32 .load 0 globWindow
     r.me.wait = .joinw 3 0x1000000000 ∧ c = (.val { win := .glob, addr := 0x100041800000 }, c.2)) ∧
    (waits (.yield [1] 0)).me.wait = .yield [1] 0 ∧ ((waits (.yield [1] 0)).thread 0 1).occ = .free ∧
    (((waits (.yield [1] 9)).modMyCore fun c => { c with threads := c.threads.set! 1 th }).thread 0 1).wait = .none ∧
    (waits (.kill 3 1 [(0, 1, 0)] [])).me.wait = .kill 3 1 [(0, 1, 0)] [] ∧ ((waits (.kill 3 1 [(0, 1, 0)] [])).thread 0 1).occ = .free ∧
    (((waits (.kill 3 1 [(0, 1, 0)] [])).modMyCore fun c => { c with threads := c.threads.set! 1 th }).thread 0 1).bindStamp = 0 :=
  ⟨⟨by rfl, val_of (by decide +kernel)⟩, by decide +kernel⟩

/-! ### The supervisor -/

/-- A message for slot 0 in the inbox, of a kind, for a task with a bind stamp; HENT31 as at reset, or open. -/
def told (kind : Nat) (t : Thread) (target : Option Nat := none) : State := (on t).modMyCore fun c =>
  { c with inbox := [{ chan := 31, words := [BitVec.ofNat 64 (16 * kind), 7, 0, 0, 0, 0, 0, 0], target := target }]
           hent := c.hent.set! 31 0x1000000240, lpart := 0 }
theorem witness_SupervisorMessages : (∀ k ∈ [1, 2, 3], 1 ≤ k ∧ k ≤ 3) ∧ (told 1 {}).myCore.inbox.length < 64 ∧ ((told 1 {}).layer (layerOf 0)).season = .summer ∧
    (told 1 {}).myCore.inbox.map Msg.chan = [31] ∧ fld (((told 1 {}).myCore.inbox.getD 0 ⟨0, [], none, none, none⟩).words.getD 0 0) 0 2 = 0 ∧
    (told 2 {}).me.occ = .free ∧ (told 2 {}).myCore.resv = [] ∧ 0 ≤ ((List.range 4).filter fun k => k ≠ 0 ∧ ((told 2 {}).thread 0 k).occ = .free).length ∧
    bit ((told 2 {}).myCore.hent.getD 31 0) 36 = true ∧ bit ((told 2 {}).myCore.hent.getD 31 0) 35 = false ∧ (told 1 th).me.occ = .task ∧
    (told 1 th).me.level = .T ∧ (told 1 th).me.wait = .none ∧ (told 1 { th with post := false }).me.post = false ∧
    (told 1 { th with level := .S }).me.level = .S ∧ (told 1 { th with wait := .gamo 3 none }).me.wait = .gamo 3 none ∧
    ((told 1 th (some 9)).thread 0 0).bindStamp ≠ 9 ∧ bit ((on {}).myCore.hent.getD 31 0) 36 = false := by decide +kernel
/-- A thread that waits for its slices, the second of which has not started; one whose slices have been released. -/
def slicing (released : Bool) : State := { told 2 { th with wait := .slices } with cores := ((told 2 { th with wait := .slices }).modMyCore fun c =>
  { c with slices := [⟨0, 0, .tzero, 0, [1], false, 0, [], 0, 0, true, false, .T⟩, ⟨0, 0, .tzero, 1, [9], true, 0, [], 0, 0, released, released, .T⟩] }).cores }
theorem witness_SupervisorMessages_slices : (slicing false).me.wait = .slices ∧ (slicing false).myCore.slices.map Slice.slot = [0, 0] ∧
    (slicing false).myCore.slices.map Slice.started = [true, false] ∧ (slicing false).myCore.slices.map Slice.released = [false, false] ∧
    (slicing true).myCore.slices.all (fun x => x.started || x.released) = true ∧ (told 2 { th with watchdog := some 9 }).me.watchdog ≠ none ∧
    ((slicing true).modMe fun t => { t with wait := .none }).myCore.slices ≠ [] := by decide +kernel
/-- A saved context without units, with a free slot on core 0 for it. -/
def parked : State := (lahar placing).modTower 0 fun w =>
  { w with saved := [{ ctx := 4, info := ⟨0, 0, [], 0, 0, 5, 1, 0, 0x1000, 0x1000, 0, 0, 1, 0, none⟩, taskid := 0, block := 0x1000000000, core := 0
                       res := 0, savedUnits := 0, groups := 1, prio := 0 }] }
theorem witness_SupervisorMessages_resume : ((parked.tower 0).saved[0]?).map Saved.sent = some none ∧ (look (parked.tower 0).launches 0).isSome = true ∧
    (parked.tower 0).lfrz = false ∧ parked.present 0 = true ∧ parked.takesWork 0 = true ∧ ((parked.tower 0).saved.map fun sv => parked.resOf 0 sv) = [(0, 0)] ∧
    recSelects (launchRecord 2) 0 0 = true ∧ bit ((launchRecord 2).getD 2 0) (32 + parked.clsOf 0) = true ∧ parked.clsOf 0 < 8 ∧
    (parked.thread 0 0).occ = .free ∧ (parked.core 0).resv = [] ∧ 1 ≤ pop4 (unheld (parked.groupMask 0) (parked.core 0).lpart) ∧
    (parked.core 0).xb.toNat ≤ 0x1000 ∧ parked.usedRanges 0 = [] ∧ ((resuming 0).tower 0).saved.map Saved.sent = [some (0, 0)] := by decide +kernel
/-- 100 cycles since the last retirement, of a thread whose counter stood while it was suspended. -/
theorem witness_SupervisorMessages_watchdog :
    let counts (w : Wait) : State := (on { th with wait := w, counted := 100 }).modTower 0 fun w => { w with wdog := 100 }
    let s := counts .none
    (s.tower 0).wdog ≠ 0 ∧ (s.tower 0).wdog ≤ (100 : Word).toNat ∧ s.me.occ ≠ .free ∧ s.me.level = .T ∧ s.me.wait = .none ∧ s.me.since = none ∧
    (100 : Word).toNat = min (s.me.counted + 0) (2 ^ 64 - 1) ∧ s.myCore.slices = [] ∧ s.leaveWaits 0 0 = false ∧
    (counts (.gamo 3 none)).me.wait = .gamo 3 none ∧ (counts .slices).me.wait = .slices ∧ (counts (.retiring .done none)).me.wait = .retiring .done none ∧
    ((counts (.retiring .done none)).modTower 0 fun w => { w with gpend := [gw] }).leaveWaits 0 0 = true ∧ ((on th).tower 0).wdog = 0 := by decide +kernel

/-! ### The control block -/

/-- A fault record of the thread, and a thread that waits for its answer. -/
def faultRec (who : Requester) (seq : Nat) : FaultRec := { w0 := 0, w1 := BitVec.ofNat 64 (seq * 2 ^ 32), w2 := 0, w3 := 0, who := who, seq := seq }
def suspended (r : FaultRec) : State := (on { th with wait := .suspended ⟨0x1000010000, false, 0, 0, 3, 0, false⟩ }).modTower 0 fun w =>
  { w with faults := [(2, r)], fqtail := 3, fqhead := 2, heldFaults := [r] }
theorem witness_ControlBlock_faults : let s := suspended (faultRec (.thread 0 0) 7)
    (s.tower 0).heldFaults = faultRec (.thread 0 0) 7 :: [] ∧ ((s.tower 0).fqtail + 1) % 32768 ≠ (s.tower 0).fqhead ∧ ((on th).tower 0).heldFaults = [] ∧
    look (s.tower 0).faults (fld (0x700000002 : Word) 0 15) = some (faultRec (.thread 0 0) 7) ∧ (faultRec (.thread 0 0) 7).answered = false ∧
    (faultRec (.thread 0 0) 7).seq = fld (0x700000002 : Word) 32 32 ∧ (s.thread 0 0).wait = .suspended ⟨0x1000010000, false, 0, 0, 3, 0, false⟩ ∧
    (s.thread 0 0).level = .T ∧ bit (0x700000002 : Word) 16 = false ∧ bit (0x700010002 : Word) 16 = true ∧ look (s.tower 0).faults 3 = none := by
  decide +kernel
/-- A copy that has paused at a missing page. -/
theorem witness_ControlBlock_engine : let c : EngCmd := { cmd with paused := true, stamp := 9 }
    let s := queued [c] (suspended (faultRec (.engine 0 0 9) 7))
    look (s.tower 0).faults 2 = some (faultRec (.engine 0 0 9) 7) ∧ (s.queueOf 0 0)[0]? = some c ∧ c.stamp = 9 ∧ c.paused = true := by decide +kernel
theorem witness_ControlBlock_state (f : Tower → Tower) : (((on th).modTower 0 f).tower 0) = f ((on th).tower 0) := rfl
/-- Operations under way: an invalidation, a key operation of this tower and an older one of the other, a frozen Lahar, a snapshot. -/
theorem witness_ControlBlock_pending : ((on th).tower 0).tinv = none ∧ ((on th).tower 0).kop = none ∧
    (let w0 : Tower := { tinv := some (1, 5, 0x100000), kop := some (3, none), kstamp := 5, snapGo := true }
     let w1 : Tower := { w0 with lfrz := true, held := [(0, 5, 0, launchRecord 1)] }
     let s := ((on th).modTower 0 fun _ => w1).modTower 1 fun w => { w with kop := some (3, some 7), kstamp := 4 }
     (s.tower 0).tinv = some (1, 5, 0x100000) ∧ (s.tower 0).kop = some (3, none) ∧ (s.tower 1).kop = some (3, some 7) ∧
       (s.tower 1).kstamp < (s.tower 0).kstamp ∧ (s.tower 0).held = [(0, 5, 0, launchRecord 1)] ∧ ((s.tower 0).queues.getD 0 {}).ring.length < 64 ∧
       (s.tower 0).snapGo = true ∧ (s.core (coreOfId (s.tower 0).snapc)).slices = [] ∧ ∀ k < 4, (s.thread (coreOfId (s.tower 0).snapc) k).wait = .none) ∧
    bit (0x10003 : Word) 16 = true ∧ bit (0x20003 : Word) 17 = true ∧ fld (0x10003 : Word) 0 10 ≠ 0 := by decide +kernel
/-- A reset of a layer that waits for the end of a freeze; the free values of a slot in a snapshot; a host without its link. -/
theorem witness_ControlBlock_held : (let s := (on th).modTower 0 fun w => { w with lfrz := true, heldResets := [3] }
     (s.tower 0).held = [] ∧ (s.tower 0).heldResets = [3] ∧ 3 / 8 = 0) ∧
    (let s := suspended (faultRec (.thread 0 0) 7)
     (s.core 0).slices = [] ∧ (s.thread 0 0).occ ≠ .free ∧ (s.thread 0 1).occ = .free ∧ (s.layer (layerOf 0)).season = .summer) ∧
    ((on th).tower 0).bootStep ≠ 21 ∧ (((on th).modTower 0 fun w => { w with bootStep := 21 }).tower 0).bootStep = 21 ∧
    (∃ o ∈ ((on th).modTower 0 fun w => { w with objects := [{ id := 0, portable := true, funcs := [⟨0, 16, true, 0, [], [], false, 0, some 0, [], 0⟩] }] }).myTower.objects,
      ∃ f ∈ o.funcs, f.place ≠ none) ∧ bit (1 : Word) 0 = true ∧ bit (2 : Word) 0 = false := by decide +kernel
theorem witness_ControlBlock_registers : (0x1004 : Nat) < 2 ^ 64 ∧ 0x1004 % 8 ≠ 0 ∧ (0x12200 ≤ 0x12200 ∧ 0x12200 < 2 ^ 32) ∧ (63 : Nat) < 64 ∧ (14 : Nat) < 15 ∧
    ((on th).tower 0).injen = false ∧ (((on th).modTower 0 fun w => { w with injen := true }).tower 0).injen = true ∧ (on th).myCore.zeroing = [] ∧
    (tile7 0 [7]).myCore.zeroing ≠ [] ∧ (11 : Nat) < 12 ∧ fld (0x8005 : Word) 0 4 = 5 ∧ (∃ e ∈ (queued [{ cmd with wm := true }] (on th)).queueOf (clusterOf 0) 0,
      e.wm = true ∧ e.core = 0 ∧ e.slot = 0) ∧ ∀ e ∈ (on th).queueOf (clusterOf 0) 0, e.wm = false := by decide +kernel


/-! ### Power, reset, boot -/

/-- An empty layer 0 in a season. -/
def layered (l : Layer) (f : Tower → Tower := id) : State := ((on {}).modLayer 0 fun _ => l).modTower 0 f
theorem witness_PowerAndReset_seasons : (layered { season := .summer }).layerEmpty 0 = true ∧ ((layered {}).cores.map Prod.fst).Nodup ∧
    ((layered {}).clusters.map Prod.fst).Nodup ∧ ((layered { season := .autumn, idle := 1000 }).tower 0).widle ≠ 0 ∧
    ((layered { season := .autumn, idle := 1000 }).tower 0).widle ≤ ((layered { season := .autumn, idle := 1000 }).layer 0).idle ∧
    ((layered { season := .spring }).layer 0).season = .spring ∧ ((layered { season := .spring }).layer 0).powered = false ∧
    ((layered { season := .spring, powered := true }).layer 0).powered = true ∧ Memory.wf (layered {}).mem = true ∧ (layered {}).fresh = [] ∧
    ((layered { season := .summer, stale := true }).layer 0).stale = true ∧
    ((on { th with wait := .gamo 3 (some 7) }).thread 0 0).wait = .gamo 3 (some 7) := by decide +kernel
/-- An idle layer that held work since the last tick; joins that wait for the power of layer 1, of a task of layer 0. -/
def joining : JoinOp := { asn := 5, addr := 0x1000000040, waiting := true, power := some 1 }
theorem witness_PowerAndReset_joins : let s := (on { th with wait := .retiring .done (some joining) }).modLayer 1 fun l => { l with season := .spring }
    (s.layer 1).season = .spring ∧ (s.thread 0 0).wait = .retiring .done (some joining) ∧ joining.power = some 1 ∧ (s.tower 0).jobs = [] ∧
    (s.tower 1).jobs = [] ∧ (s.cores.map Prod.fst).Nodup ∧ (s.clusters.map Prod.fst).Nodup ∧
    (∀ p ∈ s.cores, ∀ k < 4, (s.thread p.1 k).wait = .retiring .done (some joining) → p.1 = 0) ∧
    ((layered { season := .summer, busy := true }).layer 0).busy = true ∧ ((layered { season := .summer }).layer 0).busy = false := by decide +kernel
/-- Stubs of core 0 that its layer, coming up, has not had yet. -/
theorem witness_PowerAndReset_stubs : let s := layered { season := .spring } fun w => { w with
      objects := [{ id := 0, portable := true, funcs := [⟨0, 16, true, 0, [], [], false, 0, some 0, [], 0⟩, ⟨16, 4, false, 0, [], [], false, 1, none, [], 0⟩] }]
      coldStubs := [0], stbn := 1 }
    (s.layer 0).season = .spring ∧ (s.tower 0).coldStubs = [0] ∧ layerOf 0 = 0 ∧ Memory.wf s.mem = true ∧ ((s.tower 0).allFuncs.map Func.stub) = [0, 1] ∧
    (s.tower 0).chb * 4096 + 4096 * (s.tower 0).stbn ≤ 0x80000 ∧ (∀ f ∈ (s.tower 0).allFuncs, f.stub < 1024 * (s.tower 0).stbn) ∧
    (∀ c ∈ (layered { season := .spring }).myTower.coldStubs, layerOf c ≠ 0) := by decide +kernel
/-- That a layer has been idle for 4,096 cycles rests on the clock, whose values are free. -/
theorem witness_PowerAndReset_autumn (h : 4096 ≤ Config.cyclesTo (layered { season := .summer }).steps - Config.cyclesTo 0) :
    ((layered { season := .summer }).layer 0).season = .summer ∧
    4096 ≤ Config.cyclesTo (layered { season := .summer }).steps - Config.cyclesTo ((layered { season := .summer }).layer 0).lastIssue := ⟨rfl, h⟩
/-- Estimates at rest and beyond a layer's limit; the tenth low report with one step taken. -/
theorem witness_PowerAndReset_power : (List.replicate 8 0).length = 8 ∧ (∃ e ∈ (List.replicate 8 0).set 3 1801, 1800 < e) ∧
    ((List.replicate 8 0).set 3 1801).length = 8 ∧ 10 * (List.replicate 8 0).foldl (· + ·) 0 < 9 * 12000 ∧
    ((layered {} fun w => { w with plow := 9, psteps := [(1, 3)], bootStep := 20 }).tower 0).plow = 9 ∧
    ((layered {} fun w => { w with plow := 9, psteps := [(1, 3)], bootStep := 20 }).tower 0).psteps = (1, 3) :: [] ∧
    ((layered {}).layer 3).duty < 3 ∧ (∀ j < 8, ((List.replicate 8 0).set 3 1801).getD j 0 < 1801 ∨ j = 3) ∧ 12000 < (List.replicate 8 1600).foldl (· + ·) 0 := by
  decide +kernel
theorem witness_PowerAndReset_resets : ((layered { season := .summer }).layer 0).season ≠ .inReset ∧ ((layered { season := .summer }).layer 0).lrst = false ∧
    ((layered { season := .summer, lrst := true }).layer 0).lrst = true ∧ (layered {}).fresh = [] ∧ ((layered {}).core 0).inbox = [] ∧
    ((layered {}).core 0).net = [] ∧ ((layered {}).thread 0 0).occ ≠ .task ∧ ((layered {}).tower 0).saved = [] ∧
    (∀ p ∈ (layered {}).cores, p.1 = 0) ∧ ((on { th with task := some ⟨0, 0, [], 0, 0, 5, 1, 0, 0, 0, 0, 0, 0, 0, none⟩ }).me.task.map TaskInfo.join) = some 0 := by
  decide +kernel
/-- A tower at a boot step with a record of the boot before: it ended, failed, or never ended. -/
def booting (n : Nat) (e : BootEntry) (f : Tower → Tower := id) : State :=
  layered {} fun w => { f w with bootStep := n, boot := { w.boot with boot := 5, steps := w.boot.steps.set! n e } }
theorem witness_PowerAndReset_boot : ((booting 20 {}).tower 0).bootStep = 20 ∧ ((booting 2 {}).tower 0).bootStep < 20 ∧
    ((booting 2 {}).tower 0).boot.boot ≠ 0 ∧ (((booting 2 { beg := 4, endb := 4, fail := true }).tower 0).boot.steps.getD 2 {}).fail = true ∧
    (((booting 14 { beg := 4, endb := 3 }).tower 0).boot.steps.getD 14 {}).endb ≠ 5 - 1 ∧
    (((booting 6 { beg := 4, endb := 4, fail := true }).tower 0).boot.steps.getD 6 {}).beg = 5 - 1 ∧
    (((booting 14 { path := 1 }).tower 0).boot.steps.getD 14 {}).path = 1 ∧ (14 : Nat) ∈ [14, 16, 18] ∧
    (6 : Nat) ∈ [1, 3, 6, 7, 8, 9, 10, 11, 12, 13, 17] ∧ ((booting 0 {}).tower 0).boot.retry = false := by decide +kernel
/-- A core of layer 0 with a faulty array, one with both lane halves faulty; a freeze holds a layer's reset back. -/
theorem witness_PowerAndReset_tests : let s : State := { booting 6 {} with defects := [(3, ⟨true, false, false⟩), (4, ⟨false, true, true⟩)] }
    (look s.defects 3).map (fun d => d.array) = some true ∧ (look s.defects 4).map (fun d => d.lowLanes && d.highLanes) = some true ∧ layerOf 3 = 0 ∧
    look s.defects 5 = none ∧ (6 : Nat) ≤ (s.tower 0).bootStep ∧ (s.tower 0).bootStep ≤ 13 ∧
    ((layered { season := .summer } fun w => { w with lfrz := true }).tower 0).lfrz = true := by decide +kernel
theorem witness_PowerAndReset_ports : bit ((layered {}).tower 0).ports 2 = false ∧ bit ((layered {} fun w => { w with ports := 6 }).tower 0).ports 2 = true ∧
    (∃ j < 4, j ≠ 2 ∧ bit ((layered {} fun w => { w with ports := 6 }).tower 0).ports j = true) ∧
    bit ((layered {} fun w => { w with ports := 4 }).tower 0).ports 2 = true ∧
    ∀ j < 4, j ≠ 2 → bit ((layered {} fun w => { w with ports := 4 }).tower 0).ports j = false := by decide +kernel

/-! ### Outside accesses -/

theorem witness_OutsideAndCode_hbm : (0 : Nat) < coreCount ∧ Memory.wf (on th).mem = true ∧ hbmEnd < (0x8000000000 : Word).toNat + 8 ∧
    (0x7FFFFFFFF8 : Word).toNat + 8 ≤ hbmEnd ∧ (on th).keyOf ((look ((on th).tower 0).hkey 0).getD 0) = some (.random 0) ∧
    (on th).keyOf ((look (((on th).modTower 0 fun w => { w with hkey := [(0, 9)] }).tower 0).hkey 0).getD 0) = none ∧
    (on th).poisoned 0x100 8 = false ∧ ({ on th with poison := [0x100] } : State).poisoned 0x100 8 = true := by decide +kernel
/-- Private bytes at XB and below it, a replica, a location that does not exist, a layer that is down, a mirror under poison. -/
theorem witness_OutsideAndCode_apertures : physKind (privBase 0 + 0x1000) = .priv 0 ∧ privBase 0 + ((on th).core 0).xb.toNat ≤ privBase 0 + 0x1000 ∧
    ¬(privBase 0 + ((on th).core 0).xb.toNat ≤ privBase 0 + 0xFF8) ∧ physKind (privBase 0 + 0xFF8) = .priv 0 ∧
    physKind (layerAperture 0 + 0x30000000) = .replica 0 ∧ physKind (layerAperture 0) = .unmapped ∧ 0x2000000000 < (0x2000000000 : Word).toNat + 8 ∧
    (on th).outsideWaits (privBase 0 + 0x1000) = false ∧ (layered {}).outsideWaits (privBase 0 + 0x1000) = true ∧
    physKind (mirrorBase 0) = .mirror 0 ∧ ((layered {} fun w => { w with regionPoison := true }).tower 0).regionPoison = true ∧
    ((layered {}).tower 0).bootStep ≠ 21 ∧ ((layered {} fun w => { w with bootStep := 21 }).tower 0).bootStep = 21 ∧ (apertures + 8 - apertures) / 2 ^ 36 % 2 = 0 := by
  decide +kernel
theorem witness_OutsideAndCode_peers : ((layered {}).tower 0).ports = 0 ∧ ((layered {}).tower 1).ports = 0 ∧
    ((layered {} fun w => { w with ports := 1 }).tower 0).ports ≠ 0 ∧ (0x100 : Word).toNat % 8 = 0 ∧ (0x104 : Word).toNat % 8 ≠ 0 ∧
    (layered {} fun w => { w with ports := 1 }).outsideWaits 0x100 = false ∧ physKind 0x100 = .hbm ∧ (layerAperture 0 + 0x30000000) % 8 = 0 := by decide +kernel

/-! ### Code objects -/

/-- An image of doublewords. -/
def image (n : Nat) (l : List (Nat × Word)) : List Word := l.foldl (fun v p => v.set p.1 p.2) (List.replicate n 0)
/-- A native object with one word of text, its section names after it. -/
def native : List Word := image 34 [(0, 0x00010102464C457F), (2, 0xAB0D0002), (5, 64), (7, 0x0002000300000000), (16, 0x100000001), (19, 256), (20, 4),
  (24, 0x300000000), (27, 264), (28, 7), (32, 0x94000009), (33, 0x747865742E00)]
/-- A portable object that holds a header of security version 0 alone. -/
def portable : List Word := image 38 [(0, 0x00010102464C457F), (2, 0xAB0D0002), (5, 64), (6, 1), (7, 0x0002000300000000), (16, 0x100000001), (19, 256),
  (20, 32), (24, 0x300000000), (27, 288), (28, 12), (32, 0x150535947), (36, 0x6E2E707379672E00), (37, 0x65746F)]
/-- How an admission comes out. -/
def outcome : Admitted → Nat
  | .refused => 0
  | .version _ => 1
  | .ok _ _ => 2
theorem admitted_ok {r : Admitted} (h : outcome r = 2) : ∃ o ps, r = .ok o ps := by cases r <;> simp_all [outcome]
theorem admitted_version {r : Admitted} (h : outcome r = 1) : ∃ o, r = .version o := by cases r <;> simp_all [outcome]
theorem admitted_refused {r : Admitted} (h : outcome r = 0) : r = .refused := by cases r <;> simp_all [outcome]
theorem witness_OutsideAndCode_admission : elfHeaderOk [] = false ∧ (on th).admission 0 [] = .refused ∧
    (∃ o ps, (on th).admission 0 (native.flatMap fun x => leBytes 8 x.toNat) = .ok o ps) ∧
    ∃ o, ({ on th with fuses := 1 } : State).admission 0 (portable.flatMap fun x => leBytes 8 x.toNat) = .version o :=
  ⟨by decide +kernel, admitted_refused (by decide +kernel), admitted_ok (by decide +kernel), admitted_version (by decide +kernel)⟩

/-- A portable object with one entry function of an addition, or a native one; nothing is bound; the overlay is large enough for them. -/
def code (purged : Bool := false) : CodeObj := { id := 0, portable := true, text := leBytes 4 (encode (.addi 5 6 0)).toNat, purged := purged
                                                 funcs := [{ off := 0, size := 4, entry := true, uses := 0, relocs := [], stub := 0 }] }
def object : CodeObj := { id := 0, portable := false, base := 16, text := leBytes 4 (encode (.addi 5 6 0)).toNat }
def loading (o : CodeObj) : State := ((on {}).modMyCore fun c => { c with xb := 0x40000, lpart := 0 }).modTower 0 fun w =>
  { placing w with binding := [], objects := [o], requests := [{ core := 0, slot := 0, stub := 0, taskid := 0, launch := none }] }
/-- The place of a placing. -/
def placeAt : Placing → Option Nat
  | .placed _ a => some a
  | _ => none
theorem placed_of {r : Placing} {a : Nat} (h : placeAt r = some a) : ∃ s1, r = .placed s1 a := by cases r <;> simp_all [placeAt]
theorem witness_OutsideAndCode_loader : (loading object).present 0 = true ∧ ((loading object).tower 0).binding = [] ∧ (loading object).mayBind 0 = true ∧
    (((loading object).tower 0).launches.find? fun p => recObj p.2.record == 0 && recEntry p.2.record == 0 && p.2.queue / 8 == 0 &&
      recSelects p.2.record 0 0 && (recClass p.2.record).testBit ((loading object).clsOf 0)).isSome = true ∧
    (((loading object).tower 0).objects.find? fun x => x.id == 0) = some object ∧ bit (((loading object).core 0).hent.getD 0 0) 36 = false ∧
    object.purged = false ∧ object.clus = [] ∧ (object.base + object.text.length + 4095) / 4096 * 4096 ≤ ((loading object).core 0).xb.toNat ∧
    0 ∉ object.cores ∧ (loading code).belowFuses code = false ∧ (code.funcs.find? fun f => f.entry && f.off == 0).isSome = true ∧ code.purged = false ∧
    (code true).purged = true ∧ object.data = [] ∧ 4 ≤ object.base ∧ (layered {}).mayBind 0 = false ∧ ((loading object).tower 0).lfrz = false := by decide +kernel
/-- A launch that the loader has not passed: nothing of it is bound; one of its tasks may be dispatched already. -/
theorem witness_OutsideAndCode_passed : ((look ((loading object).tower 0).launches 0).map fun l => (l.loading, l.dispatched, l.removed, l.queue, l.join)) =
      some (false, 0, [], 0, 0) ∧ ((loading object).tower 0).binding.any (fun b => b.1.2 == (0, 0, 0)) = false ∧
    (((loading object).modTower 0 fun w => { w with launches := w.launches.map fun p => (p.1, { p.2 with dispatched := 1 }) }).tower 0).launches.map
      (fun p => p.2.dispatched) = [1] := by decide +kernel
theorem witness_OutsideAndCode_placed : ∃ s1, (loading code).placeFunc 0 0 code { off := 0, size := 4, entry := true, uses := 0, relocs := [], stub := 0 }
    ((loading code).heapPlace 0 ((loading code).core 0).xb.toNat 4) = .placed s1 0x14000 := placed_of (by decide +kernel)

/-- A request of core 0, slot 0 for stub 0, stored where the translator's ring has its place for it. -/
def asking : State := (on th).setBytes (Config.requestRing 0 0) (leBytes 8 0 ++ leBytes 8 0xFFFFFFFFFFFFFFFE)
theorem asking_ring (off : Nat) (h : off = 0 ∨ off = 8) : BitVec.ofNat 64 (leNat (asking.bytesKey (.random asking.key0) (Config.requestRing 0 0 + off) 8)) =
    if off = 0 then 0 else 0xFFFFFFFFFFFFFFFE := by
  have hb : asking.blockKey = [] := by unfold asking; rw [State.setBytes_blockKey]; rfl
  have hk : ∀ b, asking.byteKey (.random asking.key0) b = asking.byte b := by
    intro b; unfold State.byteKey; rw [hb]; simp [look]
  have hw : Memory.wf (on th).mem = true := by decide +kernel
  have he : asking.bytesKey (.random asking.key0) (Config.requestRing 0 0 + off) 8 =
      (List.range 8).map fun i => (leBytes 8 0 ++ leBytes 8 0xFFFFFFFFFFFFFFFE).getD (off + i) 0 := by
    refine List.map_congr_left fun i hi => ?_
    have hi8 : i < 8 := List.mem_range.mp hi
    rw [hk, asking, State.byte_setBytes hw, if_pos (by simp; omega)]
    congr 1; omega
  rw [he]
  rcases h with h | h <;> subst h <;> decide +kernel
theorem witness_OutsideAndCode_request : (BitVec.ofNat 64 (leNat (asking.bytesKey (.random asking.key0) (Config.requestRing 0 0 + 8) 8)) : Word) =
      0xFFFFFFFFFFFFFFFE ∧ (BitVec.ofNat 64 (leNat (asking.bytesKey (.random asking.key0) (Config.requestRing 0 0 + 0) 8)) : Word) = 0 ∧
    fld (0 : Word) 16 2 = 0 ∧ fld (0 : Word) 18 12 = coreId 0 ∧ fld (0 : Word) 0 16 < 1024 * ((on th).tower 0).stbn ∧ ((on th).tower 0).requests = [] :=
  ⟨asking_ring 8 (.inr rfl), asking_ring 0 (.inl rfl), by decide +kernel⟩
/-- That the ring lies in HBM rests on the place of the ring, which is free. -/
theorem witness_OutsideAndCode_reply (h : Config.requestRing 0 0 + 8 + 8 ≤ hbmEnd) :
    Config.requestRing 0 0 + 8 + 8 ≤ hbmEnd ∧ ((loading code).tower 0).requests = [⟨0, 0, 0, 0, none⟩] ∧ ((loading object).tower 0).funcAt 0 = none ∧
    ((loading code).tower 0).funcAt 0 = some (code, { off := 0, size := 4, entry := true, uses := 0, relocs := [], stub := 0 }) ∧
    ((loading (code true)).tower 0).funcAt 0 = some (code true, { off := 0, size := 4, entry := true, uses := 0, relocs := [], stub := 0 }) ∧
    (loading code).heapFree 0 ((loading code).core 0).xb.toNat 0x14000 4 = true ∧
    (loading code).translate 0 ((loading code).clsOf 0) code { off := 0, size := 4, entry := true, uses := 0, relocs := [], stub := 0 } 0x14000 =
      some (leBytes 4 (encode (.addi 5 6 0)).toNat) ∧ (leBytes 4 (encode (.addi 5 6 0)).toNat).length = 4 ∧
    (((loading code).tower 0).objects.flatMap CodeObj.funcs).map Func.stub = [0] ∧ 0 < 1024 * ((loading code).tower 0).stbn := ⟨h, by decide +kernel⟩
/-- A request that answer 1 does not fit, and one behind it that it does. -/
theorem witness_OutsideAndCode_requests : let s := (loading (code true)).modTower 0 fun w =>
      { w with requests := [⟨0, 0, 0, 0, none⟩, ⟨0, 1, 5, 0, none⟩] }
    (s.tower 0).requests = ⟨0, 0, 0, 0, none⟩ :: [⟨0, 1, 5, 0, none⟩] ∧ (s.tower 0).funcAt 5 = none ∧ (s.tower 0).lfrz = false ∧ (code true).purged = true := by
  decide +kernel

/-- Data on a page that is mapped writable or read-only, on one onto a replica, and on one that is not mapped. -/
theorem witness_OutsideAndCode_data : (translated 0).loaderPlace 0 5 0x1000000000 = some { win := .glob, addr := 0x100041800000 } ∧
    ((translated 0).setDword 0x1012000 0x10004180000D).loaderPlace 0 5 0x1000000000 = some { win := .glob, addr := 0x100041800000 } ∧
    ((translated 0).loaderPlace 0 5 0x1000010000) = none ∧ 5 ∉ dataObj.spaces ∧ dataObj.data = [(0x1000000000, [1, 2])] ∧ [(1 : Byte), 2] ≠ [] ∧
    0x1000000000 % 4096 + [(1 : Byte), 2].length ≤ 4096 ∧ 5 ∈ (dataObj [5]).spaces ∧
    (((translated 0).setDword 0x1012000 (BitVec.ofNat 64 (layerAperture 0 + 0x30000005))).loaderPlace 0 5 0x1000000000).map Place.ro = some true := by
  decide +kernel

end Sys2Proof.Tests
end

section
/-!
PROOF. The integer forms (R115 to R119): what the word operations of the model come to as numbers, what a form of one or two registers
gives, and the obligation on all of them.
-/
namespace Sys2Proof.Machine

/-! ### Immediates and fields as numbers -/

theorem fld_zero {w : Nat} (v : BitVec w) (n : Nat) : fld v 0 n = v.toNat % 2 ^ n := by simp [fld]

theorem sx_eq_ofInt {n : Nat} (v : BitVec n) : sx v = BitVec.ofInt 64 v.toInt := rfl

theorem zx_eq_ofNat {n : Nat} (v : BitVec n) : zx v = BitVec.ofNat 64 v.toNat := (BitVec.ofNat_toNat 64 v).symm

theorem ofBool_decide (p : Prop) [Decidable p] : ofBool (decide p) = if p then 1 else 0 := by simp [ofBool]

/-! ### Arithmetic and shifts of words -/

theorem word_sub_eq_ofInt (a b : Word) : a - b = BitVec.ofInt 64 (a.toNat - b.toNat) := by
  apply BitVec.eq_of_toNat_eq
  simp only [BitVec.toNat_sub, BitVec.toNat_ofInt]
  omega

theorem word_mul_eq_ofNat (a b : Word) : a * b = BitVec.ofNat 64 (a.toNat * b.toNat) :=
  BitVec.eq_of_toNat_eq (by simp only [BitVec.toNat_mul, BitVec.toNat_ofNat])

theorem word_mul_eq_ofInt (a b : Word) : a * b = BitVec.ofInt 64 (a.toInt * b.toInt) := by
  rw [BitVec.ofInt_mul, BitVec.ofInt_toInt, BitVec.ofInt_toInt]

theorem word_shiftLeft_eq_ofNat (a : Word) (n : Nat) : a <<< n = BitVec.ofNat 64 (a.toNat * 2 ^ n) :=
  BitVec.eq_of_toNat_eq (by rw [BitVec.toNat_shiftLeft, Nat.shiftLeft_eq, BitVec.toNat_ofNat])

theorem word_ushiftRight_eq_ofNat (a : Word) (n : Nat) : a >>> n = BitVec.ofNat 64 (a.toNat / 2 ^ n) := by
  have lt : a.toNat / 2 ^ n < 2 ^ 64 := Nat.lt_of_le_of_lt (Nat.div_le_self _ _) a.isLt
  apply BitVec.eq_of_toNat_eq
  rw [BitVec.toNat_ushiftRight, Nat.shiftRight_eq_div_pow, BitVec.toNat_ofNat, Nat.mod_eq_of_lt lt]

theorem word_sshiftRight_eq_ofInt (a : Word) (n : Nat) : a.sshiftRight n = BitVec.ofInt 64 (a.toInt / 2 ^ n) := by
  rw [BitVec.sshiftRight, Int.shiftRight_eq_div_pow]; rfl

theorem word_rotateRight_eq (a : Word) {n : Nat} (h : n < 64) : a.rotateRight n = (a >>> n) ||| (a <<< (64 - n)) := by
  rw [BitVec.rotateRight_def, Nat.mod_eq_of_lt h]

theorem word_shiftLeft_add_eq_ofNat (a b : Word) (n : Nat) : (a <<< n) + b = BitVec.ofNat 64 (a.toNat * 2 ^ n + b.toNat) := by
  rw [word_shiftLeft_eq_ofNat, BitVec.ofNat_add, BitVec.ofNat_toNat, BitVec.setWidth_eq]

/-- The model's MIN and MAX take the second operand under a strict order, the rules the first under its converse. -/
theorem ite_decide_eq_ite_not {α : Type} {p q : Prop} [Decidable p] [Decidable q] (h : ¬p ↔ q) (a b : α) :
    (if decide p = true then b else a) = if q then a else b := by
  by_cases hp : p
  · rw [if_pos (decide_eq_true hp), if_neg fun hq => h.mpr hq hp]
  · rw [if_neg fun hd => hp (of_decide_eq_true hd), if_pos (h.mp hp)]

theorem sx_shiftLeft_sixteen {n : Nat} (v : BitVec n) : sx v <<< 16 = BitVec.ofInt 64 (v.toInt * 2 ^ 16) := by
  rw [BitVec.shiftLeft_eq_mul_twoPow, sx_eq_ofInt, BitVec.ofInt_mul]; rfl

/-! ### Division (R116) -/

theorem divS_zero (a : Word) : divS a 0 = BitVec.allOnes 64 := rfl
theorem remS_zero (a : Word) : remS a 0 = a := rfl
theorem divU_zero (a : Word) : divU a 0 = BitVec.allOnes 64 := rfl
theorem remU_zero (a : Word) : remU a 0 = a := rfl

theorem divS_overflow : divS (BitVec.intMin 64) (BitVec.allOnes 64) = BitVec.intMin 64 := by decide
theorem remS_overflow : remS (BitVec.intMin 64) (BitVec.allOnes 64) = 0 := by decide

theorem toInt_divS {a b : Word} (hb : b ≠ 0) (ho : ¬(a = BitVec.intMin 64 ∧ b = BitVec.allOnes 64)) :
    (divS a b).toInt = Int.tdiv a.toInt b.toInt := by
  have apart : a ≠ BitVec.intMin 64 ∨ b ≠ -1#64 := by
    rw [BitVec.neg_one_eq_allOnes]
    exact Decidable.not_and_iff_not_or_not.mp ho
  have in_range : (a.sdiv b).toInt = Int.tdiv a.toInt b.toInt := BitVec.toInt_sdiv_of_ne_or_ne a b apart
  rw [divS, if_neg hb, ← in_range, BitVec.ofInt_toInt]

theorem toInt_remS {a b : Word} (hb : b ≠ 0) : (remS a b).toInt = Int.tmod a.toInt b.toInt := by
  rw [remS, if_neg hb, ← BitVec.toInt_srem, BitVec.ofInt_toInt]

theorem toNat_divU {a b : Word} (hb : b ≠ 0) : (divU a b).toNat = a.toNat / b.toNat := by
  rw [divU, if_neg hb, BitVec.toNat_udiv]

theorem toNat_remU {a b : Word} (hb : b ≠ 0) : (remU a b).toNat = a.toNat % b.toNat := by
  rw [remU, if_neg hb, BitVec.toNat_umod]

/-! ### Counting bits (R115) -/

/-- The leading zeros of a word: that many bits from the top are 0, and the next one, if there is one, is 1. -/
theorem countLeading_spec (a : Word) : ∃ c ≤ 64, countLeading a = BitVec.ofNat 64 c ∧ (∀ i < c, bit a (63 - i) = false) ∧
    (c < 64 → bit a (63 - c) = true) := by
  by_cases h : a = 0
  · subst h
    exact ⟨64, Nat.le_refl 64, rfl, fun i _ => BitVec.getLsbD_zero, fun h => absurd h (Nat.lt_irrefl _)⟩
  · have pos : a.toNat ≠ 0 := fun e => h (BitVec.eq_of_toNat_eq e)
    have top : a.toNat.log2 < 64 := (Nat.log2_lt pos).mpr a.isLt
    refine ⟨63 - a.toNat.log2, by omega, by rw [countLeading, if_neg h], fun i hi => ?_, fun _ => ?_⟩
    · exact Nat.testBit_lt_two_pow ((Nat.log2_lt pos).mp (by omega))
    · rw [show 63 - (63 - a.toNat.log2) = a.toNat.log2 by omega]
      exact Nat.testBit_log2 pos

/-- The trailing zeros of a word: that many bits from the bottom are 0, and the next one, if there is one, is 1. -/
theorem countTrailing_spec (a : Word) : ∃ c ≤ 64, countTrailing a = BitVec.ofNat 64 c ∧ (∀ i < c, bit a i = false) ∧
    (c < 64 → bit a c = true) := by
  cases h : (List.range 64).find? fun i => bit a i with
  | none =>
    refine ⟨64, Nat.le_refl 64, by rw [countTrailing, h]; rfl, fun i hi => ?_, fun h => absurd h (Nat.lt_irrefl _)⟩
    simpa using List.find?_eq_none.mp h i (List.mem_range.mpr hi)
  | some c =>
    obtain ⟨one, mem, zeros⟩ := List.find?_range_eq_some.mp h
    refine ⟨c, Nat.le_of_lt (List.mem_range.mp mem), by rw [countTrailing, h]; rfl, fun i hi => ?_, fun _ => one⟩
    simpa using zeros i hi

theorem popCount_eq (a : Word) : popCount a = BitVec.ofNat 64 ((List.range 64).filter fun i => bit a i).length := by
  rw [popCount, List.countP_eq_length_filter]

/-! ### What a form gives

`dispatch` and `form` go through the instruction's own meaning, so that the operation f is read off it. -/

/-- Without register errors a form of two registers writes its operation's result and does nothing else. -/
theorem State.gives_intForm {s : State} (hs : s.sound) {i : Instr} {f : Word → Word → Word} {rd rs1 rs2 : BitVec 5} {v : Word}
    (meaning : Out) (dispatch : exec i s = meaning) (form : meaning = intForm f rd rs1 rs2 s)
    (value : f (s.x rs1) (s.x rs2) = v) : s.gives i rd v :=
  State.gives_of (by rw [dispatch, form, intForm, State.guard_sound hs, value])

/-- Without register errors a form of one register writes its operation's result and does nothing else. -/
theorem State.gives_immForm {s : State} (hs : s.sound) {i : Instr} {f : Word → Word} {rd rs1 : BitVec 5} {v : Word}
    (meaning : Out) (dispatch : exec i s = meaning) (form : meaning = immForm f rd rs1 s) (value : f (s.x rs1) = v) :
    s.gives i rd v :=
  State.gives_of (by rw [dispatch, form, immForm, State.guard_sound hs, value])

end Sys2Proof.Machine

open Sys2Proof Sys2Proof.Machine

/-- Settles O13: every form is one register operation followed by a write, and each operation is the number that R115 to R119 name. -/
theorem integerForms : Obligations.IntegerForms := by
  unfold Obligations.IntegerForms
  refine ⟨fun s rd rs1 rs2 hs => ?registerForms, fun s rd rs1 rs2 hs => ?divisionForms, fun s rd rs1 imm sh im hs => ?immediateForms⟩
  case registerForms =>
    intro a b n
    have two {i f v} (op) (dispatch : exec i s = op) (form : op = intForm f rd rs1 rs2 s) (value : f a b = v) : s.gives i rd v :=
      State.gives_intForm hs op dispatch form value
    have one {i f v} (op) (dispatch : exec i s = op) (form : op = immForm f rd rs1 s) (value : f a = v) : s.gives i rd v :=
      State.gives_immForm hs op dispatch form value
    have amount : fld b 0 6 = n := fld_zero b 6
    have below : n < 64 := Nat.mod_lt _ (by decide)
    obtain ⟨lead, lead_le, lead_eq, lead_zeros, lead_one⟩ := countLeading_spec a
    obtain ⟨trail, trail_le, trail_eq, trail_zeros, trail_one⟩ := countTrailing_spec a
    exact ⟨two (execAdd rd rs1 rs2 s) rfl rfl (BitVec.add_def a b),
      two (execSub rd rs1 rs2 s) rfl rfl (word_sub_eq_ofInt a b),
      two (execAnd rd rs1 rs2 s) rfl rfl rfl,
      two (execOr rd rs1 rs2 s) rfl rfl rfl,
      two (execXor rd rs1 rs2 s) rfl rfl rfl,
      two (execAndn rd rs1 rs2 s) rfl rfl rfl,
      two (execSll rd rs1 rs2 s) rfl rfl (amount ▸ word_shiftLeft_eq_ofNat a _),
      two (execSrl rd rs1 rs2 s) rfl rfl (amount ▸ word_ushiftRight_eq_ofNat a _),
      two (execSra rd rs1 rs2 s) rfl rfl (amount ▸ word_sshiftRight_eq_ofInt a _),
      two (execRor rd rs1 rs2 s) rfl rfl (amount ▸ word_rotateRight_eq a below),
      two (execSlt rd rs1 rs2 s) rfl rfl (ofBool_decide _),
      two (execSltu rd rs1 rs2 s) rfl rfl (ofBool_decide _),
      two (execMin rd rs1 rs2 s) rfl rfl (ite_decide_eq_ite_not Int.not_lt a b),
      two (execMax rd rs1 rs2 s) rfl rfl (ite_decide_eq_ite_not Int.not_lt a b),
      two (execMinu rd rs1 rs2 s) rfl rfl (ite_decide_eq_ite_not Nat.not_lt a b),
      two (execMaxu rd rs1 rs2 s) rfl rfl (ite_decide_eq_ite_not Nat.not_lt a b),
      two (execMul rd rs1 rs2 s) rfl rfl (word_mul_eq_ofNat a b),
      two (execMulh rd rs1 rs2 s) rfl rfl rfl,
      two (execMulhu rd rs1 rs2 s) rfl rfl rfl,
      two (execMulhsu rd rs1 rs2 s) rfl rfl rfl,
      two (execSh1add rd rs1 rs2 s) rfl rfl (word_shiftLeft_add_eq_ofNat a b 1),
      two (execSh2add rd rs1 rs2 s) rfl rfl (word_shiftLeft_add_eq_ofNat a b 2),
      two (execSh3add rd rs1 rs2 s) rfl rfl (word_shiftLeft_add_eq_ofNat a b 3),
      ⟨lead, lead_le, one (execClz rd rs1 s) rfl rfl lead_eq, lead_zeros, lead_one⟩,
      ⟨trail, trail_le, one (execCtz rd rs1 s) rfl rfl trail_eq, trail_zeros, trail_one⟩,
      one (execCpop rd rs1 s) rfl rfl (popCount_eq a)⟩
  case divisionForms =>
    intro a b
    have two {i f v} (op) (dispatch : exec i s = op) (form : op = intForm f rd rs1 rs2 s) (value : f a b = v) : s.gives i rd v :=
      State.gives_intForm hs op dispatch form value
    refine ⟨divS a b, remS a b, divU a b, remU a b, two (execDiv rd rs1 rs2 s) rfl rfl rfl, two (execRem rd rs1 rs2 s) rfl rfl rfl,
      two (execDivu rd rs1 rs2 s) rfl rfl rfl, two (execRemu rd rs1 rs2 s) rfl rfl rfl, ?byZero, ?overflow, ?signed, ?unsigned⟩
    case byZero =>
      intro hb
      rw [hb]
      exact ⟨divS_zero a, remS_zero a, divU_zero a, remU_zero a⟩
    case overflow =>
      rintro ⟨ha, hb⟩
      rw [ha, hb]
      exact ⟨divS_overflow, remS_overflow⟩
    case signed => exact fun ⟨hb, ho⟩ => ⟨toInt_divS hb ho, toInt_remS hb⟩
    case unsigned => exact fun hb => ⟨toNat_divU hb, toNat_remU hb⟩
  case immediateForms =>
    intro a v u n
    have one {i f w} (op) (dispatch : exec i s = op) (form : op = immForm f rd rs1 s) (value : f a = w) : s.gives i rd w :=
      State.gives_immForm hs op dispatch form value
    have signed : sx imm = v := sx_eq_ofInt imm
    have unsigned : zx imm = u := zx_eq_ofNat imm
    have number : (sx imm).toInt = imm.toInt := BitVec.toInt_signExtend_of_le (by decide)
    exact ⟨one (execAddi rd rs1 imm s) rfl rfl (signed ▸ rfl),
      one (execAndi rd rs1 imm s) rfl rfl (unsigned ▸ rfl),
      one (execOri rd rs1 imm s) rfl rfl (unsigned ▸ rfl),
      one (execXori rd rs1 imm s) rfl rfl (unsigned ▸ rfl),
      one (execSlti rd rs1 imm s) rfl rfl (number ▸ ofBool_decide _),
      one (execSltiu rd rs1 imm s) rfl rfl (signed ▸ ofBool_decide _),
      one (execMuli rd rs1 imm s) rfl rfl (number ▸ word_mul_eq_ofInt a _),
      one (execSlli rd rs1 sh s) rfl rfl (word_shiftLeft_eq_ofNat a n),
      one (execSrli rd rs1 sh s) rfl rfl (word_ushiftRight_eq_ofNat a n),
      one (execSrai rd rs1 sh s) rfl rfl (word_sshiftRight_eq_ofInt a n),
      one (execRori rd rs1 sh s) rfl rfl (word_rotateRight_eq a sh.isLt),
      State.gives_of (sx_shiftLeft_sixteen im ▸ rfl), State.gives_of rfl⟩
end

section
/-!
PROOF. Branches, jumps and SUBBNZ (R130, R131, R134): where they go, and what those that write a register leave.
-/
namespace Sys2Proof.Machine

theorem sx_mul_four {n : Nat} (off : BitVec n) : sx off * 4 = BitVec.ofInt 64 (off.toInt * 4) := by
  rw [sx_eq_ofInt, BitVec.ofInt_mul]; rfl

theorem not_decide_eq {p q : Prop} [Decidable p] [Decidable q] (h : ¬p ↔ q) : (!decide p) = decide q := by
  rw [← decide_not, decide_eq_decide, h]

/-- Without register errors a branch goes to its target when its condition holds, else on, and does nothing more. -/
theorem State.goes_branchForm {s : State} (hs : s.sound) {i : Instr} {cond : Word → Word → Bool} {rs1 rs2 : BitVec 5}
    {off : BitVec 16} {c : Bool} (meaning : Out) (dispatch : exec i s = meaning) (form : meaning = branchForm cond rs1 rs2 off s)
    (value : cond (s.x rs1) (s.x rs2) = c) :
    s.goes i (if c then s.me.pc + BitVec.ofInt 64 (off.toInt * 4) else s.me.pc + 4) := by
  rw [form, branchForm, State.guard_sound hs, value] at dispatch
  cases c with
  | true => exact ⟨_, dispatch, sx_mul_four off ▸ s.moved_jump _⟩
  | false => exact ⟨_, dispatch, s.moved_retire⟩

/-- A register write and a jump leave what the write of a result leaves, but for the place in the program. -/
theorem State.jump_setX_eq (s : State) (rd : BitVec 5) (v target : Word) :
    (s.setX rd v).jump target = s.putMe { (s.result rd v).me with pc := target } := by
  simp only [State.result_eq, State.jump, State.setX, State.modMe, State.me_putMe, State.putMe_twice, Thread.setX_pc,
    Thread.setX_retired, State.putMe_steps]

/-- What a register write and a jump do, whole. -/
theorem State.linked_jump_setX (s : State) (rd : BitVec 5) (v target : Word) :
    let t := (s.setX rd v).jump target
    s.onlyMe t ∧ s.tookX t rd v ∧ s.wentTo t target ∧ s.me.keptRest t.me := by
  obtain ⟨-, ⟨took, others, bankT, bankS⟩, ⟨-, came⟩, kept⟩ := s.wrote_result rd v
  have reads (r : BitVec 5) : ((s.setX rd v).jump target).x r = (s.result rd v).x r := by
    rw [State.x, State.jump_setX_eq, State.me_putMe]
    exact Thread.getX_congr rfl rfl rfl r
  intro t
  refine ⟨?_, ⟨(reads rd).trans took, fun r hr => (reads r).trans (others r hr), ?_, ?_⟩, ?_, ?_⟩ <;>
    simp only [t, State.jump_setX_eq, State.wentTo, State.me_putMe]
  · exact s.onlyMe_putMe _
  · exact bankT
  · exact bankS
  · exact ⟨trivial, came⟩
  · exact kept

/-- Without register errors JALR jumps to its target, or traps when that is no multiple of 4. -/
theorem State.exec_jalr {s : State} (hs : s.sound) (rd rs1 : BitVec 5) (imm : BitVec 16) :
    exec (.jalr rd rs1 imm) s = .next
      (if (s.ea rs1 imm).toNat % 4 ≠ 0 then s.trap { cause := 4, eval := s.ea rs1 imm }
       else (s.setX rd (s.me.pc + 4)).jump (s.ea rs1 imm)) :=
  have low : fld (s.ea rs1 imm) 0 2 = (s.ea rs1 imm).toNat % 4 := fld_zero _ 2
  calc exec (.jalr rd rs1 imm) s = execJalr rd rs1 imm s := rfl
    _ = _ := by rw [execJalr, State.guard_sound hs, low]

/-- Without register errors SUBBNZ writes the difference, and jumps when it is not zero. -/
theorem State.exec_subbnz {s : State} (hs : s.sound) (rd rs : BitVec 5) (off : BitVec 16) :
    exec (.subbnz rd rs off) s = .next
      (if s.x rd - s.x rs ≠ 0 then (s.setX rd (s.x rd - s.x rs)).jump (s.me.pc + BitVec.ofInt 64 (off.toInt * 4))
       else s.result rd (s.x rd - s.x rs)) :=
  calc exec (.subbnz rd rs off) s = execSubbnz rd rs off s := rfl
    _ = _ := by rw [execSubbnz, State.guard_sound hs, State.branchTarget, sx_mul_four]

end Sys2Proof.Machine

open Sys2Proof Sys2Proof.Machine

/-- Settles O21: a branch is a jump or a retirement by its condition; JAL, JALR and SUBBNZ write a register and jump. -/
theorem branchesAndJumps : Obligations.BranchesAndJumps := by
  unfold Obligations.BranchesAndJumps
  refine ⟨fun s rs1 rs2 off hs => ?branches, fun s rd rs1 imm off hs => ?jumps⟩
  case branches =>
    intro a b to_
    have go {i cond c} (op) (dispatch : exec i s = op) (form : op = branchForm cond rs1 rs2 off s) (value : cond a b = c) :
        s.goes i (to_ c) := State.goes_branchForm hs op dispatch form value
    exact ⟨go (execBeq rs1 rs2 off s) rfl rfl rfl,
      go (execBne rs1 rs2 off s) rfl rfl decide_not.symm,
      go (execBlt rs1 rs2 off s) rfl rfl rfl, go (execBge rs1 rs2 off s) rfl rfl (not_decide_eq Int.not_lt),
      go (execBltu rs1 rs2 off s) rfl rfl rfl, go (execBgeu rs1 rs2 off s) rfl rfl (not_decide_eq Nat.not_lt)⟩
  case jumps =>
    intro link
    refine ⟨?jal, ?jalr, ?subbnz⟩
    case jal => exact ⟨_, rfl, sx_mul_four off ▸ s.linked_jump_setX rd _ _⟩
    case jalr =>
      intro u
      have run := State.exec_jalr hs rd rs1 imm
      constructor
      · intro aligned
        exact ⟨_, run.trans (congrArg _ (if_neg fun h => h aligned)), s.linked_jump_setX rd _ u⟩
      · intro misaligned level
        exact State.traps_of level (run.trans (congrArg _ (if_pos misaligned)))
    case subbnz =>
      intro d
      have run := State.exec_subbnz hs rd rs1 imm
      by_cases moves : d ≠ 0
      · rw [if_pos moves]
        exact ⟨_, run.trans (congrArg _ (if_pos moves)), s.linked_jump_setX rd d _⟩
      · rw [if_neg moves]
        exact ⟨_, run.trans (congrArg _ (if_neg moves)), s.wrote_result rd d⟩
end

section
/-!
SUPPORT. What every vector instruction leaves: the flags it raises, its marked sources released, its retirement, and a mask register
written by the element loop.
-/
namespace Sys2Proof.Machine

/-! ### Flags and frames (R54, R58) -/

theorem zx_or_shiftLeft (a b : Flags) : (zx (a ||| b) <<< 3 : Word) = zx a <<< 3 ||| zx b <<< 3 := by
  rw [zx, BitVec.setWidth_or, BitVec.shiftLeft_or_distrib]

theorem or_zx_zero (w : Word) : w ||| zx (0 : Flags) <<< 3 = w := BitVec.or_zero

@[simp] theorem State.me_modCluster (s : State) (n : Nat) (f : Cluster → Cluster) : (s.modCluster n f).me = s.me := rfl
@[simp] theorem State.me_modLayer (s : State) (n : Nat) (f : Layer → Layer) : (s.modLayer n f).me = s.me := rfl

theorem State.raise_zero (s : State) : s.raise 0 = s := by rw [State.raise, State.raiseAt, if_pos rfl]

theorem State.raise_of_ne (s : State) {fl : Flags} (raised : fl ≠ 0) :
    s.raise fl = ((s.modMe fun t => { t with fcsr := t.fcsr ||| zx fl <<< 3 }).modCluster (clusterOf s.cur)
      fun c => { c with cflags := c.cflags ||| zx fl <<< 3 }).modLayer (layerOf s.cur)
      fun l => { l with lflags := l.lflags ||| zx fl <<< 3 } := if_neg raised

/-- The current thread after flags were raised differs in FCSR only. -/
theorem State.me_raise (s : State) (fl : Flags) : (s.raise fl).me = { s.me with fcsr := s.me.fcsr ||| zx fl <<< 3 } := by
  by_cases quiet : fl = 0
  · rw [quiet, State.raise_zero, or_zx_zero]
  · rw [State.raise_of_ne s quiet, State.me_modLayer, State.me_modCluster, State.me_modMe]

theorem State.outside_refl (s : State) : s.outside s 0 := by
  refine ⟨fun _ _ _ _ => rfl, fun _ => rfl, fun n => ?_, fun n => ?_, rfl⟩ <;> rw [or_zx_zero, ite_self]

/-- A change of the current thread is no change outside it. -/
theorem State.outside.modMe {s t : State} {fl : Flags} (h : s.outside t fl) (f : Thread → Thread) : s.outside (t.modMe f) fl := by
  obtain ⟨threads, cores, clusters, layers, rest⟩ := h
  have cur : t.cur = s.cur := by rw [← rest]
  have slot : t.curSlot = s.curSlot := by rw [← rest]
  refine ⟨fun n k hk other => ?_, fun n => ?_, clusters, layers, rest⟩
  · rw [← threads n k hk other]
    exact t.thread_putMe_other _ (by rwa [cur, slot])
  · rw [← cores n]
    by_cases h : n = t.cur
    · subst h; simp only [State.modMe, State.putMe, State.core_putThread, if_true]
    · rw [State.modMe, State.core_putMe_other _ _ h]

theorem State.outside_raise (s : State) (fl : Flags) : s.outside (s.raise fl) fl := by
  by_cases quiet : fl = 0
  · rw [quiet, State.raise_zero]; exact s.outside_refl
  · rw [State.raise_of_ne s quiet]
    obtain ⟨threads, cores, -, -, -⟩ := s.outside_refl.modMe fun t => { t with fcsr := t.fcsr ||| zx fl <<< 3 }
    refine ⟨threads, cores, fun n => ?_, fun n => ?_, rfl⟩
    · simp only [State.modLayer, State.modCluster, State.cluster_putLayer, State.cluster_putCluster]
      split
      next same => rw [same]; rfl
      next => rfl
    · simp only [State.modLayer, State.layer_putLayer]
      split
      next same => rw [same]; rfl
      next => rfl

theorem State.raisedOnly_raise (s : State) (fl : Flags) : s.raisedOnly (s.raise fl) fl := ⟨s.me_raise fl, s.outside_raise fl⟩

/-- Changes outside the current thread add up: the flags of the two steps are joined. -/
theorem State.outside.trans {s u t : State} {a b : Flags} (first : s.outside u a) (second : u.outside t b) :
    s.outside t (a ||| b) := by
  obtain ⟨threads, cores, clusters, layers, rest⟩ := first
  obtain ⟨threads', cores', clusters', layers', rest'⟩ := second
  have cur : u.cur = s.cur := by rw [← rest]
  have slot : u.curSlot = s.curSlot := by rw [← rest]
  rw [cur, slot] at threads'
  rw [cur] at clusters' layers'
  refine ⟨fun n k hk other => (threads' n k hk other).trans (threads n k hk other), fun n => ?_, fun n => ?_, fun n => ?_, ?_⟩
  · rw [← cores n, ← cores' n]
  · rw [clusters', clusters, zx_or_shiftLeft]
    split
    · rw [BitVec.or_assoc]
    · rfl
  · rw [layers', layers, zx_or_shiftLeft]
    split
    · rw [BitVec.or_assoc]
    · rfl
  · rw [← rest, ← rest']

/-- Flags raised after a change of the current thread are the flags raised. -/
theorem State.outside_raise_modMe (s : State) (f : Thread → Thread) (fl : Flags) : s.outside ((s.modMe f).raise fl) fl := by
  have both := (s.outside_refl.modMe f).trans (State.outside_raise _ fl)
  rwa [show (0 : Flags) ||| fl = fl from BitVec.zero_or] at both

/-! ### Bits of a mask register (R48, R139) -/

/-- A register that becomes live, in the map of live registers. -/
theorem bit_or_one_shiftLeft {w j : Nat} (v : BitVec w) (hj : j < w) (i : Nat) :
    bit (v ||| ((1 <<< i : Nat) : BitVec w)) j = (bit v j || j == i) := by
  have one : ((1 <<< i : Nat) : BitVec w).getLsbD j = (j == i) := by
    rw [BitVec.natCast_eq_ofNat, BitVec.getLsbD_ofNat, Nat.one_shiftLeft, Nat.testBit_two_pow, decide_eq_true hj]
    grind
  rw [bit, BitVec.getLsbD_or, one]; rfl

/-- A register that is released, in the map of live registers. -/
theorem bit_and_not_one_shiftLeft {w j : Nat} (v : BitVec w) (hj : j < w) (i : Nat) :
    bit (v &&& ~~~((1 : BitVec w) <<< i)) j = (bit v j && j != i) := by
  have one : ((1 : BitVec w) <<< i).getLsbD j = (j == i) := by
    rw [BitVec.getLsbD_shiftLeft, BitVec.ofNat_eq_ofNat, BitVec.getLsbD_one]
    grind
  rw [bit, BitVec.getLsbD_and, BitVec.getLsbD_not, one, decide_eq_true hj]; rfl

theorem bit_putBit {w i : Nat} (v : BitVec w) (hi : i < w) (b : Bool) (j : Nat) :
    bit (putBit v i b) j = if j = i then b else bit v j := by
  by_cases h : j = i
  · subst h
    cases b <;> simp [bit, putBit, putFld, hi]
  · cases b <;> simp [bit, putBit, putFld, h] <;> grind

/-- Bit i of a mask register stands at its own place in the register, within the lanes. -/
theorem maskPlace_lt {lanes i : Nat} (hi : i < 32 * lanes) : 32 * (i % lanes) + i / lanes < 32 * lanes := by
  have pos : 0 < lanes := by omega
  have column : i % lanes < lanes := Nat.mod_lt i pos
  have row : i / lanes < 32 := Nat.div_lt_of_lt_mul (by omega)
  omega

theorem maskPlace_inj {lanes i j : Nat} (hi : i < 32 * lanes) (hj : j < 32 * lanes)
    (h : 32 * (i % lanes) + i / lanes = 32 * (j % lanes) + j / lanes) : i = j := by
  have row_i : i / lanes < 32 := Nat.div_lt_of_lt_mul (by omega)
  have row_j : j / lanes < 32 := Nat.div_lt_of_lt_mul (by omega)
  have row := congrArg (· % 32) h
  have column := congrArg (· / 32) h
  simp only [Nat.mul_add_mod, Nat.mod_eq_of_lt row_i, Nat.mod_eq_of_lt row_j] at row
  simp only [Nat.mul_add_div (by decide : 32 > 0), Nat.div_eq_of_lt row_i, Nat.div_eq_of_lt row_j, Nat.add_zero] at column
  rw [← Nat.div_add_mod i lanes, ← Nat.div_add_mod j lanes, row, column]

section
variable {n : Nat} (hn : 1 ≤ n) (hn' : n < 8)
include hn hn'

theorem Thread.getM_setMBit (t : Thread) (pos : Nat) (b : Bool) : (t.setMBit n pos b).getM n = putBit (t.getM n) pos b := by
  have ne : n ≠ 0 := by omega
  simp [Thread.getM, Thread.setMBit, Vector.getD, ne, hn']

theorem Thread.bit_m_setMBit (t : Thread) {pos : Nat} (hp : pos < 1024) (b : Bool) (q : Fin 8) (i : Nat) :
    bit (t.setMBit n pos b).m[q] i = if q.val = n ∧ i = pos then b else bit t.m[q] i := by
  have ne : n ≠ 0 := by omega
  by_cases h : q.val = n
  · subst h
    simp [Thread.setMBit, Thread.getM, ne, Vector.getD, bit_putBit _ hp]
  · have h' : n ≠ q.val := fun e => h e.symm
    simp [Thread.setMBit, h, h']

theorem Thread.maskBit_setMaskBit {lanes : Nat} (hl : lanes ≤ 32) (t : Thread) {i j : Nat} (hi : i < 32 * lanes)
    (hj : j < 32 * lanes) (b : Bool) : (t.setMaskBit lanes n i b).maskBit lanes n j = if j = i then b else t.maskBit lanes n j := by
  have place : 32 * (i % lanes) + i / lanes < 1024 := by have := maskPlace_lt hi; omega
  rw [Thread.maskBit, Thread.setMaskBit, Thread.getM_setMBit hn hn', bit_putBit _ place]
  by_cases h : j = i
  · rw [if_pos h, if_pos (by rw [h])]
  · rw [if_neg h, if_neg fun e => h (maskPlace_inj hj hi e)]; rfl
end

theorem Thread.live_setMaskBit (t : Thread) (lanes n i : Nat) (b : Bool) (q : Fin 8) :
    bit (t.setMaskBit lanes n i b).mlive q = (bit t.mlive q || q.val == n) :=
  bit_or_one_shiftLeft t.mlive q.isLt n

/-- u is t with bits of mask register n written: the register's bits are `new`; beside it, and beyond the thread's lanes, nothing is
written but that the register is live and errors may be mended. -/
structure Thread.MaskWritten (t u : Thread) (lanes n : Nat) (new : Nat → Bool) : Prop where
  bits : ∀ e < 32 * lanes, u.maskBit lanes n e = new e
  others : ∀ q : Fin 8, ∀ i < 1024, q.val ≠ n ∨ 32 * lanes ≤ i → bit u.m[q] i = bit t.m[q] i
  live : ∀ q : Fin 8, bit u.mlive q = (bit t.mlive q || q.val == n)
  rest : ∃ ms live errs, u = { t with m := ms, mlive := live, regErr := errs }
  errors : t.regErr = [] → u.regErr = []

theorem Thread.maskWritten_touchM (t : Thread) (lanes n : Nat) : t.MaskWritten (t.touchM n) lanes n (t.maskBit lanes n) where
  bits _ _ := rfl
  others _ _ _ _ := rfl
  live q := bit_or_one_shiftLeft t.mlive q.isLt n
  rest := ⟨_, _, _, rfl⟩
  errors h := h

section
variable {t u : Thread} {lanes n : Nat} {old : Nat → Bool} (hl : lanes ≤ 32) (hn : 1 ≤ n) (hn' : n < 8)
include hl hn hn'

theorem Thread.MaskWritten.setMaskBit (h : t.MaskWritten u lanes n old) {i : Nat} (hi : i < 32 * lanes) (b : Bool) :
    t.MaskWritten (u.setMaskBit lanes n i b) lanes n fun e => if e = i then b else old e where
  bits e he := by rw [Thread.maskBit_setMaskBit hn hn' hl u hi he, h.bits e he]
  others q j hj beside := by
    have inside := maskPlace_lt hi
    have place : 32 * (i % lanes) + i / lanes < 1024 := by omega
    have apart : ¬(q.val = n ∧ j = 32 * (i % lanes) + i / lanes) := by omega
    rw [Thread.setMaskBit, Thread.bit_m_setMBit hn hn' u place b q j, if_neg apart, h.others q j hj beside]
  live q := by
    rw [Thread.live_setMaskBit, h.live q, Bool.or_assoc, Bool.or_self]
  rest := by
    obtain ⟨ms, live, errs, rfl⟩ := h.rest
    exact ⟨_, _, _, rfl⟩
  errors clean' := by rw [Thread.setMaskBit, Thread.setMBit, h.errors clean', List.filter_nil]

/-- A list of bits written one after another: those of the list are `g`, the others as before. -/
theorem Thread.MaskWritten.foldl (h : t.MaskWritten u lanes n old) (g : Nat → Bool) {l : List Nat} (hi : ∀ i ∈ l, i < 32 * lanes) :
    t.MaskWritten (l.foldl (fun w i => w.setMaskBit lanes n i (g i)) u) lanes n fun e => if e ∈ l then g e else old e := by
  induction l generalizing u old with
  | nil => simpa using h
  | cons i r ih =>
    have first := h.setMaskBit hl hn hn' (hi i (List.mem_cons_self ..)) (g i)
    have bits : (fun e => if e ∈ r then g e else if e = i then g i else old e) = fun e => if e ∈ i :: r then g e else old e := by
      funext e
      by_cases he : e = i
      · subst he; simp
      · simp [he]
    exact bits ▸ ih first fun j hj => hi j (List.mem_cons_of_mem i hj)

/-- The same under a condition. -/
theorem Thread.MaskWritten.foldl_if (h : t.MaskWritten u lanes n old) (p : Bool) (g : Nat → Bool) {l : List Nat}
    (hi : ∀ i ∈ l, i < 32 * lanes) :
    t.MaskWritten (if p then l.foldl (fun w i => w.setMaskBit lanes n i (g i)) u else u) lanes n
      fun e => if p ∧ e ∈ l then g e else old e := by
  cases p with
  | true => simpa using h.foldl hl hn hn' g hi
  | false => simpa using h
end

/-! ### Released registers (R64) -/

theorem Thread.releaseGroups_rest (t : Thread) (marked dst : List Nat) :
    ∃ vs tags live errs, t.releaseGroups marked dst = { t with v := vs, vtag := tags, vlive := live, regErr := errs } ∧
      (t.regErr = [] → errs = []) := by
  induction marked generalizing t with
  | nil => exact ⟨_, _, _, _, rfl, id⟩
  | cons r rs ih =>
    rw [Thread.releaseGroups, List.foldl_cons]
    split
    next => exact ih t
    next =>
      obtain ⟨vs, tags, live, errs, eq, clean'⟩ := ih (t.releaseV r)
      exact ⟨vs, tags, live, errs, eq, fun h => clean' (by rw [Thread.releaseV, h, List.filter_nil])⟩

/-- What vector register q holds: its contents, its tag, and whether it is live. -/
def Thread.held (t : Thread) (q : Fin 32) : VReg × Word × Bool := (t.v[q], t.vtag[q], bit t.vlive q)

theorem Thread.held_releaseV (t : Thread) (r : Nat) (q : Fin 32) :
    (t.releaseV r).held q = if q.val = r then (0, 0, false) else t.held q := by
  have live : bit (t.releaseV r).vlive q = (bit t.vlive q && q.val != r) := bit_and_not_one_shiftLeft t.vlive q.isLt r
  by_cases same : q.val = r
  · subst same
    rw [if_pos rfl, Thread.held, live]
    simp [Thread.releaseV]
  · have apart : r ≠ q.val := fun e => same e.symm
    rw [if_neg same, Thread.held, live]
    simp [Thread.held, Thread.releaseV, same, apart]

/-- A register that an instruction marks and does not write is released; the others are kept. -/
theorem Thread.held_releaseGroups (t : Thread) (marked dst : List Nat) (q : Fin 32) :
    (t.releaseGroups marked dst).held q = if q.val ∈ marked ∧ q.val ∉ dst then (0, 0, false) else t.held q := by
  induction marked generalizing t with
  | nil => simp [Thread.releaseGroups]
  | cons r rs ih =>
    have first : t.releaseGroups (r :: rs) dst = (if r ∈ dst then t else t.releaseV r).releaseGroups rs dst := by
      simp [Thread.releaseGroups]
    rw [first, ih]
    by_cases kept : r ∈ dst
    · rw [if_pos kept]; grind
    · rw [if_neg kept, Thread.held_releaseV]; grind

/-! ### The element loop of a mask destination (R141, R155) -/

/-- When no processed element raises an enabled flag, the loop gives every one of them and does not stop. -/
theorem runElems_calm {te : Nat} {p : Nat → Bool} {f : Nat → Nat × Flags} {l : List Nat}
    (calm : ∀ i ∈ l, p i = true → fld (f i).2 0 5 &&& te = 0) :
    runElems te (fun i => if p i then some (f i) else none) l = ((l.filter p).map fun i => (i, f i), none) := by
  induction l with
  | nil => rfl
  | cons i r ih =>
    have rest := ih fun j hj => calm j (List.mem_cons_of_mem i hj)
    by_cases runs : p i = true
    · have quiet := calm i (List.mem_cons_self ..) runs
      simp [runElems, runs, rest, quiet]
    · simp [runElems, runs, rest]

theorem VCtx.ran_iff {c : VCtx} {u : Thread} {vm : BitVec 3} {i : Nat} :
    c.ran u vm true i = true ↔ (c.estart ≤ i ∧ i < c.vl) ∧ c.active u vm i = true := by
  simp [VCtx.ran]

/-- The processed elements under a mask are the active ones of the body. -/
theorem VCtx.body_filter_active (c : VCtx) (u : Thread) (vm : BitVec 3) :
    c.body.filter (fun i => c.active u vm i) = (List.range c.vl).filter (c.ran u vm true) := by
  rw [VCtx.body, List.filter_filter]
  refine List.filter_congr fun i hi => ?_
  have below : i < c.vl := List.mem_range.mp hi
  simp [VCtx.ran, below, Bool.and_comm]

theorem VCtx.allFlags_eq (c : VCtx) (u : Thread) (vm : BitVec 3) (f : Nat → Nat × Flags) :
    allFlags (((List.range c.vl).filter (c.ran u vm true)).map fun i => (i, f i)) = c.flagsOf u vm true f := by
  rw [allFlags, List.foldl_map, List.foldl_filter, VCtx.flagsOf]

/-- Mask register md of a thread written as R141 says: the processed elements get their bits, the inactive ones follow MA, the tail TA. -/
def VCtx.writeMask (c : VCtx) (t : Thread) (md : BitVec 5) (vm : BitVec 3) (f : Nat → Bool) : Thread :=
  let set (u : Thread) (i : Nat) (b : Bool) : Thread := u.setMaskBit c.lanes md.toNat i b
  let t1 := ((List.range c.vl).filter (c.ran t vm true)).foldl (fun u i => set u i (f i)) (t.touchM md.toNat)
  let t2 := if c.ma then (c.body.filter fun i => !c.active t vm i).foldl (fun u i => set u i false) t1 else t1
  if c.ta then ((List.range (32 * c.lanes)).filter fun i => c.vl ≤ i).foldl (fun u i => set u i false) t2 else t2

/-- The number and the flags of an element of a mask. -/
def maskElem (f : Nat → Bool × Flags) (i : Nat) : Nat × Flags := (if (f i).1 then 1 else 0, (f i).2)

theorem State.elementwiseMask_calm {s : State} {c : VCtx} {md : BitVec 5} {vm : BitVec 3} {marked : List Nat} {f : Nat → Bool × Flags}
    (calm : ∀ i, c.ran s.me vm true i = true → fld (f i).2 0 5 &&& c.te = 0) :
    s.elementwiseMask c md vm marked f =
      ((s.modMe fun t => c.writeMask t md vm fun i => (f i).1).raise (c.flagsOf s.me vm true (maskElem f))).vretire [] none marked := by
  have loop : runElems c.te (fun i => if c.active s.me vm i then some (maskElem f i) else none) c.body =
      (((List.range c.vl).filter (c.ran s.me vm true)).map fun i => (i, maskElem f i), none) := by
    rw [← VCtx.body_filter_active]
    refine runElems_calm fun i hi active => calm i (VCtx.ran_iff.mpr ⟨?_, active⟩)
    simpa [VCtx.body, and_comm] using hi
  have bit_of (i : Nat) : ((maskElem f i).1 == 1) = (f i).1 := by cases h : (f i).1 <;> simp [maskElem, h]
  have flags : allFlags (((List.range c.vl).filter (c.ran s.me vm true)).map fun i => (i, maskElem f i)) ||| 0 =
      c.flagsOf s.me vm true (maskElem f) := BitVec.or_zero.trans (c.allFlags_eq s.me vm (maskElem f))
  unfold State.elementwiseMask
  simp only [maskElem] at loop bit_of flags
  simp only [loop, flags, List.foldl_map, bit_of, Bool.and_true, Option.isNone_none, State.modMe]
  rfl

/-- Bit e of mask register md after a mask destination was written (R141): the tail under TA, the prestart unchanged, the processed elements
their bits, the others under MA. -/
def VCtx.maskAfter (c : VCtx) (u : Thread) (md : BitVec 5) (vm : BitVec 3) (f : Nat → Bool) (e : Nat) : Bool :=
  if c.vl ≤ e then !c.ta && u.maskBit c.lanes md.toNat e
  else if e < c.estart then u.maskBit c.lanes md.toNat e
  else if c.ran u vm true e then f e
  else !c.ma && u.maskBit c.lanes md.toNat e

theorem VCtx.maskWritten_writeMask {c : VCtx} {md : BitVec 5} (hl : c.lanes ≤ 32) (hv : c.vl ≤ 32 * c.lanes) (hm : 1 ≤ md.toNat)
    (hm' : md.toNat ≤ 7) (t : Thread) (vm : BitVec 3) (f : Nat → Bool) :
    t.MaskWritten (c.writeMask t md vm f) c.lanes md.toNat (c.maskAfter t md vm f) := by
  have hm7 : md.toNat < 8 := by omega
  have ran_lt : ∀ i ∈ (List.range c.vl).filter (c.ran t vm true), i < 32 * c.lanes := by grind
  have inactive_lt : ∀ i ∈ c.body.filter fun i => !c.active t vm i, i < 32 * c.lanes := by grind [VCtx.body]
  have tail_lt : ∀ i ∈ (List.range (32 * c.lanes)).filter fun i => c.vl ≤ i, i < 32 * c.lanes := by grind
  have written := (((t.maskWritten_touchM c.lanes md.toNat).foldl hl hm hm7 f ran_lt).foldl_if hl hm hm7 c.ma (fun _ => false)
    inactive_lt).foldl_if hl hm hm7 c.ta (fun _ => false) tail_lt
  refine { written with bits := fun e he => (written.bits e he).trans ?_ }
  have ran : e ∈ (List.range c.vl).filter (c.ran t vm true) ↔ c.ran t vm true e = true := by
    have := @VCtx.ran_iff c t vm e
    grind
  have inactive : (e ∈ c.body.filter fun i => !c.active t vm i) ↔ (c.estart ≤ e ∧ e < c.vl) ∧ c.active t vm e = false := by
    grind [VCtx.body]
  have tail : (e ∈ (List.range (32 * c.lanes)).filter fun i => c.vl ≤ i) ↔ c.vl ≤ e := by grind
  simp only [ran, inactive, tail, VCtx.maskAfter, VCtx.ran_iff]
  by_cases beyond : c.vl ≤ e
  · have outside : ¬ e < c.vl := by omega
    cases c.ta <;> simp [beyond, outside]
  · have below : e < c.vl := by omega
    by_cases early : e < c.estart
    · have before : ¬ c.estart ≤ e := by omega
      simp [beyond, early, before]
    · have body : c.estart ≤ e := by omega
      cases c.active t vm e <;> cases c.ma <;> simp [beyond, early, below, body]

/-- A thread without register errors is left without them. -/
theorem Thread.MaskWritten.rest_of_clean {t u : Thread} {lanes n : Nat} {new : Nat → Bool} (h : t.MaskWritten u lanes n new)
    (clean : t.regErr = []) : ∃ ms live, u = { t with m := ms, mlive := live } := by
  obtain ⟨ms, live, errs, eq⟩ := h.rest
  have clean' : errs = t.regErr := by rw [clean, ← h.errors clean, eq]
  exact ⟨ms, live, by rw [eq, clean']⟩

/-! ### Retirement without a vector destination (R64, R141) -/

theorem State.me_vretire (s : State) (marked : List Nat) : (s.vretire [] none marked).me =
    { s.me.releaseGroups marked [] with
      estart := 0, restart := none, cameFrom := (s.me.releaseGroups marked []).pc, pc := (s.me.releaseGroups marked []).pc + 4
      retired := (s.me.releaseGroups marked []).retired + 1, wait := .none, counted := 0, since := some s.steps } := by
  simp [State.vretire, State.retire, State.modMe, State.putMe_twice]

theorem State.outside.vretire {s t : State} {fl : Flags} (h : s.outside t fl) (dst : List Nat) (tag : Option Word) (marked : List Nat) :
    s.outside (t.vretire dst tag marked) fl := (h.modMe _).modMe _

theorem State.othersKept_vretire (s : State) (lanes : Nat) (marked : List Nat) (g : Word) :
    s.me.othersKept (s.vretire [] none marked).me lanes [] marked g := by
  intro r
  have held := s.me.held_releaseGroups marked [] r
  rw [State.me_vretire, if_neg List.not_mem_nil]
  simp only [Thread.held, List.not_mem_nil, not_false_eq_true, and_true] at held
  split
  next is => rw [if_pos is] at held; simpa only [Prod.mk.injEq] using held
  next is => rw [if_neg is] at held; simpa only [Prod.mk.injEq] using held

theorem State.vretire_rest {s : State} (clean : s.me.regErr = []) (marked : List Nat) :
    ∃ vs tags live, (s.vretire [] none marked).me =
      { s.me with
        v := vs, vtag := tags, vlive := live, estart := 0, restart := none, cameFrom := s.me.pc, pc := s.me.pc + 4
        retired := s.me.retired + 1, wait := .none, counted := 0, since := some s.steps } := by
  obtain ⟨vs, tags, live, errs, eq, clean'⟩ := s.me.releaseGroups_rest marked []
  have same : errs = s.me.regErr := by rw [clean' clean, clean]
  exact ⟨vs, tags, live, by rw [State.me_vretire, eq, same]⟩

/-- An instruction with a mask destination, none of whose processed elements raises an enabled flag, does what R141 says. -/
theorem State.maskDone_elementwiseMask {s : State} {c : VCtx} {md : BitVec 5} {vm : BitVec 3} (marked : List Nat) {f : Nat → Bool × Flags}
    (clean : s.me.regErr = []) (hl : c.lanes ≤ 32) (hv : c.vl ≤ 32 * c.lanes) (hm : 1 ≤ md.toNat) (hm' : md.toNat ≤ 7)
    (calm : ∀ i, c.ran s.me vm true i = true → fld (f i).2 0 5 &&& c.te = 0) :
    s.maskDone (s.elementwiseMask c md vm marked f) c md vm marked f := by
  rw [State.elementwiseMask_calm calm]
  have written := VCtx.maskWritten_writeMask hl hv hm hm' s.me vm fun i => (f i).1
  obtain ⟨ms, lives, eq⟩ := written.rest_of_clean clean
  rw [eq] at written
  generalize effect : (s.modMe fun t => c.writeMask t md vm fun i => (f i).1).raise (c.flagsOf s.me vm true (maskElem f)) = s1
  have me : s1.me = { s.me with m := ms, mlive := lives, fcsr := s.me.fcsr ||| zx (c.flagsOf s.me vm true (maskElem f)) <<< 3 } := by
    rw [← effect, State.me_raise, State.me_modMe, eq]
  have outside : s.outside s1 (c.flagsOf s.me vm true (maskElem f)) := effect ▸ s.outside_raise_modMe _ _
  have kept := s1.othersKept_vretire c.lanes marked 0
  obtain ⟨vs, tags, vlives, final⟩ := State.vretire_rest (s := s1) (by rw [me]; exact clean) marked
  rw [final, me] at kept
  rw [me] at final
  refine ⟨?bits, ?kept, ?others, ?live, ?flags, ?rest, outside.vretire _ _ _⟩ <;> rw [final]
  case bits => exact written.bits
  case kept => exact kept
  case others => exact written.others
  case live => exact written.live
  case flags => rfl
  case rest => exact ⟨rfl, rfl, rfl, rfl, rfl, rfl, rfl, rfl⟩

/-! ### A vector instruction that may start (R28, R55, R102, R139) -/

theorem State.lanes_le (s : State) : s.lanes ≤ 32 := by
  have group (b : Bool) : (if b = true then 1 else 0) ≤ 1 := by cases b <;> decide
  have groups (m : Nat) : pop4 m ≤ 4 :=
    Nat.add_le_add (Nat.add_le_add (Nat.add_le_add (group (m.testBit 0)) (group (m.testBit 1))) (group (m.testBit 2))) (group (m.testBit 3))
  have := groups (force (s.core s.cur).lpart s.curSlot)
  rw [State.lanes, State.lanesOf]
  omega

theorem State.vtypeLegal_of_ready {s : State} (ready : s.vecReady) : vtypeLegal s.me.vtype = true := by
  obtain ⟨-, legal, set, -⟩ := ready
  have image : s.me.vtype ≠ villImage := fun h => absurd set (by rw [h]; decide)
  simp only [Thread.legal, Bool.and_eq_true, Bool.or_eq_true, beq_iff_eq] at legal
  obtain ⟨⟨-, invalid | ⟨valid, -⟩⟩, -⟩ := legal
  · exact absurd invalid image
  · exact valid

theorem State.clean_of_ready {s : State} (ready : s.vecReady) : s.me.regErr = [] := by
  obtain ⟨⟨clean, -⟩, -⟩ := ready
  exact clean

theorem State.sew_of_ready {s : State} (ready : s.vecReady) : s.vctx.sew = 8 ∨ s.vctx.sew = 16 ∨ s.vctx.sew = 32 := by
  have legal := State.vtypeLegal_of_ready ready
  simp only [vtypeLegal, Bool.and_eq_true, Bool.or_eq_true, beq_iff_eq] at legal
  obtain ⟨⟨type, -⟩, -⟩ := legal
  rw [show s.vctx.sew = widthOf (fld s.me.vtype 0 4) from rfl]
  rcases type with ((((((h | h) | h) | h) | h) | h) | h) | h <;> rw [h] <;> decide

theorem State.sew_pos_of_ready {s : State} (ready : s.vecReady) : 0 < s.vctx.sew := by
  have := State.sew_of_ready ready
  omega

/-- VL stays within the bits of a mask register that the thread's lanes hold. -/
theorem State.vl_le_of_ready {s : State} (ready : s.vecReady) : s.vctx.vl ≤ 32 * s.vctx.lanes := by
  have legal := State.vtypeLegal_of_ready ready
  simp only [vtypeLegal, Bool.and_eq_true, decide_eq_true_eq] at legal
  obtain ⟨⟨-, groups⟩, -⟩ := legal
  have width : 8 ≤ s.vctx.sew := by have := State.sew_of_ready ready; omega
  calc s.vctx.vl ≤ s.lanes * 32 / s.vctx.sew * 2 ^ fld s.me.vtype 4 3 := Nat.min_le_right _ _
    _ ≤ s.lanes * 32 / 8 * 2 ^ 3 :=
        Nat.mul_le_mul (Nat.div_le_div_left width (by decide)) (Nat.pow_le_pow_right (by decide) groups)
    _ ≤ 32 * s.vctx.lanes := by rw [show s.vctx.lanes = s.lanes from rfl]; omega

/-- A vector instruction that may start, with groups aligned and a domain check that passes, has its effect. -/
theorem State.vector_ready {s : State} {c : VCtx} {legal : Bool} {refs : List RegRef} {dc : DomClass} {srcs : List (BitVec 5)}
    {dst : Option (BitVec 5)} {vm : BitVec 3} {g : Word} (k : Word → State) (ready : s.vecReady) (ok : legal = true)
    (domain : s.domain c dc srcs dst vm = .inl g) : s.vector c legal refs dc srcs dst vm k = k g := by
  obtain ⟨sound, -, set, grant⟩ := ready
  have starts : s.vectorStop legal = none := by simp [State.vectorStop, ok, set, grant]
  rw [State.vector, starts, State.guard_sound sound, domain]

/-- After flags were raised a vector instruction sees the elements it saw. -/
theorem VCtx.ran_raise (c : VCtx) (s : State) (fl : Flags) (vm : BitVec 3) (govern : Bool) :
    c.ran (s.raise fl).me vm govern = c.ran s.me vm govern := by rw [State.me_raise]; rfl

/-- The same from a state in which a vector instruction may start, after flags of its own scalar operand were raised. -/
theorem State.maskDone_of_ready {s : State} (ready : s.vecReady) {fl : Flags} {md : BitVec 5} {vm : BitVec 3} (marked : List Nat)
    {f : Nat → Bool × Flags} (hm : 1 ≤ md.toNat) (hm' : md.toNat ≤ 7)
    (calm : ∀ i, s.vctx.ran s.me vm true i = true → enabled s.me.fcsr (f i).2 = 0) :
    (s.raise fl).maskDone ((s.raise fl).elementwiseMask s.vctx md vm marked f) s.vctx md vm marked f := by
  refine State.maskDone_elementwiseMask marked ?_ s.lanes_le (State.vl_le_of_ready ready) hm hm' fun i hi => ?_
  · rw [State.me_raise]; exact State.clean_of_ready ready
  · rw [VCtx.ran_raise] at hi
    exact (Nat.and_comm _ _).trans (calm i hi)

end Sys2Proof.Machine
end

section
/-!
PROOF. Vector comparisons and mask forms (R155, R156): the relation of two elements, what a comparison, a logical form and a count leave,
and the obligation on all of them.
-/
namespace Sys2Proof.Machine

/-! ### Comparisons of two elements (R123, R155) -/

theorem FVal.lt_nan (x : FVal) (n g : Bool) : x.lt (.nan n g) = false := by cases x <;> rfl

theorem FVal.lt_asymm {x y : FVal} (h : x.lt y = true) : y.lt x = false := by
  match x, y, h with
  | .nan n g, y, _ => exact y.lt_nan n g
  | .inf _, .nan .., _ | .fin .., .nan .., _ => rfl
  | .inf n, .inf k, h =>
    obtain ⟨-, positive⟩ := Bool.and_eq_true_iff.mp h
    exact Bool.and_eq_false_imp.mpr fun negative => by rw [negative] at positive; exact absurd positive Bool.false_ne_true
  | .inf n, .fin .., h => exact congrArg (!·) h
  | .fin .., .inf k, h => exact (Bool.not_eq_true' k).mp h
  | .fin n m e _, .fin k p g _, h =>
    have less := of_decide_eq_true h
    refine decide_eq_false ?_
    rw [Int.min_comm]
    exact Int.lt_asymm less

/-- Of two values that are numbers, the second is not below the first when the first is less or equal. -/
theorem FVal.not_lt_eq {x y : FVal} (hx : x.isNan = false) (hy : y.isNan = false) : (!y.lt x) = (x.lt y || x.eqv y) := by
  have asymm := @FVal.lt_asymm x y
  cases h : x.lt y <;> simp_all [FVal.eqv]

theorem Rel.elem_of_fp {c : VCtx} (kind : c.isFp = true) (r : Rel) (a b : Nat) :
    r.elem c a b = r.fp (c.fmt.decode a) (c.fmt.decode b) := if_pos kind

theorem Rel.elem_of_int {c : VCtx} (kind : c.isFp = false) (r : Rel) (a b : Nat) : r.elem c a b = (r.int (c.int a) (c.int b), 0) :=
  if_neg (ne_true_of_eq_false kind)

theorem Rel.fp_eq (x y : FVal) : Rel.eq.fp x y = (x.eqv y, sigFlag x y) := by
  cases hx : x.isNan <;> cases hy : y.isNan <;> simp [Rel.fp, FVal.eqv, hx, hy]

theorem Rel.fp_ne (x y : FVal) : Rel.ne.fp x y = (!(Rel.eq.fp x y).1, (Rel.eq.fp x y).2) := by
  simp [Rel.fp]

theorem Rel.fp_lt (x y : FVal) : Rel.lt.fp x y = if x.isNan || y.isNan then (false, fNV) else (x.lt y, 0) := by
  cases h : x.isNan || y.isNan <;> simp [Rel.fp, h]

theorem Rel.fp_le (x y : FVal) : Rel.le.fp x y = if x.isNan || y.isNan then (false, fNV) else (x.lt y || x.eqv y, 0) := by
  cases h : x.isNan || y.isNan
  · obtain ⟨hx, hy⟩ := Bool.or_eq_false_iff.mp h
    simp [Rel.fp, hx, hy, ← FVal.not_lt_eq hx hy]
  · simp [Rel.fp, h]

theorem Rel.elem_ne (c : VCtx) (a b : Nat) : Rel.ne.elem c a b = (!(Rel.eq.elem c a b).1, (Rel.eq.elem c a b).2) := by
  cases h : c.isFp <;> simp [Rel.elem, h, Rel.fp_ne, Rel.int, bne]

theorem Rel.elem_gt (c : VCtx) (a b : Nat) : Rel.gt.elem c a b = Rel.lt.elem c b a := by
  simp [Rel.elem, Rel.fp, Rel.int, Bool.or_comm]

theorem Rel.elem_ge (c : VCtx) (a b : Nat) : Rel.ge.elem c a b = Rel.le.elem c b a := by
  simp [Rel.elem, Rel.fp, Rel.int, Bool.or_comm]

theorem intOf_eq {signed : Bool} {w b : Nat} (hw : 0 < w) (hb : b < 2 ^ w) :
    intOf signed w b = if signed ∧ 2 ^ (w - 1) ≤ b then (b : Int) - 2 ^ w else b := by
  have top : b.testBit (w - 1) = decide (2 ^ (w - 1) ≤ b) := by
    by_cases h : 2 ^ (w - 1) ≤ b
    · rw [decide_eq_true h]
      exact Nat.testBit_of_two_pow_le_and_two_pow_add_one_gt h (by rwa [Nat.sub_add_cancel hw])
    · rw [decide_eq_false h]
      exact Nat.testBit_lt_two_pow (Nat.lt_of_not_le h)
  rw [intOf, top]
  simp

theorem VCtx.int_eq {c : VCtx} {b : Nat} (hw : 0 < c.sew) (hb : b < 2 ^ c.sew) :
    c.int b = if c.et ≤ 2 ∧ 2 ^ (c.sew - 1) ≤ b then (b : Int) - 2 ^ c.sew else b := by
  rw [VCtx.int, intOf_eq hw hb]
  simp only [VCtx.signed, decide_eq_true_eq]

/-- An operand of an integer comparison is an element of SEW bits; of a floating-point one, any pattern. -/
def VCtx.operand (c : VCtx) (a : Nat) : Prop := c.isFp = false → a < 2 ^ c.sew

theorem VCtx.operand_get (c : VCtx) (t : Thread) (v : BitVec 5) (e : Nat) : c.operand (c.get t v e) :=
  fun _ => Nat.mod_lt _ (Nat.two_pow_pos _)

theorem VCtx.operand_scalar (c : VCtx) (x : Word) : c.operand (c.scalar x).1 := by
  intro int
  have other : c.et ≠ 8 := fun h => by simp [VCtx.isFp, h] at int
  rw [VCtx.scalar, if_neg other]
  exact Nat.mod_lt _ (Nat.two_pow_pos _)

/-! ### What a comparison does (R83, R155) -/

theorem State.withScalar_quiet {s : State} {c : VCtx} {x : Word} (k : Nat → State → State)
    (quiet : enabled s.me.fcsr (c.scalar x).2 = 0) : s.withScalar c x k = k (c.scalar x).1 (s.raise (c.scalar x).2) :=
  if_neg fun raised => raised quiet

section
variable {s : State} {r : Rel} {md vs1 vs2 rs2 : BitVec 5} {vm : BitVec 3} {k1 k2 : BitVec 1} {g : Word} {i : Instr}
  {h : Nat → Nat → Bool × Flags}

theorem State.doesMask_cmpVv (ready : s.vecReady) (hm : 1 ≤ md.toNat) (hm' : md.toNat ≤ 7) (group1 : aligned s.vctx vs1 = true)
    (group2 : aligned s.vctx vs2 = true) (domain : s.domain s.vctx .nonLinear [vs1, vs2] none vm = .inl g) (meaning : Out)
    (dispatch : exec i s = meaning) (form : meaning = cmpVv r md vs1 vs2 vm k1 k2 s)
    (value : ∀ a b, s.vctx.operand a → s.vctx.operand b → r.elem s.vctx a b = h a b) :
    s.doesMask i s.vctx md vm (s.vctx.mark vs1 k1 ++ s.vctx.mark vs2 k2) fun e => h (s.vctx.get s.me vs1 e) (s.vctx.get s.me vs2 e) := by
  intro calm
  have elems : (fun e => r.elem s.vctx (s.vctx.get s.me vs1 e) (s.vctx.get s.me vs2 e)) =
      fun e => h (s.vctx.get s.me vs1 e) (s.vctx.get s.me vs2 e) :=
    funext fun e => value _ _ (s.vctx.operand_get _ _ _) (s.vctx.operand_get _ _ _)
  have effect := State.maskDone_of_ready (fl := 0) ready (s.vctx.mark vs1 k1 ++ s.vctx.mark vs2 k2) hm hm' calm
  rw [State.raise_zero] at effect
  refine ⟨_, ?_, effect⟩
  rw [dispatch, form, cmpVv, State.vector_ready _ ready (by rw [group1, group2]; rfl) domain, elems]
  rfl

theorem State.maskDone_cmpVx (ready : s.vecReady) (hm : 1 ≤ md.toNat) (hm' : md.toNat ≤ 7) (group1 : aligned s.vctx vs1 = true)
    (domain : s.domain s.vctx .nonLinear [vs1] none vm = .inl g) {conv : Nat × Flags} (operand : s.vctx.scalar (s.x rs2) = conv)
    (meaning : Out) (dispatch : exec i s = meaning) (form : meaning = cmpVx r md vs1 rs2 vm k1 s)
    (value : ∀ a b, s.vctx.operand a → s.vctx.operand b → r.elem s.vctx a b = h a b) (quiet : enabled s.me.fcsr conv.2 = 0)
    (calm : ∀ e, s.vctx.ran s.me vm true e = true → enabled s.me.fcsr (h (s.vctx.get s.me vs1 e) conv.1).2 = 0) :
    ∃ u t, s.raisedOnly u conv.2 ∧ exec i s = .next t ∧
      u.maskDone t s.vctx md vm (s.vctx.mark vs1 k1) fun e => h (s.vctx.get s.me vs1 e) conv.1 := by
  subst operand
  have elems : (fun e => r.elem s.vctx (s.vctx.get s.me vs1 e) (s.vctx.scalar (s.x rs2)).1) =
      fun e => h (s.vctx.get s.me vs1 e) (s.vctx.scalar (s.x rs2)).1 :=
    funext fun e => value _ _ (s.vctx.operand_get _ _ _) (s.vctx.operand_scalar _)
  have marks : s.vctx.marked vs1 k1 vs1 0 = s.vctx.mark vs1 k1 := List.append_nil _
  refine ⟨_, _, s.raisedOnly_raise _, ?_, State.maskDone_of_ready ready (s.vctx.mark vs1 k1) hm hm' calm⟩
  rw [dispatch, form, cmpVx, State.vector_ready _ ready group1 domain, State.withScalar_quiet _ quiet, elems, marks]

/-! ### Mask forms (R156) -/

theorem State.domain_none (s : State) (c : VCtx) {k : DomClass} (hk : k = .nonLinear ∨ k = .blind) (vm : BitVec 3) :
    s.domain c k [] none vm = .inl 0 := by
  rcases hk with rfl | rfl <;> rfl

theorem State.doesMask_maskForm {ms1 ms2 : BitVec 5} {f : Bool → Bool → Bool} (ready : s.vecReady) (hm : 1 ≤ md.toNat) (hm' : md.toNat ≤ 7)
    (meaning : Out) (dispatch : exec i s = meaning) (form : meaning = maskForm f md ms1 ms2 s) :
    s.doesMask i s.vctx md 0 [] fun e =>
      (f (s.me.maskBit s.vctx.lanes ms1.toNat e) (s.me.maskBit s.vctx.lanes ms2.toNat e), 0) := by
  intro calm
  have effect := State.maskDone_of_ready (fl := 0) ready [] hm hm' calm
  rw [State.raise_zero] at effect
  refine ⟨_, ?_, effect⟩
  rw [dispatch, form, maskForm, State.vector_ready _ ready rfl (s.domain_none _ (.inl rfl) 0)]

end

/-- Without register errors a write of a scalar register changes the two banks alone. -/
theorem Thread.setX_rest {t : Thread} (clean : t.regErr = []) (rd : BitVec 5) (v : Word) :
    ∃ xs sxs, t.setX rd v = { t with x := xs, sx := sxs } := by
  rw [Thread.setX]
  split
  · exact ⟨t.x, t.sx, rfl⟩
  · split <;> exact ⟨_, _, by rw [clean, List.filter_nil]⟩

/-- A scalar result of a vector instruction that marks no source. -/
theorem State.vecGives_of {s : State} {i : Instr} {rd : BitVec 5} {v : Word} (ready : s.vecReady)
    (run : exec i s = .next ((s.setX rd v).vretire [] none [])) : s.vecGives i rd v [] := by
  have clean : s.me.regErr = [] := State.clean_of_ready ready
  obtain ⟨xs, sxs, wrote⟩ := Thread.setX_rest clean rd v
  have me : (s.setX rd v).me = { s.me with x := xs, sx := sxs } := (s.me_modMe _).trans wrote
  obtain ⟨vs, tags, live, final⟩ := State.vretire_rest (s := s.setX rd v) (me ▸ clean) []
  have kept := (s.setX rd v).othersKept_vretire 32 [] 0
  rw [me] at final
  rw [me, final] at kept
  have only : s.onlyMe ((s.setX rd v).vretire [] none []) := by
    simp only [State.vretire, State.retire, State.setX, State.modMe, State.putMe_twice]
    exact s.onlyMe_putMe _
  obtain ⟨-, ⟨took, others, bankT, bankS⟩, -, -⟩ := s.wrote_result rd v
  have result : (s.result rd v).me =
      { s.me with x := xs, sx := sxs, cameFrom := s.me.pc, pc := s.me.pc + 4, retired := s.me.retired + 1, wait := .none
                  counted := 0, since := some s.steps } := by rw [State.result_eq, State.me_putMe, wrote]
  have reads (r : BitVec 5) : ((s.setX rd v).vretire [] none []).x r = (s.result rd v).x r := by
    rw [State.x, State.x, final, result]
    exact Thread.getX_congr rfl rfl rfl r
  rw [result] at bankT bankS
  refine ⟨_, run, only, ⟨(reads rd).trans took, fun r hr => (reads r).trans (others r hr), ?_, ?_⟩, ?_, ?_, ?_, ?_⟩ <;>
    simp only [State.wentTo, final]
  · exact bankT
  · exact bankS
  · exact ⟨trivial, trivial, trivial, trivial, trivial, rfl⟩
  · exact kept

theorem State.vecGives_maskCount {s : State} {f : List Nat → Word} {rd ms : BitVec 5} {vm : BitVec 3} {i : Instr} {v : Word}
    (ready : s.vecReady) (meaning : Out) (dispatch : exec i s = meaning) (form : meaning = maskCount f rd ms vm s)
    (value : f ((List.range s.vctx.vl).filter fun e => s.vctx.active s.me vm e && s.me.maskBit s.vctx.lanes ms.toNat e) = v) :
    s.vecGives i rd v [] := by
  refine State.vecGives_of ready ?_
  rw [dispatch, form, maskCount, State.vector_ready _ ready rfl (s.domain_none _ (.inr rfl) vm), State.activeElems, List.filter_filter,
    ← value]
  simp only [Bool.and_comm]
  rfl

end Sys2Proof.Machine

open Sys2Proof Sys2Proof.Machine

/-- Settles O32: a comparison is the element loop of a mask destination over the relation of its operands, a logical mask form the same
loop over the bits of its sources, and the counts read the active set bits. -/
theorem vectorMaskForms : Obligations.VectorMaskForms := by
  unfold Obligations.VectorMaskForms
  refine ⟨fun s md vs1 vs2 rs2 vm k1 k2 g ready => ?comparisons, fun s md ms1 ms2 rd vm ready => ?masks⟩
  case comparisons =>
    intro c hm hm' group1 fp f num eq ne ord lt le vv y conv vx
    have number {a : Nat} (int : c.isFp = false) (ha : c.operand a) : c.int a = num a :=
      VCtx.int_eq (State.sew_pos_of_ready ready) (ha int)
    have by_kind {r : Rel} {a b : Nat} {x : Bool × Flags} {k : Int → Int → Bool} (float : r.fp (f.decode a) (f.decode b) = x)
        (int : r.int = k) (ha : c.operand a) (hb : c.operand b) : r.elem c a b = if fp then x else (k (num a) (num b), 0) := by
      cases kind : c.isFp with
      | true => exact ((Rel.elem_of_fp kind r a b).trans float).trans (if_pos kind).symm
      | false =>
        rw [Rel.elem_of_int kind, number kind ha, number kind hb, int]
        exact (if_neg (ne_true_of_eq_false kind)).symm
    have equal (a b : Nat) (ha : c.operand a) (hb : c.operand b) : Rel.eq.elem c a b = eq a b :=
      by_kind (Rel.fp_eq _ _) rfl ha hb
    have unequal (a b : Nat) (ha : c.operand a) (hb : c.operand b) : Rel.ne.elem c a b = ne a b := by
      rw [Rel.elem_ne, equal a b ha hb]
    have less (a b : Nat) (ha : c.operand a) (hb : c.operand b) : Rel.lt.elem c a b = lt a b :=
      by_kind (Rel.fp_lt _ _) rfl ha hb
    have atMost (a b : Nat) (ha : c.operand a) (hb : c.operand b) : Rel.le.elem c a b = le a b :=
      by_kind (Rel.fp_le _ _) rfl ha hb
    have greater (a b : Nat) (ha : c.operand a) (hb : c.operand b) : Rel.gt.elem c a b = lt b a :=
      (Rel.elem_gt c a b).trans (less b a hb ha)
    have atLeast (a b : Nat) (ha : c.operand a) (hb : c.operand b) : Rel.ge.elem c a b = le b a :=
      (Rel.elem_ge c a b).trans (atMost b a hb ha)
    have operand : c.scalar (s.x rs2) = conv := by
      simp only [VCtx.scalar, fld_zero]
      rfl
    have vectors {i r h} (op) (dispatch : exec i s = op) (form : op = cmpVv r md vs1 vs2 vm k1 k2 s)
        (value : ∀ a b, c.operand a → c.operand b → r.elem c a b = h a b) : vv i h :=
      fun group2 domain => State.doesMask_cmpVv ready hm hm' group1 group2 domain op dispatch form value
    have scalars {i r h} (op) (dispatch : exec i s = op) (form : op = cmpVx r md vs1 rs2 vm k1 s)
        (value : ∀ a b, c.operand a → c.operand b → r.elem c a b = h a b) : vx i h :=
      fun domain => State.maskDone_cmpVx ready hm hm' group1 domain operand op dispatch form value
    exact ⟨vectors (execVmseqVv md vs1 vs2 vm k1 k2 s) rfl rfl equal, vectors (execVmsneVv md vs1 vs2 vm k1 k2 s) rfl rfl unequal,
      vectors (execVmsltVv md vs1 vs2 vm k1 k2 s) rfl rfl less, vectors (execVmsleVv md vs1 vs2 vm k1 k2 s) rfl rfl atMost,
      scalars (execVmseqVx md vs1 rs2 vm k1 k2 s) rfl rfl equal, scalars (execVmsneVx md vs1 rs2 vm k1 k2 s) rfl rfl unequal,
      scalars (execVmsltVx md vs1 rs2 vm k1 k2 s) rfl rfl less, scalars (execVmsleVx md vs1 rs2 vm k1 k2 s) rfl rfl atMost,
      scalars (h := fun a b => lt b a) (execVmsgtVx md vs1 rs2 vm k1 k2 s) rfl rfl greater,
      scalars (h := fun a b => le b a) (execVmsgeVx md vs1 rs2 vm k1 k2 s) rfl rfl atLeast⟩
  case masks =>
    intro c hm hm' hs1 hs2 a b set
    have logical {i f} (op) (dispatch : exec i s = op) (form : op = maskForm f md ms1 ms2 s) :
        s.doesMask i c md 0 [] fun e => (f (a e) (b e), 0) := State.doesMask_maskForm ready hm hm' op dispatch form
    have count {i f v} (op) (dispatch : exec i s = op) (form : op = maskCount f rd ms1 vm s) (value : f set = v) : s.vecGives i rd v [] :=
      State.vecGives_maskCount ready op dispatch form value
    refine ⟨logical (execVmand md ms1 ms2 s) rfl rfl, logical (execVmor md ms1 ms2 s) rfl rfl, logical (execVmxor md ms1 ms2 s) rfl rfl,
      logical (execVmandn md ms1 ms2 s) rfl rfl, count (execVmpop rd ms1 vm s) rfl rfl rfl, count (execVmfirst rd ms1 vm s) rfl rfl ?_⟩
    cases set <;> rfl
end
